-- ==== Sys2Proof/Word.lean ====
section
/-! DEFINITION. Sys2Proof/Word.lean: the plain word types of the model and the finite maps its tables are held in. -/

namespace Sys2Proof

/-- One byte. -/
abbrev Byte := BitVec 8

/-- A 128-bit port bitmap: port p is bit p (R30). -/
abbrev Ports := BitVec 128

/-- A 256-bit digest (SHA-256). -/
abbrev Digest := BitVec 256

/-- A 256-bit symmetric key (AES-256). -/
abbrev Key := BitVec 256

/-- A sparse table: pairs of a number and an entry, numbers strictly rising. -/
abbrev SMap (α : Type) := List (Nat × α)

/-- The NID of an agent that holds none (R25). -/
abbrev nidNone : Nat := 0x3FFFE

/-- The broadcast NID (R25). -/
abbrev nidAll : Nat := 0x3FFFF

end Sys2Proof
end

