-- ==== Sys2Proof/Frames.lean ====
section
/-! DEFINITION. Sys2Proof/Frames.lean: the header of a received Slarolu frame as a command carries it (R409, R420). -/

namespace Sys2Proof

/-- The seven priority classes (R421), highest first. -/
inductive FrameClass where
  | withdraw | claimCommit | heartbeat | stage | dict | telemetry | bulk
  deriving DecidableEq, Repr

/-- The destination MAC address a frame was received at (R407, R420 check 1, R550). -/
inductive MacDst where
  | own                      -- the device's own unicast address
  | group (assoc : Nat)      -- the group address of an association (Table: Multicast groups)
  | lane                     -- another address, met on the management lane or for a relayed NID (R427)
  | other                    -- an address the device has not joined
  deriving DecidableEq, Repr

/-- The header of a received frame and what the receiver finds about it on arrival (R409, R420).
`key` is the key the sender protected the frame under, `intact` says that header, payload and ICV arrived as sent:
the ICV verifies exactly when the receiver holds that key and the frame is intact (R414). `vlan` and `etherType` are those of the MAC
frame (R404), `typeOk` says that the TYPE code is a defined one, and `length` is the LENGTH field. -/
structure Hdr where
  mac      : MacDst := .own
  srcMac   : Nat := 0
  vlan     : Option Nat := some 0xA5   -- the VLAN identifier; none: no tag
  etherType : Nat := 0x88B5
  version  : Nat := 1
  typeOk   : Bool := true
  lengthOk : Bool := true        -- LENGTH agrees with the frame
  length   : Nat := 0
  reserved : Bool := true        -- reserved header bits are zero
  src      : Nat
  dst      : Nat
  ctx      : Nat := 0
  gen      : Nat := 0
  assoc    : Nat := 1
  phase    : Bool := false
  counter  : Nat := 0
  claim    : Option Nat := none  -- the claim number; none when CLAIM_P is clear
  relayed  : Bool := false
  key      : Key := 0
  intact   : Bool := true
  room     : Bool := true        -- room in the class's ingress queue (R420 check 8)
  deriving DecidableEq, Repr

/-- The source of a dictionary request (R340): the function it arrives through (0 physical, v a virtual function)
and a tag the requester finds the answer by. -/
structure Req where
  fn  : Nat
  tag : Nat
  deriving DecidableEq, Repr

end Sys2Proof
end

