-- ==== Sys2Proof/Machine/Parts.lean ====
section
/-! DEFINITION. Sys2Proof/Machine/Parts.lean: the parts of a manager's state that a module copies when it resynchronises:
contexts, links, nodes, plates, routing, installation, recovery and discovery. -/

namespace Sys2Proof.Machine

/-! ## Replay windows -/

/-- The replay window of one sender under one key (R418): bit i says that counter `high - i` was accepted. -/
structure Window where
  high : Nat
  bits : BitVec 1024
  deriving DecidableEq, Repr


/-! ## Slices and contexts (chapter "Slices and contexts") -/

/-- The state of a context (R213). -/
inductive CtxSt where
  | free | carving | active | draining | purging | quarantine
  deriving DecidableEq, Repr

/-- The staged fields of a carve as CV_GO committed them (Table: Carve record). -/
structure CarveReq where
  endpoints : Nat := 0
  set_      : Option (List Nat) := none   -- CV_SET as rising NIDs; none: the count governs
  diam      : Nat := 0
  contig    : Bool := false
  sealed_   : Bool := false
  sealPct   : Nat := 50
  fit       : Nat := 0
  waitMs    : Nat := 10000
  sramKib   : Nat := 0
  cells     : Nat := 0
  dramMib   : Nat := 0
  sync      : Nat := 0
  mbox      : Nat := 0
  vf        : Bool := false
  loss      : Nat := 0
  tag       : Nat := 0
  deriving DecidableEq, Repr

/-- A member's key exchange in progress: attempts made, and whether it has been acknowledged (R226, R232). -/
structure KeyWait where
  attempts : Nat := 1
  acked    : Bool := false
  deriving DecidableEq, Repr

/-- A purge in progress (Table: Purge sequence). -/
structure PurgeSt where
  tags   : Bool := false          -- step 3 has ended
  revoke : SMap KeyWait := []     -- step 5: members whose REVOKE is awaited
  vfDone : Bool := false          -- step 7 has ended
  oldKeys : List Nat := []        -- the keys it retires: the context's, and those of a REJOIN that had not ended (R237)
  deriving DecidableEq, Repr

/-- A REJOIN in progress (R259): the member that reset, the new generation's keys awaited. -/
structure RejoinSt where
  lost    : List Nat := []        -- members awaiting READY
  ready   : List Nat := []        -- members ready
  info    : SMap (Nat × Nat × Nat) := []  -- cause, resets and detection time of their losses (R257)
  barred  : Bool := false         -- waits for R237
  keys    : SMap KeyWait := []    -- step 2: members whose SET_KEY is awaited
  oldKeys : List Nat := []        -- keys that members may still carry
  deriving DecidableEq, Repr

/-- A context record (R212), the fields the manager keeps beside it for its carve, purge and trees. -/
structure Ctx where
  st         : CtxSt := .free
  gen        : Nat := 0
  waiting    : Bool := false
  sealed_    : Bool := false
  fit        : Nat := 0
  loss       : Nat := 0
  eps        : List Nat := []     -- EP_MAP, rising
  stateTime  : Nat := 0
  tag        : Nat := 0
  sramKib    : Nat := 0
  cells      : List Nat := []     -- CELL_MAP, rising
  vf         : Nat := 0
  dramMib    : Nat := 0
  syncLo     : Nat := 0
  syncN      : Nat := 0
  mboxLo     : Nat := 0
  mboxN      : Nat := 0
  keyRetired : SMap Nat := []     -- by generation [3:0]
  subscribe  : BitVec 1024 := 0
  result     : Nat := 0           -- CX_RESULT
  outcome    : Nat := 0           -- what CX_RESULT becomes at step 6 of its carve (R226)
  sealLinks  : Nat := 0
  diam       : Nat := 0
  lossDone   : List (Nat × Nat) := []  -- (generation, member) of losses acted on (R258)
  carve      : Option CarveReq := none
  setKeys    : SMap KeyWait := []  -- carve step 5
  installed  : Bool := true        -- carve step 4 has ended
  doomed     : Bool := false       -- a loss met while CARVING purges the context once it is ACTIVE (R227, R258)
  purge      : Option PurgeSt := none
  rejoin     : Option RejoinSt := none
  deriving DecidableEq, Repr

/-- A carve that waits in the queue (R225). -/
structure QueuedCarve where
  req : CarveReq
  ctx : Nat                        -- 0: without a context
  since : Nat                      -- time it was queued
  num : Nat := 0                   -- no other carve of the queue has it
  deriving DecidableEq, Repr

/-- A carve between steps 1 and 3 that awaits PLACE (R166). -/
structure PlaceWait where
  req  : CarveReq
  ctx  : Nat
  deriving DecidableEq, Repr

/-- The slices of a manager. -/
structure Slices where
  ctxs     : SMap Ctx := []          -- contexts that differ from a fresh record; context 0 is always ACTIVE
  queue    : List QueuedCarve := []  -- in arrival order
  placing  : Option PlaceWait := none
  held     : SMap (List Nat) := []   -- HELD endpoints and the keys they may carry (R234)
  zeroing  : Nat := 0                -- MiB of released DRAM not zeroed yet (R219)
  profile  : Option Nat := none      -- the context of a carve that P_PART_CREATE started, until it completes (R370)
  deriving DecidableEq, Repr

/-! ## The managed fabric (chapter "The managed fabric") -/

/-- STATE of a link (R33). -/
inductive LinkSt where
  | absent | probing | up | down | adminDown
  deriving DecidableEq, Repr

/-- PEER_KIND of a link (R32). -/
inductive PeerKind where
  | none | switch | endpoint
  deriving DecidableEq, Repr

/-- A link table entry (R32), at index switch number * 128 + port (R31). -/
structure LinkEntry where
  changeTime  : Nat := 0
  faults      : Nat := 0
  sealCtx     : Nat := 0
  capacity    : Nat := 0
  weight      : Nat := 0
  load        : Nat := 0
  peerNid     : Nat := 0
  peerPort    : Nat := 0
  st          : LinkSt := .absent
  peerKind    : PeerKind := .none
  mgmtLane    : Bool := false
  inBlueprint : Bool := false
  watched     : Bool := false
  flapTimes   : List Nat := []      -- times of its faults in the flap window (R246)
  failing     : Bool := false       -- its word fails its code: computed as DOWN until rewritten (R123)
  deriving DecidableEq, Repr

/-- A heartbeat exchange (R49). -/
structure Exchange where
  t1 : Nat
  t2 : Nat
  t3 : Nat
  t4 : Nat
  deriving DecidableEq, Repr

/-- What the manager keeps of an attested agent, by the NID it is addressed at. -/
structure NodeInfo where
  die        : Nat := 0
  kind       : Nat := 0              -- 0 switch, 1 endpoint, 2 forwarding endpoint
  fwd        : Nat := 0              -- switch NID of the forwarding part (R37)
  desc       : List Byte := []      -- node descriptor it reported
  exchanges  : List Exchange := []   -- the last 16, oldest first
  estimate   : Bool := true          -- the time estimate is valid (R50)
  answered   : Nat := 0              -- last heartbeat round it answered
  misses     : Nat := 0              -- consecutive heartbeats missed
  collector  : Option Nat := none    -- its collector (R424); none: it answers directly
  collMiss   : Nat := 0              -- rounds its collector did not answer
  homePort   : Nat := 0              -- home port (R408)
  silent     : Bool := false         -- SILENT (R267)
  fenced     : Bool := false         -- fenced (R274)
  gone       : Bool := false         -- reset and not READY (R258)
  resets     : Nat := 0              -- resets of its endpoint in its agent's window, as last reported
  lastCause  : Nat := 0xFF           -- EP_LAST_CAUSE
  committed  : Nat := 0              -- COMMITTED it last reported
  restarting : Option Nat := none    -- it announced a restart, at this time (R335)
  stageHeld  : Option Bool := none   -- a stage held for it: whether it is full (R335, R517)
  plateValid : Bool := true
  rekey      : Bool := false
  wdrSent    : Option Nat := none    -- AG_WDR_SENT it last reported; none since its attestation (R249)
  readmit    : Bool := false         -- EP_READMIT pending
  parked     : Bool := false         -- parked (R517)
  slot       : Nat := 0              -- firmware slot it runs
  fwVer      : Nat := 0
  delivered  : SMap Nat := []        -- AP_* values delivered and accepted (R338)
  groupsHeld : List Nat := []        -- context groups whose keys it holds (R419)
  debug      : Nat := 0              -- the higher of DEBUG and DEBUG_MAX in its report (R473)
  deriving DecidableEq, Repr

/-! ## Plates (chapter "Plates, impressions and installation") -/

/-- A plate: its header (2,048 bits, R176) and its sections, every entry as the number its layout makes of it (R174,
R177-R180). Sections that hold fewer entries than their slots read zero beyond them. -/
structure Plate where
  header : Nat := 0
  blocks : List Nat := []      -- 512 block entries
  alts   : List Nat := []      -- 512 alternate entries
  locals : List Nat := []      -- 256 local slots
  trees  : List Nat := []      -- 64 tree slots
  excs   : List Nat := []      -- exception entries
  wdrs   : List Nat := []      -- withdraw entries
  deriving DecidableEq, Repr

/-- An impression: its number, its digest and its plates by switch number (R183). -/
structure Impression where
  number : Nat := 0
  digest : Digest := 0
  plates : SMap Plate := []
  deriving DecidableEq, Repr

/-- An impression of the archive (R209). -/
structure ArchImp where
  imp       : Impression
  time      : Nat := 0
  available : Bool := true
  deriving DecidableEq, Repr

/-! ## Route computation (chapter "Computing routes") -/

/-- What route computation keeps of a switch. -/
structure SwitchRt where
  seed     : Option Nat := none     -- hash seed of the switch (R161)
  fresh    : Bool := false          -- the seed is pending (R164)
  owed     : Bool := false          -- a re-seed waits for its value (R459)
  seedAt   : Option Nat := none     -- commit time of its last re-seed
  nhEmpty  : Nat := 0
  need     : Nat := 0
  cover    : Nat := 0
  exc      : Nat := 0
  ecmp     : Nat := 0
  ratio    : Nat := 0
  reseeds  : Nat := 0
  hot      : Bool := false
  hotFor   : Nat := 0               -- consecutive windows at or above REBAL_RATIO
  below    : Option Nat := none     -- since when the ratio has stayed below it
  deriving DecidableEq, Repr

/-- A re-seed is drawn: the seed is pending, and SW_RESEEDS advances (R163 step 3). -/
def SwitchRt.reseeded (x : SwitchRt) (v : Nat) : SwitchRt :=
  { x with seed := some v, fresh := true, owed := false, reseeds := min 255 (x.reseeds + 1) }

/-- A seed delivered by the leader: of a re-seed that waits for it, or the first of its switch (R161, R289). -/
def SwitchRt.seedFrom (x : SwitchRt) (v : Nat) : SwitchRt := if x.owed then x.reseeded v else { x with seed := some v }

/-- A tree at a switch: its parent port (none at the root) and the ports toward children. -/
structure TreeAt where
  parent   : Option Nat
  children : Ports := 0
  deriving DecidableEq, Repr

/-- A collective tree (R153): the link indices it uses, in both directions, and its entry at every switch. -/
structure Tree where
  ctx    : Nat
  num    : Nat
  gen    : Nat
  cap    : Nat                      -- bottleneck
  links  : List Nat := []
  at_    : SMap TreeAt := []
  deriving DecidableEq, Repr

/-- A computation in progress: what steps 1 to 6 gave (R127). -/
structure Comp where
  snap    : SMap LinkEntry
  start   : Nat                     -- local time it started
  entry   : Nat := 0                -- the last entry when its snapshot was taken
  closed  : Option Nat := none      -- when the last window before its snapshot closed
  number  : Nat
  plates  : SMap Plate
  adj     : SMap Nat := []          -- the adjustments and the metric it reads (R130, R132)
  lex     : Bool := false
  excMax  : Nat
  stats   : SMap (List Nat)         -- by switch: NH_EMPTY, LFA_NEED, LFA_COVER, EXC
  hook    : Bool                    -- step 7 belongs to the computation: RT_HOOK was 1 and RT_HOOK_US not 0 (R147)
  ran     : Bool                    -- the hook's program was started here and has not been stopped
  owes    : Bool := false           -- it is to start once the run of context 0 in progress has ended
  ended   : Option Nat := none      -- the status its run ended with (R148)
  trees   : List Tree := []         -- the trees whose entries the plates hold
  deriving DecidableEq, Repr

/-- Route computation state. -/
structure Routing where
  window  : Bool := false                      -- the coalescing window is open (R252)
  waiting : Option (SMap LinkEntry) := none    -- the newest snapshot that waits (R128)
  snap    : SMap LinkEntry := []               -- the current snapshot: the last one taken (R35)
  snapSeq : Nat := 0                           -- the last entry of the input stream when it was taken
  hookIn  : Option (Nat × SMap Plate) := none  -- the hook's results as the leader delivered them (R150, R289)
  wholeFor : List Nat := []                    -- switches whose next plate is carried whole (R123)
  comp    : Option Comp := none                -- the computation that runs
  closed  : Option Nat := none                 -- when the last coalescing window closed, until its snapshot's commit
  adj     : SMap Nat := []                     -- rebalancing adjustment, by link index (R160)
  sw      : SMap SwitchRt := []
  trees   : List Tree := []                    -- built trees, by context and number
  carried : List (Nat × Nat) := []             -- (context, tree) the committed impression carries
  built   : List Tree := []                    -- those trees (R155)
  treeKeys : SMap (Nat × List Nat) := []       -- by context: the generation of the TREE entries, and the switches whose agents hold one (R326)
  wide    : List Nat := []                     -- contexts WIDE is queued for
  pcount  : Option Nat := none                 -- impression whose paths are being counted
  pSnap   : SMap LinkEntry := []               -- snapshot of the committed impression, with the adjustments and the metric
  pAdj    : SMap Nat := []                     -- it was computed under
  pLex    : Bool := false
  load    : Bool := false                      -- LOAD runs
  rebal   : Bool := false                      -- REBAL is queued or runs
  rx      : SMap Nat := []                     -- Mb/s of the last period, by switch * 512 + block (telemetry group 2)
  tx      : SMap Nat := []                     -- bytes a port sent in the last period, by link index (group 1)
  txNs    : SMap Nat := []                     -- length of that period in ns, by switch
  deriving DecidableEq, Repr

/-! ## Installation at the manager -/

/-- IS_STATE of a switch (Table: Switch install status). -/
inductive IsSt where
  | current | staged | stageFailed | commitPending | excluded | lost | absent
  deriving DecidableEq, Repr

/-- The install status of a switch. -/
structure SwInst where
  st        : IsSt := .absent
  committed : Nat := 0
  digest    : Digest := 0
  hasDigest : Bool := false
  last      : Nat := 0
  attempts  : Nat := 0
  bytes     : Nat := 0
  readmit   : Bool := false
  isoLinks  : List Nat := []       -- entries isolation set ADMIN_DOWN
  deriving DecidableEq, Repr

/-- An isolation in progress: the switches whose agents have not acknowledged, and when ISOLATE was first sent (R202). -/
structure IsoWait where
  peers : List Nat
  since : Nat
  deriving DecidableEq, Repr

/-- A candidate being staged, agreed on or committed. -/
structure Cand where
  imp     : Impression
  entry   : Nat := 0               -- the entry of its snapshot, or of its restore
  snap    : SMap LinkEntry := []
  awaits  : List Nat := []         -- switches without an acknowledgement: of the stage, then of COMMIT
  adj     : SMap Nat := []         -- the adjustments and the metric it was computed under (R151)
  lex     : Bool := false
  trees   : List Tree := []        -- the trees its plates carry
  restore : Bool := false          -- it comes from the archive (R210)
  closed  : Option Nat := none     -- when the last window before its snapshot closed
  full    : Bool := false          -- IMP_FULL was pending as its staging began
  whole   : List Nat := []         -- switches staged full
  only    : List Nat := []         -- completion of an interrupted install: its switches alone (R297)
  deriving DecidableEq, Repr

/-- The manager's install state. -/
structure Install where
  archive   : List ArchImp := []           -- oldest first, at most 256 (R209)
  committed : Impression := {}
  sw        : SMap SwInst := []
  cand      : Option Cand := none
  again     : Bool := false                -- a newer candidate was abandoned after COMMIT (R198)
  isolating : SMap IsoWait := []           -- by isolated switch
  phase     : Nat := 0                     -- 0 none, 2 staging, 3 agreeing, 4 committing, 5 draining (IMP_STATE)
  lastAck   : Nat := 0                     -- time of the last COMMIT_ACK or isolation acknowledgement
  detour    : SMap Nat := []               -- endpoints whose forwarding part is being detoured (R263), since when
  deriving DecidableEq, Repr

/-! ## Recovery at the manager (chapter "Faults, hangs and recovery") -/

/-- A member loss whose MEMBER_LOST is not acknowledged by every member (R257). -/
structure LossWait where
  nid    : Nat
  cause  : Nat
  ctx    : Nat
  gen    : Nat
  resets : Nat
  time   : Nat
  awaits : List Nat
  deriving DecidableEq, Repr

/-- Recovery state of the manager. -/
structure Recovery where
  losses  : List LossWait := []
  reports : SMap Window := []      -- report numbers taken, by the agent's NID (R244)
  delivering : SMap Nat := []      -- how many delivered values are not answered yet, by the agent's NID (R272, R338)
  scribes : SMap Nat := []         -- resets of each scribe core
  detoured : SMap (List Nat) := [] -- link entries a detour set ADMIN_DOWN, by endpoint (R263)
  deriving DecidableEq, Repr

/-! ## Discovery and firmware broadcast at the manager (chapter "From power-on to a ready fabric") -/

/-- The newest HELLO of a die (R437, R441). -/
structure HelloRec where
  payload : List Byte := []
  at_     : Nat := 0               -- local time it was taken
  node    : Nat := 0
  kind    : Nat := 0xFF
  join    : Nat := 1
  flags   : Nat := 0
  fwVer   : Nat := 0
  deriving DecidableEq, Repr

/-- A port's newest neighbour report (R436); `fresh` says that it was taken since the link last went DOWN (R245). -/
structure NbrRep where
  node  : Nat
  port  : Nat
  ep    : Bool
  fresh : Bool := true
  deriving DecidableEq, Repr

/-- An attestation in progress (R442, R545). -/
structure Att where
  nid     : Nat                    -- the NID assigned; 0x3FFFE: none
  fwd     : Nat := 0
  digests : List Digest := []      -- digests of the ATTEST_REQ payloads sent
  sends   : Nat := 0               -- sends of the frame that is unanswered
  sentAt  : Nat := 0
  stage   : Nat := 0               -- 0 the report is awaited, 1 KEY_ACCEPT, 2 CLAIM_ACK
  again   : Bool := false          -- the agent held its NID before (R444)
  hello   : Bool := false          -- the report bound another HELLO: the next one is awaited (R444)
  newHello : Bool := false         -- a HELLO has come since the request was last sent (R444)
  desc    : List Byte := []        -- the descriptor of its node, as the manager knows it
  debug   : Nat := 0               -- the higher of DEBUG and DEBUG_MAX in its report
  deriving DecidableEq, Repr

/-- A blueprint node record (R438). -/
structure BpNode where
  ident     : Nat
  fwd       : Nat
  kind      : Nat
  identKind : Nat
  swPorts   : Nat
  epPorts   : Nat
  deriving DecidableEq, Repr

/-- A blueprint link record (R438). -/
structure BpLink where
  a     : Nat
  portA : Nat
  b     : Nat
  portB : Nat
  epB   : Bool
  wAB   : Nat
  wBA   : Nat
  cap   : Nat
  deriving DecidableEq, Repr

/-- A blueprint node's match: the die, and its wave (R440). -/
structure Match where
  die  : Nat
  wave : Nat
  deriving DecidableEq, Repr

/-- An agent-agent key and the phase it fills (R416). -/
structure PairKey where
  key   : Key
  phase : Bool := false
  deriving DecidableEq, Repr

/-- Discovery at a manager. -/
structure Discovery where
  hellos  : SMap HelloRec := []            -- by DIE_ID
  nbrs    : SMap (SMap NbrRep) := []       -- by DIE_ID, then port, endpoint ports at 128 + port
  matches_ : SMap Match := []              -- by blueprint node NID
  atts    : SMap Att := []                 -- attestations outstanding, by DIE_ID
  redo    : SMap Bool := []                -- dies to attest again: whether because the agent has reset (R444, R448)
  ended   : List Nat := []                 -- dies whose attestation ended unanswered or without a NID
  failed  : List (Nat × Nat) := []         -- dies whose report failed, and the NID they were matched to
  bp      : Bool := false                  -- a blueprint is in force
  bpNodes : SMap BpNode := []              -- by NID
  bpLinks : List BpLink := []
  settle  : Bool := false                  -- a settle period runs
  claimed : Nat := 0                       -- local time of the unit's claim
  pairs   : SMap PairKey := []             -- agent-agent keys offered, by lower NID * 2^18 + higher NID
  deriving DecidableEq, Repr

/-- What the manager knows of an agent in a firmware broadcast: the last STATE it reported, the pass, the blocks it
missed, and whether MORE was set (R452). -/
structure FwAgent where
  state   : Nat := 0
  pass    : Nat := 0
  more    : Bool := false
  missing : List (Nat × Nat) := []
  deriving DecidableEq, Repr

/-- The firmware broadcast of a manager (R450-R456). -/
structure FwCast where
  image   : List Byte := []                -- the image held (FW_IMAGE)
  run     : List Byte := []                -- the image being broadcast or activated
  targets : List Nat := []                 -- target agents of the broadcast
  agents  : SMap FwAgent := []             -- by NID
  sent    : Bool := false                  -- the pass has gone out and is not planned yet
  failed  : List Nat := []                 -- FW_FAILED, rising
  batch   : List Nat := []                 -- agents of the current activation batch that have not reported
  waiting : List Nat := []                 -- COMPLETE agents of later batches
  deriving DecidableEq, Repr


/-! ## What a resynchronisation copies -/

/-- The replicated state of a module, as a resynchronising module copies it (R292, R295): the link table, contexts, routing
and install state, the archive, the blueprint with its matches, and the dictionary store. -/
structure Copy where
  time   : Nat := 0                  -- the source's local time at the copy
  objs   : SMap Nat := []
  blobs  : SMap (List Byte) := []
  links  : SMap LinkEntry := []
  nodes  : SMap NodeInfo := []
  sl     : Slices := {}
  rt     : Routing := {}
  inst   : Install := {}
  rcv    : Recovery := {}
  disc   : Discovery := {}
  cast   : FwCast := {}
  runs   : List Nat := []            -- contexts of which the leader runs a program (R300)
  deriving DecidableEq, Repr

end Sys2Proof.Machine
end

