-- ==== Sys2Proof/Operands.lean ====
section
/-! DEFINITION. Sys2Proof/Operands.lean: the operand records of the commands. -/

namespace Sys2Proof

/-- The device a command concerns: none is the manager module, a number the agent on that die. -/
abbrev At := Option Nat


/-- The salts of a KEY_OFFER: the receiver's as a sender, and the offerer's (R415). -/
structure Salts where
  tx : Nat
  rx : Nat := 0
  deriving DecidableEq, Repr
/-- What an entry of the ordered input stream is (R288, R289, R294). -/
inductive EntryKind where
  /-- An input of the leader, with where the leader's draws stood when it took the input. -/
  | input (device draws : Nat)
  /-- A hash seed drawn by the leader for a switch (R289). -/
  | seed (switch value : Nat)
  /-- The adjustments that REBAL came to at the leader, by link index (R150, R289). -/
  | adjust (adj : SMap Nat)
  /-- The centre that PLACE came to at the leader, none where no switch has a score (R289). -/
  | centre (switch : Option Nat)
  /-- A queued carve that the leader's retry has granted: its number in the queue and PLACE's centre (R225, R289). -/
  | granted (num : Nat) (switch : Option Nat)
  /-- The entries of the candidate as the leader's hook left them (R150, R289). -/
  | hook (impression : Nat) (plates : SMap Machine.Plate)
  /-- A run of the leader's line engine has ended: the context and its LP_STATUS (R289). -/
  | runEnd (ctx status : Nat)
  /-- A commit decision: the impression, its plates in place of its reverse delta (R291, R294), and whether IMP_FULL was pending for
  it (R188). -/
  | decision (impression : Nat) (digest : Digest) (plates : SMap Machine.Plate) (full : Bool)
  /-- A claim: of the unit, or one that its leader met, higher than the unit's (R282, R294). -/
  | claim (number nid : Nat)
  /-- The leader has gained authority: the CAUSE, the COMMITTED of the switch agents that have reported, the switches whose reports
  are awaited further, and whether it stages the candidate again (R291, R297, R298). -/
  | gained (cause : Nat) (committed : SMap Nat) (waits : List Nat) (again : Bool)
  /-- Switches whose agents sent no CLAIM_ACK within IMP_COMMIT_US (R296). -/
  | silent (switches : List Nat)
  deriving DecidableEq, Repr

/-- A candidate among the modules of a triad: the number its impression takes, and the entry of the input stream at which its snapshot
was taken, or at which it was restored. -/
structure CandId where
  number : Nat
  entry  : Nat
  deriving DecidableEq, Repr

/-- An upset of the hardware during a tile step (R113-R116): the element whose bits `mask` changes. With a product index
it strikes that ⊗ result, else the element the step delivers. -/
structure Upset where
  row     : Nat
  col     : Nat
  product : Option Nat := none
  mask    : Nat
  deriving DecidableEq, Repr

/-- What a read of an array found: a word corrected, or one that fails its code (R121, R123). -/
inductive WordFound where
  | good | corrected | uncorrectable
  deriving DecidableEq, Repr

/-- A word of an array, by what it holds (Table: Uncorrectable words). -/
inductive ArrayWord where
  | routeImage (switch : Nat)
  | linkTable (index : Nat)
  | context (ctx : Nat)
  | dictStore
  | recorder (first : Bool) (seq : Nat)
  | dram (ctx line : Nat)
  | archive (impression : Nat)
  | telemetry (group : Nat)
  | blueprint
  | firmware
  /-- A word of an agent's plate store (R325). -/
  | plateStore (die : Nat)
  deriving DecidableEq, Repr

/-- What a memory reply answers: a request of a line under a tag of a physical cell, or a read of the manager's own. -/
inductive ReplyFor where
  | tag (cell tag : Nat)
  | word (w : ArrayWord)
  deriving DecidableEq, Repr

/-- A telemetry record as a frame carries it (R502). -/
structure TlRec where
  group : Nat
  ctx   : Nat
  nid   : Nat
  first : Nat
  words : List Nat
  deriving DecidableEq, Repr

/-- What a module finds as it starts (R430-R432, R529, R303): which firmware slots verify, its straps (a triad slot of 3:
none), its triad peers by slot, whether its firmware digests equal theirs, the leader of a triad that is running, the stacks
trained from saved settings, whether every stack trained, the training time, its field ports, and the greatest claim in its
peers' NVM (R281). -/
structure StartIn where
  slotOk   : Bool := true
  otherOk  : Bool := true
  pos      : Nat := 0
  slot     : Nat := 3
  peers    : SMap Nat := []
  joins    : Bool := true
  running  : Option Nat := none
  saved    : Nat := 0
  stacksOk : Bool := true
  trainMs  : Nat := 0
  ports    : SMap Nat := []
  highest  : Nat := 0
  deriving DecidableEq, Repr

end Sys2Proof
end

