-- ==== Sys2Proof/Syntax.lean ====
section
/-! DEFINITION. Sys2Proof/Syntax.lean: the commands, one constructor for each row of spec/opcode_table.json. -/

namespace Sys2Proof

/-- A command: an event, a timer's expiry, a frame taken or an object written (R1, the opcode table). -/
inductive Instr where
  /-- LINE_START (R75): The sequencer starts a queued line once a line slot is free, its AFTER line has completed and its wait condition holds. -/
  | lineStart (ctx : Nat) (line : Nat)
  /-- TILE_STEP (R72): One station operation on one tile completes and the line reaches a tile boundary. -/
  | tileStep (ctx : Nat) (line : Nat) (upset : Option Upset) (corrected : Nat) (failing : List Nat)
  /-- DIGEST_DRAIN (R73): The Proof digest unit drains the line's last tile, LP_DIGEST becomes complete and the line completes. -/
  | digestDrain (ctx : Nat) (line : Nat) (bytes : Nat)
  /-- MEMORY_REPLY (R85): A memory reply returns its tag and is delivered, or sent to the discard sink when its generation is stale. -/
  | memoryReply (what : ReplyFor) (found : WordFound)
  /-- TABLE_PATROL (R121): A table-memory patrol pass falls due every AR_SCRUB_TABLE_S and reads every word. -/
  | tablePatrol (word : ArrayWord) (found : WordFound)
  /-- STACK_PATROL (R121): A stack patrol pass falls due every AR_SCRUB_STACK_H and reads every page. -/
  | stackPatrol (word : ArrayWord) (found : WordFound)
  /-- CELL_REMAP (R54): Once the retiring cell's lines have stopped, a spare receives the logical number and the held and restartable lines are queued again. -/
  | cellRemap (cell : Nat)
  /-- LP_IMAGE_WRITE (R91): A program image is written to LP_IMAGE; it is refused during a run, and a zero length unloads the program. -/
  | lpImageWrite (req : Req) (image : List Byte)
  /-- LP_LOAD (R87): Writing 1 to LP_LOAD checks the image in order and reports the first failure in LP_RESULT. -/
  | lpLoad (req : Req) (value : Nat)
  /-- LP_RUN_START (R89): Writing 1 to LP_RUN assigns cells, resets the run counters and starts a run. -/
  | lpRunStart (req : Req)
  /-- LP_RUN_STOP (R89): Writing 2 to LP_RUN stops every line at its next tile boundary with status STOPPED. -/
  | lpRunStop (req : Req)
  /-- WIDE_COMPLETE (R153): Tree building for a context ends with a WD_STATUS, and its trees go into the next impression. -/
  | wideComplete (ctx : Nat)
  /-- LD_RUN (R156): Writing 1 to LD_RUN runs LOAD once. -/
  | ldRun (req : Req) (value : Nat)
  /-- RB_CLEAR (R160): Writing 1 to RB_CLEAR clears adjustments, re-seed counts and hot marks. -/
  | rbClear (req : Req) (value : Nat)
  /-- HOT_CLEAR (R164): A switch's ratio has stayed below threshold for RB_HOT_CLEAR_S, and SW_RESEEDS and SW_HOT return to 0. -/
  | hotClear (switch : Nat)
  /-- INTERLEAVE_WINDOW (R169): A 10 ms channel-count window ends; IL_WINDOWS imbalanced windows in a row start a redraw. -/
  | interleaveWindow (other : SMap Nat)
  /-- IL_REDRAW (R169): Writing 1 to IL_REDRAW requests a redraw of the interleave key. -/
  | ilRedraw (req : Req) (value : Nat)
  /-- STAGE (R191): An agent takes a STAGE fragment through its output stage and assembles the plate, checking the stage once every fragment has arrived. -/
  | stage (die : Nat) (hdr : Hdr) (payload : List Byte)
  /-- STAGE_NODE_WRITES_DONE (R321): The agent's node writes for a stage complete; it reads WRITE_STATUS and answers STAGE_ACK. -/
  | stageNodeWritesDone (die : Nat) (status : Nat)
  /-- STAGE_ASSEMBLY_TIMEOUT (R191): Not every fragment arrived within AP_STAGE_US; the agent discards the assembly and sends no acknowledgement. -/
  | stageAssemblyTimeout (die : Nat)
  /-- STAGE_ACK (R194): The manager takes a STAGE_ACK and counts the stage acknowledged or the attempt failed, handling failures under IMP_PARTIAL. -/
  | stageAck (hdr : Hdr) (imp : Nat) (status : Nat) (detail : Nat) (digest : Digest)
  /-- STAGE_ATTEMPT_TIMEOUT (R197): A stage attempt is unanswered within IMP_STAGE_US and is handled as a failed attempt. -/
  | stageAttemptTimeout (switch : Nat)
  /-- COMMIT (R195): An agent takes a COMMIT, checks it in order, and flips and answers COMMIT_ACK. -/
  | commit (die : Nat) (hdr : Hdr) (imp : Nat) (drain : Nat) (digest : Digest)
  /-- COMMIT_ACK (R196): The manager takes a COMMIT_ACK from an agent. -/
  | commitAck (hdr : Hdr) (imp : Nat) (status : Nat) (detail : Nat) (field : Digest)
  /-- ISOLATE (R202): An agent takes an ISOLATE, sets the F bits of the facing ports and acknowledges. -/
  | isolate (die : Nat) (hdr : Hdr) (imp : Nat) (nid : Nat) (ports : Ports)
  /-- ISOLATE_ACK (R202): The manager takes an ISOLATE_ACK from a peer's agent. -/
  | isolateAck (hdr : Hdr) (nid : Nat) (status : Nat)
  /-- ISOLATE_RETRY (R202): ISOLATE is repeated by unicast every IMP_COMMIT_RETRY_US to peers that have not acknowledged. -/
  | isolateRetry (switch : Nat)
  /-- ISOLATE_TIMEOUT (R202): A peer has not acknowledged ISOLATE within IMP_COMMIT_US and is declared lost and isolated in turn. -/
  | isolateTimeout (switch : Nat)
  /-- IMP_FULL (R188): Writing 1 to IMP_FULL stages the next candidate full to every agent and starts a computation. -/
  | impFull (req : Req) (value : Nat)
  /-- IS_READMIT (R202): Writing 1 to IS_READMIT returns the isolated switch's ADMIN_DOWN entries to PROBING. -/
  | isReadmit (req : Req) (value : Nat)
  /-- IA_RESTORE (R210): Writing 1 to IA_RESTORE turns an archived impression into a candidate, or refuses the restore. -/
  | iaRestore (req : Req) (value : Nat)
  /-- CV_GO (R224): Writing 1 to CV_GO commits group 1 and runs steps 1 to 3 of a carve. -/
  | cvGo (req : Req) (value : Nat)
  /-- CV_CANCEL (R225): Writing a tag to CV_CANCEL removes every queued carve carrying it with CANCELLED. -/
  | cvCancel (req : Req) (tag : Nat)
  /-- WAIT_EXPIRED (R225): A queued carve's CV_WAIT_MS expires; it completes WAIT_EXPIRED and frees any context it holds. -/
  | waitExpired (tag : Nat)
  /-- SET_KEY (R324): An agent takes a SET_KEY, records the partition entry and queues the PKEY write. -/
  | setKey (die : Nat) (hdr : Hdr) (ctx : Nat) (gen : Nat) (role : Nat) (nid : Nat)
  /-- REVOKE (R324): An agent takes a REVOKE, removes the entry, queues key 0x0000 and posts CONTEXT_PURGED. -/
  | revoke (die : Nat) (hdr : Hdr) (ctx : Nat) (gen : Nat) (role : Nat) (nid : Nat)
  /-- PKEY_WRITE_COMPLETE (R324): The node's PKEY write completes and every pending key command is acknowledged with KEY_ACK. -/
  | pkeyWriteComplete (die : Nat) (rejected : Bool)
  /-- KEY_ACK (R226): The manager takes a KEY_ACK for a carve, purge or REJOIN. -/
  | keyAck (hdr : Hdr) (ctx : Nat) (gen : Nat) (role : Nat) (status : Nat)
  /-- SET_KEY_TIMEOUT (R227): A SET_KEY attempt is unanswered within CV_KEY_US; it is repeated, or after two attempts the member is removed and HELD. -/
  | setKeyTimeout (ctx : Nat)
  /-- CARVE_COMPLETE (R226): Once the sealed install and the key round have both ended, the context becomes ACTIVE and the result is reported. -/
  | carveComplete (ctx : Nat)
  /-- CX_RELEASE_DRAIN (R231): Writing 1 to CX_RELEASE puts an ACTIVE context into DRAINING. -/
  | cxReleaseDrain (req : Req)
  /-- CX_RELEASE_PURGE (R231): Writing 2 to CX_RELEASE starts the purge at once. -/
  | cxReleasePurge (req : Req)
  /-- DRAIN_TIMEOUT (R231): CX_DRAIN_MS elapses in DRAINING and the purge starts. -/
  | drainTimeout (ctx : Nat)
  /-- PURGE_TAGS_RETURNED (R232): Every memory tag of the purged context has returned, and its reservation is released for zeroing. -/
  | purgeTagsReturned (ctx : Nat)
  /-- REVOKE_TIMEOUT (R234): A REVOKE attempt is unanswered within PG_ACK_US; it is repeated, or after two attempts the member is HELD. -/
  | revokeTimeout (ctx : Nat)
  /-- VF_RESET (R375): A bound virtual function's reset completes: its slots complete PURGED, its interrupts are cleared and its locks are released. -/
  | vfReset (ctx : Nat)
  /-- PURGE_COMPLETE (R232): All purge steps have ended; endpoints return to context 0, seals clear, KEY_RETIRED is set and the context enters QUARANTINE. -/
  | purgeComplete (ctx : Nat)
  /-- QUARANTINE_EXPIRE (R236): CX_QUAR_US elapses and the context becomes FREE. -/
  | quarantineExpire (ctx : Nat)
  /-- DRAM_PAGE_ZEROED (R219): Released DRAM pages finish zeroing and return to the pool. -/
  | dramPageZeroed (mib : Nat)
  /-- KEY_BAR_LIFTED (R237): A REJOIN key barred by quarantine or a HELD endpoint becomes issuable, and the REJOIN proceeds. -/
  | keyBarLifted (ctx : Nat)
  /-- CONFIDENTIAL_REPLY_RELEASE (R239): A held tenant reply reaches its fixed delivery instant and is delivered, advancing CF_OVERRUN if late. -/
  | confidentialReplyRelease (req : Req)
  /-- WATCH_PORT_BAD (R242): A watched port's input stays on the fault side for two samples and the port becomes bad. -/
  | watchPortBad (die : Nat) (input : Nat)
  /-- WATCH_PORT_GOOD (R242): A bad port's samples have stayed good for FR_GOOD_MS and the port is good again. -/
  | watchPortGood (die : Nat) (input : Option Nat) (ep : Bool) (port : Nat)
  /-- LINK_MSG (R243): Node firmware writes LINK_MSG reporting a port bad or good. -/
  | linkMsg (die : Nat) (ep : Bool) (port : Nat) (good : Bool)
  /-- LINK_EVENT (R245): The manager takes a LINK_EVENT from its report queue, updates the link table and acknowledges it. -/
  | linkEvent (hdr : Hdr) (nid : Nat) (port : Nat) (ep : Bool) (good : Bool) (report : Nat) (time : Nat) (wait : Bool)
  /-- EVENT_ACK (R244): An agent takes an EVENT_ACK and stops repeating the acknowledged report. -/
  | eventAck (die : Nat) (hdr : Hdr) (type : Nat) (report : Nat)
  /-- REPORT_RETRY (R244): FR_REPORT_RETRY_US expires and the agent repeats every unacknowledged report. -/
  | reportRetry (die : Nat)
  /-- WITHDRAW (R249): An agent takes a WITHDRAW and sets F for every port facing the sender. -/
  | withdraw (die : Nat) (hdr : Hdr) (imp : Nat) (nid : Nat) (port : Nat) (dests : List Nat)
  /-- NEIGHBOUR (R443): The manager takes a NEIGHBOUR report and moves link entries to PROBING or UP. -/
  | neighbour (hdr : Hdr) (peerNode : Nat) (peerPort : Nat) (peerEp : Bool) (port : Nat) (ep : Bool)
  /-- ENDPOINT_RESET_DETECT (R255): An endpoint agent detects its node's reset, asserts fences and sends GONE, MEMBER_LOST and EP_RESET. -/
  | endpointResetDetect (die : Nat) (input : Nat)
  /-- GONE (R256): An agent takes GONE for an endpoint and sets GONE in its local and exception entries on both sides. -/
  | gone (die : Nat) (hdr : Hdr) (nid : Nat) (rej0 : Nat) (rej1 : Nat)
  /-- READY (R256): An agent takes READY for an endpoint and clears its GONE bits and gone-list entry. -/
  | ready (die : Nat) (hdr : Hdr) (nid : Nat) (rej0 : Nat) (rej1 : Nat)
  /-- MEMBER_LOST_RECEIVE (R257): A member agent takes MEMBER_LOST, posts it to node firmware if context and generation match, and acknowledges. -/
  | memberLostReceive (dev : At) (hdr : Hdr) (lost : Nat) (cause : Nat) (ctx : Nat) (gen : Nat) (resets : Nat) (time : Nat)
  /-- MEMBER_ACK (R257): The manager takes a MEMBER_ACK from a member agent. -/
  | memberAck (hdr : Hdr) (ctx : Nat) (gen : Nat) (nid : Nat)
  /-- EP_RESET (R258): The manager takes an EP_RESET and applies member loss. -/
  | epReset (hdr : Hdr) (nid : Nat) (cause : Nat) (resets : Nat) (report : Nat) (time : Nat) (wait : Bool)
  /-- NODE_READY (R259): The manager takes NODE_READY; under REJOIN it proceeds once every lost member is ready, otherwise it sends READY to peers. -/
  | nodeReady (hdr : Hdr) (nid : Nat) (report : Nat) (wait : Bool)
  /-- REJOINED (R259): An agent takes REJOINED and releases its fences. -/
  | rejoined (die : Nat) (hdr : Hdr) (ctx : Nat) (gen : Nat) (nid : Nat)
  /-- MEMBER_REJOINED (R257): An agent takes MEMBER_REJOINED and posts it to node firmware if context and generation match. -/
  | memberRejoined (die : Nat) (hdr : Hdr) (lost : Nat) (cause : Nat) (ctx : Nat) (gen : Nat) (resets : Nat) (time : Nat)
  /-- REJOIN_TIMEOUT (R259): READY has not come within FR_REJOIN_MS of the first loss and the context is purged. -/
  | rejoinTimeout (ctx : Nat)
  /-- NODE_CTL_READY (R261): Node firmware writes READY to NODE_CTL and the agent reports NODE_READY. -/
  | nodeCtlReady (die : Nat)
  /-- RESET_NOTICE (R310): Node firmware writes RESET_NOTICE, which is a reset detection, merged with a link loss within 1 s. -/
  | resetNotice (die : Nat)
  /-- RESET_REQ_NODE (R262): Node firmware of a coupled forwarding endpoint writes RESET_REQ and the agent forwards it. -/
  | resetReqNode (die : Nat)
  /-- RESET_REQ (R263): The manager takes RESET_REQ and starts a detour of the forwarding part. -/
  | resetReq (hdr : Hdr) (nid : Nat) (switch : Nat) (report : Nat) (wait : Bool)
  /-- RESET_GRANT (R263): An agent takes RESET_GRANT and sets RESET_GRANT in NODE_STAT. -/
  | resetGrant (die : Nat) (hdr : Hdr) (nid : Nat) (detour : Bool)
  /-- DETOUR_TIMEOUT (R263): No commit has followed within FR_DETOUR_MS and the agent grants the reset itself. -/
  | detourTimeout (die : Nat)
  /-- HEARTBEAT_AGENT (R424): An agent takes a HEARTBEAT and answers the manager or its collector. -/
  | heartbeatAgent (die : Nat) (hdr : Hdr) (port : Nat) (round : Nat) (imp : Nat)
  /-- HB_REPLY (R424): The manager or a collector takes an HB_REPLY. -/
  | hbReply (dev : At) (hdr : Hdr) (round : Nat) (committed : Nat) (map : Option Ports)
  /-- AGENT_HEARTBEAT_MISSED (R267): Three consecutive heartbeats go unanswered; the agent is marked SILENT and its time estimate becomes invalid. -/
  | agentHeartbeatMissed (nid : Nat)
  /-- SILENT_TIMEOUT (R267): Silence lasts FR_SILENT_MS; a switch is isolated and a member endpoint meets member loss. -/
  | silentTimeout (nid : Nat)
  /-- TIME_ESTIMATE_EXPIRE (R50): The kept heartbeat exchange becomes more than 1 s old and the estimate is marked invalid. -/
  | timeEstimateExpire (nid : Nat)
  /-- NODE_HB (R268): Node firmware writes NODE_HB and the node-heartbeat watchdog restarts. -/
  | nodeHb (die : Nat)
  /-- NODE_HB_TIMEOUT (R268): No NODE_HB for 3 × FR_NODE_HB_US; an endpoint is treated as reset, and a switch's miss is recorded and reported. -/
  | nodeHbTimeout (die : Nat)
  /-- SCRIBE_WATCHDOG (R269): A scribe core misses its 10 ms watchdog; it is reset and its work moves to another core. -/
  | scribeWatchdog (core : Nat) (reqs : List Req)
  /-- HANG_WATCHDOG (R270): No tile step of a context retires for HANG_TILE_US; the context is purged or the cell is reset. -/
  | hangWatchdog (ctx : Nat)
  /-- CELL_RESET_COMPLETE (R270): A hung cell finishes reset and SRAM zeroing, and is counted and re-enabled. -/
  | cellResetComplete (cell : Nat)
  /-- EP_READMIT (R274): Writing 1 to EP_READMIT clears the fenced endpoint's count, releases its fences and sends READY. -/
  | epReadmit (req : Req) (value : Nat)
  /-- LK_READMIT (R246): Writing 1 to LK_READMIT returns an ADMIN_DOWN link to PROBING and clears its flap count. -/
  | lkReadmit (req : Req) (value : Nat)
  /-- RS_COMMIT (R272): Writing 1 to RS_COMMIT commits the escalation limits and delivers them to agents. -/
  | rsCommit (req : Req) (value : Nat)
  /-- NODE_LINK_DOWN (R309): The node-port link goes down, which is a reset detection for an endpoint. -/
  | nodeLinkDown (die : Nat)
  /-- NODE_LOST_TIMEOUT (R309): A switch's node-port link has been down 1 ms; the plate store becomes invalid and NODE_LOST is sent. -/
  | nodeLostTimeout (die : Nat)
  /-- NODE_LOST (R309): The manager takes NODE_LOST and isolates the switch. -/
  | nodeLost (hdr : Hdr) (nid : Nat) (report : Nat) (time : Nat) (wait : Bool)
  /-- CLAIM_AGENT (R283): An agent takes a CLAIM, raises its highest pair and, for a switch, answers CLAIM_ACK. -/
  | claimAgent (die : Nat) (hdr : Hdr) (prev : Nat) (prevNid : Nat) (cause : Nat) (imp : Nat)
  /-- CLAIM_MANAGER (R282): A unit takes a CLAIM with a higher pair, stops sending commands and becomes standby. -/
  | claimManager (hdr : Hdr) (prev : Nat) (prevNid : Nat) (cause : Nat) (imp : Nat)
  /-- CLAIM_ACK (R297): A unit gaining authority takes CLAIM_ACKs and completes the interrupted install or adopts. -/
  | claimAck (hdr : Hdr) (committed : Nat) (staged : Nat) (stagedOk : Bool)
  /-- PEER_HEARTBEAT (R294): A standby takes a heartbeat from the active unit. -/
  | peerHeartbeat (hdr : Hdr) (round : Nat) (imp : Nat) (seq : Nat)
  /-- INPUT_STREAM_ENTRY (R288): A triad module takes an input-stream entry and applies it in sequence order. -/
  | inputStreamEntry (seq : Nat) (kind : EntryKind) (input : Instr)
  /-- TRIAD_HEARTBEAT_MISS (R290): Three triad heartbeats from the leader are missed and the follower finds the leader failed. -/
  | triadHeartbeatMiss (slot : Nat)
  /-- TRIAD_PRESENCE_LOSS (R290): A triad port loses presence and the peer is found failed. -/
  | triadPresenceLoss (port : Nat)
  /-- TRIAD_DIGEST (R291): A module takes a peer's impression digest, and the leader commits when two digests agree. -/
  | triadDigest (slot : Nat) (imp : CandId) (digest : Digest)
  /-- TR_RESYNC (R292): Writing 1 to TR_RESYNC starts a resynchronisation of this module. -/
  | trResync (req : Req) (value : Nat)
  /-- RESYNC_COMPLETE (R292): A resynchronising module has copied state and applied entries, and rejoins as follower or standby. -/
  | resyncComplete (seq : Nat) (copy : Machine.Copy)
  /-- REPL (R294): A standby takes a replication entry and applies it in order. -/
  | repl (hdr : Hdr) (seq : Nat) (kind : EntryKind) (input : Instr)
  /-- REPL_ACK (R295): The active unit takes the standby's acknowledgement of an entry. -/
  | replAck (hdr : Hdr) (seq : Nat)
  /-- REPL_TIMEOUT (R295): RD_REPL_US passes without acknowledgement; the standby is OUT_OF_SYNC and no longer awaited. -/
  | replTimeout (seq : Nat)
  /-- RD_HANDOVER (R301): Writing 1 to RD_HANDOVER makes the active unit send its remaining entries and YIELD, and stand by. -/
  | rdHandover (req : Req) (value : Nat)
  /-- YIELD (R301): A standby takes YIELD and runs steps 2 to 4 of Table: Takeover at once. -/
  | yield_ (hdr : Hdr) (lastSeq : Nat) (cause : Nat)
  /-- DESC_PUBLISH (R314): Node firmware writes DESC_PUBLISH; the descriptor is checked, and publishing while joined is a node reset. -/
  | descPublish (die : Nat) (desc : List Byte) (regOk : Bool)
  /-- LT_SAVE (R331): Node firmware writes LT_SAVE and the area is checked and written to the older NVM copy, paced to one per 60 s. -/
  | ltSave (die : Nat) (area : List Byte)
  /-- LT_SAVE_DEFERRED (R331): 60 s after the previous save, a deferred save writes the area as it then stands. -/
  | ltSaveDeferred (die : Nat) (area : List Byte)
  /-- LT_CLEAR (R337): Writing 1 to LT_CLEAR erases both saved copies. -/
  | ltClear (die : Nat) (hdr : Hdr) (tag : Nat) (v : Nat)
  /-- NODE_DOORBELL (R327): Node firmware posts a doorbell-only message on mailbox 0. -/
  | nodeDoorbell (die : Nat) (hdr : Nat) (data : List Byte) (chk : Nat)
  /-- NODE_LOG (R327): Node firmware posts LOG on mailbox 0 and a NODE_LOG record is written. -/
  | nodeLog (die : Nat) (hdr : Nat) (data : List Byte) (chk : Nat)
  /-- TELEMETRY_SAMPLE (R501): Node firmware posts a PORT_TX, BLOCK_RX or COUNTER sample on mailbox 1 and the agent keeps the latest value. -/
  | telemetrySample (die : Nat) (hdr : Nat) (data : List Byte) (chk : Nat)
  /-- NEIGHBOUR_REPORT (R436): Node firmware posts a NEIGHBOUR probe result on mailbox 1, kept in the neighbour table and sent to the manager. -/
  | neighbourReport (die : Nat) (hdr : Nat) (data : List Byte) (chk : Nat)
  /-- HOST_REPLY (R362): Node firmware posts HOST_REPLY on mailbox 2 and HM_REPLY is updated. -/
  | hostReply (die : Nat) (hdr : Nat) (data : List Byte) (chk : Nat)
  /-- NODE_MESSAGE_TAKEN (R328): Node firmware sets DONE on an agent-to-node mailbox, and the next queued message is posted. -/
  | nodeMessageTaken (die : Nat) (box : Nat) (code : Nat)
  /-- HM_SEND (R362): A write of HM_SEND posts HOST_MSG on mailbox 5. -/
  | hmSend (die : Nat) (hdr : Hdr) (tag : Nat) (data : List Byte)
  /-- AG_RESTART (R332): Writing 1 to AG_RESTART restarts the control island with its state retained. -/
  | agRestart (die : Nat) (hdr : Hdr) (tag : Nat) (v : Nat)
  /-- FIRMWARE_RUNNING (R334): Restarted firmware runs, processes held frames and acts on changes since the stop. -/
  | firmwareRunning (die : Nat) (adopts : Bool) (regOk : Bool) (rej0 : Nat) (rej1 : Nat)
  /-- RESTART_TIMEOUT (R333): New firmware does not answer heartbeats within 150 ms and the boot ROM restarts the previous slot. -/
  | restartTimeout (die : Nat)
  /-- CORE_WATCHDOG (R549): An agent control core misses its 10 ms watchdog and the control island restarts unannounced. -/
  | coreWatchdog (die : Nat)
  /-- AGENT_RESET (R548): The agent resets through AG_RESET# or a proxied DV_RESET, clearing its descriptor, neighbour table and gone list and releasing its fences. -/
  | agentReset (die : Nat) (cause : Nat)
  /-- TELEMETRY_PERIOD_END (R501): AP_TL_PERIOD_MS ends at the agent and it sends the period's telemetry records. -/
  | telemetryPeriodEnd (die : Nat) (dropPkey : Nat) (dropRoute : Nat) (nakSent : Nat)
  /-- DICT_READ (R342): A local dictionary READ is checked and answered. -/
  | dictRead (req : Req) (key : Nat)
  /-- DICT_WRITE (R342): A local dictionary WRITE to an object without its own row is checked and takes effect whole. -/
  | dictWrite (req : Req) (key : Nat) (data : List Byte)
  /-- DICT_REQ (R359): An agent takes a proxied DICT_REQ and performs it, passing writes through its output stage. -/
  | dictReq (die : Nat) (hdr : Hdr) (tag : Nat) (key : Nat) (data : List Byte) (write : Bool)
  /-- DICT_REPLY (R358): The manager takes a DICT_REPLY and answers the proxied request, or drops it when its generation is stale. -/
  | dictReply (hdr : Hdr) (tag : Nat) (result : Nat) (data : List Byte)
  /-- PROXY_TIMEOUT (R360): A proxied request unanswered after DX_PROXY_US is answered TIMEOUT. -/
  | proxyTimeout (num : Nat)
  /-- DV_RESET (R364): Writing 0x5A to DV_RESET resets the device, or is answered STATE at an active module. -/
  | dvReset (req : Req) (value : Nat) (start : StartIn)
  /-- P_PART_CREATE (R370): Writing 1 to P_PART_CREATE stages CV_SET and EXACT and writes CV_GO. -/
  | pPartCreate (req : Req) (value : Nat)
  /-- P_PART_DELETE (R368): Writing 1 to P_PART_DELETE writes 2 to CX_RELEASE. -/
  | pPartDelete (req : Req) (value : Nat)
  /-- P_RECOMPUTE (R368): Writing P_RECOMPUTE writes IMP_FULL. -/
  | pRecompute (req : Req) (value : Nat)
  /-- P_HA_SWITCHOVER (R368): Writing P_HA_SWITCHOVER writes RD_HANDOVER. -/
  | pHaSwitchover (req : Req) (value : Nat)
  /-- DW_GO (R380): Host software sets GO in a dictionary slot and the bridge sends a DICT_REQ barrier frame. -/
  | dwGo (fn : Nat) (slot : Nat) (irq : Bool)
  /-- DICT_REPLY_HOST (R380): A DICT_REPLY reaches the host side, fills the slot and clears GO. -/
  | dictReplyHost (fn : Nat) (slot : Nat)
  /-- HOST_MAILBOX_GO (R383): Host software writes GO on a host mailbox; TAKEN and DONE are cleared and MB_POST is sent. -/
  | hostMailboxGo (fn : Nat) (box : Nat)
  /-- MB_DOORBELL (R382): Manager firmware takes a DOORBELL host message and answers DONE. -/
  | mbDoorbell (box : Nat)
  /-- PING (R382): Manager firmware takes PING and answers DONE with OK. -/
  | ping (box : Nat)
  /-- HOST_LOG (R382): Manager firmware takes LOG and records HOST_LOG for the owning context. -/
  | hostLog (box : Nat)
  /-- MARK (R503): Manager firmware takes MARK and stores a group 7 telemetry marker. -/
  | mark (box : Nat)
  /-- MB_ACK_HOST (R383): An MB_ACK frame reaches the host side and updates TAKEN or DONE. -/
  | mbAckHost (box : Nat)
  /-- DB_SET (R388): A DB_SET write sets doorbell bits and raises DOORBELL for each bit going from 0 to 1. -/
  | dbSet (fn : Nat) (q : Nat) (v : Nat)
  /-- DB_CLEAR (R388): A DB_CLEAR write clears doorbell bits. -/
  | dbClear (fn : Nat) (q : Nat) (v : Nat)
  /-- INT_STATUS_CLEAR (R390): A write of 1 clears a cause bit of INT_STATUS. -/
  | intStatusClear (fn : Nat) (v : Nat)
  /-- INT_MASK_WRITE (R390): An INT_MASK write, where clearing a mask sends the message of a set cause. -/
  | intMaskWrite (fn : Nat) (v : Nat)
  /-- CF_CTL (R387): A CF_CTL write selects a polynomial and restarts the CRC at its initial value. -/
  | cfCtl (fn : Nat) (k : Nat) (v : Nat)
  /-- CF_FEED8 (R387): A CF_FEED8 write feeds one byte to the CRC. -/
  | cfFeed8 (fn : Nat) (k : Nat) (v : Nat)
  /-- CF_FEED16 (R387): A CF_FEED16 write feeds two bytes to the CRC. -/
  | cfFeed16 (fn : Nat) (k : Nat) (v : Nat)
  /-- CF_FEED32 (R387): A CF_FEED32 write feeds four bytes to the CRC. -/
  | cfFeed32 (fn : Nat) (k : Nat) (v : Nat)
  /-- SO_CFG (R399): An SO_CFG write resets the sync object to the initial state of its KIND. -/
  | soCfg (fn : Nat) (n : Nat) (v : Nat)
  /-- SO_VALUE_WRITE (R399): An SO_VALUE write sets a COUNTER's value or a SEMAPHORE's count, which may fire the object. -/
  | soValueWrite (fn : Nat) (n : Nat) (v : Nat)
  /-- SO_OP_COUNTER (R399): An SO_OP write adds to a COUNTER. -/
  | soOpCounter (fn : Nat) (n : Nat) (v : Nat)
  /-- SO_OP_SEMAPHORE (R399): An SO_OP write adds to a SEMAPHORE count, saturating. -/
  | soOpSemaphore (fn : Nat) (n : Nat) (v : Nat)
  /-- SO_OP_LOCK_RELEASE (R401): An SO_OP write by the holder releases a LOCK and advances SO_SERVING past void tickets. -/
  | soOpLockRelease (fn : Nat) (n : Nat)
  /-- SO_OP_EVENT_SET (R399): An SO_OP write of 1 sets an EVENT. -/
  | soOpEventSet (fn : Nat) (n : Nat)
  /-- SO_OP_EVENT_CLEAR (R399): An SO_OP write of 0 clears an EVENT. -/
  | soOpEventClear (fn : Nat) (n : Nat)
  /-- SO_TARGET_WRITE (R402): An SO_TARGET write sets a COUNTER threshold. -/
  | soTargetWrite (fn : Nat) (n : Nat) (v : Nat)
  /-- LOCK_ACQ (R400): A read of LOCK_ACQ acquires a free plain lock or returns its holder. -/
  | lockAcq (fn : Nat) (n : Nat)
  /-- SEM_ACQ (R399): A read of SEM_ACQ takes one count from a SEMAPHORE when the count is above 0. -/
  | semAcq (fn : Nat) (n : Nat)
  /-- LOCK_TICKET (R401): A read of LOCK_TICKET issues the next ticket, or returns all ones when 64 are outstanding. -/
  | lockTicket (fn : Nat) (n : Nat)
  /-- DQ_TAIL (R396): A DQ_TAIL write issues the domain descriptors it covers. -/
  | dqTail (fn : Nat) (v : Nat) (bufs : SMap (List Byte))
  /-- DESCRIPTOR_COMPLETE (R397): A domain transfer completes; STATUS, XFER_LEN and DONE are written. -/
  | descriptorComplete (fn : Nat)
  /-- REGISTER_WRITE (R377): A write to a BAR0 or BAR2 register without its own row, checked for width and ownership. -/
  | registerWrite (fn : Nat) (bar : Nat) (off : Nat) (width : Nat) (value : Nat)
  /-- FLR (R375): A function-level reset of a bound virtual function resets it without purging the context. -/
  | flr (fn : Nat)
  /-- BARRIER_UP (R395): The barrier comes up and pending requests are resent or completed with RETRY. -/
  | barrierUp (accepted : List Req)
  /-- LANE_FAILURE (R394): A barrier lane fails and the barrier retrains to fewer lanes, replaying frames in flight. -/
  | laneFailure (lanes : Nat) (frames : Nat)
  /-- KEY_OFFER (R416): A device takes a KEY_OFFER, installs the key in the named phase and answers KEY_ACCEPT, taking its assigned NID where R442 applies. -/
  | keyOffer (dev : At) (hdr : Hdr) (assoc : Nat) (phase : Bool) (wrap : Nat) (peer : Nat) (salts : Salts) (expire : Nat) (key : Key) (sigOk : Bool) (ports : List Nat) (peerAs : Nat)
  /-- KEY_ACCEPT (R416): The manager takes KEY_ACCEPT and moves to the new phase, or offers again after BUSY. -/
  | keyAccept (hdr : Hdr) (assoc : Nat) (phase : Bool) (status : Nat)
  /-- KEY_GRACE_EXPIRE (R416): FN_KEY_GRACE_MS after the first frame under the new phase, the old key is erased. -/
  | keyGraceExpire (dev : At) (src : Nat) (assoc : Nat) (phase : Bool)
  /-- REKEY_TIMER (R417): FN_REKEY_S has passed since a key took effect and a new key is requested. -/
  | rekeyTimer (dev : At) (peer : Nat) (assoc : Nat)
  /-- TIMED_SEND (R425): An agent's FN_TIME_MS slot falls due and the manager sends TIMED. -/
  | timedSend (nid : Nat)
  /-- TIMED (R425): An agent takes TIMED, adopts its collector and home address, and answers TIMED_REPLY. -/
  | timed (die : Nat) (hdr : Hdr) (t1 : Nat) (homeMac : Nat) (collector : Nat)
  /-- TIMED_REPLY (R425): The manager takes TIMED_REPLY, updates the time map, WITHDRAW counts and rekey requests. -/
  | timedReply (hdr : Hdr) (t1 : Nat) (t2 : Nat) (t3 : Nat) (wdrSent : Nat) (rekey : Bool) (restarting : Bool) (plateValid : Bool)
  /-- FIELD_PORT_CHANGE (R407): An agent's transmitting field port changes and it sends a reply at once so the network relearns. -/
  | fieldPortChange (die : Nat) (port : Nat) (state : Nat)
  /-- MANAGER_PORT_DOWN (R408): A manager field port goes down and its agents are assigned new home ports. -/
  | managerPortDown (port : Nat)
  /-- LANE_SWITCH (R428): No HEARTBEAT on port 0 for three rounds; a LANE agent moves to the management lane. -/
  | laneSwitch (die : Nat)
  /-- LANE_RELAY (R427): An agent takes a lane frame for another NID and relays it on port 0 within FN_RELAY_RATE. -/
  | laneRelay (die : Nat) (src : Nat) (dst : Nat) (fromLane : Bool)
  /-- MODULE_START (R430): The 54 V input enters its range and the module runs its start sequence. -/
  | moduleStart (start : StartIn)
  /-- BT_FRESH (R432): Writing 1 to BT_FRESH discards the saved stack settings for the next start. -/
  | btFresh (req : Req) (value : Nat)
  /-- AGENT_START (R434): Both supplies are in range and reset is released, and the agent runs its start sequence. -/
  | agentStart (die : Nat) (cold : Bool) (slotOk : Bool) (otherOk : Bool) (p0 : Nat) (p1 : Nat) (straps : Nat)
  /-- HELLO_REPEAT (R437): An agent's HELLO interval expires and HELLO is sent again with backoff. -/
  | helloRepeat (die : Nat)
  /-- HELLO (R440): The manager takes a HELLO, matches it to the blueprint or holds it, and re-attests a reset agent. -/
  | hello (hdr : Hdr) (payload : List Byte)
  /-- ATTEST_REQ (R442): An agent takes ATTEST_REQ, stops HELLO and answers with a signed ATTEST_REPORT. -/
  | attestReq (die : Nat) (hdr : Hdr) (nonce : Digest) (nid : Nat) (fwd : Nat)
  /-- ATTEST_REPORT (R444): The manager verifies an ATTEST_REPORT, then offers keys and a CLAIM, or withdraws the match. -/
  | attestReport (hdr : Hdr) (die : Nat) (sigOk : Bool) (nonce : Digest) (hello : Digest) (desc : List Byte) (debug : Nat)
  /-- HELLO_RESUME (R545): An agent that reported but has no NID after 100 ms resumes HELLO. -/
  | helloResume (die : Nat)
  /-- BP_IMAGE (R439): A blueprint written to BP_IMAGE is checked and, if accepted, restarts matching at wave 0. -/
  | bpImage (req : Req) (image : List Byte)
  /-- READY_TOLERANCE_WRITE (R446): A write of READY_TOLERANCE re-evaluates the gate at once. -/
  | readyToleranceWrite (req : Req) (sub : Nat) (data : List Byte)
  /-- DS_RESTART (R448): Writing 1 to DS_RESTART clears every match and returns to DISCOVERING. -/
  | dsRestart (req : Req) (value : Nat)
  /-- FW_IMAGE (R450): An image is written to FW_IMAGE, and a zero length discards the held image. -/
  | fwImage (req : Req) (image : List Byte)
  /-- FW_BROADCAST (R451): Writing 1 to FW_GO verifies the image and starts broadcast passes, or installs a manager image. -/
  | fwBroadcast (req : Req) (sigOk : Bool)
  /-- FW_ACTIVATE (R454): Writing 2 to FW_GO activates COMPLETE agents in batches. -/
  | fwActivate (req : Req)
  /-- FW_ABORT (R455): Writing 3 to FW_GO aborts the broadcast. -/
  | fwAbort (req : Req)
  /-- BULK_DATA (R452): An agent takes a BULK_DATA block, marks it received and, when all arrive, verifies and writes its other slot. -/
  | bulkData (die : Nat) (hdr : Hdr) (image : Nat) (block : Nat) (count : Nat) (pass : Nat) (data : List Byte) (sigOk : Bool) (writeOk : Bool)
  /-- END_OF_PASS (R452): An agent takes END_OF_PASS and schedules its BULK_REPORT after a random delay. -/
  | endOfPass (die : Nat) (hdr : Hdr) (image : Nat) (count : Nat) (pass : Nat)
  /-- BULK_REPORT_SEND (R452): The random delay ends and the agent sends BULK_REPORT with its missing ranges. -/
  | bulkReportSend (die : Nat)
  /-- BULK_REPORT (R452): The manager takes a BULK_REPORT from an agent. -/
  | bulkReport (hdr : Hdr) (image : Nat) (state : Nat) (pass : Nat) (more : Bool) (missing : List (Nat × Nat))
  /-- ACTIVATE (R454): An agent takes ACTIVATE, reports ACTIVATING, posts FW_NOTICE and restarts from the new slot. -/
  | activate (die : Nat) (hdr : Hdr) (image : Nat)
  /-- SC_NONCE (R467): A read of SC_NONCE draws a new nonce and voids the previous one. -/
  | scNonce (req : Req)
  /-- SC_APPLY (R468): Writing 1 to SC_APPLY checks the owner token and applies its transition. -/
  | scApply (req : Req) (value : Nat) (sigOk : Bool) (start : StartIn)
  /-- SC_PROVISION (R470): Writing 1 to SC_PROVISION fuses the owner digest and resets into PROVISIONED. -/
  | scProvision (req : Req) (value : Nat) (start : StartIn)
  /-- SC_DEBUG_REQ (R470): A write of SC_DEBUG_REQ in OPEN mode sets or lowers the debug level. -/
  | scDebugReq (req : Req) (value : Nat) (start : StartIn)
  /-- DEBUG_DURATION_END (R470): A token's or grant's duration ends and the debug level returns to NONE. -/
  | debugDurationEnd (dev : At) (start : StartIn)
  /-- SC_FUSES_SET (R462): A write of SC_FUSES_SET raises the rollback floor or revokes signing-key slots. -/
  | scFusesSet (req : Req) (value : Nat)
  /-- SC_GRANT (R472): An agent takes a proxied agent debug grant, verifies it and opens INVASIVE access. -/
  | scGrant (die : Nat) (hdr : Hdr) (tag : Nat) (gdie : Nat) (dur : Nat) (imp : Nat) (sigOk : Bool)
  /-- SC_SPDM (R481): An SPDM request written to SC_SPDM is answered by the RTP and IDE keys are programmed. -/
  | scSpdm (req : Req) (data : List Byte) (resp : List Byte) (ide : Option Nat)
  /-- AT_GO (R475): Writing 1 to AT_GO takes a snapshot and signs an attestation report. -/
  | atGo (req : Req) (value : Nat)
  /-- PK_ROTATE (R479): Writing 1 to PK_ROTATE starts a page-key rotation. -/
  | pkRotate (req : Req) (value : Nat)
  /-- BUCKET_FULL (R490): A rate bucket becomes full after a suppression and SUPPRESSED summaries are written for each context. -/
  | bucketFull (dev : At) (code : Nat)
  /-- RL_COMMIT (R491): Writing 1 to RL_COMMIT commits group 3 and refills each changed bucket. -/
  | rlCommit (req : Req) (value : Nat)
  /-- EV_CLEAR_CIRCULATING (R496): Writing 1 to EV_CLEAR clears the circulating area and writes CLEARED. -/
  | evClearCirculating (req : Req)
  /-- EV_CLEAR_FIRST (R496): Writing 2 to EV_CLEAR clears the first area, or is answered MODE in CONFIDENTIAL. -/
  | evClearFirst (req : Req)
  /-- EV_CLEAR_BOTH (R496): Writing 3 to EV_CLEAR clears both areas, or is answered MODE in CONFIDENTIAL. -/
  | evClearBoth (req : Req)
  /-- EW_VIEW (R493): A write of EW_VIEW selects a ring segment and clears READY until it is streamed. -/
  | ewView (fn : Nat) (v : Nat)
  /-- ER_READ (R495): A read of ER_READ returns records from ER_CURSOR and advances the cursor. -/
  | erRead (req : Req)
  /-- EVENT (R497): The manager takes an agent's EVENT frame and records AGENT_RECORD. -/
  | event (hdr : Hdr) (bytes : List Byte)
  /-- TELEMETRY (R503): The manager takes a TELEMETRY frame and stores its records in the group rings. -/
  | telemetry (hdr : Hdr) (time : Nat) (period : Nat) (last : Bool) (recs : List TlRec)
  /-- SUBSAMPLE_WINDOW (R505): A 1 s window ends and the agents' telemetry period is doubled or halved. -/
  | subsampleWindow (full : Bool)
  /-- TS_READ (R504): A read of TS_READ returns subscribed records from TS_CURSOR and advances the cursor. -/
  | tsRead (req : Req)
  /-- TS_SUBSCRIBE (R500): A write of TS_SUBSCRIBE sets the context's subscriptions, ignoring bits it may not set. -/
  | tsSubscribe (req : Req) (data : List Byte)
  /-- DOMAIN_STATE_ENTRY (R510): A domain has had no work for ten times an exit latency and enters the deepest permitted state. -/
  | domainStateEntry (dev : At) (domain : Nat) (quiet : Bool)
  /-- WORK_ARRIVAL (R510): Work arrives at a domain below ACTIVE and wakes it. -/
  | workArrival (dev : At) (domain : Nat)
  /-- DOMAIN_WAKE_COMPLETE (R510): A domain's exit latency ends and the waiting work proceeds. -/
  | domainWakeComplete (dev : At) (domain : Nat)
  /-- PWR_WAKE_BUDGET (R513): A wake-budget write sets a class budget and wakes domains that sit deeper than it permits. -/
  | pwrWakeBudget (req : Req) (sub : Nat) (data : List Byte)
  /-- SENTINEL_EXIT_MANAGER (R515): A wake source ends the manager's SENTINEL, re-deriving keys and bringing the barrier up. -/
  | sentinelExitManager (cause : Nat) (start : StartIn)
  /-- SENTINEL_ENTRY_AGENT (R516): The agent's entry conditions have held for 600 ms and it enters SENTINEL. -/
  | sentinelEntryAgent (die : Nat)
  /-- SENTINEL_EXIT_AGENT (R516): A wake source ends the agent's SENTINEL and its control island restarts with retained state. -/
  | sentinelExitAgent (die : Nat) (cause : Nat)
  /-- PW_WAKE_AT (R515): Local time reaches PW_WAKE_AT and SENTINEL is left. -/
  | pwWakeAt (dev : At) (start : StartIn)
  /-- AGENT_PARKED (R517): An agent's node has been lost for 600 ms under deep budgets; the manager stops counting its missed heartbeats and holds its stages. -/
  | agentParked (nid : Nat)
  /-- UNDERVOLTAGE (R519): The 54 V input falls below 38 V; the hot-swap stage turns off and NVM writes complete from hold-up. -/
  | undervoltage (mv : Nat)
  /-- AGENT_UNDERVOLTAGE (R519): An agent supply falls below its threshold; the agent is held in reset and its fences are released. -/
  | agentUndervoltage (die : Nat)
  /-- TEMP_WARNING (R519): The die exceeds 100 °C; DV_HEALTH [3] is set and TEMP_WARNING recorded. -/
  | tempWarning (dev : At)
  /-- TEMP_CRITICAL (R519): The die exceeds 115 °C and the part enters SENTINEL at once. -/
  | tempCritical (dev : At)
  /-- TEMP_RECOVERED (R519): The die falls below 90 °C after a thermal entry and the part wakes. -/
  | tempRecovered (dev : At) (start : StartIn)
  /-- REFERENCE_LOST (R521): No 25 MHz reference edge for 1 µs; local time continues from the on-die oscillator and PW_REF_LOST is set. -/
  | referenceLost (dev : At)
  /-- SIGNAL_DETECT (R519): A field port's signal detect changes and wakes the port domain or the part. -/
  | signalDetect (dev : At) (port : Nat) (start : StartIn)
  /-- MRST (R530): MRST# held low for 1 µs resets the field side and leaves the host link up. -/
  | mrst (start : StartIn)
  /-- RESET_FENCE_RELEASE (R268): The 1 ms for which an agent holds a hung endpoint node in reset through its RESET fence ends and the fence is released. -/
  | resetFenceRelease (die : Nat)
  /-- TRIAD_HEARTBEAT (R287): Every 10 µs each triad module exchanges triad heartbeats with each peer over both triad ports. -/
  | triadHeartbeat (heard : List (Nat × Bool))
  /-- INPUT_STREAM_ACK (R288): The leader takes a follower's acknowledgement of an input-stream entry and may then answer the request, send the command or count the timer it carries. -/
  | inputStreamAck (slot : Nat) (seq : Nat)
  /-- PERST_DEASSERTION (R520): PERST# deasserts; the host side leaves reset and the manager releases WAKE#. -/
  | perstDeassertion (rate : Nat) (width : Nat) (numVfs : Nat) (rid : Nat)
  /-- REFERENCE_RESTORED (R521): Edges of the 25 MHz reference arrive again, and the field ports, and the manager's triad ports, that stopped while it was lost resume. -/
  | referenceRestored (dev : At) (ports : SMap Nat)
  /-- TRIAD_PRESENCE_GAIN (R519): A triad port's presence comparator sees a peer appear, waking the port domain so that an inserted module can join. -/
  | triadPresenceGain (port : Nat) (start : StartIn)
  /-- COALESCING_WINDOW_CLOSE (R252): The coalescing window expires, the link-table snapshot is taken and a computation is requested. -/
  | coalescingWindowClose
  /-- COMPUTATION_START (R128): Once no computation is running, a computation starts on the newest waiting snapshot and runs the steps of Table: Steps of a computation. -/
  | computationStart
  /-- HOOK_TIMEOUT (R148): The hook has not completed OK within RT_HOOK_US; it is stopped and its entries are restored. -/
  | hookTimeout
  /-- COMPUTATION_COMPLETE (R149): Plate assembly ends with digests and a delta list, and the candidate is installed, replaces the one being staged, or is abandoned. -/
  | computationComplete
  /-- PCOUNT_COMPLETE (R152): Path counting for the committed impression completes and SW_ECMP is updated. -/
  | pcountComplete
  /-- LOAD_PERIOD (R156): The LD_PERIOD_MS timer expires and a background LOAD run starts. -/
  | loadPeriod
  /-- LOAD_COMPLETE (R157): LOAD completes and writes the LOAD field of every link entry and LD_MAX. -/
  | loadComplete
  /-- REBAL_COMPLETE (R160): REBAL keeps its best adjustments and starts a computation without a new fault. -/
  | rebalComplete
  /-- IMBALANCE_WINDOW (R162): A 1 s measurement window ends and each switch's equal-cost group ratio is evaluated. -/
  | imbalanceWindow
  /-- GROUP_MOVE (R170): The next paced group move of a redraw sweep falls due; the group is moved under the new key and the pointer advances. -/
  | groupMove
  /-- COMMIT_RETRY (R196): The IMP_COMMIT_RETRY_US timer expires and COMMIT is repeated by unicast to agents not yet acknowledged. -/
  | commitRetry
  /-- COMMIT_TIMEOUT (R203): IMP_COMMIT_US passes; agents still silent are declared lost and isolated. -/
  | commitTimeout
  /-- OLD_SIDE_RELEASE (R196): IMP_DRAIN_US after the last acknowledgement, the old side is released and a waiting computation may start. -/
  | oldSideRelease
  /-- PLACE_COMPLETE (R166): PLACE scoring completes with a centre, and the carve chooses its endpoints. -/
  | placeComplete
  /-- MEMBER_LOST_RETRY (R257): MEMBER_LOST is repeated by unicast every FR_REPORT_RETRY_US to agents that have not acknowledged. -/
  | memberLostRetry
  /-- HEARTBEAT_ROUND (R424): FN_HB_US expires and the active unit multicasts HEARTBEAT to ALL. -/
  | heartbeatRound
  /-- BOOT_LISTEN_EXPIRE (R281): RD_LISTEN_MS ends and the unit claims, stands by or becomes spare. -/
  | bootListenExpire
  /-- CLAIM_RETRY (R296): CLAIM is repeated by unicast every IMP_COMMIT_RETRY_US to switch agents without CLAIM_ACK. -/
  | claimRetry
  /-- CLAIM_TIMEOUT (R296): A switch agent silent for IMP_COMMIT_US after a CLAIM is declared lost and isolated. -/
  | claimTimeout
  /-- TAKEOVER (R296): RD_HB_MISS × RD_HB_US passes without a heartbeat and the standby claims with TAKEOVER. -/
  | takeover
  /-- BARRIER_DOWN (R395): No link heartbeat for 100 µs; BARRIER_UP is cleared and pending requests are held. -/
  | barrierDown
  /-- FW_HEARTBEAT (R392): Every 100 µs manager firmware sends HEARTBEAT, advancing HS_FW_HB and writing HS_TIME. -/
  | fwHeartbeat
  /-- FW_STALL (R392): HS_FW_HB has not advanced for 1 ms and the bridge sets FW_STALL. -/
  | fwStall
  /-- PERST (R530): PERST# asserts and resets the PCI Express endpoint and host-side bridge only. -/
  | perst
  /-- ATTEST_REPEAT (R545): Every 10 ms, unanswered ATTEST_REQ, KEY_OFFER and CLAIM frames are repeated, ending the attestation after 8 sends. -/
  | attestRepeat
  /-- SETTLE_EXPIRE (R446): A settle period ends with no attestation outstanding and the ready gate is evaluated. -/
  | settleExpire
  /-- PASS_PLAN (R452): 100 ms after a pass ends, the manager plans the next pass or lists agents in FW_FAILED. -/
  | passPlan
  /-- ACTIVATION_BATCH_TIMEOUT (R454): A batch has not fully reported after 1 s; silent agents are listed and the next batch starts. -/
  | activationBatchTimeout
  /-- NONCE_EXPIRE (R467): A nonce reaches 300 s and becomes invalid. -/
  | nonceExpire
  /-- PK_PERIOD (R479): PK_PERIOD_H hours pass since the last rotation began and a rotation starts. -/
  | pkPeriod
  /-- ROTATION_COMPLETE (R479): All four stack sweeps end; the old slot is erased and PK_ROTATIONS advances. -/
  | rotationComplete
  /-- ENTROPY_HEALTH_FAIL (R459): The entropy source fails its health test; the RTP stops issuing random values and counts a module fault. -/
  | entropyHealthFail
  /-- ENTROPY_HEALTH_PASS (R459): The entropy source passes its next test and random values are issued again. -/
  | entropyHealthPass
  /-- SEGMENT_STREAMED (R493): The selected segment has been streamed to the bridge and READY is set. -/
  | segmentStreamed
  /-- TELEMETRY_MANAGER_PERIOD (R503): TL_PERIOD_MS ends and the manager adds its group 0 and group 3 records. -/
  | telemetryManagerPeriod
  /-- SENTINEL_ENTRY_MANAGER (R514): The manager's entry conditions have held for 600 ms and it enters SENTINEL. -/
  | sentinelEntryManager
  /-- SUPPLY_WARNING (R519): The 54 V input falls below 42 V; DV_HEALTH [4] is set and SUPPLY_WARNING recorded. -/
  | supplyWarning
  /-- OVERVOLTAGE (R519): The 54 V input rises above 63 V and the hot-swap stage turns off. -/
  | overvoltage
  /-- HS_EN_CLOSE (R528): HS_EN is joined to 54V_RTN and the hot-swap stage conducts with limited inrush. -/
  | hsEnClose
  /-- HS_EN_OPEN (R528): HS_EN opens and the hot-swap stage turns off within 10 µs. -/
  | hsEnOpen
  /-- OVERCURRENT (R528): Current above 12 A for 2 ms turns the stage off until HS_EN cycles or the input falls below 20 V. -/
  | overcurrent
  /-- MANAGER_HEARTBEAT (R426): Every RD_HB_US the active unit sends a manager-to-manager HEARTBEAT, carrying the latest sequence number, to its standby. -/
  | managerHeartbeat
  /-- PASS_SENT (R451): The last paced block of a firmware-broadcast pass has gone out and the END_OF_PASS frame is multicast. -/
  | passSent
  /-- IDE_STREAM_INSECURE (R481): The host link IDE stream leaves the secure state, HL_IDE reads 0, and in CONFIDENTIAL mode the bridge blocks every frame but HEARTBEAT. -/
  | ideStreamInsecure
  deriving DecidableEq, Repr

end Sys2Proof
end

