-- ==== Sys2Proof/Decode.lean ====
section
/-! DEFINITION. Sys2Proof/Decode.lean: the command that a word of the opcode table spells. The table gives no row any bits: a command
reaches the block as an event, a frame or a register access, and no word spells one. -/

namespace Sys2Proof

/-- The command a word of `nbits` bits spells by the table: none, since no row of it has bits. [DESIGN CHOICE, log 1] -/
def decodeTableWord (_nbits _w : Nat) : Option Instr := none

end Sys2Proof
end

