-- ==== Sys2Proof/Config.lean ====
section
/-! DEFINITION. Sys2Proof/Config.lean: the free values. Every one is a constant with no body: nothing in Lean can
evaluate it, so a statement that holds, holds for every value. -/

namespace Sys2Proof

/-- A value the spec leaves open, as a number: the device it arises in, and the count of values that device has drawn
before (a counter held in the state). [DESIGN CHOICE, log 6] -/
opaque Config.freeNat : Nat → Nat → Nat

/-- Bytes the spec leaves open (a record payload with no stated layout, a random nonce). [DESIGN CHOICE, log 6] -/
opaque Config.freeBytes : Nat → Nat → List (BitVec 8)

/-- The column ARGMIN_ROW (true) or ARGMAX_ROW gives for a row that holds a NaN, of which R106 names no least or greatest
element: a function of the format and of the row. [DEDUCED, log 13] -/
opaque Config.nanColumn : Nat → Bool → List Nat → Nat

/-- A byte of table memory that holds the dictionary store, the recorder's first area or the staging area: by device, the
count of values drawn, and the offset. [DESIGN CHOICE, log 94] -/
opaque Config.storeByte : Nat → Nat → Nat → BitVec 8

/-- The page of the memory stacks that holds a page of the model's one memory: by device and page. The manual places no
context's pages in the stacks. [DESIGN CHOICE, log 95] -/
opaque Config.stackPage : Nat → Nat → Nat

/-- The keyed hash H of a group number under an interleave key, of which 6 bits count (R168). [DESIGN CHOICE, log 95] -/
opaque Config.groupHash : Nat → Nat → Nat

/-- A page key as derived (R460) from a device's secret, the owner key digest, a salt and an epoch: it stands for 64 bytes. [DESIGN CHOICE, log 95] -/
opaque Config.pageKey : Nat → Nat → Nat → Nat → Nat

/-- A byte of a stack page as it reads under no key: by device, the count of values drawn, and the address. [DESIGN CHOICE, log 95] -/
opaque Config.cipherByte : Nat → Nat → Nat → BitVec 8

/-- The part's own identity and versions that the manual states as "—" (serial number, die number, versions):
fixed for the life of the part, indexed by device and by object address. [DESIGN CHOICE, log 5] -/
opaque Config.ident : Nat → Nat → Nat

end Sys2Proof
end

