-- ==== Sys2Proof/Messages.lean ====
section
/-! DEFINITION. Sys2Proof/Messages.lean: what a frame that a device sends carries (R411, R412 and the chapters they name). -/

namespace Sys2Proof

/-- An entry of the ordered input stream (R288); `input` is the input of an entry of that kind. -/
structure StreamEntry where
  kind  : EntryKind
  input : Option Instr := none
  deriving DecidableEq, Repr

/-- The payload of a frame of the field network, by frame type (R411). -/
inductive Msg where
  /-- STAGE (R189): its payload. -/
  | stage (payload : List Byte)
  /-- REPL (R294): entries from a sequence number on. -/
  | repl (seq : Nat) (entry : StreamEntry)
  /-- YIELD (R301). -/
  | yield_ (lastSeq claim cause : Nat)
  /-- REVOKE (R232, R324). -/
  | revoke (ctx gen role nid : Nat)
  /-- DICT_REQ (R358): context and generation of the requester, its tag, the object, data, and whether it writes. -/
  | dictReq (ctx gen tag key : Nat) (data : List Byte) (write : Bool)
  /-- KEY_OFFER (R415): association, phase, wrap, the other holder, salts, the counter at which it expires, and the key. -/
  | keyOffer (assoc phase wrap peer saltTx saltRx expire : Nat) (key : Key)
  /-- SET_KEY (R226, R324). -/
  | setKey (ctx gen role nid : Nat)
  /-- READY (R256). -/
  | ready (nid : Nat)
  /-- REJOINED (R259). -/
  | rejoined (ctx gen nid : Nat)
  /-- MEMBER_REJOINED (R257). -/
  | memberRejoined (nid cause ctx gen resets time : Nat)
  /-- COMMIT (R195). -/
  | commit (imp drain : Nat) (digest : Digest)
  /-- ISOLATE (R202, R412). -/
  | isolate (imp nid : Nat) (ports : Ports)
  /-- EVENT_ACK: the type and number of the report acknowledged. -/
  | eventAck (type report : Nat)
  /-- MEMBER_LOST (R257). -/
  | memberLost (lost cause ctx gen resets time : Nat)
  /-- RESET_GRANT (R263). -/
  | resetGrant (nid : Nat) (detour : Bool)
  /-- CLAIM (R285). -/
  | claim (prev prevNid cause imp : Nat)
  /-- STAGE_ACK and COMMIT_ACK (R192): `field` is [383:128] of the payload. -/
  | stageAck (imp status detail : Nat) (field : Digest)
  | commitAck (imp status detail : Nat) (field : Digest)
  /-- ISOLATE_ACK. -/
  | isolateAck (nid status : Nat)
  /-- KEY_ACK (R324). -/
  | keyAck (ctx gen role status : Nat)
  /-- WITHDRAW (R248): its destination records. -/
  | withdraw (imp nid port : Nat) (dests : List Nat)
  /-- LINK_EVENT (R244). -/
  | linkEvent (nid port : Nat) (ep good : Bool) (report time : Nat)
  /-- GONE (R255). -/
  | gone (nid : Nat)
  /-- EP_RESET (R255). -/
  | epReset (nid cause resets report time : Nat)
  /-- NODE_LOST (R309). -/
  | nodeLost (nid report time : Nat)
  /-- NODE_READY (R261). -/
  | nodeReady (nid report : Nat)
  /-- RESET_REQ (R263). -/
  | resetReq (nid switch report : Nat)
  /-- MEMBER_ACK (R257). -/
  | memberAck (ctx gen nid : Nat)
  /-- NEIGHBOUR (R443): the neighbour record it carries. -/
  | neighbour (peerNode peerPort : Nat) (peerEp : Bool) (port : Nat) (ep : Bool)
  /-- EVENT (R497): the whole record. -/
  | eventRec (bytes : List Byte)
  /-- DICT_REPLY (R358): the request's tag, its result and data. -/
  | dictReply (ctx gen tag result : Nat) (data : List Byte)
  /-- HB_REPLY (R424): the bitmap comes from a collector only. -/
  | hbReply (round committed : Nat) (epMap : Option Ports)
  /-- TIMED_REPLY (R425, R412). -/
  | timedReply (t1 t2 t3 wdrSent : Nat) (rekey restarting plateValid : Bool)
  /-- CLAIM_ACK (R286). -/
  | claimAck (committed staged : Nat) (stagedOk : Bool)
  /-- KEY_ACCEPT (R416). -/
  | keyAccept (assoc phase status : Nat)
  /-- HELLO (R437): its payload. -/
  | hello (payload : List Byte)
  /-- ATTEST_REPORT (R477): the agent's report, and its device certificate. -/
  | attestReport (report certificate : List Byte)
  /-- TELEMETRY (R502). -/
  | telemetry (time period : Nat) (last : Bool) (recs : List TlRec)
  /-- BULK_REPORT (R452). -/
  | bulkReport (image state pass : Nat) (more : Bool) (missing : List (Nat × Nat))
  /-- ATTEST_REQ (R442, R412). -/
  | attestReq (nonce : Digest) (nid fwd : Nat)
  /-- HEARTBEAT (R424): round and committed impression number; between managers also the latest sequence number (R426). -/
  | heartbeat (round imp : Nat) (seq : Option Nat)
  /-- TIMED (R425, R412). -/
  | timed (t1 homeMac collector : Nat)
  /-- REPL_ACK (R295). -/
  | replAck (seq : Nat)
  /-- BULK_DATA (R451). -/
  | bulkData (image block count pass : Nat) (unicast endOfPass : Bool) (data : List Byte)
  /-- ACTIVATE (R454). -/
  | activate (image : Nat)
  /-- DICT_REQ of an agent debug grant (R472): a proxied write of SC_GRANT, with the die, the duration in seconds and the
  impression number it names, signed by the manager. -/
  | scGrant (tag die dur imp : Nat)
  deriving DecidableEq, Repr

/-- A frame as a device has handed it to its egress (R404, R409). Above `msg` stands what the sender gives, but for the phase and the
counter; below it, what egress fills in as it sends the frame. -/
structure Sent where
  dst     : Nat
  assoc   : Nat
  ctx     : Nat := 0
  gen     : Nat := 0
  claim   : Option Nat := none
  phase   : Bool := false
  counter : Nat := 0
  relayed : Bool := false
  unicast : Option Nat := none   -- the one receiver of a group frame that is sent by unicast (R422)
  bare    : Option Nat := none   -- the die the frame is addressed at, where its agent holds no NID (R407)
  msg     : Msg
  src     : Nat := nidNone       -- the sender's NID
  port    : Option Nat := none   -- the field port it leaves by, where a rule names one (R407, R408)
  srcMac  : Nat := 0             -- the MAC addresses (R407)
  dstMac  : Nat := 0
  key     : Key := 0             -- the key and the sender's salt it is protected with (R414)
  salt    : Nat := 0
  deriving DecidableEq, Repr

end Sys2Proof
end

