-- ==== Sys2Proof/Machine/State.lean ====
section
/-! DEFINITION. Sys2Proof/Machine/State.lean: every piece of state the spec gives the unit and its agents, as plain data. -/

namespace Sys2Proof.Machine

/-! ## What every device holds -/

/-- A record of the event recorder (R483). -/
structure EvRec where
  seq     : Nat
  time    : Nat
  sev     : Nat
  code    : Nat
  ctx     : Nat
  payload : List Byte
  off     : Nat := 0      -- ring offset where it begins
  damaged : Nat := 0     -- what its stored CRC differs by, where a word of it is uncorrectable (R123, R494); 0 for a good record
  deriving DecidableEq, Repr

/-- The suppressed occurrences of one context in an episode of one code (R490). -/
structure Episode where
  ctx   : Nat
  count : Nat
  first : Nat
  last  : Nat
  sev   : Nat
  deriving DecidableEq, Repr

/-- The token bucket of one event code (R489-R491). The level is in billionths of a token. -/
structure Bucket where
  stagedRate  : Nat := 1000
  stagedBurst : Nat := 256
  rate        : Nat := 1000
  burst       : Nat := 256
  level       : Nat := 256 * 1000000000
  stamp       : Nat := 0            -- local time at which the level was last brought up to date
  suppressed  : Nat := 0            -- RL_SUPPRESSED of the code
  episode     : List Episode := []  -- ascending contexts
  deriving DecidableEq, Repr

/-- The event recorder of a device (R484-R491). -/
structure Recorder where
  seq     : Nat := 0                -- SEQ the next record takes
  mark    : Nat := 1048576          -- reserve mark kept in NVM (R484)
  first   : List EvRec := []        -- first area, oldest first
  ring    : List EvRec := []        -- circulating area, oldest first
  nextOff : Nat := 0                -- ring offset of the next record
  dropped : List EvRec := []        -- records overwritten since reset, without payload: what ER_LOST counts
  pending : Nat := 4096             -- EV_FIRST_SIZE in effect (R487)
  buckets : SMap Bucket := []
  forward : List EvRec := []        -- records of the agent that reached EV_FWD_SEV and wait for an EVENT frame
  deriving DecidableEq, Repr

/-- The sending side of an association (R417). -/
structure TxKey where
  key     : Key := 0
  phase   : Bool := false
  counter : Nat := 0
  salt    : Nat := 0
  expire  : Nat := 0x10000000000
  since   : Nat := 0
  asked   : Bool := false           -- a new key has been asked for
  deriving DecidableEq, Repr

/-- What a device holds of the field network (chapter "Slarolu field network"). -/
structure Net where
  nid       : Nat := nidNone
  groups    : List Nat := []        -- group associations whose address it has joined
  keys      : SMap Key := []        -- by (source, association, phase); source 0x3FFFF for a group (R413)
  windows   : SMap Window := []     -- by (source, association, phase)
  tx        : SMap TxKey := []      -- by (peer, association)
  fresh     : List Nat := []        -- key slots installed under which no frame has come yet
  grace     : SMap Nat := []        -- key slots still within their grace time, and since when (R416)
  dropClass : SMap Nat := []        -- FC_DROP_CLASS, by class
  ports     : SMap Nat := []        -- FP_STATE of each field port
  relayed   : List Nat := []        -- NIDs relayed over the lane before (R427)
  round     : Option Nat := none    -- last heartbeat round number seen or sent
  replay    : Bool := false         -- an entry of the input stream is being applied: its frame passed ingress at the leader
  lane      : Bool := false         -- the agent uses the management lane (R428)
  macs      : SMap Nat := []        -- source MAC address of the last frame received from a manager, by its NID (R408)
  homes     : SMap Nat := []        -- home port of each agent, at the manager (R408)
  salts     : SMap Nat := []        -- salts of other senders, by key slot (R415)
  held      : List Sent := []       -- frames at the counter limit: they wait for a new key (R417)
  relay     : Bool := false         -- the manager relays group frames, as its last HEARTBEAT showed (R422)
  stored    : SMap Nat := []        -- FN_ETHERTYPE, FN_VID, FN_PCP_MAP, FN_MAC_BASE in use since the last reset
  deriving DecidableEq, Repr

/-- What every device of the family holds, manager module or agent. -/
structure Dev where
  agentPart : Bool := false         -- an NWA-160
  key       : Nat := 0              -- the device's own number among the free values' devices
  free      : Nat := 0              -- the model's own: how many free values the device has drawn
  objs      : SMap Nat := []        -- objects of the dictionary that differ from their default, by object key
  blobs     : SMap (List Byte) := [] -- DOMAIN and STR objects written, by object key
  time      : Nat := 0              -- local time in ns (R47)
  net       : Net := {}
  log       : Recorder := {}
  out       : List Sent := []       -- frames sent, oldest first
  health    : BitVec 32 := 0        -- DV_HEALTH
  fw        : Nat := 0              -- firmware slot that runs
  nextFw    : Option Nat := none    -- slot marked active for the next start, where it is not the one that runs (R456)
  fwVers    : SMap Nat := []        -- version written to a slot, by slot; unlisted: as manufactured
  floor     : Nat := 0              -- the rollback floor in force: that burnt at the last start (R462)
  resets    : Nat := 0              -- resets since the model began
  since     : Nat := 0              -- local time of the last reset
  domains   : SMap Nat := []        -- power state of each domain (R507-R510)
  waking    : List Nat := []        -- domains whose exit latency runs (R510)
  deriving DecidableEq, Repr

/-! ## The line engine (chapters "The line engine" and "Tile formats and semiring arithmetic") -/

/-- State of a physical cell (Table: Cell state array). -/
inductive CellSt where
  | enabled | spare | retired | resetting | retiring
  deriving DecidableEq, Repr

/-- A physical cell (R52). -/
structure PhysCell where
  logical  : Nat                 -- 0-63, 0xFE spare, 0xFF retired
  st       : CellSt
  resets   : List Nat := []      -- times of its resets, oldest first
  retries  : List Nat := []      -- times of residue retries that passed, oldest first
  warned   : Option Nat := none  -- time of its last retry warning (R120)
  steps    : SMap Nat := []      -- when it last retired a tile step of each context (R270)
  retireDue : Bool := false      -- it is retired once its reset is over (R271)
  deriving DecidableEq, Repr

/-- A stream descriptor (R64). -/
structure StreamDesc where
  id       : Nat
  base     : Nat
  strideI  : Int
  strideJ  : Int
  countI   : Nat
  countJ   : Nat
  again    : Nat                 -- REPEAT
  format   : Nat
  space    : Nat
  mode     : Nat
  prefetch : Nat
  order    : Nat
  listBase : Nat
  deriving DecidableEq, Repr

/-- A line descriptor (R67). -/
structure LineDesc where
  id         : Nat
  imm        : Nat
  waitValue  : Nat
  waitObj    : Nat
  waitMode   : Nat
  signalObj  : Nat
  signalMode : Nat
  strO       : Nat
  strM       : Nat
  strC       : Nat
  strB       : Nat
  strA       : Nat
  stages     : List Nat          -- eight bytes: station [7:5], operation [4:0]
  after      : Nat
  cell       : Nat
  priority   : Nat
  restart    : Bool
  k          : Nat
  semiring   : Nat
  fmtIn      : Nat
  fmtAcc     : Nat
  fmtOut     : Nat
  deriving DecidableEq, Repr

/-- A loaded line program (R63). -/
structure Program where
  tag     : Nat
  sramKib : Nat
  dramKib : Nat
  cells   : Nat
  streams : List StreamDesc
  lines   : List LineDesc
  deriving DecidableEq, Repr

/-- A tile: its format and its elements as bit patterns, row by row (R94, R95). Format 8 stands for the 64 port bitmaps
that Proof CANON makes of a tile, format 9 for adjacency records. -/
structure Tile where
  fmt   : Nat := 0
  elems : List Nat := []
  deriving DecidableEq, Repr

/-- Where a line of a run stands. -/
inductive LinePhase where
  | queued                       -- in its cell's queue
  | running                      -- in a line slot, at a tile boundary
  | waitMem                      -- in a line slot, waiting for memory replies
  | held                         -- queued on a retiring cell
  | stopped                      -- stopped on a retiring cell
  | draining                     -- all tiles done; the digest unit drains (R73)
  | done (status : Nat)
  deriving DecidableEq, Repr

/-- A line of a run. -/
structure LineRun where
  desc    : LineDesc
  cell    : Nat                  -- logical cell
  phase   : LinePhase := .queued
  out     : Bool := false        -- put out of its slot by a REPAIR line (R78)
  tile    : Nat := 0             -- tiles finished
  stage   : Nat := 0             -- next stage on the current tile
  retry   : Bool := false        -- the current tile is being recomputed (R117)
  bad     : Bool := false        -- a residue mismatch has been met in the current tile
  a       : Tile := {}
  b       : Tile := {}
  c       : Tile := {}
  acc     : Tile := {}           -- the accumulator
  pre     : Tile := {}           -- its pre-step copy
  cur     : Tile := {}           -- the tile the last stage produced
  posO    : Nat := 0             -- references of O consumed
  preO    : Nat := 0             -- references of O consumed before the current tile
  tags    : List Nat := []       -- memory tags its stage waits for, each physical cell * 512 + tag
  failed  : Bool := false        -- an outstanding load met an uncorrectable word
  got     : SMap Tile := []      -- tiles of the stage read from cell SRAM at its grant, by register (R86)
  words   : SMap Nat := []       -- list words of the stage that came under tags, by register, or 4 + n for piece n of O
  upset   : Option Upset := none -- the upset of a stage that waits for its tiles
  digest  : Bool := false        -- a Proof DIGEST has run
  fed     : List Nat := []       -- stages that have added the current tile to the digest
  buffer  : List Byte := []      -- undrained input of the digest unit (R73)
  hashed  : List Byte := []      -- what the digest unit has hashed
  deriving DecidableEq, Repr

/-- A run of a program (R89). -/
structure Run where
  cells   : List Nat             -- the logical cells assigned
  lines   : List LineRun
  hook    : Bool := false        -- it runs as the host hook (R147)
  recent  : SMap (List (Nat × Nat)) := []  -- per cell, tiles held (key, bytes), latest first (R82)
  away    : SMap (List Nat) := []          -- per cell, keys of tiles spilled to the stacks
  spilled : Bool := false        -- its spill event has been recorded
  deriving DecidableEq, Repr

/-- An outstanding memory request (R84): its context and generation, the line it serves, and what it names. -/
structure MemTag where
  ctx   : Nat
  gen   : Nat
  line  : Nat
  space : Nat                    -- 1 another cell's SRAM, 2 the stacks, 3 and 4 table memory
  addr  : Nat
  size  : Nat
  reg   : Nat := 0               -- the register a load fills: 0 A, 1 B, 2 C, 3 the mask
  fmt   : Nat := 0
  store : Bool := false          -- a store or the write-back of a spilled tile, which no line waits for
  word  : Bool := false          -- the word of a LIST stream's list that the reference of `reg` is computed from
  ahead : Bool := false          -- a spilled tile fetched ahead of its use (R82)
  deriving DecidableEq, Repr

/-- The stack ports and base dies: the interleave (R168-R171) and page encryption (R478-R480). A page key stands for the
64 bytes derived (R460); a page whose epoch bit is none of the lists' has the bit of `base`. -/
structure Stacks where
  key    : Nat := 0                      -- interleave key
  next   : Option Nat := none            -- second key slot, during a redraw
  start  : Option Nat := none            -- start of the last redraw
  above  : Nat := 0                      -- consecutive imbalanced windows
  asked  : Bool := false                 -- a redraw is requested and awaits a sweep in progress or IL_MIN_S
  chan   : SMap Nat := []                -- requests of the present 10 ms window, by channel
  slots  : List (Option Nat) := [none, none]  -- the page key of each slot
  slot   : Nat := 0                      -- the slot writes use
  base   : Nat := 0                      -- the epoch bit of the pages not listed
  turned : List Nat := []                -- pages whose bit is that of `slot` though `base` differs
  deriving DecidableEq, Repr

/-- The line engine. -/
structure Engine where
  cells    : List PhysCell :=
    (List.range 68).map (fun i => if i < 64 then { logical := i, st := .enabled } else { logical := 0xFE, st := .spare })
  programs : SMap Program := []
  runs     : SMap Run := []              -- by context
  digests  : SMap Digest := []           -- LP_DIGEST, by context
  tags     : SMap MemTag := []           -- by physical cell * 512 + tag
  shares   : SMap Nat := []              -- grants since BACKGROUND's last, by cell * 8 + station (R76)
  mem      : List Host.Cell := []        -- cell SRAM, memory stacks and table memory; unlisted bytes read 0
  failing  : List Nat := []              -- words (by address / 8) of cell SRAM that fail their code (R123)
  degraded : Bool := false               -- fewer than 48 cells have been found (R56)
  stock    : Bool := false               -- a computation's REPAIR lines hold a slot of each enabled cell (R78, R127)
  owed     : List Nat := []              -- logical cells on which that slot is still to be freed (R80)
  stk      : Stacks := {}
  deriving DecidableEq, Repr

/-! ## Host side (chapter "Host attachment, barrier and sync objects") -/

/-- The kinds of sync object (R399). -/
inductive SyncKind where
  | counter | semaphore | lock | event
  deriving DecidableEq, Repr

/-- A ticket issued and not yet served (R401): its number, its reader's requester ID, and whether it is void. -/
structure Ticket where
  num  : Nat
  rid  : Nat
  void : Bool := false
  deriving DecidableEq, Repr

/-- A sync object (R398-R402). -/
structure SyncObj where
  cfg     : Nat := 0
  value   : Nat := 0                 -- COUNTER value, SEMAPHORE count, EVENT state
  target  : Nat := 0xFFFFFFFFFFFFFFFF
  holder  : Option Nat := none       -- LOCK: requester ID of the holder
  tickets : List Ticket := []        -- LOCK in ticket mode: the served one first
  next    : Nat := 0                 -- next ticket
  serving : Nat := 0
  deriving DecidableEq, Repr

/-- A host mailbox (R382, R327). -/
structure Mailbox where
  hdr   : Nat := 0
  data  : List Byte := []
  chk   : Nat := 0
  go    : Bool := false
  taken : Bool := false
  done  : Bool := false
  code  : Nat := 0
  alive : Option Nat := none         -- last counter taken; none: any is accepted (R385)
  echo  : Nat := 0                   -- MB_ACK [7:0]
  waits : Bool := false              -- GO was written while the barrier was down: MB_POST is to be sent
  posted : Bool := false             -- the message passed its checks and awaits manager firmware
  acks  : List (Option Nat) := []    -- MB_ACK frames on their way: none is TAKEN, a code is DONE with it
  deriving DecidableEq, Repr

/-- A dictionary slot (R379). -/
structure DictSlot where
  go     : Bool := false
  irq    : Bool := false
  req    : Nat := 0
  addr   : Nat := 0
  len    : Nat := 0
  result : Nat := 0
  rlen   : Nat := 0
  tag    : Nat := 0
  data   : List Byte := []
  deriving DecidableEq, Repr

/-- What a function of the host endpoint holds. -/
structure HostFn where
  intStatus : Nat := 0
  intMask   : Nat := 0xFF
  slots     : SMap DictSlot := []
  ring      : SMap Nat := []         -- domain descriptors (R396), 512 bits each, by ring index
  dqTail    : Nat := 0
  dqHead    : Nat := 0
  msix      : SMap Nat := []         -- MSI-X table, by 4-byte word; unlisted: 0, in a vector control word 1 (masked)
  pba       : List Nat := []         -- vectors with a pending bit
  deriving DecidableEq, Repr

/-- A CRC feed window (R387): its polynomial code and accumulator. -/
structure CrcFeed where
  code : Nat := 0
  acc  : Nat := 0xFFFFFFFF
  deriving DecidableEq, Repr

/-- An answer to a dictionary request (R341). -/
structure Answer where
  req    : Req
  result : Nat
  data   : List Byte := []
  deriving DecidableEq, Repr

/-- A proxied request outstanding (R360). -/
structure Proxied where
  req   : Req
  num   : Nat := 0
  nid   : Nat
  index : Nat
  sub   : Nat
  write : Bool
  ctx   : Nat
  gen   : Nat
  unsent : Option (List Byte) := none  -- its data, while it waits for the end of the agent's restart (R361)
  deriving DecidableEq, Repr

/-- A message signalled to the host: a cause or a vector of a function (R390, R391), and the memory write that carries it: the address
and data of the vector's MSI-X table entry (R372). -/
structure Msi where
  fn     : Nat
  vector : Nat
  addr   : Nat := 0
  data   : Nat := 0
  deriving DecidableEq, Repr

/-- A request of a slot or a descriptor as it is issued (R340, R379, R396). A slot's tag is its number, a descriptor's 0x10000 plus its
ring index. It keeps the security mode and debug level in force when the barrier accepted it (R465, R471). -/
structure HostReq where
  req   : Req
  nid   : Nat
  key   : Nat
  write : Bool
  len   : Nat
  data  : List Byte
  mode  : Nat := 0
  level : Nat := 0
  deriving DecidableEq, Repr

/-- The host side of a manager. -/
structure HostSide where
  fns      : SMap HostFn := []
  numVfs   : Nat := 0
  rid      : Nat := 0                -- requester ID of the physical function
  perst    : Bool := false           -- PERST# asserted
  barrier  : Bool := false           -- BARRIER_UP
  lanes    : Nat := 32
  fwStall  : Bool := false
  fwHb     : Nat := 0                -- HS_FW_HB
  fwTime   : Nat := 0                -- HS_TIME
  mailboxes : SMap Mailbox := []
  doorbells : BitVec 256 := 0
  feeds    : SMap CrcFeed := []
  syncs    : SMap SyncObj := []
  msis     : List Msi := []          -- messages sent, oldest first
  answers  : List Answer := []       -- answers on their way to the host side, oldest first
  waiting  : List (Req × List Byte) := []  -- requests issued while the barrier was down, with a descriptor's data
  accepted : List HostReq := []      -- local requests accepted at the barrier and not performed yet, in the order of issue
  dma      : List (Nat × List Byte) := []  -- memory writes the endpoint issued: host address and bytes (R372)
  held     : List Answer := []       -- tenant answers held in CONFIDENTIAL mode (R239)
  late     : List Req := []          -- tenant requests whose proxied reply was not ready in time (R239)
  proxied  : List Proxied := []      -- outstanding, oldest first
  proxyNum : Nat := 0                -- number of the last proxied request sent
  ewView   : Nat := 0                -- segment the event-recorder window shows (R493)
  ewReady  : Bool := true            -- it has been streamed
  readBack : List Nat := []          -- values returned by sync-object and register reads, oldest first
  deriving DecidableEq, Repr

/-! ## Telemetry at a manager (R500-R505) -/

/-- A telemetry record as the manager stores it (R503): its sample sequence number, the time it was taken, the agent's TIME. -/
structure TlStored where
  seq  : Nat
  took : Nat
  time : Nat := 0
  r    : TlRec
  deriving DecidableEq, Repr

/-- The telemetry rings. -/
structure MgrTel where
  next  : Nat := 0                   -- sample sequence number of the next record
  rings : SMap (List TlStored) := [] -- by group, oldest first
  gone  : List TlStored := []        -- records overwritten, without words: what TS_LOST counts
  drops : Nat := 0                   -- FC_DROP_CLASS of TELEMETRY at the end of the last window
  calm  : Nat := 0                   -- consecutive windows without loss
  present : Nat := 1000              -- the agents' present period in ms (R505)
  base  : SMap (Nat × Nat × Nat) := []  -- by context: LP_TILES, LP_SPILL and LP_RETRY at the end of the last period
  carry : SMap (Nat × Nat × Nat) := []  -- by context: what earlier runs of this period counted
  deriving DecidableEq, Repr

/-! ## Security of a manager module (R458-R482) -/

/-- What a module's RTP keeps. -/
structure Security where
  owner   : Option Digest := none    -- SHA-256 of the owner's modulus; none in OPEN
  nonce   : Option (List Byte × Nat) := none  -- the valid nonce and when it was drawn (R467)
  until_  : Option Nat := none       -- local time at which the debug level ends
  noRng   : Bool := false            -- the entropy source has failed its health test (R459)
  waits   : List Req := []           -- reads of SC_NONCE that wait for a random value
  sweep   : Bool := false            -- a page-key sweep runs (R479)
  rotated : Nat := 0                 -- local time at which the last rotation began
  due     : Bool := false            -- a periodic rotation waits for the sweep
  salts   : List Nat := [0, 0]       -- the salts of the newest page key and of the one before (R460), in module NVM
  deriving DecidableEq, Repr

/-! ## Power of a manager module (R507-R531) -/

/-- What the sentinel island, the hot-swap stage and the start sequence hold. -/
structure Power where
  asleep  : Bool := false            -- SENTINEL
  off     : Bool := false            -- the hot-swap stage does not conduct: the module is unpowered
  opened  : Bool := false            -- HS_EN is open
  tripped : Bool := false            -- turned off by an overcurrent (R528)
  thermal : Bool := false            -- in SENTINEL by the critical temperature
  restart : Bool := false            -- the level was INVASIVE at SENTINEL entry: the exit is a module start (R470)
  wake    : Bool := false            -- a wake source is latched: with PERST#, WAKE# is driven (R520)
  noBoot  : Bool := false            -- both firmware slots failed verification (R431)
  inReset : Bool := false            -- in reset since the stage closed, until its start (R531)
  straps  : Nat × Nat := (15, 3)     -- carrier position and triad slot as read at the start (R529)
  portsHeld : Bool := false          -- field and triad ports stopped for want of the reference (R521)
  deriving DecidableEq, Repr


/-! ## Redundancy (chapter "Triads, standby and claim numbers") -/

/-- What a switch agent's CLAIM_ACK reported (R286). -/
structure ClaimReport where
  committed : Nat
  staged    : Nat
  stagedOk  : Bool
  deriving DecidableEq, Repr

/-- Where a unit that has gained authority stands (R297, R298). -/
inductive GainSt where
  | none
  | collecting (cause : Nat)       -- CLAIM sent, CLAIM_ACKs awaited
  | completing (n : Nat)           -- the interrupted install N is being completed (R297)
  | isolating (n : Nat)            -- adoption step 3
  | adopting (n : Nat)             -- adoption step 4
  deriving DecidableEq, Repr

/-- What a module sends a peer over the triad ports (R287, R288, R291); `fetch` asks for the entries it holds from a number on. -/
inductive TriadMsg where
  | entry (seq : Nat) (e : StreamEntry)
  | ack (seq : Nat)
  | digest (imp : CandId) (d : Digest)
  | heartbeat (slot : Nat) (inService : Bool)
  | fetch (seq : Nat)
  | hostWrite (req : Req) (input : Instr)
  deriving DecidableEq, Repr

/-- The redundancy state of a module. -/
structure Redundancy where
  slot       : Option Nat := none        -- triad slot, from the straps; none: a single-module unit
  peersIn    : List Nat := []            -- triad slots of the peers in service
  misses     : SMap Nat := []            -- consecutive triad heartbeats missed, by slot
  nextSeq    : Nat := 1                  -- sequence number the next entry takes
  applied    : Nat := 0                  -- last entry applied
  entries    : SMap StreamEntry := []    -- entries held: sent and not acknowledged, or not applied yet
  acked      : SMap Nat := []            -- last entry each peer acknowledged, by slot; the standby by its NID
  heldAns    : List (Nat × Answer) := [] -- answers that await the acknowledgement of an entry (R288, R295)
  heldOut    : List (Nat × Sent) := []   -- command frames that await it
  cmdQ       : List Sent := []           -- commands that wait in egress while too many are unacknowledged (R421)
  triadOut   : List TriadMsg := []       -- what went out to peers over the triad ports, oldest first
  digests    : SMap (CandId × Digest) := [] -- the impression digest each module formed last, with its candidate, by slot
  trio       : SMap Nat := []            -- NIDs of the other modules of the triad, by slot
  runs       : List Nat := []            -- contexts of which the leader runs a program (R300)
  standby    : Option Nat := none        -- NID of the standby that holds replication
  inSync     : Bool := false             -- the standby is in step (R295)
  resync     : Option Nat := none        -- where a resynchronisation copies from
  gain       : GainSt := .none
  prev       : Nat × Nat × Nat := (0, 0, 0)  -- PREV_CLAIM, PREV_NID and CAUSE of the unit's claim (R285)
  reports    : SMap ClaimReport := []    -- by switch number
  claimTry   : SMap Nat := []            -- switches whose CLAIM_ACK is awaited, and times CLAIM was sent (R296)
  interrupted : Option (Nat × Digest) := none  -- last commit decision held
  heard      : Bool := false             -- an active unit was heard while listening (R281)
  yieldSent  : Bool := false
  yieldAfter : Option (Nat × Nat) := none -- a YIELD taken before its last entry: that entry, and the CAUSE (R301)
  gather     : Option (Nat × Option Nat) := none -- the module is to lead: the slot it follows, and the last entry the other follower holds (R290)
  restage    : Bool := false             -- the module that is to lead stages the candidate again (R291)
  unheard    : Nat := 0                  -- heartbeats to the standby in a row that it has not answered (R426)
  latest     : Nat := 0                  -- the latest entry that the active unit is known to have made (R294)
  lagAt      : Option Nat := none        -- entries were missing at the last heartbeat, when this one was the last applied (R295)
  gapFrom    : Nat := 0                  -- local time of the last heartbeat of the active unit
  readmits   : List Nat := []            -- switches adoption isolated, to be readmitted (R298 step 5)
  found      : Nat := 0                  -- the greatest claim found in the NVM of the unit's other modules (R281)
  outOfService : Bool := false
  faults     : List Nat := []            -- times of module faults (R276)
  deriving DecidableEq, Repr

/-- A unit gains authority: no stage or commit but the completion's is sent, and no computation starts (R298, R299). -/
def Redundancy.gaining (r : Redundancy) : Bool :=
  match r.gain with
  | .none => false
  | .adopting _ => false
  | _ => true

/-! ## An agent (chapter "The Bamen agent and the node contract") -/

/-- A write an agent issues on its node port (R305, R307, R320): a 16-byte unit of a table side, or a control register. -/
inductive NodeWrite where
  | unit (addr value : Nat)
  | stamp (parity : Bool)
  | fmask (f : Ports)
  | pkey (key : Nat)
  deriving DecidableEq, Repr

/-- A stage being assembled (R191): its number, base, flags, the pair it came under, and the records by fragment. -/
structure Assembly where
  imp   : Nat
  base  : Nat
  full  : Bool
  range : Bool
  count : Nat
  claim : Nat
  from_ : Nat
  frags : SMap (List Byte) := []
  deriving DecidableEq, Repr

/-- A stage whose node writes are under way (R191, R321). -/
structure StagePend where
  imp   : Nat
  claim : Nat
  from_ : Nat
  range : Bool
  plate : Plate
  deriving DecidableEq, Repr

/-- A key command that awaits the PKEY write (R324). -/
structure KeyPend where
  ctx  : Nat
  gen  : Nat
  role : Nat
  dst  : Nat
  deriving DecidableEq, Repr

/-- A report of an agent that the manager has not acknowledged (R244, R412): type, number and payload. -/
structure Report where
  type : Nat
  num  : Nat
  msg  : Msg
  deriving DecidableEq, Repr

/-- A partition-table entry (R326). -/
structure PartEntry where
  role : Nat
  gen  : Nat
  key  : Nat
  deriving DecidableEq, Repr

/-- An agent-to-node mailbox (R327-R329): the message posted, and those queued behind it. -/
structure OutBox where
  alive  : Nat := 0                       -- alive counter of the last message posted
  posted : Option (Nat × List Byte) := none  -- code and payload of the message with GO set
  chk    : Nat := 0
  queue  : List (Nat × List Byte) := []
  hdr    : Nat := 0                       -- MB_HDR, MB_DATA (the check is MB_CHK) and MB_ACK
  data   : List Byte := []
  ack    : Nat := 0
  deriving DecidableEq, Repr

/-- A node-to-agent mailbox: the last counter accepted, MB_ACK, and a message that waits with GO set while the control cores do not
run, its header, payload and check value (R328, R549). -/
structure InBox where
  alive : Option Nat := none
  ack   : Nat := 0
  held  : Option (Nat × List Byte × Nat) := none
  hdr   : Nat := 0                       -- MB_HDR, MB_DATA and MB_CHK as last written
  data  : List Byte := []
  chk   : Nat := 0
  deriving DecidableEq, Repr

/-- What is seen of a port (R242, R243): the watch inputs that find it bad, and LINK_MSG. -/
structure PortWatch where
  inputs : List Nat := []
  msg    : Bool := false             -- bad by LINK_MSG
  goods  : Bool := false             -- node firmware has reported it good, FR_GOOD_MS not yet passed
  told   : Bool := false             -- the state firmware last acted on: bad
  deriving DecidableEq, Repr

/-- What a neighbour report of a port said (R436). -/
structure NeighRec where
  node  : Nat := 0
  port  : Nat := 0
  ep    : Bool := false
  deriving DecidableEq, Repr

/-- A peer confirmed by probe (R249): the NID its agent is addressed at, its NID as the link's peer, and the NODE_ID the
port reported when the key was offered. -/
structure PeerRec where
  agent : Nat
  nid   : Nat
  node  : Nat := 0
  deriving DecidableEq, Repr

/-- A frame of the WITHDRAW class held while the control island restarts (R334). -/
structure HeldFrame where
  hdr : Hdr
  msg : Msg
  deriving DecidableEq, Repr

/-- What the node and field islands keep while the control cores do not run (R334, R549), beside the port states, F,
the fences and the mailboxes. -/
structure Latched where
  frames : List HeldFrame := []
  resets : List (Nat × Bool) := []   -- reset detections: cause, and whether by link loss or RESET input
  ctl    : Option Nat := none        -- the last NODE_CTL command
  lost   : Bool := false             -- the node-port link of a switch has been down for 1 ms (R309)
  deriving DecidableEq, Repr

/-- A restart of the control island in progress (R332-R335, R549). -/
structure RestartSt where
  since     : Nat
  prev      : Nat                    -- slot that ran before
  announced : Bool
  activated : Bool := false          -- it is a firmware activation
  latched   : Latched := {}
  deriving DecidableEq, Repr

/-- The node-facing part of an agent. -/
structure NodeSide where
  descArea  : List Byte := []             -- DESC as node firmware wrote it
  published : List Byte := []             -- ND_DESC: the descriptor last published
  desc      : List Byte := []             -- the accepted descriptor; empty: none
  writes    : List NodeWrite := []        -- writes issued on the node port, oldest first
  queued    : List NodeWrite := []        -- table writes that wait behind the pacing of a stage, oldest first (R307)
  fmask     : Ports := 0                  -- F as last written
  watch     : SMap PortWatch := []        -- by port; endpoint ports at 128 + port
  sampled   : Nat := 0                    -- WF_CHECKS stands as at this local time
  gone      : List Nat := []              -- gone list (R256)
  range     : List Nat := []              -- sides written in the range form
  unknown   : List Nat := []              -- sides whose contents are unknown (R323)
  linkDown  : Option Nat := none          -- since when the node-port link is down
  lostSent  : Bool := false               -- NODE_LOST sent for this loss
  hbRuns    : Bool := false               -- the node-heartbeat watchdog runs (R268)
  inReset   : Bool := false               -- a reset was detected and no descriptor published since
  ready     : Bool := false               -- node firmware has reported READY since the last reset
  granted   : Bool := false               -- NODE_STAT RESET_GRANT
  detoured  : Bool := false               -- the manager granted it (R263); false after DETOUR_TIMEOUT (R264)
  asked     : Option Nat := none          -- a RESET_REQ not yet granted: its time
  lastHard  : Option Nat := none          -- time of the last link loss or RESET input
  lastNote  : Option Nat := none          -- time of the last RESET_NOTICE
  outBoxes  : SMap OutBox := []           -- 4, 5, 6
  inBoxes   : SMap InBox := []            -- 0, 1, 2
  hmQueue   : List Nat := []              -- contexts of the HOST_MSGs not taken yet, oldest first
  hmLast    : Option Nat := none          -- context of the last HOST_MSG
  lostTold  : Nat := 0                    -- AG_EVT_LOST last told by EVENTS_LOST
  lt        : List Byte := []             -- the LT area as it stands (R330)
  ltCopies  : List (List Byte) := []      -- NVM copies, newer first
  ltLast    : Option Nat := none          -- time of the last save
  ltWants   : Bool := false               -- a deferred save
  deriving DecidableEq, Repr

/-- The plates an agent holds. -/
structure PlateStore where
  side0     : Plate := {}
  side1     : Plate := {}
  prev      : Option Nat := none          -- number committed immediately before the committed one
  asm       : Option Assembly := none
  pend      : Option StagePend := none
  whole     : List Assembly := []           -- complete stages that wait for the writes of the one before (R191)
  stagedBy  : Option (Nat × Nat) := none  -- pair under which the staged number was answered OK
  digest    : Digest := 0                 -- impression digest of the last COMMIT
  flipped   : Option Nat := none          -- local time of the last flip
  deriving DecidableEq, Repr

/-- The reports and resets of an agent. -/
structure AgentReports where
  next    : Nat := 0
  unacked : List Report := []             -- at most 1,024, oldest first
  waiting : List Report := []
  resets  : List Nat := []                -- times of its node's resets (R272)
  fenced  : Bool := false
  deriving DecidableEq, Repr

/-- The node counters an agent keeps (R501): the latest values, and what its next frames carry. -/
structure Samples where
  tx       : SMap Nat := []               -- by port, endpoint ports at 128 + port
  rx       : SMap Nat := []               -- by destination block
  counters : SMap Nat := []               -- by counter ID
  dropPkey : Nat := 0
  dropRoute : Nat := 0
  nakSent  : Nat := 0
  changed  : Bool := false
  period   : Nat := 0                     -- PERIOD_SEQ of the next period
  deriving DecidableEq, Repr

/-- The firmware image an agent receives, and the one it holds verified in its other slot (R452, R453). -/
structure Bulk where
  image   : Option Nat := none            -- IMAGE_ID being received
  count   : Nat := 0
  blocks  : SMap (List Byte) := []
  pass    : Nat := 0                      -- pass whose END_OF_PASS awaits its report
  due     : Bool := false                 -- a report is due
  state   : Nat := 0                      -- STATE of BULK_REPORT
  held    : Option Nat := none            -- IMAGE_ID of the verified image it keeps
  slot    : Nat := 0                      -- the slot that holds it
  deriving DecidableEq, Repr

/-- What an agent keeps of its attestation, heartbeats and power. -/
structure AgentLink where
  helloOn   : Bool := false               -- HELLO repeats
  helloMs   : Nat := 10                   -- the interval
  helloLast : List Byte := []             -- payload of the HELLO last sent
  offered   : Option (Nat × Nat) := none  -- NID and FWD_NID of the ATTEST_REQ last answered
  reported  : Bool := false               -- ATTEST_REPORT sent, no NID taken since
  collector : Nat := 0x3FFFF              -- its collector, as TIMED named it (R424)
  homeMac   : Nat := 0                    -- HOME_MAC (R408)
  passed    : List (Nat × Nat × Bool) := []  -- frames relayed: source, destination, into the lane (R427)
  laneDrops : Nat := 0                    -- lane frames discarded beyond FN_RELAY_RATE
  asleep    : Bool := false               -- SENTINEL (R516)
  thermal   : Bool := false               -- in SENTINEL by the critical temperature (R519)
  held      : Bool := false               -- in reset, until its start (R434, R519)
  refLost   : Bool := false               -- field ports stopped for want of the reference (R521)
  lowSupply : Bool := false               -- a supply is below its threshold (R519)
  epRound   : Nat := 0                    -- round of the endpoint answers a collector holds
  epMap     : Option Ports := none        -- ports whose endpoint agents answered it; none: no endpoint has answered it yet
  lastT     : Nat × Nat := (0, 0)         -- t1 and t2 of the TIMED last taken
  relaySec  : Nat := 0                    -- second of local time the relayed frames are counted in
  relayed   : Nat := 0                    -- frames relayed in it
  straps    : Nat := 0                    -- straps as sampled: [0] NP_MODE, [1] P1_MODE, [4:2] SB_ADDR (R534)
  grant     : Option Nat := none          -- an agent debug grant is open until this local time (R472)
  deriving DecidableEq, Repr

/-- A KEY_OFFER that awaits its KEY_ACCEPT (R416, R545). -/
structure Offer where
  nid    : Nat                        -- the agent or manager it went to
  assoc  : Nat                        -- the association that carried it
  key    : Nat                        -- the association it keys
  phase  : Bool
  peer   : Nat := 0                   -- the other holder, of an agent-agent key
  saltRx : Nat := 0                   -- the offerer's salt
  sends  : Nat := 1
  sentAt : Nat := 0                   -- when it was last sent
  busy   : Option Nat := none         -- answered BUSY, at this time
  msg    : Msg
  deriving DecidableEq, Repr

/-- The fabric as the manager knows it. -/
structure Fabric where
  links  : SMap LinkEntry := []       -- by switch number * 128 + port
  nodes  : SMap NodeInfo := []        -- attested agents, by NID
  offers : List Offer := []           -- KEY_OFFERs that no KEY_ACCEPT has answered (R545)
  salts  : SMap (List Nat) := []      -- the salts given under each shared key (R415)
  deriving DecidableEq, Repr

/-- The manager module. -/
structure Manager where
  dev   : Dev := { net := { nid := 0x3FF0F } }  -- what every device holds: registers, recorder, field network, time, images
  eng   : Engine := {}                -- the line engine and its memory
  sl    : Slices := {}                -- contexts, carves and resource pools
  host  : HostSide := {}              -- barrier, dictionary slots, mailboxes, doorbells, interrupts, sync objects
  fab   : Fabric := {}                -- link table, attested agents, key offers
  red   : Redundancy := {}            -- claims, units, the triad
  rt    : Routing := {}               -- route computation
  inst  : Install := {}               -- impressions and their installation
  rcv   : Recovery := {}              -- reports, silence, members, resets
  repQ  : List Instr := []            -- the report queue: reports not taken yet, oldest first (R254)
  disc  : Discovery := {}             -- discovery, blueprint, attestation, the gate
  cast  : FwCast := {}                -- firmware broadcast and activation
  tl    : MgrTel := {}                -- telemetry
  sec   : Security := {}              -- tokens, grants, package keys, confidential replies
  pwr   : Power := {}                 -- supplies, domains, sentinel, thermal state
  failed : List Nat := []              -- objects that hold no valid value (R123, FAILED)
  deriving DecidableEq, Repr


/-- An agent. -/
structure Agent where
  dev     : Dev := {}                     -- what every device holds
  node    : NodeSide := {}                -- the node, its port and its mailboxes
  store   : PlateStore := {}              -- plates and the stage in assembly
  ptable  : SMap PartEntry := []          -- partition table, by context
  keyQ    : Option (Nat × List KeyPend) := none  -- queued PKEY write and the commands it will acknowledge
  rep     : AgentReports := {}            -- watches, reports, resets of the node
  tl      : Samples := {}                 -- telemetry samples
  neigh   : SMap NeighRec := []           -- neighbour table, by port
  peers   : SMap PeerRec := []            -- peers confirmed by probe, by port (R249)
  restart : Option RestartSt := none      -- a control-island restart in progress (R331, R332)
  bulk    : Bulk := {}                    -- the image received by broadcast
  link    : AgentLink := {}               -- heartbeats, home port and joining
  manager : Nat := 0x3FFFE                -- NID of the unit it answers
  deriving DecidableEq, Repr

/-- The state of the model. -/
structure State where
  pending : List Instr := []            -- the commands that wait, oldest first
  mgr     : Manager := {}               -- the manager module
  agents  : SMap Agent := []            -- the agents, by die identifier
  deriving DecidableEq, Repr

/-- Why a step stops with a fault. No rule makes a command stop the unit: one that is not admitted is answered, dropped or
counted, and that is a next state. -/
inductive Fault where
  /-- No command raises it. Safe: nothing rests on it. -/
  | unused
  deriving DecidableEq, Repr

/-- Why a command has no meaning. -/
inductive Refusal where
  /-- A command without a meaning, by its mnemonic. Every command has one, so no arm of exec raises it. Safe: it stops. -/
  | notModelled (mnemonic : String)
  deriving DecidableEq, Repr

/-- The machine right after reset. -/
def State.reset : State := {}

end Sys2Proof.Machine
end

