-- ==== Sys2Proof/Machine/ObjectTable.lean ====
section
/-! DEFINITION. Sys2Proof/Machine/ObjectTable.lean: the object dictionary's defined addresses, written from the object
tables of spec/ (one row for each), and the name of each object as the key idx * 256 + sub. -/

namespace Sys2Proof.Machine

/-- Object types (R345). -/
inductive ObjTy where
  | u8 | u16 | u32 | u64 | i32 | bool | bits | str | domain | cmd
  deriving DecidableEq, Repr

/-- Access codes (R346, Table: Directory description). -/
inductive ObjAcc where
  | ro | rw | wo | rws | cmd
  deriving DecidableEq, Repr

/-- Which values below its least value an object raises to it (R347): every one, every one but 0, or 0 alone. -/
inductive Raise where
  | below | butZero | onlyZero
  deriving DecidableEq, Repr

/-- One row of an object table. `vmax` is the greatest value that is not reserved; values below `lo` are raised to it as `raise`
says, one above `hi` is lowered to it (R347). [DEDUCED, log 46] -/
structure ObjRow where
  idx     : Nat
  subLo   : Nat
  subHi   : Nat
  ty      : ObjTy
  acc     : ObjAcc
  dflt    : Nat
  dfltA   : Nat     -- the agent's default
  len     : Nat     -- size, or greatest length (0: the object's own rule)
  vmax    : Nat
  lo      : Nat
  raise   : Raise
  hi      : Nat
  group   : Nat
  perCtx  : Bool
  masked  : Bool
  deriving DecidableEq, Repr

/-- Objects from 0x1000:00 on. -/
def objRows0 : List ObjRow :=
  [⟨0x1000, 0x00, 0x00, .u8, .ro, 12, 12, 1, 255, 0, .below, 255, 0, false, false⟩,
   ⟨0x1000, 0x01, 0x01, .u32, .ro, 687441, 687441, 4, 4294967295, 0, .below, 4294967295, 0, false, false⟩,
   ⟨0x1000, 0x02, 0x02, .u16, .ro, 18432, 352, 2, 65535, 0, .below, 65535, 0, false, false⟩,
   ⟨0x1000, 0x03, 0x03, .str, .ro, 0, 0, 16, 0, 0, .below, 0, 0, false, false⟩,
   ⟨0x1000, 0x04, 0x04, .u16, .ro, 258, 0, 2, 65535, 0, .below, 65535, 0, false, false⟩,
   ⟨0x1000, 0x05, 0x05, .str, .ro, 0, 0, 4, 0, 0, .below, 0, 0, false, false⟩,
   ⟨0x1000, 0x06, 0x06, .u32, .ro, 0, 0, 4, 4294967295, 0, .below, 4294967295, 0, false, false⟩,
   ⟨0x1000, 0x07, 0x07, .u16, .ro, 0, 0, 2, 65535, 0, .below, 65535, 0, false, false⟩,
   ⟨0x1000, 0x08, 0x08, .str, .ro, 0, 0, 16, 0, 0, .below, 0, 0, false, false⟩,
   ⟨0x1000, 0x09, 0x09, .u64, .ro, 0, 0, 8, 18446744073709551615, 0, .below, 18446744073709551615, 0, false, false⟩,
   ⟨0x1000, 0x0A, 0x0A, .u16, .ro, 256, 256, 2, 65535, 0, .below, 65535, 0, false, false⟩,
   ⟨0x1000, 0x0B, 0x0B, .u16, .ro, 260, 0, 2, 65535, 0, .below, 65535, 0, false, false⟩,
   ⟨0x1000, 0x0C, 0x0C, .u32, .ro, 0, 262142, 4, 4294967295, 0, .below, 4294967295, 0, false, false⟩,
   ⟨0x1010, 0x00, 0x00, .u8, .ro, 7, 7, 1, 255, 0, .below, 255, 0, false, false⟩,
   ⟨0x1010, 0x01, 0x01, .u64, .ro, 0, 0, 8, 18446744073709551615, 0, .below, 18446744073709551615, 0, false, false⟩,
   ⟨0x1010, 0x02, 0x02, .u8, .ro, 0, 0, 1, 255, 0, .below, 255, 0, false, false⟩,
   ⟨0x1010, 0x03, 0x03, .u32, .ro, 0, 0, 4, 4294967295, 0, .below, 4294967295, 0, false, false⟩,
   ⟨0x1010, 0x04, 0x04, .i32, .ro, 0, 0, 4, 4294967295, 0, .below, 4294967295, 0, false, false⟩,
   ⟨0x1010, 0x05, 0x05, .bits, .ro, 0, 0, 4, 4294967295, 0, .below, 4294967295, 0, false, false⟩,
   ⟨0x1010, 0x06, 0x06, .u32, .ro, 0, 0, 4, 4294967295, 0, .below, 4294967295, 0, false, false⟩,
   ⟨0x1010, 0x07, 0x07, .cmd, .cmd, 0, 0, 1, 255, 0, .below, 255, 0, false, false⟩,
   ⟨0x1020, 0x00, 0x00, .u8, .ro, 3, 3, 1, 255, 0, .below, 255, 0, false, false⟩,
   ⟨0x1020, 0x01, 0x01, .u32, .rw, 1048576, 1048576, 4, 16777215, 0, .below, 4294967295, 0, false, false⟩,
   ⟨0x1020, 0x02, 0x02, .u64, .ro, 0, 0, 8, 18446744073709551615, 0, .below, 18446744073709551615, 0, false, false⟩]

/-- Objects from 0x1020:03 on. -/
def objRows1 : List ObjRow :=
  [⟨0x1020, 0x03, 0x03, .u32, .ro, 0, 0, 4, 4294967295, 0, .below, 4294967295, 0, false, false⟩,
   ⟨0x1030, 0x00, 0x00, .u8, .ro, 6, 6, 1, 255, 0, .below, 255, 0, false, false⟩,
   ⟨0x1030, 0x01, 0x01, .u32, .rw, 2000, 2000, 4, 4294967295, 200, .below, 4294967295, 0, false, false⟩,
   ⟨0x1030, 0x02, 0x02, .u16, .rw, 1024, 1024, 2, 65535, 1, .below, 4096, 0, false, false⟩,
   ⟨0x1030, 0x03, 0x03, .u8, .rw, 32, 32, 1, 255, 0, .below, 255, 0, false, false⟩,
   ⟨0x1030, 0x04, 0x04, .u64, .ro, 0, 0, 8, 18446744073709551615, 0, .below, 18446744073709551615, 0, false, false⟩,
   ⟨0x1030, 0x05, 0x05, .u32, .ro, 0, 0, 4, 4294967295, 0, .below, 4294967295, 0, false, false⟩,
   ⟨0x1030, 0x06, 0x06, .u32, .ro, 0, 0, 4, 4294967295, 0, .below, 4294967295, 0, false, false⟩,
   ⟨0x1100, 0x00, 0x00, .u8, .ro, 12, 12, 1, 255, 0, .below, 255, 0, false, false⟩,
   ⟨0x1100, 0x01, 0x01, .u16, .rw, 34997, 34997, 2, 65535, 0, .below, 65535, 0, false, false⟩,
   ⟨0x1100, 0x02, 0x02, .u16, .rw, 165, 165, 2, 4094, 0, .below, 65535, 0, false, false⟩,
   ⟨0x1100, 0x03, 0x03, .u32, .rw, 2054353, 2054353, 4, 2097151, 0, .below, 4294967295, 0, false, false⟩,
   ⟨0x1100, 0x04, 0x04, .u64, .rw, 2535171555328, 2535171555328, 8, 18446744073709551615, 0, .below, 18446744073709551615, 0, false, false⟩,
   ⟨0x1100, 0x05, 0x05, .bool, .rw, 0, 0, 1, 1, 0, .below, 255, 0, false, false⟩,
   ⟨0x1100, 0x06, 0x06, .u8, .ro, 0, 0, 1, 255, 0, .below, 255, 0, false, false⟩,
   ⟨0x1100, 0x07, 0x07, .u32, .rw, 100, 100, 4, 4294967295, 50, .below, 1000, 0, false, false⟩,
   ⟨0x1100, 0x08, 0x08, .u16, .rw, 100, 100, 2, 65535, 1, .below, 500, 0, false, false⟩,
   ⟨0x1100, 0x09, 0x09, .u64, .rw, 1099511627776, 1099511627776, 8, 18446744073709551615, 1048576, .below, 281474976710656, 0, false, false⟩,
   ⟨0x1100, 0x0A, 0x0A, .u32, .rw, 86400, 86400, 4, 4294967295, 0, .below, 4294967295, 0, false, false⟩,
   ⟨0x1100, 0x0B, 0x0B, .u16, .rw, 10, 10, 2, 65535, 1, .below, 65535, 0, false, false⟩,
   ⟨0x1100, 0x0C, 0x0C, .u32, .rw, 100000, 100000, 4, 4294967295, 0, .below, 4294967295, 0, false, false⟩,
   ⟨0x1110, 0x00, 0x00, .u8, .ro, 8, 2, 1, 255, 0, .below, 255, 0, false, false⟩,
   ⟨0x1110, 0x01, 0x08, .u32, .ro, 0, 0, 4, 4294967295, 0, .below, 4294967295, 0, false, false⟩,
   ⟨0x1120, 0x00, 0x00, .u8, .ro, 11, 11, 1, 255, 0, .below, 255, 0, false, false⟩]

/-- Objects from 0x1120:01 on. -/
def objRows2 : List ObjRow :=
  [⟨0x1120, 0x01, 0x01, .u64, .ro, 0, 0, 8, 18446744073709551615, 0, .below, 18446744073709551615, 0, false, false⟩,
   ⟨0x1120, 0x02, 0x02, .u64, .ro, 0, 0, 8, 18446744073709551615, 0, .below, 18446744073709551615, 0, false, false⟩,
   ⟨0x1120, 0x03, 0x03, .u64, .ro, 0, 0, 8, 18446744073709551615, 0, .below, 18446744073709551615, 0, false, false⟩,
   ⟨0x1120, 0x04, 0x04, .u64, .ro, 0, 0, 8, 18446744073709551615, 0, .below, 18446744073709551615, 0, false, false⟩,
   ⟨0x1120, 0x05, 0x05, .u64, .ro, 0, 0, 8, 18446744073709551615, 0, .below, 18446744073709551615, 0, false, false⟩,
   ⟨0x1120, 0x06, 0x06, .u64, .ro, 0, 0, 8, 18446744073709551615, 0, .below, 18446744073709551615, 0, false, false⟩,
   ⟨0x1120, 0x07, 0x07, .u64, .ro, 0, 0, 8, 18446744073709551615, 0, .below, 18446744073709551615, 0, false, false⟩,
   ⟨0x1120, 0x08, 0x08, .domain, .ro, 0, 0, 56, 0, 0, .below, 0, 0, false, false⟩,
   ⟨0x1120, 0x09, 0x09, .u32, .ro, 0, 0, 4, 4294967295, 0, .below, 4294967295, 0, false, false⟩,
   ⟨0x1120, 0x0A, 0x0A, .u64, .ro, 0, 0, 8, 18446744073709551615, 0, .below, 18446744073709551615, 0, false, false⟩,
   ⟨0x1120, 0x0B, 0x0B, .u32, .ro, 0, 0, 4, 4294967295, 0, .below, 4294967295, 0, false, false⟩,
   ⟨0x11F0, 0x00, 0x00, .u8, .ro, 7, 7, 1, 255, 0, .below, 255, 0, false, false⟩,
   ⟨0x11F0, 0x01, 0x01, .u8, .ro, 0, 0, 1, 255, 0, .below, 255, 0, false, false⟩,
   ⟨0x11F0, 0x02, 0x02, .u8, .ro, 0, 0, 1, 255, 0, .below, 255, 0, false, false⟩,
   ⟨0x11F0, 0x03, 0x03, .bool, .ro, 0, 0, 1, 1, 0, .below, 255, 0, false, false⟩,
   ⟨0x11F0, 0x04, 0x04, .u8, .ro, 32, 32, 1, 255, 0, .below, 255, 0, false, false⟩,
   ⟨0x11F0, 0x05, 0x05, .u32, .ro, 0, 0, 4, 4294967295, 0, .below, 4294967295, 0, false, false⟩,
   ⟨0x11F0, 0x06, 0x06, .u32, .ro, 0, 0, 4, 4294967295, 0, .below, 4294967295, 0, false, false⟩,
   ⟨0x11F0, 0x07, 0x07, .u16, .ro, 0, 0, 2, 65535, 0, .below, 65535, 0, false, false⟩,
   ⟨0x1200, 0x00, 0x00, .u8, .ro, 13, 13, 1, 255, 0, .below, 255, 0, false, false⟩,
   ⟨0x1200, 0x01, 0x01, .u8, .ro, 0, 0, 1, 255, 0, .below, 255, 0, false, false⟩,
   ⟨0x1200, 0x02, 0x02, .u8, .ro, 0, 0, 1, 255, 0, .below, 255, 0, false, false⟩,
   ⟨0x1200, 0x03, 0x03, .u8, .ro, 0, 0, 1, 255, 0, .below, 255, 0, false, false⟩,
   ⟨0x1200, 0x04, 0x04, .u8, .rw, 0, 0, 1, 2, 0, .below, 255, 0, false, false⟩]

/-- Objects from 0x1200:05 on. -/
def objRows3 : List ObjRow :=
  [⟨0x1200, 0x05, 0x05, .domain, .ro, 0, 0, 32, 0, 0, .below, 0, 0, false, false⟩,
   ⟨0x1200, 0x06, 0x06, .domain, .wo, 0, 0, 512, 0, 0, .below, 0, 0, false, false⟩,
   ⟨0x1200, 0x07, 0x07, .cmd, .cmd, 0, 0, 1, 255, 0, .below, 255, 0, false, false⟩,
   ⟨0x1200, 0x08, 0x08, .u8, .ro, 0, 0, 1, 255, 0, .below, 255, 0, false, false⟩,
   ⟨0x1200, 0x09, 0x09, .u32, .ro, 0, 0, 4, 4294967295, 0, .below, 4294967295, 0, false, false⟩,
   ⟨0x1200, 0x0A, 0x0A, .domain, .rw, 0, 0, 384, 0, 0, .below, 0, 0, false, false⟩,
   ⟨0x1200, 0x0B, 0x0B, .cmd, .cmd, 0, 0, 1, 255, 0, .below, 255, 0, false, false⟩,
   ⟨0x1200, 0x0C, 0x0C, .u32, .ro, 0, 0, 4, 4294967295, 0, .below, 4294967295, 0, false, false⟩,
   ⟨0x1200, 0x0D, 0x0D, .cmd, .cmd, 0, 0, 4, 4294967295, 0, .below, 4294967295, 0, false, false⟩,
   ⟨0x1210, 0x00, 0x00, .u8, .ro, 5, 5, 1, 255, 0, .below, 255, 0, true, false⟩,
   ⟨0x1210, 0x01, 0x01, .domain, .wo, 0, 0, 32, 0, 0, .below, 0, 0, true, false⟩,
   ⟨0x1210, 0x02, 0x02, .cmd, .cmd, 0, 0, 1, 255, 0, .below, 255, 0, true, false⟩,
   ⟨0x1210, 0x03, 0x03, .domain, .ro, 0, 0, 0, 0, 0, .below, 0, 0, true, false⟩,
   ⟨0x1210, 0x04, 0x04, .domain, .ro, 0, 0, 0, 0, 0, .below, 0, 0, true, false⟩,
   ⟨0x1210, 0x05, 0x05, .u32, .ro, 0, 0, 4, 4294967295, 0, .below, 4294967295, 0, true, false⟩,
   ⟨0x1220, 0x00, 0x00, .u8, .ro, 6, 6, 1, 255, 0, .below, 255, 0, false, false⟩,
   ⟨0x1220, 0x01, 0x01, .cmd, .cmd, 0, 0, 1, 255, 0, .below, 255, 0, false, false⟩,
   ⟨0x1220, 0x02, 0x02, .u32, .ro, 0, 0, 4, 4294967295, 0, .below, 4294967295, 0, false, false⟩,
   ⟨0x1220, 0x03, 0x03, .u8, .ro, 0, 0, 1, 255, 0, .below, 255, 0, false, false⟩,
   ⟨0x1220, 0x04, 0x04, .u16, .rw, 720, 720, 2, 65535, 0, .below, 65535, 0, false, false⟩,
   ⟨0x1220, 0x05, 0x05, .u32, .ro, 0, 0, 4, 4294967295, 0, .below, 4294967295, 0, false, false⟩,
   ⟨0x1220, 0x06, 0x06, .u32, .ro, 0, 0, 4, 4294967295, 0, .below, 4294967295, 0, false, false⟩,
   ⟨0x1230, 0x00, 0x00, .u8, .ro, 2, 2, 1, 255, 0, .below, 255, 0, false, false⟩,
   ⟨0x1230, 0x01, 0x01, .domain, .rw, 0, 0, 4096, 0, 0, .below, 0, 0, false, false⟩]

/-- Objects from 0x1230:02 on. -/
def objRows4 : List ObjRow :=
  [⟨0x1230, 0x02, 0x02, .u8, .ro, 0, 0, 1, 255, 0, .below, 255, 0, false, false⟩,
   ⟨0x1300, 0x00, 0x00, .u8, .ro, 8, 3, 1, 255, 0, .below, 255, 0, false, false⟩,
   ⟨0x1300, 0x01, 0x01, .u32, .rw, 1, 0, 4, 4294967295, 0, .below, 4294967295, 0, false, false⟩,
   ⟨0x1300, 0x02, 0x02, .u32, .rw, 1, 0, 4, 4294967295, 0, .below, 4294967295, 0, false, false⟩,
   ⟨0x1300, 0x03, 0x03, .u32, .rw, 1, 1, 4, 4294967295, 0, .below, 4294967295, 0, false, false⟩,
   ⟨0x1300, 0x04, 0x04, .u32, .rw, 1, 1, 4, 4294967295, 0, .below, 4294967295, 0, false, false⟩,
   ⟨0x1300, 0x05, 0x05, .u32, .rw, 0, 0, 4, 4294967295, 0, .below, 4294967295, 0, false, false⟩,
   ⟨0x1300, 0x06, 0x06, .u32, .rw, 0, 0, 4, 4294967295, 0, .below, 4294967295, 0, false, false⟩,
   ⟨0x1300, 0x07, 0x07, .u32, .rw, 0, 0, 4, 4294967295, 0, .below, 4294967295, 0, false, false⟩,
   ⟨0x1300, 0x08, 0x08, .u32, .rw, 200, 200, 4, 4294967295, 0, .below, 4294967295, 0, false, false⟩,
   ⟨0x1310, 0x00, 0x00, .u8, .ro, 8, 8, 1, 255, 0, .below, 255, 0, false, false⟩,
   ⟨0x1310, 0x01, 0x01, .u8, .ro, 0, 0, 1, 255, 0, .below, 255, 0, false, false⟩,
   ⟨0x1310, 0x02, 0x02, .domain, .ro, 0, 0, 0, 0, 0, .below, 0, 0, false, false⟩,
   ⟨0x1310, 0x03, 0x03, .u64, .rw, 0, 0, 8, 18446744073709551615, 0, .below, 18446744073709551615, 0, false, false⟩,
   ⟨0x1310, 0x04, 0x04, .u8, .ro, 0, 0, 1, 255, 0, .below, 255, 0, false, false⟩,
   ⟨0x1310, 0x05, 0x05, .u32, .ro, 0, 0, 4, 4294967295, 0, .below, 4294967295, 0, false, false⟩,
   ⟨0x1310, 0x06, 0x06, .u32, .ro, 0, 0, 4, 4294967295, 0, .below, 4294967295, 0, false, false⟩,
   ⟨0x1310, 0x07, 0x07, .u32, .ro, 0, 0, 4, 4294967295, 0, .below, 4294967295, 0, false, false⟩,
   ⟨0x1310, 0x08, 0x08, .bool, .ro, 0, 0, 1, 1, 0, .below, 255, 0, false, false⟩,
   ⟨0x1320, 0x00, 0x00, .u8, .ro, 5, 5, 1, 255, 0, .below, 255, 0, false, false⟩,
   ⟨0x1320, 0x01, 0x01, .u8, .rw, 0, 0, 1, 4, 0, .below, 255, 0, false, false⟩,
   ⟨0x1320, 0x02, 0x02, .u16, .ro, 0, 0, 2, 65535, 0, .below, 65535, 0, false, false⟩,
   ⟨0x1320, 0x03, 0x03, .u16, .ro, 0, 0, 2, 65535, 0, .below, 65535, 0, false, false⟩,
   ⟨0x1320, 0x04, 0x04, .u16, .ro, 0, 0, 2, 65535, 0, .below, 65535, 0, false, false⟩]

/-- Objects from 0x1320:05 on. -/
def objRows5 : List ObjRow :=
  [⟨0x1320, 0x05, 0x05, .u16, .ro, 0, 0, 2, 65535, 0, .below, 65535, 0, false, false⟩,
   ⟨0x1400, 0x00, 0x00, .u8, .ro, 8, 8, 1, 255, 0, .below, 255, 0, false, false⟩,
   ⟨0x1400, 0x01, 0x01, .u64, .ro, 0, 0, 8, 18446744073709551615, 0, .below, 18446744073709551615, 0, false, false⟩,
   ⟨0x1400, 0x02, 0x02, .u64, .ro, 0, 0, 8, 18446744073709551615, 0, .below, 18446744073709551615, 0, false, false⟩,
   ⟨0x1400, 0x03, 0x03, .u16, .rw, 4096, 256, 2, 65535, 0, .below, 4096, 0, false, false⟩,
   ⟨0x1400, 0x04, 0x04, .domain, .ro, 0, 0, 0, 0, 0, .below, 0, 0, false, false⟩,
   ⟨0x1400, 0x05, 0x05, .cmd, .cmd, 0, 0, 1, 255, 0, .below, 255, 0, false, false⟩,
   ⟨0x1400, 0x06, 0x06, .u8, .rw, 2, 2, 1, 5, 0, .below, 255, 0, false, false⟩,
   ⟨0x1400, 0x07, 0x07, .u32, .ro, 0, 0, 4, 4294967295, 0, .below, 4294967295, 0, false, false⟩,
   ⟨0x1400, 0x08, 0x08, .u64, .ro, 0, 0, 8, 18446744073709551615, 0, .below, 18446744073709551615, 0, false, false⟩,
   ⟨0x1410, 0x00, 0x00, .u8, .ro, 5, 5, 1, 255, 0, .below, 255, 0, false, false⟩,
   ⟨0x1410, 0x01, 0x01, .u16, .rw, 128, 128, 2, 65535, 0, .below, 65535, 0, false, false⟩,
   ⟨0x1410, 0x02, 0x02, .u32, .rws, 1000, 1000, 4, 4294967295, 0, .below, 4294967295, 3, false, false⟩,
   ⟨0x1410, 0x03, 0x03, .u16, .rws, 256, 256, 2, 65535, 1, .below, 65535, 3, false, false⟩,
   ⟨0x1410, 0x04, 0x04, .cmd, .cmd, 0, 0, 1, 255, 0, .below, 255, 3, false, false⟩,
   ⟨0x1410, 0x05, 0x05, .u64, .ro, 0, 0, 8, 18446744073709551615, 0, .below, 18446744073709551615, 0, false, false⟩,
   ⟨0x1410, 0xFF, 0xFF, .domain, .ro, 0, 0, 0, 0, 0, .below, 0, 0, false, false⟩,
   ⟨0x1420, 0x00, 0x00, .u8, .ro, 5, 5, 1, 255, 0, .below, 255, 0, true, false⟩,
   ⟨0x1420, 0x01, 0x01, .u64, .rw, 0, 0, 8, 281474976710655, 0, .below, 18446744073709551615, 0, true, false⟩,
   ⟨0x1420, 0x02, 0x02, .domain, .ro, 0, 0, 0, 0, 0, .below, 0, 0, true, false⟩,
   ⟨0x1420, 0x03, 0x03, .u32, .rw, 4096, 4096, 4, 4294967295, 256, .below, 1048576, 0, true, false⟩,
   ⟨0x1420, 0x04, 0x04, .u32, .ro, 0, 0, 4, 4294967295, 0, .below, 4294967295, 0, true, false⟩,
   ⟨0x1420, 0x05, 0x05, .u32, .ro, 0, 0, 4, 4294967295, 0, .below, 4294967295, 0, true, false⟩,
   ⟨0x1800, 0x00, 0x00, .u8, .ro, 5, 5, 1, 255, 0, .below, 255, 0, true, false⟩]

/-- Objects from 0x1800:01 on. -/
def objRows6 : List ObjRow :=
  [⟨0x1800, 0x01, 0x01, .u8, .rw, 0, 0, 1, 3, 0, .below, 255, 0, true, false⟩,
   ⟨0x1800, 0x02, 0x02, .u16, .ro, 0, 0, 2, 65535, 0, .below, 65535, 0, true, false⟩,
   ⟨0x1800, 0x03, 0x03, .u32, .ro, 0, 0, 4, 4294967295, 0, .below, 4294967295, 0, true, false⟩,
   ⟨0x1800, 0x04, 0x04, .u32, .ro, 0, 0, 4, 4294967295, 0, .below, 4294967295, 0, true, false⟩,
   ⟨0x1800, 0x05, 0x05, .u32, .ro, 0, 0, 4, 4294967295, 0, .below, 4294967295, 0, true, false⟩,
   ⟨0x2000, 0x00, 0x00, .u8, .ro, 4, 4, 1, 255, 0, .below, 255, 0, false, false⟩,
   ⟨0x2000, 0x01, 0x01, .u32, .ro, 0, 0, 4, 4294967295, 0, .below, 4294967295, 0, false, false⟩,
   ⟨0x2000, 0x02, 0x02, .u32, .ro, 0, 0, 4, 4294967295, 0, .below, 4294967295, 0, false, false⟩,
   ⟨0x2000, 0x03, 0x03, .u32, .ro, 0, 0, 4, 4294967295, 0, .below, 4294967295, 0, false, false⟩,
   ⟨0x2000, 0x04, 0x04, .u32, .ro, 0, 0, 4, 4294967295, 0, .below, 4294967295, 0, false, false⟩,
   ⟨0x2010, 0x00, 0x00, .u8, .ro, 2, 2, 1, 255, 0, .below, 255, 0, false, false⟩,
   ⟨0x2010, 0x01, 0x01, .u16, .rw, 0, 0, 2, 65535, 0, .below, 65535, 0, false, false⟩,
   ⟨0x2010, 0x02, 0x02, .bool, .ro, 0, 0, 1, 1, 0, .below, 255, 0, false, false⟩,
   ⟨0x2020, 0x00, 0x00, .u8, .ro, 3, 3, 1, 255, 0, .below, 255, 0, false, false⟩,
   ⟨0x2020, 0x01, 0x01, .u32, .rw, 0, 0, 4, 4294967295, 0, .below, 4294967295, 0, false, false⟩,
   ⟨0x2020, 0x02, 0x02, .bool, .ro, 0, 0, 1, 1, 0, .below, 255, 0, false, false⟩,
   ⟨0x2020, 0x03, 0x03, .u16, .rw, 0, 0, 2, 65535, 0, .below, 65535, 0, false, false⟩,
   ⟨0x2030, 0x00, 0x00, .u8, .ro, 3, 3, 1, 255, 0, .below, 255, 0, false, false⟩,
   ⟨0x2030, 0x01, 0x01, .u32, .ro, 0, 0, 4, 4294967295, 0, .below, 4294967295, 0, false, false⟩,
   ⟨0x2030, 0x02, 0x02, .u8, .rw, 0, 0, 1, 255, 0, .below, 255, 0, false, false⟩,
   ⟨0x2030, 0x03, 0x03, .cmd, .cmd, 0, 0, 1, 255, 0, .below, 255, 0, false, false⟩,
   ⟨0x2040, 0x00, 0x00, .u8, .ro, 6, 6, 1, 255, 0, .below, 255, 0, false, false⟩,
   ⟨0x2040, 0x01, 0x01, .u16, .rw, 0, 0, 2, 65535, 0, .below, 65535, 0, false, false⟩,
   ⟨0x2040, 0x02, 0x02, .domain, .rw, 0, 0, 524288, 0, 0, .below, 0, 0, false, false⟩]

/-- Objects from 0x2040:03 on. -/
def objRows7 : List ObjRow :=
  [⟨0x2040, 0x03, 0x03, .cmd, .cmd, 0, 0, 1, 255, 0, .below, 255, 0, false, false⟩,
   ⟨0x2040, 0x04, 0x04, .cmd, .cmd, 0, 0, 1, 255, 0, .below, 255, 0, false, false⟩,
   ⟨0x2040, 0x05, 0x05, .u8, .ro, 0, 0, 1, 255, 0, .below, 255, 0, false, false⟩,
   ⟨0x2040, 0x06, 0x06, .u8, .ro, 0, 0, 1, 255, 0, .below, 255, 0, false, false⟩,
   ⟨0x2050, 0x00, 0x00, .u8, .ro, 2, 2, 1, 255, 0, .below, 255, 0, false, false⟩,
   ⟨0x2050, 0x01, 0x01, .u16, .rw, 0, 0, 2, 65535, 0, .below, 65535, 0, false, false⟩,
   ⟨0x2050, 0x02, 0x02, .u8, .rw, 0, 0, 1, 255, 0, .below, 255, 0, false, false⟩,
   ⟨0x2060, 0x00, 0x00, .u8, .ro, 3, 3, 1, 255, 0, .below, 255, 0, false, false⟩,
   ⟨0x2060, 0x01, 0x01, .u8, .rw, 0, 0, 1, 255, 0, .below, 255, 0, false, false⟩,
   ⟨0x2060, 0x02, 0x02, .u8, .ro, 0, 0, 1, 255, 0, .below, 255, 0, false, false⟩,
   ⟨0x2060, 0x03, 0x03, .cmd, .cmd, 0, 0, 1, 255, 0, .below, 255, 0, false, false⟩,
   ⟨0x3000, 0x00, 0x00, .u8, .ro, 7, 7, 1, 255, 0, .below, 255, 0, false, false⟩,
   ⟨0x3000, 0x01, 0x01, .u8, .ro, 0, 0, 1, 255, 0, .below, 255, 0, false, false⟩,
   ⟨0x3000, 0x02, 0x02, .u16, .ro, 0, 0, 2, 65535, 0, .below, 65535, 0, false, false⟩,
   ⟨0x3000, 0x03, 0x03, .u32, .ro, 0, 0, 4, 4294967295, 0, .below, 4294967295, 0, false, false⟩,
   ⟨0x3000, 0x04, 0x04, .u16, .rw, 4096, 4096, 2, 65535, 1, .below, 16384, 0, false, false⟩,
   ⟨0x3000, 0x05, 0x05, .u16, .rw, 1000, 1000, 2, 65535, 0, .below, 65535, 0, false, false⟩,
   ⟨0x3000, 0x06, 0x06, .u32, .ro, 0, 0, 4, 4294967295, 0, .below, 4294967295, 0, false, false⟩,
   ⟨0x3000, 0x07, 0x07, .cmd, .cmd, 0, 0, 1, 255, 0, .below, 255, 0, false, false⟩,
   ⟨0x3010, 0x00, 0x00, .u8, .ro, 6, 6, 1, 255, 0, .below, 255, 0, false, false⟩,
   ⟨0x3010, 0x01, 0x01, .domain, .rw, 0, 0, 33554432, 0, 0, .below, 0, 0, false, false⟩,
   ⟨0x3010, 0x02, 0x02, .u8, .ro, 0, 0, 1, 255, 0, .below, 255, 0, false, false⟩,
   ⟨0x3010, 0x03, 0x03, .u32, .ro, 4294967295, 4294967295, 4, 4294967295, 0, .below, 4294967295, 0, false, false⟩,
   ⟨0x3010, 0x04, 0x04, .u32, .ro, 0, 0, 4, 4294967295, 0, .below, 4294967295, 0, false, false⟩]

/-- Objects from 0x3010:05 on. -/
def objRows8 : List ObjRow :=
  [⟨0x3010, 0x05, 0x05, .u32, .ro, 0, 0, 4, 4294967295, 0, .below, 4294967295, 0, false, false⟩,
   ⟨0x3010, 0x06, 0x06, .domain, .ro, 0, 0, 32, 0, 0, .below, 0, 0, false, false⟩,
   ⟨0x3020, 0x00, 0x00, .u8, .ro, 5, 5, 1, 255, 0, .below, 255, 0, false, false⟩,
   ⟨0x3020, 0x01, 0x01, .u32, .rw, 0, 0, 4, 262143, 0, .below, 4294967295, 0, false, false⟩,
   ⟨0x3020, 0x02, 0x02, .u64, .ro, 0, 0, 8, 18446744073709551615, 0, .below, 18446744073709551615, 0, false, false⟩,
   ⟨0x3020, 0x03, 0x03, .u32, .ro, 4294967295, 4294967295, 4, 4294967295, 0, .below, 4294967295, 0, false, false⟩,
   ⟨0x3020, 0x04, 0x04, .u32, .ro, 0, 0, 4, 4294967295, 0, .below, 4294967295, 0, false, false⟩,
   ⟨0x3020, 0x05, 0x05, .u8, .ro, 0, 0, 1, 255, 0, .below, 255, 0, false, false⟩,
   ⟨0x3030, 0x00, 0x00, .u8, .ro, 9, 9, 1, 255, 0, .below, 255, 0, false, false⟩,
   ⟨0x3030, 0x01, 0x01, .domain, .ro, 0, 0, 0, 0, 0, .below, 0, 0, false, false⟩,
   ⟨0x3030, 0x02, 0x02, .domain, .ro, 0, 0, 0, 0, 0, .below, 0, 0, false, false⟩,
   ⟨0x3030, 0x03, 0x03, .domain, .ro, 0, 0, 0, 0, 0, .below, 0, 0, false, false⟩,
   ⟨0x3030, 0x04, 0x04, .domain, .ro, 0, 0, 0, 0, 0, .below, 0, 0, false, false⟩,
   ⟨0x3030, 0x05, 0x05, .u32, .ro, 0, 0, 4, 4294967295, 0, .below, 4294967295, 0, false, false⟩,
   ⟨0x3030, 0x06, 0x06, .u32, .ro, 0, 0, 4, 4294967295, 0, .below, 4294967295, 0, false, false⟩,
   ⟨0x3030, 0x07, 0x07, .u32, .ro, 0, 0, 4, 4294967295, 0, .below, 4294967295, 0, false, false⟩,
   ⟨0x3030, 0x08, 0x08, .u32, .ro, 0, 0, 4, 4294967295, 0, .below, 4294967295, 0, false, false⟩,
   ⟨0x3030, 0x09, 0x09, .u32, .ro, 0, 0, 4, 4294967295, 0, .below, 4294967295, 0, false, false⟩,
   ⟨0x3040, 0x00, 0x00, .u8, .ro, 5, 5, 1, 255, 0, .below, 255, 0, false, false⟩,
   ⟨0x3040, 0x01, 0x01, .u32, .rw, 0, 0, 4, 4294967295, 0, .below, 4294967295, 0, false, false⟩,
   ⟨0x3040, 0x02, 0x02, .u32, .rw, 0, 0, 4, 4294967295, 0, .below, 4294967295, 0, false, false⟩,
   ⟨0x3040, 0x03, 0x03, .u32, .rw, 0, 0, 4, 4294967295, 0, .below, 4294967295, 0, false, false⟩,
   ⟨0x3040, 0x04, 0x04, .u32, .rw, 0, 0, 4, 4294967295, 0, .below, 4294967295, 0, false, false⟩,
   ⟨0x3040, 0x05, 0x05, .u32, .rw, 0, 0, 4, 4294967295, 0, .below, 4294967295, 0, false, false⟩]

/-- Objects from 0x3050:00 on. -/
def objRows9 : List ObjRow :=
  [⟨0x3050, 0x00, 0x00, .u8, .ro, 6, 6, 1, 255, 0, .below, 255, 0, false, false⟩,
   ⟨0x3050, 0x01, 0x01, .u8, .ro, 0, 0, 1, 255, 0, .below, 255, 0, false, false⟩,
   ⟨0x3050, 0x02, 0x02, .bool, .ro, 0, 0, 1, 1, 0, .below, 255, 0, false, false⟩,
   ⟨0x3050, 0x03, 0x03, .u8, .ro, 0, 0, 1, 255, 0, .below, 255, 0, false, false⟩,
   ⟨0x3050, 0x04, 0x04, .u32, .ro, 0, 0, 4, 4294967295, 0, .below, 4294967295, 0, false, false⟩,
   ⟨0x3050, 0x05, 0x05, .cmd, .cmd, 0, 0, 1, 255, 0, .below, 255, 0, false, false⟩,
   ⟨0x3050, 0x06, 0x06, .u32, .ro, 0, 0, 4, 4294967295, 0, .below, 4294967295, 0, false, false⟩,
   ⟨0x3100, 0x00, 0x00, .u8, .ro, 11, 11, 1, 255, 0, .below, 255, 0, false, false⟩,
   ⟨0x3100, 0x01, 0x01, .domain, .wo, 0, 0, 8388608, 0, 0, .below, 0, 0, false, false⟩,
   ⟨0x3100, 0x02, 0x02, .cmd, .cmd, 0, 0, 1, 255, 0, .below, 255, 0, false, false⟩,
   ⟨0x3100, 0x03, 0x03, .u8, .ro, 0, 0, 1, 255, 0, .below, 255, 0, false, false⟩,
   ⟨0x3100, 0x04, 0x04, .domain, .rw, 0, 0, 32768, 0, 0, .below, 0, 0, false, false⟩,
   ⟨0x3100, 0x05, 0x05, .u8, .ro, 0, 0, 1, 255, 0, .below, 255, 0, false, false⟩,
   ⟨0x3100, 0x06, 0x06, .u8, .rw, 8, 8, 1, 255, 1, .below, 255, 0, false, false⟩,
   ⟨0x3100, 0x07, 0x07, .u16, .rw, 100, 100, 2, 65535, 0, .below, 65535, 0, false, false⟩,
   ⟨0x3100, 0x08, 0x08, .u32, .ro, 0, 0, 4, 4294967295, 0, .below, 4294967295, 0, false, false⟩,
   ⟨0x3100, 0x09, 0x09, .domain, .ro, 0, 0, 0, 0, 0, .below, 0, 0, false, false⟩,
   ⟨0x3100, 0x0A, 0x0A, .u16, .rw, 256, 256, 2, 65535, 1, .below, 65535, 0, false, false⟩,
   ⟨0x3100, 0x0B, 0x0B, .u32, .ro, 0, 0, 4, 4294967295, 0, .below, 4294967295, 0, false, false⟩,
   ⟨0x3400, 0x00, 0x00, .u8, .ro, 11, 11, 1, 255, 0, .below, 255, 0, false, false⟩,
   ⟨0x3400, 0x01, 0x01, .u8, .rw, 0, 0, 1, 1, 0, .below, 255, 0, false, false⟩,
   ⟨0x3400, 0x02, 0x02, .u16, .rw, 100, 100, 2, 65535, 1, .below, 65535, 0, false, false⟩,
   ⟨0x3400, 0x03, 0x03, .bool, .rw, 1, 1, 1, 1, 0, .below, 255, 0, false, false⟩,
   ⟨0x3400, 0x04, 0x04, .bool, .rw, 0, 0, 1, 1, 0, .below, 255, 0, false, false⟩]

/-- Objects from 0x3400:05 on. -/
def objRows10 : List ObjRow :=
  [⟨0x3400, 0x05, 0x05, .u32, .rw, 500, 500, 4, 4294967295, 0, .below, 4294967295, 0, false, false⟩,
   ⟨0x3400, 0x06, 0x06, .u32, .ro, 0, 0, 4, 4294967295, 0, .below, 4294967295, 0, false, false⟩,
   ⟨0x3400, 0x07, 0x07, .u32, .ro, 0, 0, 4, 4294967295, 0, .below, 4294967295, 0, false, false⟩,
   ⟨0x3400, 0x08, 0x08, .u32, .ro, 0, 0, 4, 4294967295, 0, .below, 4294967295, 0, false, false⟩,
   ⟨0x3400, 0x09, 0x09, .u32, .ro, 0, 0, 4, 4294967295, 0, .below, 4294967295, 0, false, false⟩,
   ⟨0x3400, 0x0A, 0x0A, .u32, .ro, 0, 0, 4, 4294967295, 0, .below, 4294967295, 0, false, false⟩,
   ⟨0x3400, 0x0B, 0x0B, .u16, .ro, 0, 0, 2, 65535, 0, .below, 65535, 0, false, false⟩,
   ⟨0x3410, 0x00, 0x00, .u8, .ro, 9, 9, 1, 255, 0, .below, 255, 0, false, false⟩,
   ⟨0x3410, 0x01, 0x01, .u16, .rw, 0, 0, 2, 8191, 0, .below, 65535, 0, false, false⟩,
   ⟨0x3410, 0x02, 0x02, .u16, .ro, 0, 0, 2, 65535, 0, .below, 65535, 0, false, false⟩,
   ⟨0x3410, 0x03, 0x03, .u16, .ro, 0, 0, 2, 65535, 0, .below, 65535, 0, false, false⟩,
   ⟨0x3410, 0x04, 0x04, .u16, .ro, 0, 0, 2, 65535, 0, .below, 65535, 0, false, false⟩,
   ⟨0x3410, 0x05, 0x05, .u16, .ro, 0, 0, 2, 65535, 0, .below, 65535, 0, false, false⟩,
   ⟨0x3410, 0x06, 0x06, .u32, .ro, 0, 0, 4, 4294967295, 0, .below, 4294967295, 0, false, false⟩,
   ⟨0x3410, 0x07, 0x07, .u16, .ro, 0, 0, 2, 65535, 0, .below, 65535, 0, false, false⟩,
   ⟨0x3410, 0x08, 0x08, .u8, .ro, 0, 0, 1, 255, 0, .below, 255, 0, false, false⟩,
   ⟨0x3410, 0x09, 0x09, .bool, .ro, 0, 0, 1, 1, 0, .below, 255, 0, false, false⟩,
   ⟨0x3420, 0x00, 0x00, .u8, .ro, 11, 11, 1, 255, 0, .below, 255, 0, false, false⟩,
   ⟨0x3420, 0x01, 0x01, .u16, .rw, 384, 384, 2, 65535, 257, .butZero, 65535, 0, false, false⟩,
   ⟨0x3420, 0x02, 0x02, .u8, .rw, 10, 10, 1, 255, 1, .below, 255, 0, false, false⟩,
   ⟨0x3420, 0x03, 0x03, .u16, .rw, 10, 10, 2, 65535, 10, .below, 65535, 0, false, false⟩,
   ⟨0x3420, 0x04, 0x04, .u8, .rw, 3, 3, 1, 255, 0, .below, 255, 0, false, false⟩,
   ⟨0x3420, 0x05, 0x05, .u16, .rw, 600, 600, 2, 65535, 0, .below, 65535, 0, false, false⟩,
   ⟨0x3420, 0x06, 0x06, .u8, .rw, 8, 8, 1, 8, 0, .below, 255, 0, false, false⟩]

/-- Objects from 0x3420:07 on. -/
def objRows11 : List ObjRow :=
  [⟨0x3420, 0x07, 0x07, .u16, .rw, 49152, 49152, 2, 65535, 256, .onlyZero, 65535, 0, false, false⟩,
   ⟨0x3420, 0x08, 0x08, .u16, .rw, 1, 1, 2, 65535, 0, .below, 65535, 0, false, false⟩,
   ⟨0x3420, 0x09, 0x09, .u16, .rw, 64, 64, 2, 65535, 0, .below, 65535, 0, false, false⟩,
   ⟨0x3420, 0x0A, 0x0A, .u16, .rw, 655, 655, 2, 65535, 0, .below, 65535, 0, false, false⟩,
   ⟨0x3420, 0x0B, 0x0B, .cmd, .cmd, 0, 0, 1, 255, 0, .below, 255, 0, false, false⟩,
   ⟨0x3430, 0x00, 0x00, .u8, .ro, 5, 5, 1, 255, 0, .below, 255, 0, false, false⟩,
   ⟨0x3430, 0x01, 0x01, .u8, .rw, 0, 0, 1, 2, 0, .below, 255, 0, false, false⟩,
   ⟨0x3430, 0x02, 0x02, .u8, .rw, 0, 0, 1, 1, 0, .below, 255, 0, false, false⟩,
   ⟨0x3430, 0x03, 0x03, .u32, .rw, 1000, 1000, 4, 4294967295, 0, .below, 4294967295, 0, false, false⟩,
   ⟨0x3430, 0x04, 0x04, .cmd, .cmd, 0, 0, 1, 255, 0, .below, 255, 0, false, false⟩,
   ⟨0x3430, 0x05, 0x05, .u16, .ro, 0, 0, 2, 65535, 0, .below, 65535, 0, false, false⟩,
   ⟨0x3440, 0x00, 0x00, .u8, .ro, 6, 6, 1, 255, 0, .below, 255, 0, true, false⟩,
   ⟨0x3440, 0x01, 0x01, .u8, .rw, 0, 0, 1, 16, 0, .below, 255, 0, true, false⟩,
   ⟨0x3440, 0x02, 0x02, .u8, .ro, 0, 0, 1, 255, 0, .below, 255, 0, true, false⟩,
   ⟨0x3440, 0x03, 0x03, .u16, .ro, 0, 0, 2, 65535, 0, .below, 65535, 0, true, false⟩,
   ⟨0x3440, 0x04, 0x04, .u8, .ro, 0, 0, 1, 255, 0, .below, 255, 0, true, false⟩,
   ⟨0x3440, 0x05, 0x05, .domain, .rw, 0, 0, 0, 0, 0, .below, 0, 0, true, true⟩,
   ⟨0x3440, 0x06, 0x06, .u16, .ro, 0, 0, 2, 65535, 0, .below, 65535, 0, true, false⟩,
   ⟨0x3500, 0x00, 0x00, .u8, .ro, 14, 14, 1, 255, 0, .below, 255, 0, false, false⟩,
   ⟨0x3500, 0x01, 0x01, .u32, .ro, 0, 0, 4, 4294967295, 0, .below, 4294967295, 0, false, false⟩,
   ⟨0x3500, 0x02, 0x02, .domain, .ro, 0, 0, 32, 0, 0, .below, 0, 0, false, false⟩,
   ⟨0x3500, 0x03, 0x03, .u32, .ro, 0, 0, 4, 4294967295, 0, .below, 4294967295, 0, false, false⟩,
   ⟨0x3500, 0x04, 0x04, .u8, .ro, 0, 0, 1, 255, 0, .below, 255, 0, false, false⟩,
   ⟨0x3500, 0x05, 0x05, .u8, .rw, 0, 0, 1, 2, 0, .below, 255, 0, false, false⟩]

/-- Objects from 0x3500:06 on. -/
def objRows12 : List ObjRow :=
  [⟨0x3500, 0x06, 0x06, .u8, .rw, 3, 3, 1, 255, 1, .below, 255, 0, false, false⟩,
   ⟨0x3500, 0x07, 0x07, .u8, .rw, 1, 1, 1, 2, 0, .below, 255, 0, false, false⟩,
   ⟨0x3500, 0x08, 0x08, .u32, .rw, 1000, 1000, 4, 4294967295, 100, .below, 4294967295, 0, false, false⟩,
   ⟨0x3500, 0x09, 0x09, .u32, .rw, 2000, 2000, 4, 4294967295, 100, .below, 4294967295, 0, false, false⟩,
   ⟨0x3500, 0x0A, 0x0A, .u32, .rw, 250, 250, 4, 4294967295, 50, .below, 4294967295, 0, false, false⟩,
   ⟨0x3500, 0x0B, 0x0B, .u32, .rw, 50, 50, 4, 4294967295, 1, .below, 4294967295, 0, false, false⟩,
   ⟨0x3500, 0x0C, 0x0C, .cmd, .cmd, 0, 0, 1, 255, 0, .below, 255, 0, false, false⟩,
   ⟨0x3500, 0x0D, 0x0D, .u32, .ro, 0, 0, 4, 4294967295, 0, .below, 4294967295, 0, false, false⟩,
   ⟨0x3500, 0x0E, 0x0E, .u32, .ro, 0, 0, 4, 4294967295, 0, .below, 4294967295, 0, false, false⟩,
   ⟨0x3510, 0x00, 0x00, .u8, .ro, 7, 7, 1, 255, 0, .below, 255, 0, false, false⟩,
   ⟨0x3510, 0x01, 0x01, .u8, .ro, 6, 6, 1, 255, 0, .below, 255, 0, false, false⟩,
   ⟨0x3510, 0x02, 0x02, .u32, .ro, 0, 0, 4, 4294967295, 0, .below, 4294967295, 0, false, false⟩,
   ⟨0x3510, 0x03, 0x03, .domain, .ro, 0, 0, 32, 0, 0, .below, 0, 0, false, false⟩,
   ⟨0x3510, 0x04, 0x04, .u16, .ro, 0, 0, 2, 65535, 0, .below, 65535, 0, false, false⟩,
   ⟨0x3510, 0x05, 0x05, .u8, .ro, 0, 0, 1, 255, 0, .below, 255, 0, false, false⟩,
   ⟨0x3510, 0x06, 0x06, .u32, .ro, 0, 0, 4, 4294967295, 0, .below, 4294967295, 0, false, false⟩,
   ⟨0x3510, 0x07, 0x07, .cmd, .cmd, 0, 0, 1, 255, 0, .below, 255, 0, false, false⟩,
   ⟨0x3520, 0x00, 0x00, .u8, .ro, 7, 7, 1, 255, 0, .below, 255, 0, false, false⟩,
   ⟨0x3520, 0x01, 0x01, .u32, .ro, 0, 0, 4, 4294967295, 0, .below, 4294967295, 0, false, false⟩,
   ⟨0x3520, 0x02, 0x02, .u32, .ro, 0, 0, 4, 4294967295, 0, .below, 4294967295, 0, false, false⟩,
   ⟨0x3520, 0x03, 0x03, .u8, .ro, 0, 0, 1, 255, 0, .below, 255, 0, false, false⟩,
   ⟨0x3520, 0x04, 0x04, .u32, .ro, 0, 0, 4, 4294967295, 0, .below, 4294967295, 0, false, false⟩,
   ⟨0x3520, 0x05, 0x05, .u32, .ro, 0, 0, 4, 4294967295, 0, .below, 4294967295, 0, false, false⟩,
   ⟨0x3520, 0x06, 0x06, .u32, .ro, 0, 0, 4, 4294967295, 0, .below, 4294967295, 0, false, false⟩]

/-- Objects from 0x3520:07 on. -/
def objRows13 : List ObjRow :=
  [⟨0x3520, 0x07, 0x07, .u16, .ro, 0, 0, 2, 65535, 0, .below, 65535, 0, false, false⟩,
   ⟨0x3530, 0x00, 0x00, .u8, .ro, 7, 7, 1, 255, 0, .below, 255, 0, false, false⟩,
   ⟨0x3530, 0x01, 0x01, .u16, .ro, 0, 0, 2, 65535, 0, .below, 65535, 0, false, false⟩,
   ⟨0x3530, 0x02, 0x02, .u32, .rw, 0, 0, 4, 4294967295, 0, .below, 4294967295, 0, false, false⟩,
   ⟨0x3530, 0x03, 0x03, .u8, .ro, 2, 2, 1, 255, 0, .below, 255, 0, false, false⟩,
   ⟨0x3530, 0x04, 0x04, .domain, .ro, 0, 0, 32, 0, 0, .below, 0, 0, false, false⟩,
   ⟨0x3530, 0x05, 0x05, .u64, .ro, 0, 0, 8, 18446744073709551615, 0, .below, 18446744073709551615, 0, false, false⟩,
   ⟨0x3530, 0x06, 0x06, .domain, .ro, 0, 0, 0, 0, 0, .below, 0, 0, false, false⟩,
   ⟨0x3530, 0x07, 0x07, .cmd, .cmd, 0, 0, 1, 255, 0, .below, 255, 0, false, false⟩,
   ⟨0x3800, 0x00, 0x00, .u8, .ro, 21, 21, 1, 255, 0, .below, 255, 0, false, false⟩,
   ⟨0x3800, 0x01, 0x01, .u32, .rws, 0, 0, 4, 131072, 0, .below, 4294967295, 1, false, false⟩,
   ⟨0x3800, 0x02, 0x02, .domain, .rws, 0, 0, 16384, 0, 0, .below, 0, 1, false, false⟩,
   ⟨0x3800, 0x03, 0x03, .u8, .rws, 0, 0, 1, 255, 0, .below, 255, 1, false, false⟩,
   ⟨0x3800, 0x04, 0x04, .bool, .rws, 0, 0, 1, 1, 0, .below, 255, 1, false, false⟩,
   ⟨0x3800, 0x05, 0x05, .bool, .rws, 0, 0, 1, 1, 0, .below, 255, 1, false, false⟩,
   ⟨0x3800, 0x06, 0x06, .u8, .rws, 50, 50, 1, 100, 1, .below, 255, 1, false, false⟩,
   ⟨0x3800, 0x07, 0x07, .u8, .rws, 0, 0, 1, 3, 0, .below, 255, 1, false, false⟩,
   ⟨0x3800, 0x08, 0x08, .u32, .rws, 10000, 10000, 4, 4294967295, 0, .below, 4294967295, 1, false, false⟩,
   ⟨0x3800, 0x09, 0x09, .u32, .rws, 0, 0, 4, 16384, 0, .below, 4294967295, 1, false, false⟩,
   ⟨0x3800, 0x0A, 0x0A, .u8, .rws, 0, 0, 1, 64, 0, .below, 255, 1, false, false⟩,
   ⟨0x3800, 0x0B, 0x0B, .u32, .rws, 0, 0, 4, 4294967295, 0, .below, 4294967295, 1, false, false⟩,
   ⟨0x3800, 0x0C, 0x0C, .u16, .rws, 0, 0, 2, 7168, 0, .below, 65535, 1, false, false⟩,
   ⟨0x3800, 0x0D, 0x0D, .u8, .rws, 0, 0, 1, 56, 0, .below, 255, 1, false, false⟩,
   ⟨0x3800, 0x0E, 0x0E, .bool, .rws, 0, 0, 1, 1, 0, .below, 255, 1, false, false⟩]

/-- Objects from 0x3800:0F on. -/
def objRows14 : List ObjRow :=
  [⟨0x3800, 0x0F, 0x0F, .u8, .rws, 0, 0, 1, 1, 0, .below, 255, 1, false, false⟩,
   ⟨0x3800, 0x10, 0x10, .u64, .rws, 0, 0, 8, 18446744073709551615, 0, .below, 18446744073709551615, 1, false, false⟩,
   ⟨0x3800, 0x11, 0x11, .cmd, .cmd, 0, 0, 1, 255, 0, .below, 255, 1, false, false⟩,
   ⟨0x3800, 0x12, 0x12, .u8, .ro, 0, 0, 1, 255, 0, .below, 255, 0, false, false⟩,
   ⟨0x3800, 0x13, 0x13, .u16, .ro, 0, 0, 2, 65535, 0, .below, 65535, 0, false, false⟩,
   ⟨0x3800, 0x14, 0x14, .u32, .ro, 0, 0, 4, 4294967295, 0, .below, 4294967295, 0, false, false⟩,
   ⟨0x3800, 0x15, 0x15, .u64, .wo, 0, 0, 8, 18446744073709551615, 0, .below, 18446744073709551615, 0, false, false⟩,
   ⟨0x3800, 0xFF, 0xFF, .domain, .ro, 0, 0, 0, 0, 0, .below, 0, 0, false, false⟩,
   ⟨0x3810, 0x00, 0x00, .u8, .ro, 15, 15, 1, 255, 0, .below, 255, 0, false, false⟩,
   ⟨0x3810, 0x01, 0x01, .u32, .rw, 10000, 10000, 4, 4294967295, 0, .below, 4294967295, 0, false, false⟩,
   ⟨0x3810, 0x02, 0x02, .u32, .rw, 100, 100, 4, 4294967295, 0, .below, 4294967295, 0, false, false⟩,
   ⟨0x3810, 0x03, 0x03, .u8, .rw, 64, 64, 1, 255, 0, .below, 255, 0, false, false⟩,
   ⟨0x3810, 0x04, 0x04, .u32, .rw, 2000, 2000, 4, 4294967295, 100, .below, 4294967295, 0, false, false⟩,
   ⟨0x3810, 0x05, 0x05, .u32, .rw, 1000, 1000, 4, 4294967295, 100, .below, 4294967295, 0, false, false⟩,
   ⟨0x3810, 0x06, 0x06, .u16, .ro, 4095, 4095, 2, 65535, 0, .below, 65535, 0, false, false⟩,
   ⟨0x3810, 0x07, 0x07, .u16, .ro, 0, 0, 2, 65535, 0, .below, 65535, 0, false, false⟩,
   ⟨0x3810, 0x08, 0x08, .u8, .ro, 0, 0, 1, 255, 0, .below, 255, 0, false, false⟩,
   ⟨0x3810, 0x09, 0x09, .u32, .ro, 0, 0, 4, 4294967295, 0, .below, 4294967295, 0, false, false⟩,
   ⟨0x3810, 0x0A, 0x0A, .domain, .ro, 0, 0, 4096, 0, 0, .below, 0, 0, false, false⟩,
   ⟨0x3810, 0x0B, 0x0B, .u32, .ro, 98304, 98304, 4, 4294967295, 0, .below, 4294967295, 0, false, false⟩,
   ⟨0x3810, 0x0C, 0x0C, .u32, .ro, 98304, 98304, 4, 4294967295, 0, .below, 4294967295, 0, false, false⟩,
   ⟨0x3810, 0x0D, 0x0D, .u32, .rw, 200, 200, 4, 4294967295, 200, .below, 4294967295, 0, false, false⟩,
   ⟨0x3810, 0x0E, 0x0E, .u64, .ro, 0, 0, 8, 18446744073709551615, 0, .below, 18446744073709551615, 0, false, false⟩,
   ⟨0x3810, 0x0F, 0x0F, .u64, .ro, 0, 0, 8, 18446744073709551615, 0, .below, 18446744073709551615, 0, false, false⟩]

/-- Objects from 0x3820:00 on. -/
def objRows15 : List ObjRow :=
  [⟨0x3820, 0x00, 0x00, .u8, .ro, 17, 17, 1, 255, 0, .below, 255, 0, true, false⟩,
   ⟨0x3820, 0x01, 0x01, .u8, .ro, 0, 0, 1, 255, 0, .below, 255, 0, true, false⟩,
   ⟨0x3820, 0x02, 0x02, .u8, .ro, 0, 0, 1, 255, 0, .below, 255, 0, true, false⟩,
   ⟨0x3820, 0x03, 0x03, .u16, .ro, 0, 0, 2, 65535, 0, .below, 65535, 0, true, false⟩,
   ⟨0x3820, 0x04, 0x04, .u32, .ro, 0, 0, 4, 4294967295, 0, .below, 4294967295, 0, true, false⟩,
   ⟨0x3820, 0x05, 0x05, .domain, .ro, 0, 0, 16384, 0, 0, .below, 0, 0, true, false⟩,
   ⟨0x3820, 0x06, 0x06, .bool, .ro, 0, 0, 1, 1, 0, .below, 255, 0, true, false⟩,
   ⟨0x3820, 0x07, 0x07, .u32, .ro, 0, 0, 4, 4294967295, 0, .below, 4294967295, 0, true, false⟩,
   ⟨0x3820, 0x08, 0x08, .u8, .ro, 0, 0, 1, 255, 0, .below, 255, 0, true, false⟩,
   ⟨0x3820, 0x09, 0x09, .u32, .ro, 0, 0, 4, 4294967295, 0, .below, 4294967295, 0, true, false⟩,
   ⟨0x3820, 0x0A, 0x0A, .u32, .ro, 0, 0, 4, 4294967295, 0, .below, 4294967295, 0, true, false⟩,
   ⟨0x3820, 0x0B, 0x0B, .u32, .ro, 0, 0, 4, 4294967295, 0, .below, 4294967295, 0, true, false⟩,
   ⟨0x3820, 0x0C, 0x0C, .u16, .ro, 0, 0, 2, 65535, 0, .below, 65535, 0, true, false⟩,
   ⟨0x3820, 0x0D, 0x0D, .u8, .ro, 0, 0, 1, 255, 0, .below, 255, 0, true, false⟩,
   ⟨0x3820, 0x0E, 0x0E, .cmd, .cmd, 0, 0, 1, 255, 0, .below, 255, 0, true, false⟩,
   ⟨0x3820, 0x0F, 0x0F, .u8, .ro, 0, 0, 1, 255, 0, .below, 255, 0, true, false⟩,
   ⟨0x3820, 0x10, 0x10, .u8, .ro, 0, 0, 1, 255, 0, .below, 255, 0, true, false⟩,
   ⟨0x3820, 0x11, 0x11, .u64, .ro, 0, 0, 8, 18446744073709551615, 0, .below, 18446744073709551615, 0, true, false⟩,
   ⟨0x3830, 0x00, 0x00, .u8, .ro, 2, 2, 1, 255, 0, .below, 255, 0, true, false⟩,
   ⟨0x3830, 0x01, 0x01, .domain, .ro, 0, 0, 0, 0, 0, .below, 0, 0, true, false⟩,
   ⟨0x3830, 0x02, 0x02, .u32, .ro, 0, 0, 4, 4294967295, 0, .below, 4294967295, 0, true, false⟩,
   ⟨0x3C00, 0x00, 0x00, .u8, .ro, 7, 7, 1, 255, 0, .below, 255, 0, false, false⟩,
   ⟨0x3C00, 0x01, 0x01, .u8, .ro, 64, 64, 1, 255, 0, .below, 255, 0, false, false⟩,
   ⟨0x3C00, 0x02, 0x02, .u8, .ro, 4, 4, 1, 255, 0, .below, 255, 0, false, false⟩]

/-- Objects from 0x3C00:03 on. [DESIGN CHOICE, log 92] -/
def objRows16 : List ObjRow :=
  [⟨0x3C00, 0x03, 0x03, .domain, .ro, 0, 0, 68, 0, 0, .below, 0, 0, false, false⟩,
   ⟨0x3C00, 0x04, 0x04, .u8, .ro, 48, 48, 1, 255, 0, .below, 255, 0, false, false⟩,
   ⟨0x3C00, 0x05, 0x05, .u8, .rw, 16, 16, 1, 255, 0, .below, 255, 0, false, false⟩,
   ⟨0x3C00, 0x06, 0x06, .u64, .ro, 0, 0, 8, 18446744073709551615, 0, .below, 18446744073709551615, 0, false, false⟩,
   ⟨0x3C00, 0x07, 0x07, .u8, .ro, 0, 0, 1, 255, 0, .below, 255, 0, false, false⟩,
   ⟨0x3C10, 0x00, 0x00, .u8, .ro, 11, 11, 1, 255, 0, .below, 255, 0, true, false⟩,
   ⟨0x3C10, 0x01, 0x01, .domain, .wo, 0, 0, 0, 0, 0, .below, 0, 0, true, false⟩,
   ⟨0x3C10, 0x02, 0x02, .cmd, .cmd, 0, 0, 1, 255, 0, .below, 255, 0, true, false⟩,
   ⟨0x3C10, 0x03, 0x03, .u16, .ro, 0, 0, 2, 65535, 0, .below, 65535, 0, true, false⟩,
   ⟨0x3C10, 0x04, 0x04, .u32, .ro, 0, 0, 4, 4294967295, 0, .below, 4294967295, 0, true, false⟩,
   ⟨0x3C10, 0x05, 0x05, .cmd, .cmd, 0, 0, 1, 255, 0, .below, 255, 0, true, false⟩,
   ⟨0x3C10, 0x06, 0x06, .u32, .ro, 0, 0, 4, 4294967295, 0, .below, 4294967295, 0, true, false⟩,
   ⟨0x3C10, 0x07, 0x07, .u64, .ro, 0, 0, 8, 18446744073709551615, 0, .below, 18446744073709551615, 0, true, true⟩,
   ⟨0x3C10, 0x08, 0x08, .u64, .ro, 0, 0, 8, 18446744073709551615, 0, .below, 18446744073709551615, 0, true, false⟩,
   ⟨0x3C10, 0x09, 0x09, .u64, .ro, 0, 0, 8, 18446744073709551615, 0, .below, 18446744073709551615, 0, true, false⟩,
   ⟨0x3C10, 0x0A, 0x0A, .domain, .ro, 0, 0, 32, 0, 0, .below, 0, 0, true, true⟩,
   ⟨0x3C10, 0x0B, 0x0B, .u32, .ro, 0, 0, 4, 4294967295, 0, .below, 4294967295, 0, true, false⟩,
   ⟨0x3C11, 0x00, 0x00, .u8, .ro, 1, 1, 1, 255, 0, .below, 255, 0, false, false⟩,
   ⟨0x3C11, 0x01, 0x01, .u16, .rw, 0, 0, 2, 4095, 0, .below, 65535, 0, false, false⟩,
   ⟨0x3C20, 0x00, 0x00, .u8, .ro, 68, 68, 1, 255, 0, .below, 255, 0, false, false⟩,
   ⟨0x3C20, 0x01, 0x44, .u32, .ro, 0, 0, 4, 4294967295, 0, .below, 4294967295, 0, false, false⟩,
   ⟨0x3C30, 0x00, 0x00, .u8, .ro, 11, 11, 1, 255, 0, .below, 255, 0, false, false⟩,
   ⟨0x3C30, 0x01, 0x01, .u64, .ro, 0, 0, 8, 18446744073709551615, 0, .below, 18446744073709551615, 0, false, false⟩,
   ⟨0x3C30, 0x02, 0x02, .u64, .ro, 0, 0, 8, 18446744073709551615, 0, .below, 18446744073709551615, 0, false, false⟩]

/-- Objects from 0x3C30:03 on. -/
def objRows17 : List ObjRow :=
  [⟨0x3C30, 0x03, 0x03, .u64, .ro, 0, 0, 8, 18446744073709551615, 0, .below, 18446744073709551615, 0, false, false⟩,
   ⟨0x3C30, 0x04, 0x04, .u32, .ro, 0, 0, 4, 4294967295, 0, .below, 4294967295, 0, false, false⟩,
   ⟨0x3C30, 0x05, 0x05, .u64, .ro, 0, 0, 8, 18446744073709551615, 0, .below, 18446744073709551615, 0, false, false⟩,
   ⟨0x3C30, 0x06, 0x06, .u32, .ro, 0, 0, 4, 4294967295, 0, .below, 4294967295, 0, false, false⟩,
   ⟨0x3C30, 0x07, 0x07, .u64, .ro, 0, 0, 8, 18446744073709551615, 0, .below, 18446744073709551615, 0, false, false⟩,
   ⟨0x3C30, 0x08, 0x08, .u32, .ro, 0, 0, 4, 4294967295, 0, .below, 4294967295, 0, false, false⟩,
   ⟨0x3C30, 0x09, 0x09, .u16, .rw, 64, 64, 2, 65535, 0, .below, 65535, 0, false, false⟩,
   ⟨0x3C30, 0x0A, 0x0A, .u16, .rw, 60, 60, 2, 3600, 10, .below, 65535, 0, false, false⟩,
   ⟨0x3C30, 0x0B, 0x0B, .u8, .rw, 4, 4, 1, 168, 1, .below, 255, 0, false, false⟩,
   ⟨0x3C40, 0x00, 0x00, .u8, .ro, 7, 7, 1, 255, 0, .below, 255, 0, false, false⟩,
   ⟨0x3C40, 0x01, 0x01, .u16, .rw, 320, 320, 2, 65535, 257, .butZero, 65535, 0, false, false⟩,
   ⟨0x3C40, 0x02, 0x02, .u8, .rw, 100, 100, 1, 255, 1, .below, 255, 0, false, false⟩,
   ⟨0x3C40, 0x03, 0x03, .u16, .rw, 60, 60, 2, 65535, 1, .below, 65535, 0, false, false⟩,
   ⟨0x3C40, 0x04, 0x04, .cmd, .cmd, 0, 0, 1, 255, 0, .below, 255, 0, false, false⟩,
   ⟨0x3C40, 0x05, 0x05, .u32, .ro, 0, 0, 4, 4294967295, 0, .below, 4294967295, 0, false, false⟩,
   ⟨0x3C40, 0x06, 0x06, .u32, .ro, 0, 0, 4, 4294967295, 0, .below, 4294967295, 0, false, false⟩,
   ⟨0x3C40, 0x07, 0x07, .u16, .ro, 0, 0, 2, 65535, 0, .below, 65535, 0, false, false⟩,
   ⟨0x3E00, 0x00, 0x00, .u8, .ro, 4, 4, 1, 255, 0, .below, 255, 0, false, false⟩,
   ⟨0x3E00, 0x01, 0x01, .u16, .ro, 7168, 7168, 2, 65535, 0, .below, 65535, 0, false, false⟩,
   ⟨0x3E00, 0x02, 0x02, .u64, .ro, 0, 0, 8, 18446744073709551615, 0, .below, 18446744073709551615, 0, false, false⟩,
   ⟨0x3E00, 0x03, 0x03, .u32, .ro, 0, 0, 4, 4294967295, 0, .below, 4294967295, 0, false, false⟩,
   ⟨0x3E00, 0x04, 0x04, .u32, .ro, 0, 0, 4, 4294967295, 0, .below, 4294967295, 0, false, false⟩,
   ⟨0x4000, 0x00, 0x00, .u8, .ro, 7, 7, 1, 255, 0, .below, 255, 0, false, false⟩,
   ⟨0x4000, 0x01, 0x01, .u32, .rw, 1000, 1000, 4, 4294967295, 100, .below, 10000, 0, false, false⟩]

/-- Objects from 0x4000:02 on. -/
def objRows18 : List ObjRow :=
  [⟨0x4000, 0x02, 0x02, .u32, .rw, 8000, 8000, 4, 4294967295, 0, .below, 64000, 0, false, false⟩,
   ⟨0x4000, 0x03, 0x03, .u16, .rw, 10, 10, 2, 65535, 1, .below, 65535, 0, false, false⟩,
   ⟨0x4000, 0x04, 0x04, .u16, .ro, 1, 1, 2, 65535, 0, .below, 65535, 0, false, false⟩,
   ⟨0x4000, 0x05, 0x05, .u32, .ro, 4096, 4096, 4, 4294967295, 0, .below, 4294967295, 0, false, false⟩,
   ⟨0x4000, 0x06, 0x06, .u64, .ro, 0, 0, 8, 18446744073709551615, 0, .below, 18446744073709551615, 0, false, false⟩,
   ⟨0x4000, 0x07, 0x07, .u64, .ro, 0, 0, 8, 18446744073709551615, 0, .below, 18446744073709551615, 0, false, false⟩,
   ⟨0x4010, 0x00, 0x00, .u8, .ro, 5, 5, 1, 255, 0, .below, 255, 0, true, false⟩,
   ⟨0x4010, 0x01, 0x01, .domain, .rw, 0, 0, 128, 0, 0, .below, 0, 0, true, false⟩,
   ⟨0x4010, 0x02, 0x02, .u64, .rw, 0, 0, 8, 281474976710655, 0, .below, 18446744073709551615, 0, true, false⟩,
   ⟨0x4010, 0x03, 0x03, .domain, .ro, 0, 0, 0, 0, 0, .below, 0, 0, true, false⟩,
   ⟨0x4010, 0x04, 0x04, .u32, .rw, 4096, 4096, 4, 4294967295, 256, .below, 1048576, 0, true, false⟩,
   ⟨0x4010, 0x05, 0x05, .u32, .ro, 0, 0, 4, 4294967295, 0, .below, 4294967295, 0, true, false⟩,
   ⟨0x5000, 0x00, 0x00, .u8, .ro, 16, 16, 1, 255, 0, .below, 255, 0, false, false⟩,
   ⟨0x5000, 0x01, 0x01, .u8, .rw, 0, 0, 1, 1, 0, .below, 255, 0, false, false⟩,
   ⟨0x5000, 0x02, 0x02, .u8, .ro, 0, 0, 1, 255, 0, .below, 255, 0, false, false⟩,
   ⟨0x5000, 0x03, 0x03, .u64, .ro, 0, 0, 8, 18446744073709551615, 0, .below, 18446744073709551615, 0, false, false⟩,
   ⟨0x5000, 0x04, 0x04, .u64, .ro, 0, 0, 8, 18446744073709551615, 0, .below, 18446744073709551615, 0, false, false⟩,
   ⟨0x5000, 0x05, 0x05, .u32, .ro, 0, 0, 4, 4294967295, 0, .below, 4294967295, 0, false, false⟩,
   ⟨0x5000, 0x06, 0x06, .u32, .rw, 0, 0, 4, 262143, 0, .below, 4294967295, 0, false, false⟩,
   ⟨0x5000, 0x07, 0x07, .u32, .rw, 100, 100, 4, 4294967295, 50, .below, 1000, 0, false, false⟩,
   ⟨0x5000, 0x08, 0x08, .u8, .rw, 3, 3, 1, 8, 1, .below, 255, 0, false, false⟩,
   ⟨0x5000, 0x09, 0x09, .u32, .rw, 100, 100, 4, 4294967295, 10, .onlyZero, 4294967295, 0, false, false⟩,
   ⟨0x5000, 0x0A, 0x0A, .u32, .ro, 0, 0, 4, 4294967295, 0, .below, 4294967295, 0, false, false⟩,
   ⟨0x5000, 0x0B, 0x0B, .u32, .ro, 0, 0, 4, 4294967295, 0, .below, 4294967295, 0, false, false⟩]

/-- Objects from 0x5000:0C on. -/
def objRows19 : List ObjRow :=
  [⟨0x5000, 0x0C, 0x0C, .u32, .ro, 0, 0, 4, 4294967295, 0, .below, 4294967295, 0, false, false⟩,
   ⟨0x5000, 0x0D, 0x0D, .bool, .rw, 1, 1, 1, 1, 0, .below, 255, 0, false, false⟩,
   ⟨0x5000, 0x0E, 0x0E, .bool, .rw, 0, 0, 1, 1, 0, .below, 255, 0, false, false⟩,
   ⟨0x5000, 0x0F, 0x0F, .cmd, .cmd, 0, 0, 1, 255, 0, .below, 255, 0, false, false⟩,
   ⟨0x5000, 0x10, 0x10, .u16, .rw, 5, 5, 2, 65535, 1, .below, 65535, 0, false, false⟩,
   ⟨0x5010, 0x00, 0x00, .u8, .ro, 7, 7, 1, 255, 0, .below, 255, 0, false, false⟩,
   ⟨0x5010, 0x01, 0x01, .u8, .ro, 255, 255, 1, 255, 0, .below, 255, 0, false, false⟩,
   ⟨0x5010, 0x02, 0x02, .u8, .ro, 255, 255, 1, 255, 0, .below, 255, 0, false, false⟩,
   ⟨0x5010, 0x03, 0x03, .u8, .ro, 0, 0, 1, 255, 0, .below, 255, 0, false, false⟩,
   ⟨0x5010, 0x04, 0x04, .u64, .ro, 0, 0, 8, 18446744073709551615, 0, .below, 18446744073709551615, 0, false, false⟩,
   ⟨0x5010, 0x05, 0x05, .u32, .ro, 0, 0, 4, 4294967295, 0, .below, 4294967295, 0, false, false⟩,
   ⟨0x5010, 0x06, 0x06, .cmd, .cmd, 0, 0, 1, 255, 0, .below, 255, 0, false, false⟩,
   ⟨0x5010, 0x07, 0x07, .u8, .ro, 0, 0, 1, 255, 0, .below, 255, 0, false, false⟩,
   ⟨0x5100, 0x00, 0x00, .u8, .ro, 16, 16, 1, 255, 0, .below, 255, 0, false, false⟩,
   ⟨0x5100, 0x01, 0x01, .u32, .rw, 200, 200, 4, 10000, 0, .below, 4294967295, 0, false, false⟩,
   ⟨0x5100, 0x02, 0x02, .u32, .rw, 500, 500, 4, 4294967295, 100, .below, 4294967295, 0, false, false⟩,
   ⟨0x5100, 0x03, 0x03, .u16, .rw, 10, 10, 2, 65535, 0, .below, 65535, 0, false, false⟩,
   ⟨0x5100, 0x04, 0x04, .u8, .rw, 8, 8, 1, 255, 0, .below, 255, 0, false, false⟩,
   ⟨0x5100, 0x05, 0x05, .u32, .rw, 600, 600, 4, 4294967295, 0, .below, 4294967295, 0, false, false⟩,
   ⟨0x5100, 0x06, 0x06, .u32, .rw, 1000, 1000, 4, 4294967295, 0, .below, 4294967295, 0, false, false⟩,
   ⟨0x5100, 0x07, 0x07, .u32, .rw, 30000, 30000, 4, 4294967295, 0, .below, 4294967295, 0, false, false⟩,
   ⟨0x5100, 0x08, 0x08, .u32, .rw, 20, 20, 4, 4294967295, 1, .below, 4294967295, 0, false, false⟩,
   ⟨0x5100, 0x09, 0x09, .u32, .rw, 50000, 50000, 4, 4294967295, 1000, .butZero, 4294967295, 0, false, false⟩,
   ⟨0x5100, 0x0A, 0x0A, .u32, .rw, 1000, 1000, 4, 4294967295, 0, .below, 4294967295, 0, false, false⟩]

/-- Objects from 0x5100:0B on. -/
def objRows20 : List ObjRow :=
  [⟨0x5100, 0x0B, 0x0B, .bool, .rw, 0, 0, 1, 1, 0, .below, 255, 0, false, false⟩,
   ⟨0x5100, 0x0C, 0x0C, .u64, .ro, 0, 0, 8, 18446744073709551615, 0, .below, 18446744073709551615, 0, false, false⟩,
   ⟨0x5100, 0x0D, 0x0D, .u64, .ro, 0, 0, 8, 18446744073709551615, 0, .below, 18446744073709551615, 0, false, false⟩,
   ⟨0x5100, 0x0E, 0x0E, .u32, .ro, 0, 0, 4, 4294967295, 0, .below, 4294967295, 0, false, false⟩,
   ⟨0x5100, 0x0F, 0x0F, .u64, .ro, 0, 0, 8, 18446744073709551615, 0, .below, 18446744073709551615, 0, false, false⟩,
   ⟨0x5100, 0x10, 0x10, .u64, .ro, 0, 0, 8, 18446744073709551615, 0, .below, 18446744073709551615, 0, false, false⟩,
   ⟨0x5110, 0x00, 0x00, .u8, .ro, 9, 9, 1, 255, 0, .below, 255, 0, false, false⟩,
   ⟨0x5110, 0x01, 0x01, .u8, .rws, 4, 4, 1, 255, 1, .below, 255, 2, false, false⟩,
   ⟨0x5110, 0x02, 0x02, .u32, .rws, 3600, 3600, 4, 4294967295, 0, .below, 4294967295, 2, false, false⟩,
   ⟨0x5110, 0x03, 0x03, .u8, .rws, 3, 3, 1, 255, 1, .below, 255, 2, false, false⟩,
   ⟨0x5110, 0x04, 0x04, .u32, .rws, 3600, 3600, 4, 4294967295, 0, .below, 4294967295, 2, false, false⟩,
   ⟨0x5110, 0x05, 0x05, .u8, .rws, 3, 3, 1, 255, 1, .below, 255, 2, false, false⟩,
   ⟨0x5110, 0x06, 0x06, .u32, .rws, 86400, 86400, 4, 4294967295, 0, .below, 4294967295, 2, false, false⟩,
   ⟨0x5110, 0x07, 0x07, .cmd, .cmd, 0, 0, 1, 255, 0, .below, 255, 2, false, false⟩,
   ⟨0x5110, 0x08, 0x08, .u8, .ro, 0, 0, 1, 255, 0, .below, 255, 0, false, false⟩,
   ⟨0x5110, 0x09, 0x09, .bool, .ro, 0, 0, 1, 1, 0, .below, 255, 0, false, false⟩,
   ⟨0x5110, 0xFF, 0xFF, .domain, .ro, 0, 0, 0, 0, 0, .below, 0, 0, false, false⟩,
   ⟨0x5120, 0x00, 0x00, .u8, .ro, 5, 5, 1, 255, 0, .below, 255, 0, false, false⟩,
   ⟨0x5120, 0x01, 0x01, .u32, .rw, 0, 0, 4, 131071, 0, .below, 4294967295, 0, false, false⟩,
   ⟨0x5120, 0x02, 0x02, .u8, .ro, 3, 3, 1, 255, 0, .below, 255, 0, false, false⟩,
   ⟨0x5120, 0x03, 0x03, .u8, .ro, 0, 0, 1, 255, 0, .below, 255, 0, false, false⟩,
   ⟨0x5120, 0x04, 0x04, .u8, .ro, 255, 255, 1, 255, 0, .below, 255, 0, false, false⟩,
   ⟨0x5120, 0x05, 0x05, .cmd, .cmd, 0, 0, 1, 255, 0, .below, 255, 0, false, false⟩,
   ⟨0x5130, 0x00, 0x00, .u8, .ro, 4, 4, 1, 255, 0, .below, 255, 0, false, false⟩]

/-- Objects from 0x5130:01 on. -/
def objRows21 : List ObjRow :=
  [⟨0x5130, 0x01, 0x01, .u32, .rw, 0, 0, 4, 1048575, 0, .below, 4294967295, 0, false, false⟩,
   ⟨0x5130, 0x02, 0x02, .u8, .ro, 0, 0, 1, 255, 0, .below, 255, 0, false, false⟩,
   ⟨0x5130, 0x03, 0x03, .u8, .ro, 0, 0, 1, 255, 0, .below, 255, 0, false, false⟩,
   ⟨0x5130, 0x04, 0x04, .cmd, .cmd, 0, 0, 1, 255, 0, .below, 255, 0, false, false⟩,
   ⟨0x6000, 0x00, 0x00, .u8, .ro, 17, 17, 1, 255, 0, .below, 255, 0, false, false⟩,
   ⟨0x6000, 0x01, 0x01, .u32, .ro, 262142, 262142, 4, 4294967295, 0, .below, 4294967295, 0, false, false⟩,
   ⟨0x6000, 0x02, 0x02, .u8, .ro, 255, 255, 1, 255, 0, .below, 255, 0, false, false⟩,
   ⟨0x6000, 0x03, 0x03, .u8, .ro, 1, 1, 1, 255, 0, .below, 255, 0, false, false⟩,
   ⟨0x6000, 0x04, 0x04, .u32, .ro, 0, 0, 4, 4294967295, 0, .below, 4294967295, 0, false, false⟩,
   ⟨0x6000, 0x05, 0x05, .u32, .ro, 0, 0, 4, 4294967295, 0, .below, 4294967295, 0, false, false⟩,
   ⟨0x6000, 0x06, 0x06, .u64, .ro, 0, 0, 8, 18446744073709551615, 0, .below, 18446744073709551615, 0, false, false⟩,
   ⟨0x6000, 0x07, 0x07, .u32, .ro, 0, 0, 4, 4294967295, 0, .below, 4294967295, 0, false, false⟩,
   ⟨0x6000, 0x08, 0x08, .bool, .ro, 0, 0, 1, 1, 0, .below, 255, 0, false, false⟩,
   ⟨0x6000, 0x09, 0x09, .u64, .ro, 0, 0, 8, 18446744073709551615, 0, .below, 18446744073709551615, 0, false, false⟩,
   ⟨0x6000, 0x0A, 0x0A, .u32, .ro, 0, 0, 4, 4294967295, 0, .below, 4294967295, 0, false, false⟩,
   ⟨0x6000, 0x0B, 0x0B, .u8, .ro, 0, 0, 1, 255, 0, .below, 255, 0, false, false⟩,
   ⟨0x6000, 0x0C, 0x0C, .u32, .ro, 0, 0, 4, 4294967295, 0, .below, 4294967295, 0, false, false⟩,
   ⟨0x6000, 0x0D, 0x0D, .u32, .ro, 0, 0, 4, 4294967295, 0, .below, 4294967295, 0, false, false⟩,
   ⟨0x6000, 0x0E, 0x0E, .cmd, .cmd, 0, 0, 1, 255, 0, .below, 255, 0, false, false⟩,
   ⟨0x6000, 0x0F, 0x0F, .u32, .ro, 0, 0, 4, 4294967295, 0, .below, 4294967295, 0, false, false⟩,
   ⟨0x6000, 0x10, 0x10, .u32, .ro, 0, 0, 4, 4294967295, 0, .below, 4294967295, 0, false, false⟩,
   ⟨0x6000, 0x11, 0x11, .u32, .ro, 0, 0, 4, 4294967295, 0, .below, 4294967295, 0, false, false⟩,
   ⟨0x6010, 0x00, 0x00, .u8, .ro, 6, 6, 1, 255, 0, .below, 255, 0, false, false⟩,
   ⟨0x6010, 0x01, 0x01, .u32, .rw, 4294967295, 4294967295, 4, 4294967295, 0, .below, 4294967295, 0, false, false⟩]

/-- Objects from 0x6010:02 on. -/
def objRows22 : List ObjRow :=
  [⟨0x6010, 0x02, 0x02, .u32, .ro, 0, 0, 4, 4294967295, 0, .below, 4294967295, 0, false, false⟩,
   ⟨0x6010, 0x03, 0x03, .domain, .ro, 0, 0, 16, 0, 0, .below, 0, 0, false, false⟩,
   ⟨0x6010, 0x04, 0x04, .domain, .ro, 0, 0, 16, 0, 0, .below, 0, 0, false, false⟩,
   ⟨0x6010, 0x05, 0x05, .u8, .ro, 0, 0, 1, 255, 0, .below, 255, 0, false, false⟩,
   ⟨0x6010, 0x06, 0x06, .u64, .ro, 0, 0, 8, 18446744073709551615, 0, .below, 18446744073709551615, 0, false, false⟩,
   ⟨0x6020, 0x00, 0x00, .u8, .ro, 5, 5, 1, 255, 0, .below, 255, 0, false, false⟩,
   ⟨0x6020, 0x01, 0x01, .u8, .rw, 0, 0, 1, 3, 0, .below, 255, 0, false, false⟩,
   ⟨0x6020, 0x02, 0x02, .u32, .ro, 0, 0, 4, 4294967295, 0, .below, 4294967295, 0, false, false⟩,
   ⟨0x6020, 0x03, 0x03, .u32, .ro, 0, 0, 4, 4294967295, 0, .below, 4294967295, 0, false, false⟩,
   ⟨0x6020, 0x04, 0x04, .u32, .ro, 0, 0, 4, 4294967295, 0, .below, 4294967295, 0, false, false⟩,
   ⟨0x6020, 0x05, 0x05, .u8, .ro, 0, 0, 1, 255, 0, .below, 255, 0, false, false⟩,
   ⟨0x6030, 0x00, 0x00, .u8, .ro, 5, 5, 1, 255, 0, .below, 255, 0, false, false⟩,
   ⟨0x6030, 0x01, 0x01, .bool, .ro, 0, 0, 1, 1, 0, .below, 255, 0, false, false⟩,
   ⟨0x6030, 0x02, 0x02, .u64, .ro, 0, 0, 8, 18446744073709551615, 0, .below, 18446744073709551615, 0, false, false⟩,
   ⟨0x6030, 0x03, 0x03, .u16, .ro, 0, 0, 2, 65535, 0, .below, 65535, 0, false, false⟩,
   ⟨0x6030, 0x04, 0x04, .u32, .ro, 0, 0, 4, 4294967295, 0, .below, 4294967295, 0, false, false⟩,
   ⟨0x6030, 0x05, 0x05, .cmd, .cmd, 0, 0, 1, 255, 0, .below, 255, 0, false, false⟩,
   ⟨0x6040, 0x00, 0x00, .u8, .ro, 4, 4, 1, 255, 0, .below, 255, 0, true, false⟩,
   ⟨0x6040, 0x01, 0x01, .domain, .wo, 0, 0, 56, 0, 0, .below, 0, 0, true, false⟩,
   ⟨0x6040, 0x02, 0x02, .domain, .ro, 0, 0, 56, 0, 0, .below, 0, 0, true, true⟩,
   ⟨0x6040, 0x03, 0x03, .u8, .ro, 0, 0, 1, 255, 0, .below, 255, 0, true, false⟩,
   ⟨0x6040, 0x04, 0x04, .u32, .ro, 0, 0, 4, 4294967295, 0, .below, 4294967295, 0, true, false⟩,
   ⟨0x6050, 0x00, 0x00, .u8, .ro, 10, 10, 1, 255, 0, .below, 255, 0, false, false⟩,
   ⟨0x6050, 0x01, 0x01, .u32, .rw, 1000, 1000, 4, 4294967295, 0, .below, 4294967295, 0, false, false⟩]

/-- Objects from 0x6050:02 on. -/
def objRows23 : List ObjRow :=
  [⟨0x6050, 0x02, 0x02, .u32, .rw, 50, 50, 4, 4294967295, 0, .below, 4294967295, 0, false, false⟩,
   ⟨0x6050, 0x03, 0x03, .u16, .rw, 10, 10, 2, 65535, 0, .below, 65535, 0, false, false⟩,
   ⟨0x6050, 0x04, 0x04, .u32, .rw, 500, 500, 4, 4294967295, 0, .below, 4294967295, 0, false, false⟩,
   ⟨0x6050, 0x05, 0x05, .u32, .rw, 1000, 1000, 4, 4294967295, 0, .below, 4294967295, 0, false, false⟩,
   ⟨0x6050, 0x06, 0x06, .bool, .rw, 0, 0, 1, 1, 0, .below, 255, 0, false, false⟩,
   ⟨0x6050, 0x07, 0x07, .u32, .rw, 20, 20, 4, 4294967295, 0, .below, 4294967295, 0, false, false⟩,
   ⟨0x6050, 0x08, 0x08, .u8, .rw, 4, 4, 1, 255, 0, .below, 255, 0, false, false⟩,
   ⟨0x6050, 0x09, 0x09, .u32, .rw, 3600, 3600, 4, 4294967295, 0, .below, 4294967295, 0, false, false⟩,
   ⟨0x6050, 0x0A, 0x0A, .u32, .rw, 1000, 1000, 4, 4294967295, 0, .below, 4294967295, 0, false, false⟩,
   ⟨0x7000, 0x00, 0x00, .u8, .ro, 3, 3, 1, 255, 0, .below, 255, 0, false, false⟩,
   ⟨0x7000, 0x01, 0x01, .domain, .ro, 0, 0, 256, 0, 0, .below, 0, 0, false, false⟩,
   ⟨0x7000, 0x02, 0x02, .u32, .ro, 0, 0, 4, 4294967295, 0, .below, 4294967295, 0, false, false⟩,
   ⟨0x7000, 0x03, 0x03, .u32, .ro, 4294967295, 4294967295, 4, 4294967295, 0, .below, 4294967295, 0, false, false⟩]

/-- Every defined address, in rising order. -/
def objRows : List ObjRow :=
  objRows0 ++
  objRows1 ++
  objRows2 ++
  objRows3 ++
  objRows4 ++
  objRows5 ++
  objRows6 ++
  objRows7 ++
  objRows8 ++
  objRows9 ++
  objRows10 ++
  objRows11 ++
  objRows12 ++
  objRows13 ++
  objRows14 ++
  objRows15 ++
  objRows16 ++
  objRows17 ++
  objRows18 ++
  objRows19 ++
  objRows20 ++
  objRows21 ++
  objRows22 ++
  objRows23

/-- ID_VENDOR. -/
abbrev Obj.ID_VENDOR : Nat := 0x100001
/-- ID_PRODUCT. -/
abbrev Obj.ID_PRODUCT : Nat := 0x100002
/-- ID_NAME. -/
abbrev Obj.ID_NAME : Nat := 0x100003
/-- ID_HW_REV. -/
abbrev Obj.ID_HW_REV : Nat := 0x100004
/-- ID_STEPPING. -/
abbrev Obj.ID_STEPPING : Nat := 0x100005
/-- ID_FW_VER. -/
abbrev Obj.ID_FW_VER : Nat := 0x100006
/-- ID_ROM_VER. -/
abbrev Obj.ID_ROM_VER : Nat := 0x100007
/-- ID_SERIAL. -/
abbrev Obj.ID_SERIAL : Nat := 0x100008
/-- ID_DIE_ID. -/
abbrev Obj.ID_DIE_ID : Nat := 0x100009
/-- ID_DICT_VER. -/
abbrev Obj.ID_DICT_VER : Nat := 0x10000A
/-- ID_PROFILE. -/
abbrev Obj.ID_PROFILE : Nat := 0x10000B
/-- ID_NID. -/
abbrev Obj.ID_NID : Nat := 0x10000C
/-- DV_TIME. -/
abbrev Obj.DV_TIME : Nat := 0x101001
/-- DV_RESET_CAUSE. -/
abbrev Obj.DV_RESET_CAUSE : Nat := 0x101002
/-- DV_RESETS. -/
abbrev Obj.DV_RESETS : Nat := 0x101003
/-- DV_TEMP. -/
abbrev Obj.DV_TEMP : Nat := 0x101004
/-- DV_HEALTH. -/
abbrev Obj.DV_HEALTH : Nat := 0x101005
/-- DV_UPTIME_S. -/
abbrev Obj.DV_UPTIME_S : Nat := 0x101006
/-- DV_RESET. -/
abbrev Obj.DV_RESET : Nat := 0x101007
/-- DD_SEL. -/
abbrev Obj.DD_SEL : Nat := 0x102001
/-- DD_DESC. -/
abbrev Obj.DD_DESC : Nat := 0x102002
/-- DD_NEXT. -/
abbrev Obj.DD_NEXT : Nat := 0x102003
/-- DX_PROXY_US. -/
abbrev Obj.DX_PROXY_US : Nat := 0x103001
/-- DX_PF_MAX. -/
abbrev Obj.DX_PF_MAX : Nat := 0x103002
/-- DX_VF_MAX. -/
abbrev Obj.DX_VF_MAX : Nat := 0x103003
/-- DX_PROXIED. -/
abbrev Obj.DX_PROXIED : Nat := 0x103004
/-- DX_TIMEOUTS. -/
abbrev Obj.DX_TIMEOUTS : Nat := 0x103005
/-- DX_ERRORS. -/
abbrev Obj.DX_ERRORS : Nat := 0x103006
/-- FN_ETHERTYPE. -/
abbrev Obj.FN_ETHERTYPE : Nat := 0x110001
/-- FN_VID. -/
abbrev Obj.FN_VID : Nat := 0x110002
/-- FN_PCP_MAP. -/
abbrev Obj.FN_PCP_MAP : Nat := 0x110003
/-- FN_MAC_BASE. -/
abbrev Obj.FN_MAC_BASE : Nat := 0x110004
/-- FN_RELAY. -/
abbrev Obj.FN_RELAY : Nat := 0x110005
/-- FN_P1_MODE. -/
abbrev Obj.FN_P1_MODE : Nat := 0x110006
/-- FN_HB_US. -/
abbrev Obj.FN_HB_US : Nat := 0x110007
/-- FN_TIME_MS. -/
abbrev Obj.FN_TIME_MS : Nat := 0x110008
/-- FN_REKEY_FRAMES. -/
abbrev Obj.FN_REKEY_FRAMES : Nat := 0x110009
/-- FN_REKEY_S. -/
abbrev Obj.FN_REKEY_S : Nat := 0x11000A
/-- FN_KEY_GRACE_MS. -/
abbrev Obj.FN_KEY_GRACE_MS : Nat := 0x11000B
/-- FN_RELAY_RATE. -/
abbrev Obj.FN_RELAY_RATE : Nat := 0x11000C
/-- FP_STATE. -/
abbrev Obj.FP_STATE : Nat := 0x111001
/-- FC_RX. -/
abbrev Obj.FC_RX : Nat := 0x112001
/-- FC_TX. -/
abbrev Obj.FC_TX : Nat := 0x112002
/-- FC_DROP_FORMAT. -/
abbrev Obj.FC_DROP_FORMAT : Nat := 0x112003
/-- FC_DROP_ASSOC. -/
abbrev Obj.FC_DROP_ASSOC : Nat := 0x112004
/-- FC_DROP_AUTH. -/
abbrev Obj.FC_DROP_AUTH : Nat := 0x112005
/-- FC_DROP_REPLAY. -/
abbrev Obj.FC_DROP_REPLAY : Nat := 0x112006
/-- FC_DROP_GEN. -/
abbrev Obj.FC_DROP_GEN : Nat := 0x112007
/-- FC_DROP_CLASS. -/
abbrev Obj.FC_DROP_CLASS : Nat := 0x112008
/-- FC_REKEYS. -/
abbrev Obj.FC_REKEYS : Nat := 0x112009
/-- FC_RELAYED. -/
abbrev Obj.FC_RELAYED : Nat := 0x11200A
/-- FC_HB_GAPS. -/
abbrev Obj.FC_HB_GAPS : Nat := 0x11200B
/-- HL_RATE. -/
abbrev Obj.HL_RATE : Nat := 0x11F001
/-- HL_WIDTH. -/
abbrev Obj.HL_WIDTH : Nat := 0x11F002
/-- HL_IDE. -/
abbrev Obj.HL_IDE : Nat := 0x11F003
/-- HL_LANES. -/
abbrev Obj.HL_LANES : Nat := 0x11F004
/-- HS_BARRIER_ERR. -/
abbrev Obj.HS_BARRIER_ERR : Nat := 0x11F005
/-- HS_BAD_ACCESS. -/
abbrev Obj.HS_BAD_ACCESS : Nat := 0x11F006
/-- HL_VF_BOUND. -/
abbrev Obj.HL_VF_BOUND : Nat := 0x11F007
/-- SC_MODE. -/
abbrev Obj.SC_MODE : Nat := 0x120001
/-- SC_DEBUG. -/
abbrev Obj.SC_DEBUG : Nat := 0x120002
/-- SC_DEBUG_MAX. -/
abbrev Obj.SC_DEBUG_MAX : Nat := 0x120003
/-- SC_DEBUG_REQ. -/
abbrev Obj.SC_DEBUG_REQ : Nat := 0x120004
/-- SC_NONCE. -/
abbrev Obj.SC_NONCE : Nat := 0x120005
/-- SC_TOKEN. -/
abbrev Obj.SC_TOKEN : Nat := 0x120006
/-- SC_APPLY. -/
abbrev Obj.SC_APPLY : Nat := 0x120007
/-- SC_RESULT. -/
abbrev Obj.SC_RESULT : Nat := 0x120008
/-- SC_EXPIRE. -/
abbrev Obj.SC_EXPIRE : Nat := 0x120009
/-- SC_OWNER. -/
abbrev Obj.SC_OWNER : Nat := 0x12000A
/-- SC_PROVISION. -/
abbrev Obj.SC_PROVISION : Nat := 0x12000B
/-- SC_FUSES. -/
abbrev Obj.SC_FUSES : Nat := 0x12000C
/-- SC_FUSES_SET. -/
abbrev Obj.SC_FUSES_SET : Nat := 0x12000D
/-- AT_NONCE. -/
abbrev Obj.AT_NONCE : Nat := 0x121001
/-- AT_GO. -/
abbrev Obj.AT_GO : Nat := 0x121002
/-- AT_REPORT. -/
abbrev Obj.AT_REPORT : Nat := 0x121003
/-- AT_CERTS. -/
abbrev Obj.AT_CERTS : Nat := 0x121004
/-- AT_SIGNED. -/
abbrev Obj.AT_SIGNED : Nat := 0x121005
/-- PK_ROTATE. -/
abbrev Obj.PK_ROTATE : Nat := 0x122001
/-- PK_EPOCH. -/
abbrev Obj.PK_EPOCH : Nat := 0x122002
/-- PK_SWEEP_PCT. -/
abbrev Obj.PK_SWEEP_PCT : Nat := 0x122003
/-- PK_PERIOD_H. -/
abbrev Obj.PK_PERIOD_H : Nat := 0x122004
/-- PK_ROTATIONS. -/
abbrev Obj.PK_ROTATIONS : Nat := 0x122005
/-- PK_WAIT_MAX_NS. -/
abbrev Obj.PK_WAIT_MAX_NS : Nat := 0x122006
/-- SC_SPDM. -/
abbrev Obj.SC_SPDM : Nat := 0x123001
/-- SP_IDE_STATE. -/
abbrev Obj.SP_IDE_STATE : Nat := 0x123002
/-- PWB_ENGINE. -/
abbrev Obj.PWB_ENGINE : Nat := 0x130001
/-- PWB_TABLE. -/
abbrev Obj.PWB_TABLE : Nat := 0x130002
/-- PWB_STACKS. -/
abbrev Obj.PWB_STACKS : Nat := 0x130003
/-- PWB_CONTROL. -/
abbrev Obj.PWB_CONTROL : Nat := 0x130004
/-- PWB_FIELD. -/
abbrev Obj.PWB_FIELD : Nat := 0x130005
/-- PWB_TRIAD. -/
abbrev Obj.PWB_TRIAD : Nat := 0x130006
/-- PWB_HOSTPATH. -/
abbrev Obj.PWB_HOSTPATH : Nat := 0x130007
/-- PWB_RTP. -/
abbrev Obj.PWB_RTP : Nat := 0x130008
/-- PW_STATE. -/
abbrev Obj.PW_STATE : Nat := 0x131001
/-- PW_DOMAINS. -/
abbrev Obj.PW_DOMAINS : Nat := 0x131002
/-- PW_WAKE_AT. -/
abbrev Obj.PW_WAKE_AT : Nat := 0x131003
/-- PW_WAKE_CAUSE. -/
abbrev Obj.PW_WAKE_CAUSE : Nat := 0x131004
/-- PW_SENTINELS. -/
abbrev Obj.PW_SENTINELS : Nat := 0x131005
/-- PW_INPUT_MW. -/
abbrev Obj.PW_INPUT_MW : Nat := 0x131006
/-- PW_SUPPLY_MV. -/
abbrev Obj.PW_SUPPLY_MV : Nat := 0x131007
/-- PW_REF_LOST. -/
abbrev Obj.PW_REF_LOST : Nat := 0x131008
/-- CK_SEL. -/
abbrev Obj.CK_SEL : Nat := 0x132001
/-- CK_NOMINAL_MHZ. -/
abbrev Obj.CK_NOMINAL_MHZ : Nat := 0x132002
/-- CK_FLOOR_MHZ. -/
abbrev Obj.CK_FLOOR_MHZ : Nat := 0x132003
/-- CK_MIN_MHZ. -/
abbrev Obj.CK_MIN_MHZ : Nat := 0x132004
/-- CK_NOW_MHZ. -/
abbrev Obj.CK_NOW_MHZ : Nat := 0x132005
/-- EV_NEXT_SEQ. -/
abbrev Obj.EV_NEXT_SEQ : Nat := 0x140001
/-- EV_OLDEST_SEQ. -/
abbrev Obj.EV_OLDEST_SEQ : Nat := 0x140002
/-- EV_FIRST_SIZE. -/
abbrev Obj.EV_FIRST_SIZE : Nat := 0x140003
/-- EV_FIRST. -/
abbrev Obj.EV_FIRST : Nat := 0x140004
/-- EV_CLEAR. -/
abbrev Obj.EV_CLEAR : Nat := 0x140005
/-- EV_FWD_SEV. -/
abbrev Obj.EV_FWD_SEV : Nat := 0x140006
/-- EV_DAMAGED. -/
abbrev Obj.EV_DAMAGED : Nat := 0x140007
/-- EV_WRITTEN. -/
abbrev Obj.EV_WRITTEN : Nat := 0x140008
/-- RL_SEL. -/
abbrev Obj.RL_SEL : Nat := 0x141001
/-- RL_RATE. -/
abbrev Obj.RL_RATE : Nat := 0x141002
/-- RL_BURST. -/
abbrev Obj.RL_BURST : Nat := 0x141003
/-- RL_COMMIT. -/
abbrev Obj.RL_COMMIT : Nat := 0x141004
/-- RL_SUPPRESSED. -/
abbrev Obj.RL_SUPPRESSED : Nat := 0x141005
/-- ER_CURSOR. -/
abbrev Obj.ER_CURSOR : Nat := 0x142001
/-- ER_READ. -/
abbrev Obj.ER_READ : Nat := 0x142002
/-- ER_MAX. -/
abbrev Obj.ER_MAX : Nat := 0x142003
/-- ER_LOST. -/
abbrev Obj.ER_LOST : Nat := 0x142004
/-- ER_PENDING. -/
abbrev Obj.ER_PENDING : Nat := 0x142005
/-- MBX_CRC. -/
abbrev Obj.MBX_CRC : Nat := 0x180001
/-- MBX_RANGE. -/
abbrev Obj.MBX_RANGE : Nat := 0x180002
/-- MBX_DONE. -/
abbrev Obj.MBX_DONE : Nat := 0x180003
/-- MBX_REJECT. -/
abbrev Obj.MBX_REJECT : Nat := 0x180004
/-- MBX_DB. -/
abbrev Obj.MBX_DB : Nat := 0x180005
/-- P_VENDOR. -/
abbrev Obj.P_VENDOR : Nat := 0x200001
/-- P_PRODUCT. -/
abbrev Obj.P_PRODUCT : Nat := 0x200002
/-- P_REV. -/
abbrev Obj.P_REV : Nat := 0x200003
/-- P_FW. -/
abbrev Obj.P_FW : Nat := 0x200004
/-- P_SW_SEL. -/
abbrev Obj.P_SW_SEL : Nat := 0x201001
/-- P_SW_ROUTED. -/
abbrev Obj.P_SW_ROUTED : Nat := 0x201002
/-- P_LINK_SEL. -/
abbrev Obj.P_LINK_SEL : Nat := 0x202001
/-- P_LINK_UP. -/
abbrev Obj.P_LINK_UP : Nat := 0x202002
/-- P_LINK_COST. -/
abbrev Obj.P_LINK_COST : Nat := 0x202003
/-- P_ROUTE_EPOCH. -/
abbrev Obj.P_ROUTE_EPOCH : Nat := 0x203001
/-- P_ROUTE_ALGO. -/
abbrev Obj.P_ROUTE_ALGO : Nat := 0x203002
/-- P_RECOMPUTE. -/
abbrev Obj.P_RECOMPUTE : Nat := 0x203003
/-- P_PART_SEL. -/
abbrev Obj.P_PART_SEL : Nat := 0x204001
/-- P_PART_MEMBERS. -/
abbrev Obj.P_PART_MEMBERS : Nat := 0x204002
/-- P_PART_CREATE. -/
abbrev Obj.P_PART_CREATE : Nat := 0x204003
/-- P_PART_DELETE. -/
abbrev Obj.P_PART_DELETE : Nat := 0x204004
/-- P_PART_STATE. -/
abbrev Obj.P_PART_STATE : Nat := 0x204005
/-- P_PART_RESULT. -/
abbrev Obj.P_PART_RESULT : Nat := 0x204006
/-- P_FAULT_HOLDOFF_MS. -/
abbrev Obj.P_FAULT_HOLDOFF_MS : Nat := 0x205001
/-- P_FLAP_LIMIT. -/
abbrev Obj.P_FLAP_LIMIT : Nat := 0x205002
/-- P_HA_ROLE. -/
abbrev Obj.P_HA_ROLE : Nat := 0x206001
/-- P_HA_STATE. -/
abbrev Obj.P_HA_STATE : Nat := 0x206002
/-- P_HA_SWITCHOVER. -/
abbrev Obj.P_HA_SWITCHOVER : Nat := 0x206003
/-- DS_STATE. -/
abbrev Obj.DS_STATE : Nat := 0x300001
/-- DS_WAVE. -/
abbrev Obj.DS_WAVE : Nat := 0x300002
/-- DS_ATTESTED. -/
abbrev Obj.DS_ATTESTED : Nat := 0x300003
/-- DS_WAVE_MAX. -/
abbrev Obj.DS_WAVE_MAX : Nat := 0x300004
/-- DS_SETTLE_MS. -/
abbrev Obj.DS_SETTLE_MS : Nat := 0x300005
/-- DS_READY_MS. -/
abbrev Obj.DS_READY_MS : Nat := 0x300006
/-- DS_RESTART. -/
abbrev Obj.DS_RESTART : Nat := 0x300007
/-- BP_IMAGE. -/
abbrev Obj.BP_IMAGE : Nat := 0x301001
/-- BP_RESULT. -/
abbrev Obj.BP_RESULT : Nat := 0x301002
/-- BP_OFFSET. -/
abbrev Obj.BP_OFFSET : Nat := 0x301003
/-- BP_NODES. -/
abbrev Obj.BP_NODES : Nat := 0x301004
/-- BP_LINKS. -/
abbrev Obj.BP_LINKS : Nat := 0x301005
/-- BP_DIGEST. -/
abbrev Obj.BP_DIGEST : Nat := 0x301006
/-- TM_NID. -/
abbrev Obj.TM_NID : Nat := 0x302001
/-- TM_OFFSET. -/
abbrev Obj.TM_OFFSET : Nat := 0x302002
/-- TM_BOUND. -/
abbrev Obj.TM_BOUND : Nat := 0x302003
/-- TM_AGE. -/
abbrev Obj.TM_AGE : Nat := 0x302004
/-- TM_SAMPLES. -/
abbrev Obj.TM_SAMPLES : Nat := 0x302005
/-- CL_MISSING. -/
abbrev Obj.CL_MISSING : Nat := 0x303001
/-- CL_EXTRA. -/
abbrev Obj.CL_EXTRA : Nat := 0x303002
/-- CL_MISWIRED. -/
abbrev Obj.CL_MISWIRED : Nat := 0x303003
/-- CL_WRONG_KIND. -/
abbrev Obj.CL_WRONG_KIND : Nat := 0x303004
/-- CL_N_MISS_NODE. -/
abbrev Obj.CL_N_MISS_NODE : Nat := 0x303005
/-- CL_N_MISS_LINK. -/
abbrev Obj.CL_N_MISS_LINK : Nat := 0x303006
/-- CL_N_EXTRA. -/
abbrev Obj.CL_N_EXTRA : Nat := 0x303007
/-- CL_N_MISWIRED. -/
abbrev Obj.CL_N_MISWIRED : Nat := 0x303008
/-- CL_N_WRONG_KIND. -/
abbrev Obj.CL_N_WRONG_KIND : Nat := 0x303009
/-- RY_MISS_NODE. -/
abbrev Obj.RY_MISS_NODE : Nat := 0x304001
/-- RY_MISS_LINK. -/
abbrev Obj.RY_MISS_LINK : Nat := 0x304002
/-- RY_EXTRA. -/
abbrev Obj.RY_EXTRA : Nat := 0x304003
/-- RY_MISWIRED. -/
abbrev Obj.RY_MISWIRED : Nat := 0x304004
/-- RY_WRONG_KIND. -/
abbrev Obj.RY_WRONG_KIND : Nat := 0x304005
/-- BT_SLOT. -/
abbrev Obj.BT_SLOT : Nat := 0x305001
/-- BT_FALLBACK. -/
abbrev Obj.BT_FALLBACK : Nat := 0x305002
/-- BT_STACK_SAVED. -/
abbrev Obj.BT_STACK_SAVED : Nat := 0x305003
/-- BT_STACK_MS. -/
abbrev Obj.BT_STACK_MS : Nat := 0x305004
/-- BT_FRESH. -/
abbrev Obj.BT_FRESH : Nat := 0x305005
/-- BT_BOOT_MS. -/
abbrev Obj.BT_BOOT_MS : Nat := 0x305006
/-- FW_IMAGE. -/
abbrev Obj.FW_IMAGE : Nat := 0x310001
/-- FW_GO. -/
abbrev Obj.FW_GO : Nat := 0x310002
/-- FW_STATE. -/
abbrev Obj.FW_STATE : Nat := 0x310003
/-- FW_TARGETS. -/
abbrev Obj.FW_TARGETS : Nat := 0x310004
/-- FW_PASS. -/
abbrev Obj.FW_PASS : Nat := 0x310005
/-- FW_PASSES. -/
abbrev Obj.FW_PASSES : Nat := 0x310006
/-- FW_MCAST_BP. -/
abbrev Obj.FW_MCAST_BP : Nat := 0x310007
/-- FW_COMPLETE. -/
abbrev Obj.FW_COMPLETE : Nat := 0x310008
/-- FW_FAILED. -/
abbrev Obj.FW_FAILED : Nat := 0x310009
/-- FW_BATCH. -/
abbrev Obj.FW_BATCH : Nat := 0x31000A
/-- FW_ACTIVE. -/
abbrev Obj.FW_ACTIVE : Nat := 0x31000B
/-- RT_METRIC. -/
abbrev Obj.RT_METRIC : Nat := 0x340001
/-- RT_LEX_UNIT_NS. -/
abbrev Obj.RT_LEX_UNIT_NS : Nat := 0x340002
/-- RT_LFA. -/
abbrev Obj.RT_LFA : Nat := 0x340003
/-- RT_HOOK. -/
abbrev Obj.RT_HOOK : Nat := 0x340004
/-- RT_HOOK_US. -/
abbrev Obj.RT_HOOK_US : Nat := 0x340005
/-- RT_HOOK_CUT. -/
abbrev Obj.RT_HOOK_CUT : Nat := 0x340006
/-- RT_LAST_IMP. -/
abbrev Obj.RT_LAST_IMP : Nat := 0x340007
/-- RT_LAST_US. -/
abbrev Obj.RT_LAST_US : Nat := 0x340008
/-- RT_ZERO_CYC. -/
abbrev Obj.RT_ZERO_CYC : Nat := 0x340009
/-- RT_LEX_OVF. -/
abbrev Obj.RT_LEX_OVF : Nat := 0x34000A
/-- RT_EXC_MAX. -/
abbrev Obj.RT_EXC_MAX : Nat := 0x34000B
/-- SW_SEL. -/
abbrev Obj.SW_SEL : Nat := 0x341001
/-- SW_NH_EMPTY. -/
abbrev Obj.SW_NH_EMPTY : Nat := 0x341002
/-- SW_LFA_NEED. -/
abbrev Obj.SW_LFA_NEED : Nat := 0x341003
/-- SW_LFA_COVER. -/
abbrev Obj.SW_LFA_COVER : Nat := 0x341004
/-- SW_EXC. -/
abbrev Obj.SW_EXC : Nat := 0x341005
/-- SW_ECMP. -/
abbrev Obj.SW_ECMP : Nat := 0x341006
/-- SW_RATIO. -/
abbrev Obj.SW_RATIO : Nat := 0x341007
/-- SW_RESEEDS. -/
abbrev Obj.SW_RESEEDS : Nat := 0x341008
/-- SW_HOT. -/
abbrev Obj.SW_HOT : Nat := 0x341009
/-- REBAL_RATIO. -/
abbrev Obj.REBAL_RATIO : Nat := 0x342001
/-- RB_WINDOWS. -/
abbrev Obj.RB_WINDOWS : Nat := 0x342002
/-- RB_SEED_MIN_S. -/
abbrev Obj.RB_SEED_MIN_S : Nat := 0x342003
/-- RB_SEED_LIMIT. -/
abbrev Obj.RB_SEED_LIMIT : Nat := 0x342004
/-- RB_HOT_CLEAR_S. -/
abbrev Obj.RB_HOT_CLEAR_S : Nat := 0x342005
/-- RB_ROUNDS. -/
abbrev Obj.RB_ROUNDS : Nat := 0x342006
/-- RB_TARGET. -/
abbrev Obj.RB_TARGET : Nat := 0x342007
/-- RB_STEP. -/
abbrev Obj.RB_STEP : Nat := 0x342008
/-- RB_ADJ_MAX. -/
abbrev Obj.RB_ADJ_MAX : Nat := 0x342009
/-- RB_MIN_LOAD. -/
abbrev Obj.RB_MIN_LOAD : Nat := 0x34200A
/-- RB_CLEAR. -/
abbrev Obj.RB_CLEAR : Nat := 0x34200B
/-- LD_SOURCE. -/
abbrev Obj.LD_SOURCE : Nat := 0x343001
/-- LD_ARITH. -/
abbrev Obj.LD_ARITH : Nat := 0x343002
/-- LD_PERIOD_MS. -/
abbrev Obj.LD_PERIOD_MS : Nat := 0x343003
/-- LD_RUN. -/
abbrev Obj.LD_RUN : Nat := 0x343004
/-- LD_MAX. -/
abbrev Obj.LD_MAX : Nat := 0x343005
/-- WD_REQ. -/
abbrev Obj.WD_REQ : Nat := 0x344001
/-- WD_BUILT. -/
abbrev Obj.WD_BUILT : Nat := 0x344002
/-- WD_MIN_CAP. -/
abbrev Obj.WD_MIN_CAP : Nat := 0x344003
/-- WD_STATUS. -/
abbrev Obj.WD_STATUS : Nat := 0x344004
/-- LD_DECL. -/
abbrev Obj.LD_DECL : Nat := 0x344005
/-- LD_DECL_BAD. -/
abbrev Obj.LD_DECL_BAD : Nat := 0x344006
/-- IMP_COMMITTED. -/
abbrev Obj.IMP_COMMITTED : Nat := 0x350001
/-- IMP_DIGEST. -/
abbrev Obj.IMP_DIGEST : Nat := 0x350002
/-- IMP_CANDIDATE. -/
abbrev Obj.IMP_CANDIDATE : Nat := 0x350003
/-- IMP_STATE. -/
abbrev Obj.IMP_STATE : Nat := 0x350004
/-- IMP_PARTIAL. -/
abbrev Obj.IMP_PARTIAL : Nat := 0x350005
/-- IMP_RETRIES. -/
abbrev Obj.IMP_RETRIES : Nat := 0x350006
/-- IMP_FALLBACK. -/
abbrev Obj.IMP_FALLBACK : Nat := 0x350007
/-- IMP_STAGE_US. -/
abbrev Obj.IMP_STAGE_US : Nat := 0x350008
/-- IMP_COMMIT_US. -/
abbrev Obj.IMP_COMMIT_US : Nat := 0x350009
/-- IMP_COMMIT_RETRY_US. -/
abbrev Obj.IMP_COMMIT_RETRY_US : Nat := 0x35000A
/-- IMP_DRAIN_US. -/
abbrev Obj.IMP_DRAIN_US : Nat := 0x35000B
/-- IMP_FULL. -/
abbrev Obj.IMP_FULL : Nat := 0x35000C
/-- IMP_REFUSED. -/
abbrev Obj.IMP_REFUSED : Nat := 0x35000D
/-- IMP_LAST_US. -/
abbrev Obj.IMP_LAST_US : Nat := 0x35000E
/-- IS_STATE. -/
abbrev Obj.IS_STATE : Nat := 0x351001
/-- IS_COMMITTED. -/
abbrev Obj.IS_COMMITTED : Nat := 0x351002
/-- IS_DIGEST. -/
abbrev Obj.IS_DIGEST : Nat := 0x351003
/-- IS_LAST_STATUS. -/
abbrev Obj.IS_LAST_STATUS : Nat := 0x351004
/-- IS_ATTEMPTS. -/
abbrev Obj.IS_ATTEMPTS : Nat := 0x351005
/-- IS_BYTES. -/
abbrev Obj.IS_BYTES : Nat := 0x351006
/-- IS_READMIT. -/
abbrev Obj.IS_READMIT : Nat := 0x351007
/-- RF_IMP. -/
abbrev Obj.RF_IMP : Nat := 0x352001
/-- RF_SWITCH. -/
abbrev Obj.RF_SWITCH : Nat := 0x352002
/-- RF_SECTION. -/
abbrev Obj.RF_SECTION : Nat := 0x352003
/-- RF_NEED. -/
abbrev Obj.RF_NEED : Nat := 0x352004
/-- RF_CAP. -/
abbrev Obj.RF_CAP : Nat := 0x352005
/-- RF_OVER. -/
abbrev Obj.RF_OVER : Nat := 0x352006
/-- RF_SWITCHES. -/
abbrev Obj.RF_SWITCHES : Nat := 0x352007
/-- IA_DEPTH. -/
abbrev Obj.IA_DEPTH : Nat := 0x353001
/-- IA_SEL. -/
abbrev Obj.IA_SEL : Nat := 0x353002
/-- IA_STATE. -/
abbrev Obj.IA_STATE : Nat := 0x353003
/-- IA_DIGEST. -/
abbrev Obj.IA_DIGEST : Nat := 0x353004
/-- IA_TIME. -/
abbrev Obj.IA_TIME : Nat := 0x353005
/-- IA_PLATE. -/
abbrev Obj.IA_PLATE : Nat := 0x353006
/-- IA_RESTORE. -/
abbrev Obj.IA_RESTORE : Nat := 0x353007
/-- CV_ENDPOINTS. -/
abbrev Obj.CV_ENDPOINTS : Nat := 0x380001
/-- CV_SET. -/
abbrev Obj.CV_SET : Nat := 0x380002
/-- CV_DIAM. -/
abbrev Obj.CV_DIAM : Nat := 0x380003
/-- CV_CONTIG. -/
abbrev Obj.CV_CONTIG : Nat := 0x380004
/-- CV_SEALED. -/
abbrev Obj.CV_SEALED : Nat := 0x380005
/-- CV_SEAL_PCT. -/
abbrev Obj.CV_SEAL_PCT : Nat := 0x380006
/-- CV_FIT. -/
abbrev Obj.CV_FIT : Nat := 0x380007
/-- CV_WAIT_MS. -/
abbrev Obj.CV_WAIT_MS : Nat := 0x380008
/-- CV_SRAM_KIB. -/
abbrev Obj.CV_SRAM_KIB : Nat := 0x380009
/-- CV_CELLS. -/
abbrev Obj.CV_CELLS : Nat := 0x38000A
/-- CV_DRAM_MIB. -/
abbrev Obj.CV_DRAM_MIB : Nat := 0x38000B
/-- CV_SYNC. -/
abbrev Obj.CV_SYNC : Nat := 0x38000C
/-- CV_MBOX. -/
abbrev Obj.CV_MBOX : Nat := 0x38000D
/-- CV_VF. -/
abbrev Obj.CV_VF : Nat := 0x38000E
/-- CV_LOSS. -/
abbrev Obj.CV_LOSS : Nat := 0x38000F
/-- CV_TAG. -/
abbrev Obj.CV_TAG : Nat := 0x380010
/-- CV_GO. -/
abbrev Obj.CV_GO : Nat := 0x380011
/-- CV_RESULT. -/
abbrev Obj.CV_RESULT : Nat := 0x380012
/-- CV_CTX. -/
abbrev Obj.CV_CTX : Nat := 0x380013
/-- CV_SHORT. -/
abbrev Obj.CV_SHORT : Nat := 0x380014
/-- CV_CANCEL. -/
abbrev Obj.CV_CANCEL : Nat := 0x380015
/-- CX_QUAR_US. -/
abbrev Obj.CX_QUAR_US : Nat := 0x381001
/-- CX_DRAIN_MS. -/
abbrev Obj.CX_DRAIN_MS : Nat := 0x381002
/-- CV_QUEUE_MAX. -/
abbrev Obj.CV_QUEUE_MAX : Nat := 0x381003
/-- CV_KEY_US. -/
abbrev Obj.CV_KEY_US : Nat := 0x381004
/-- PG_ACK_US. -/
abbrev Obj.PG_ACK_US : Nat := 0x381005
/-- CX_FREE. -/
abbrev Obj.CX_FREE : Nat := 0x381006
/-- CX_ACTIVE. -/
abbrev Obj.CX_ACTIVE : Nat := 0x381007
/-- CX_QUEUED. -/
abbrev Obj.CX_QUEUED : Nat := 0x381008
/-- CX_HELD. -/
abbrev Obj.CX_HELD : Nat := 0x381009
/-- CX_STATE_MAP. -/
abbrev Obj.CX_STATE_MAP : Nat := 0x38100A
/-- CX_DRAM_POOL_MIB. -/
abbrev Obj.CX_DRAM_POOL_MIB : Nat := 0x38100B
/-- CX_DRAM_FREE_MIB. -/
abbrev Obj.CX_DRAM_FREE_MIB : Nat := 0x38100C
/-- CF_PROXY_US. -/
abbrev Obj.CF_PROXY_US : Nat := 0x38100D
/-- CF_OVERRUN. -/
abbrev Obj.CF_OVERRUN : Nat := 0x38100E
/-- CX_PURGES. -/
abbrev Obj.CX_PURGES : Nat := 0x38100F
/-- CX_STATE. -/
abbrev Obj.CX_STATE : Nat := 0x382001
/-- CX_GEN. -/
abbrev Obj.CX_GEN : Nat := 0x382002
/-- CX_KEY. -/
abbrev Obj.CX_KEY : Nat := 0x382003
/-- CX_MEMBERS. -/
abbrev Obj.CX_MEMBERS : Nat := 0x382004
/-- CX_EPMAP. -/
abbrev Obj.CX_EPMAP : Nat := 0x382005
/-- CX_SEALED. -/
abbrev Obj.CX_SEALED : Nat := 0x382006
/-- CX_SEAL_LINKS. -/
abbrev Obj.CX_SEAL_LINKS : Nat := 0x382007
/-- CX_LOSS. -/
abbrev Obj.CX_LOSS : Nat := 0x382008
/-- CX_SRAM. -/
abbrev Obj.CX_SRAM : Nat := 0x382009
/-- CX_DRAM_MIB. -/
abbrev Obj.CX_DRAM_MIB : Nat := 0x38200A
/-- CX_SYNC. -/
abbrev Obj.CX_SYNC : Nat := 0x38200B
/-- CX_MBOX. -/
abbrev Obj.CX_MBOX : Nat := 0x38200C
/-- CX_VF. -/
abbrev Obj.CX_VF : Nat := 0x38200D
/-- CX_RELEASE. -/
abbrev Obj.CX_RELEASE : Nat := 0x38200E
/-- CX_RESULT. -/
abbrev Obj.CX_RESULT : Nat := 0x38200F
/-- CX_DIAM. -/
abbrev Obj.CX_DIAM : Nat := 0x382010
/-- CX_TAG. -/
abbrev Obj.CX_TAG : Nat := 0x382011
/-- TV_LINKS. -/
abbrev Obj.TV_LINKS : Nat := 0x383001
/-- TV_IMP. -/
abbrev Obj.TV_IMP : Nat := 0x383002
/-- ENG_COUNT. -/
abbrev Obj.ENG_COUNT : Nat := 0x3C0000
/-- ENG_CELLS. -/
abbrev Obj.ENG_CELLS : Nat := 0x3C0001
/-- ENG_SPARES. -/
abbrev Obj.ENG_SPARES : Nat := 0x3C0002
/-- ENG_PHYS_MAP. -/
abbrev Obj.ENG_PHYS_MAP : Nat := 0x3C0003
/-- ENG_MIN_CELLS. -/
abbrev Obj.ENG_MIN_CELLS : Nat := 0x3C0004
/-- ENG_BG_SHARE. -/
abbrev Obj.ENG_BG_SHARE : Nat := 0x3C0005
/-- ENG_TILES. -/
abbrev Obj.ENG_TILES : Nat := 0x3C0006
/-- ENG_RETIRED. -/
abbrev Obj.ENG_RETIRED : Nat := 0x3C0007
/-- LP_IMAGE. -/
abbrev Obj.LP_IMAGE : Nat := 0x3C1001
/-- LP_LOAD. -/
abbrev Obj.LP_LOAD : Nat := 0x3C1002
/-- LP_RESULT. -/
abbrev Obj.LP_RESULT : Nat := 0x3C1003
/-- LP_SHORT. -/
abbrev Obj.LP_SHORT : Nat := 0x3C1004
/-- LP_RUN. -/
abbrev Obj.LP_RUN : Nat := 0x3C1005
/-- LP_STATUS. -/
abbrev Obj.LP_STATUS : Nat := 0x3C1006
/-- LP_TAG. -/
abbrev Obj.LP_TAG : Nat := 0x3C1007
/-- LP_TILES. -/
abbrev Obj.LP_TILES : Nat := 0x3C1008
/-- LP_SPILL. -/
abbrev Obj.LP_SPILL : Nat := 0x3C1009
/-- LP_DIGEST. -/
abbrev Obj.LP_DIGEST : Nat := 0x3C100A
/-- LP_RETRY. -/
abbrev Obj.LP_RETRY : Nat := 0x3C100B
/-- LP_SEL_CTX. -/
abbrev Obj.LP_SEL_CTX : Nat := 0x3C1101
/-- CELL_STATE. -/
abbrev Obj.CELL_STATE : Nat := 0x3C2001
/-- AR_MISMATCH. -/
abbrev Obj.AR_MISMATCH : Nat := 0x3C3001
/-- AR_RETRY_OK. -/
abbrev Obj.AR_RETRY_OK : Nat := 0x3C3002
/-- AR_SRAM_CORR. -/
abbrev Obj.AR_SRAM_CORR : Nat := 0x3C3003
/-- AR_SRAM_UNCORR. -/
abbrev Obj.AR_SRAM_UNCORR : Nat := 0x3C3004
/-- AR_TABLE_CORR. -/
abbrev Obj.AR_TABLE_CORR : Nat := 0x3C3005
/-- AR_TABLE_UNCORR. -/
abbrev Obj.AR_TABLE_UNCORR : Nat := 0x3C3006
/-- AR_STACK_CORR. -/
abbrev Obj.AR_STACK_CORR : Nat := 0x3C3007
/-- AR_STACK_UNCORR. -/
abbrev Obj.AR_STACK_UNCORR : Nat := 0x3C3008
/-- AR_RETRY_WARN. -/
abbrev Obj.AR_RETRY_WARN : Nat := 0x3C3009
/-- AR_SCRUB_TABLE_S. -/
abbrev Obj.AR_SCRUB_TABLE_S : Nat := 0x3C300A
/-- AR_SCRUB_STACK_H. -/
abbrev Obj.AR_SCRUB_STACK_H : Nat := 0x3C300B
/-- IL_RATIO. -/
abbrev Obj.IL_RATIO : Nat := 0x3C4001
/-- IL_WINDOWS. -/
abbrev Obj.IL_WINDOWS : Nat := 0x3C4002
/-- IL_MIN_S. -/
abbrev Obj.IL_MIN_S : Nat := 0x3C4003
/-- IL_REDRAW. -/
abbrev Obj.IL_REDRAW : Nat := 0x3C4004
/-- IL_REDRAWS. -/
abbrev Obj.IL_REDRAWS : Nat := 0x3C4005
/-- IL_SWEEP. -/
abbrev Obj.IL_SWEEP : Nat := 0x3C4006
/-- IL_IMBAL. -/
abbrev Obj.IL_IMBAL : Nat := 0x3C4007
/-- SY_FREE. -/
abbrev Obj.SY_FREE : Nat := 0x3E0001
/-- SY_OPS. -/
abbrev Obj.SY_OPS : Nat := 0x3E0002
/-- SY_VOIDED. -/
abbrev Obj.SY_VOIDED : Nat := 0x3E0003
/-- SY_BAD_KIND. -/
abbrev Obj.SY_BAD_KIND : Nat := 0x3E0004
/-- TL_PERIOD_MS. -/
abbrev Obj.TL_PERIOD_MS : Nat := 0x400001
/-- TL_PERIOD_MAX_MS. -/
abbrev Obj.TL_PERIOD_MAX_MS : Nat := 0x400002
/-- TL_RELAX. -/
abbrev Obj.TL_RELAX : Nat := 0x400003
/-- TL_FACTOR. -/
abbrev Obj.TL_FACTOR : Nat := 0x400004
/-- TL_RING_MIB. -/
abbrev Obj.TL_RING_MIB : Nat := 0x400005
/-- TL_LOST. -/
abbrev Obj.TL_LOST : Nat := 0x400006
/-- TL_FRAMES. -/
abbrev Obj.TL_FRAMES : Nat := 0x400007
/-- TS_SUBSCRIBE. -/
abbrev Obj.TS_SUBSCRIBE : Nat := 0x401001
/-- TS_CURSOR. -/
abbrev Obj.TS_CURSOR : Nat := 0x401002
/-- TS_READ. -/
abbrev Obj.TS_READ : Nat := 0x401003
/-- TS_MAX. -/
abbrev Obj.TS_MAX : Nat := 0x401004
/-- TS_LOST. -/
abbrev Obj.TS_LOST : Nat := 0x401005
/-- RD_ROLE. -/
abbrev Obj.RD_ROLE : Nat := 0x500001
/-- RD_STATE. -/
abbrev Obj.RD_STATE : Nat := 0x500002
/-- RD_CLAIM. -/
abbrev Obj.RD_CLAIM : Nat := 0x500003
/-- RD_HIGHEST. -/
abbrev Obj.RD_HIGHEST : Nat := 0x500004
/-- RD_HIGHEST_NID. -/
abbrev Obj.RD_HIGHEST_NID : Nat := 0x500005
/-- RD_PEER. -/
abbrev Obj.RD_PEER : Nat := 0x500006
/-- RD_HB_US. -/
abbrev Obj.RD_HB_US : Nat := 0x500007
/-- RD_HB_MISS. -/
abbrev Obj.RD_HB_MISS : Nat := 0x500008
/-- RD_REPL_US. -/
abbrev Obj.RD_REPL_US : Nat := 0x500009
/-- RD_REPL_LAG. -/
abbrev Obj.RD_REPL_LAG : Nat := 0x50000A
/-- RD_TAKEOVERS. -/
abbrev Obj.RD_TAKEOVERS : Nat := 0x50000B
/-- RD_LAST_GAP_US. -/
abbrev Obj.RD_LAST_GAP_US : Nat := 0x50000C
/-- RD_YIELD. -/
abbrev Obj.RD_YIELD : Nat := 0x50000D
/-- RD_SOLO. -/
abbrev Obj.RD_SOLO : Nat := 0x50000E
/-- RD_HANDOVER. -/
abbrev Obj.RD_HANDOVER : Nat := 0x50000F
/-- RD_LISTEN_MS. -/
abbrev Obj.RD_LISTEN_MS : Nat := 0x500010
/-- TR_SLOT. -/
abbrev Obj.TR_SLOT : Nat := 0x501001
/-- TR_LEADER. -/
abbrev Obj.TR_LEADER : Nat := 0x501002
/-- TR_MEMBERS. -/
abbrev Obj.TR_MEMBERS : Nat := 0x501003
/-- TR_SEQ. -/
abbrev Obj.TR_SEQ : Nat := 0x501004
/-- TR_DISQUAL. -/
abbrev Obj.TR_DISQUAL : Nat := 0x501005
/-- TR_RESYNC. -/
abbrev Obj.TR_RESYNC : Nat := 0x501006
/-- TR_RESYNC_PCT. -/
abbrev Obj.TR_RESYNC_PCT : Nat := 0x501007
/-- FR_WINDOW_US. -/
abbrev Obj.FR_WINDOW_US : Nat := 0x510001
/-- FR_REPORT_RETRY_US. -/
abbrev Obj.FR_REPORT_RETRY_US : Nat := 0x510002
/-- FR_GOOD_MS. -/
abbrev Obj.FR_GOOD_MS : Nat := 0x510003
/-- FR_FLAP_LIMIT. -/
abbrev Obj.FR_FLAP_LIMIT : Nat := 0x510004
/-- FR_FLAP_WINDOW_S. -/
abbrev Obj.FR_FLAP_WINDOW_S : Nat := 0x510005
/-- FR_SILENT_MS. -/
abbrev Obj.FR_SILENT_MS : Nat := 0x510006
/-- FR_REJOIN_MS. -/
abbrev Obj.FR_REJOIN_MS : Nat := 0x510007
/-- FR_DETOUR_MS. -/
abbrev Obj.FR_DETOUR_MS : Nat := 0x510008
/-- HANG_TILE_US. -/
abbrev Obj.HANG_TILE_US : Nat := 0x510009
/-- FR_NODE_HB_US. -/
abbrev Obj.FR_NODE_HB_US : Nat := 0x51000A
/-- FR_HANG_RESET. -/
abbrev Obj.FR_HANG_RESET : Nat := 0x51000B
/-- FR_EVENTS. -/
abbrev Obj.FR_EVENTS : Nat := 0x51000C
/-- FR_DROPPED. -/
abbrev Obj.FR_DROPPED : Nat := 0x51000D
/-- FR_Q_DEPTH. -/
abbrev Obj.FR_Q_DEPTH : Nat := 0x51000E
/-- FR_WITHDRAWS. -/
abbrev Obj.FR_WITHDRAWS : Nat := 0x51000F
/-- FR_LOSSES. -/
abbrev Obj.FR_LOSSES : Nat := 0x510010
/-- RESET_LIMIT. -/
abbrev Obj.RESET_LIMIT : Nat := 0x511001
/-- RESET_WINDOW. -/
abbrev Obj.RESET_WINDOW : Nat := 0x511002
/-- CELL_RESET_LIMIT. -/
abbrev Obj.CELL_RESET_LIMIT : Nat := 0x511003
/-- CELL_RESET_WINDOW. -/
abbrev Obj.CELL_RESET_WINDOW : Nat := 0x511004
/-- MOD_FAULT_LIMIT. -/
abbrev Obj.MOD_FAULT_LIMIT : Nat := 0x511005
/-- MOD_FAULT_WINDOW. -/
abbrev Obj.MOD_FAULT_WINDOW : Nat := 0x511006
/-- RS_COMMIT. -/
abbrev Obj.RS_COMMIT : Nat := 0x511007
/-- MOD_FAULTS. -/
abbrev Obj.MOD_FAULTS : Nat := 0x511008
/-- MOD_ESCALATED. -/
abbrev Obj.MOD_ESCALATED : Nat := 0x511009
/-- EP_SEL. -/
abbrev Obj.EP_SEL : Nat := 0x512001
/-- EP_STATE. -/
abbrev Obj.EP_STATE : Nat := 0x512002
/-- EP_RESETS. -/
abbrev Obj.EP_RESETS : Nat := 0x512003
/-- EP_LAST_CAUSE. -/
abbrev Obj.EP_LAST_CAUSE : Nat := 0x512004
/-- EP_READMIT. -/
abbrev Obj.EP_READMIT : Nat := 0x512005
/-- LK_SEL. -/
abbrev Obj.LK_SEL : Nat := 0x513001
/-- LK_STATE. -/
abbrev Obj.LK_STATE : Nat := 0x513002
/-- LK_FLAPS. -/
abbrev Obj.LK_FLAPS : Nat := 0x513003
/-- LK_READMIT. -/
abbrev Obj.LK_READMIT : Nat := 0x513004
/-- AG_NID. -/
abbrev Obj.AG_NID : Nat := 0x600001
/-- AG_KIND. -/
abbrev Obj.AG_KIND : Nat := 0x600002
/-- AG_JOIN. -/
abbrev Obj.AG_JOIN : Nat := 0x600003
/-- AG_COMMITTED. -/
abbrev Obj.AG_COMMITTED : Nat := 0x600004
/-- AG_STAGED. -/
abbrev Obj.AG_STAGED : Nat := 0x600005
/-- AG_CLAIM. -/
abbrev Obj.AG_CLAIM : Nat := 0x600006
/-- AG_CLAIM_NID. -/
abbrev Obj.AG_CLAIM_NID : Nat := 0x600007
/-- AG_PLATE_VALID. -/
abbrev Obj.AG_PLATE_VALID : Nat := 0x600008
/-- AG_NODE_WRITES. -/
abbrev Obj.AG_NODE_WRITES : Nat := 0x600009
/-- AG_WRITE_ERRS. -/
abbrev Obj.AG_WRITE_ERRS : Nat := 0x60000A
/-- AG_SLOT. -/
abbrev Obj.AG_SLOT : Nat := 0x60000B
/-- AG_RESTARTS. -/
abbrev Obj.AG_RESTARTS : Nat := 0x60000C
/-- AG_EVT_LOST. -/
abbrev Obj.AG_EVT_LOST : Nat := 0x60000D
/-- AG_RESTART. -/
abbrev Obj.AG_RESTART : Nat := 0x60000E
/-- AG_FWD_NID. -/
abbrev Obj.AG_FWD_NID : Nat := 0x60000F
/-- AG_WDR_SENT. -/
abbrev Obj.AG_WDR_SENT : Nat := 0x600010
/-- AG_WDR_DROP. -/
abbrev Obj.AG_WDR_DROP : Nat := 0x600011
/-- WF_ENABLE. -/
abbrev Obj.WF_ENABLE : Nat := 0x601001
/-- WF_LEVEL. -/
abbrev Obj.WF_LEVEL : Nat := 0x601002
/-- WF_BAD. -/
abbrev Obj.WF_BAD : Nat := 0x601003
/-- WF_FMASK. -/
abbrev Obj.WF_FMASK : Nat := 0x601004
/-- WF_FENCE. -/
abbrev Obj.WF_FENCE : Nat := 0x601005
/-- WF_CHECKS. -/
abbrev Obj.WF_CHECKS : Nat := 0x601006
/-- MX_CRC. -/
abbrev Obj.MX_CRC : Nat := 0x602001
/-- MX_SENT. -/
abbrev Obj.MX_SENT : Nat := 0x602002
/-- MX_RCVD. -/
abbrev Obj.MX_RCVD : Nat := 0x602003
/-- MX_REJECT. -/
abbrev Obj.MX_REJECT : Nat := 0x602004
/-- MX_QUEUE. -/
abbrev Obj.MX_QUEUE : Nat := 0x602005
/-- LT_VALID. -/
abbrev Obj.LT_VALID : Nat := 0x603001
/-- LT_NODE_ID. -/
abbrev Obj.LT_NODE_ID : Nat := 0x603002
/-- LT_LENGTH. -/
abbrev Obj.LT_LENGTH : Nat := 0x603003
/-- LT_SAVES. -/
abbrev Obj.LT_SAVES : Nat := 0x603004
/-- LT_CLEAR. -/
abbrev Obj.LT_CLEAR : Nat := 0x603005
/-- HM_SEND. -/
abbrev Obj.HM_SEND : Nat := 0x604001
/-- HM_REPLY. -/
abbrev Obj.HM_REPLY : Nat := 0x604002
/-- HM_STATUS. -/
abbrev Obj.HM_STATUS : Nat := 0x604003
/-- HM_SENT. -/
abbrev Obj.HM_SENT : Nat := 0x604004
/-- AP_STAGE_US. -/
abbrev Obj.AP_STAGE_US : Nat := 0x605001
/-- AP_DRAIN_US. -/
abbrev Obj.AP_DRAIN_US : Nat := 0x605002
/-- AP_GOOD_MS. -/
abbrev Obj.AP_GOOD_MS : Nat := 0x605003
/-- AP_REPORT_RETRY_US. -/
abbrev Obj.AP_REPORT_RETRY_US : Nat := 0x605004
/-- AP_NODE_HB_US. -/
abbrev Obj.AP_NODE_HB_US : Nat := 0x605005
/-- AP_HANG_RESET. -/
abbrev Obj.AP_HANG_RESET : Nat := 0x605006
/-- AP_DETOUR_MS. -/
abbrev Obj.AP_DETOUR_MS : Nat := 0x605007
/-- AP_RESET_LIMIT. -/
abbrev Obj.AP_RESET_LIMIT : Nat := 0x605008
/-- AP_RESET_WINDOW. -/
abbrev Obj.AP_RESET_WINDOW : Nat := 0x605009
/-- AP_TL_PERIOD_MS. -/
abbrev Obj.AP_TL_PERIOD_MS : Nat := 0x60500A
/-- ND_DESC. -/
abbrev Obj.ND_DESC : Nat := 0x700001
/-- ND_PUBLISHED. -/
abbrev Obj.ND_PUBLISHED : Nat := 0x700002
/-- ND_REASON. -/
abbrev Obj.ND_REASON : Nat := 0x700003

end Sys2Proof.Machine
end

