-- ==== Sys2Proof/Machine/Ops.lean ====
section
/-! DEFINITION. Sys2Proof/Machine/Ops.lean: the named operations every meaning is written over: sparse tables, objects of
the dictionary, free values, the event recorder, sending and taking a frame. -/

namespace Sys2Proof.Machine

/-! ## Sparse tables -/

/-- The entry of a number. -/
def mapGet {α : Type} (m : SMap α) (k : Nat) : Option α :=
  match m with
  | [] => none
  | (j, v) :: rest => if j = k then some v else mapGet rest k

/-- The table with an entry put at its number; numbers stay rising. -/
def mapSet {α : Type} (m : SMap α) (k : Nat) (v : α) : SMap α :=
  match m with
  | [] => [(k, v)]
  | (j, w) :: rest =>
    if k < j then (k, v) :: (j, w) :: rest
    else if j = k then (k, v) :: rest
    else (j, w) :: mapSet rest k v

/-- The table without the entry of a number. -/
def mapDel {α : Type} (m : SMap α) (k : Nat) : SMap α :=
  match m with
  | [] => []
  | (j, w) :: rest => if j = k then rest else (j, w) :: mapDel rest k

/-- The numbers rise strictly. -/
def mapWf {α : Type} (m : SMap α) : Bool :=
  match m with
  | [] => true
  | [_] => true
  | (j, _) :: (k, w) :: rest => decide (j < k) && mapWf ((k, w) :: rest)

/-- The entry of a number, or a default. -/
def mapGetD {α : Type} (m : SMap α) (k : Nat) (d : α) : α := (mapGet m k).getD d

/-- The table with the entry of a number changed, from a default where it has none. -/
def mapUpd {α : Type} (m : SMap α) (k : Nat) (d : α) (f : α → α) : SMap α := mapSet m k (f (mapGetD m k d))

/-- Inserts a number into a rising list without repeats. -/
def insNat (l : List Nat) (k : Nat) : List Nat :=
  match l with
  | [] => [k]
  | j :: rest => if k < j then k :: j :: rest else if j = k then j :: rest else j :: insNat rest k

/-- A rising list without repeats made of a list. -/
def sortNat (l : List Nat) : List Nat := l.foldl insNat []

/-- The numbers 0 to n - 1. -/
def upTo (n : Nat) : List Nat := List.range n

/-- Splits off the entries that satisfy a test. -/
def mapFilter {α : Type} (m : SMap α) (p : Nat → α → Bool) : SMap α := m.filter (fun e => p e.1 e.2)

/-! ## Bytes -/

/-- A number as n bytes, lowest first (R5). -/
def leBytes (n v : Nat) : List Byte := (upTo n).map (fun i => BitVec.ofNat 8 (v / 256 ^ i))

/-- A number read from bytes, lowest first (R5). -/
def leNat (bs : List Byte) : Nat := bs.foldr (fun b acc => b.toNat + 256 * acc) 0

/-- Bits hi down to lo of a number. -/
def bitsOf (v hi lo : Nat) : Nat := v / 2 ^ lo % 2 ^ (hi + 1 - lo)

/-- One bit of a number. -/
def bitOf (v i : Nat) : Bool := v / 2 ^ i % 2 == 1

/-- A field of n bytes at an offset of a byte list, as a number; bytes beyond the end read 0. -/
def fieldAt (bs : List Byte) (off n : Nat) : Nat := leNat ((bs.drop off).take n)

/-- A sum that stops at the greatest value of its width. -/
def satAdd (width a b : Nat) : Nat := min (a + b) (2 ^ width - 1)

/-- Whether bit i of a port bitmap is set. -/
def portIn (m : Ports) (i : Nat) : Bool := m.getLsbD i

/-- The bitmap of one port. -/
def portBit (i : Nat) : Ports := BitVec.ofNat 128 (2 ^ (i % 128))

/-- A word of FP_STATE: its reserved bits read zero, and its speed is one of 0 to 3 (R7, R428). -/
def portWord (w : Nat) : Nat := w % 128 / 4 * 4

/-- The field ports, by number, in the states they train to. -/
def trained (ports : SMap Nat) : SMap Nat := ports.map (fun (p : Nat × Nat) => (p.1, portWord p.2))

/-- The ports of a bitmap, rising. -/
def portsOf (m : Ports) : List Nat := (upTo 128).filter (fun i => portIn m i)

/-- The bitmap of a list of ports. -/
def portMask (l : List Nat) : Ports := l.foldl (fun m i => m ||| portBit i) 0

/-! ## Memory: a list of cells, addresses rising, no cell holding the 0 that an unlisted address reads as -/

/-- The byte at an address. [DESIGN CHOICE, log 12] -/
def memRead (m : List Host.Cell) (a : Nat) : Byte := (mapGet m a).getD 0

/-- The memory with a byte written. [DESIGN CHOICE, log 12] -/
def memWrite (m : List Host.Cell) (a : Nat) (b : Byte) : List Host.Cell := if b = 0 then mapDel m a else mapSet m a b

/-- n bytes from an address. -/
def memReadN (m : List Host.Cell) (a n : Nat) : List Byte := (upTo n).map (fun i => memRead m (a + i))

/-- Bytes from an address on as cells: those that are not 0. -/
def byteCells (a : Nat) : List Byte → List Host.Cell
  | [] => []
  | b :: rest => if b = 0 then byteCells (a + 1) rest else (a, b) :: byteCells (a + 1) rest

/-- Bytes written from an address on. -/
def memWriteN (m : List Host.Cell) (a : Nat) (bs : List Byte) : List Host.Cell :=
  m.filter (fun c => decide (c.1 < a)) ++ (byteCells a bs ++ m.filter (fun c => Nat.ble (a + bs.length) c.1))

/-- Every byte of a range becomes 0. -/
def memZero (m : List Host.Cell) (lo n : Nat) : List Host.Cell := m.filter (fun c => decide (c.1 < lo) || Nat.ble (lo + n) c.1)

/-- The canonical form of a memory. [DESIGN CHOICE, log 12] -/
def Memory.wf (m : List Host.Cell) : Bool := mapWf m && m.all (fun c => c.2 != 0)

/-! ## Objects of the dictionary -/

/-- The row of an object key; per-context and per-function copies share their object's row. -/
def objRow (key : Nat) : Option ObjRow :=
  objRows.find? (fun r => r.idx == key / 256 % 65536 && Nat.ble r.subLo (key % 256) && Nat.ble (key % 256) r.subHi)

/-- The value an object takes at reset. [DESIGN CHOICE, log 4] -/
def objDefault (agentPart : Bool) (key : Nat) : Nat :=
  match objRow key with
  | some r => if agentPart then r.dfltA else r.dflt
  | none => 0

/-- The width in bits of an object, for the counters that saturate (R126, R429). -/
def objWidth (key : Nat) : Nat :=
  match objRow key with
  | some r => 8 * r.len
  | none => 64

/-- The key of a per-context object's copy for a context. -/
def ctxKey (key ctx : Nat) : Nat := key + ctx * 2 ^ 24

/-- The key of the committed copy of a staged object (R353). [DEDUCED, log 82] -/
def committedKey (key : Nat) : Nat := key + 2 ^ 40

/-- The key of the copy each function keeps of a cursor (R495, R504). -/
def fnKey (key fn : Nat) : Nat := key + fn * 2 ^ 48

/-- The value of an object. -/
def Dev.obj (d : Dev) (key : Nat) : Nat := (mapGet d.objs key).getD (objDefault d.agentPart key)

/-- An object takes a value; a value equal to the default leaves no entry. [DEDUCED, log 46] -/
def Dev.setObj (d : Dev) (key v : Nat) : Dev :=
  { d with objs := if v = objDefault d.agentPart key then mapDel d.objs key else mapSet d.objs key v }

/-- A counter advances and stops at its greatest value (R126, R429). -/
def Dev.bumpBy (d : Dev) (key n : Nat) : Dev := d.setObj key (satAdd (objWidth key) (d.obj key) n)

/-- A counter advances by one. -/
def Dev.bump (d : Dev) (key : Nat) : Dev := d.bumpBy key 1

/-- The bytes of a DOMAIN or STR object; empty when none. -/
def Dev.blob (d : Dev) (key : Nat) : List Byte := (mapGet d.blobs key).getD []

/-- A DOMAIN or STR object takes a value. -/
def Dev.setBlob (d : Dev) (key : Nat) (v : List Byte) : Dev :=
  { d with blobs := if v.isEmpty then mapDel d.blobs key else mapSet d.blobs key v }

/-- The committed value of a staged object (R353). [DEDUCED, log 82] -/
def Dev.objC (d : Dev) (key : Nat) : Nat := (mapGet d.objs (committedKey key)).getD (objDefault d.agentPart key)

/-- Copies the staged values of objects into their committed values (R354). [DEDUCED, log 82] -/
def Dev.commitObjs (d : Dev) (keys : List Nat) : Dev :=
  keys.foldl (fun d k => (d.setObj (committedKey k) (d.obj k)).setBlob (committedKey k) (d.blob k)) d

/-! ## Free values -/

/-- A value the spec leaves open. [DESIGN CHOICE, log 6; DESIGN CHOICE, log 83] -/
def Dev.openNat (d : Dev) : Nat := Config.freeNat d.key d.free

/-- Bytes the spec leaves open. [DESIGN CHOICE, log 6] -/
def Dev.openBytes (d : Dev) : List Byte := Config.freeBytes d.key d.free

/-- The device after it has drawn a free value. [DESIGN CHOICE, log 6] -/
def Dev.drawn (d : Dev) : Dev := { d with free := d.free + 1 }

/-- Time passes at a device: its local time advances by an amount that nothing fixes (R47, R48). [DESIGN CHOICE, log 2] -/
def Dev.tick (d : Dev) : Dev := { d.drawn with time := d.time + d.openNat }

/-- The greatest multiple of 8 bytes of a free payload that fits in a record, at most `top` bytes. [DESIGN CHOICE, log 6] -/
def openPayload (bs : List Byte) (top : Nat) : List Byte := bs.take (8 * (min top bs.length / 8))

/-! ## The event recorder -/

/-- Length of a record in bytes: head 16, payload, tail 8 (R483). -/
def EvRec.len (r : EvRec) : Nat := 24 + r.payload.length

/-- Size of the ring and number of first-area slots (Table: Recorder areas). -/
def ringSize (agentPart : Bool) : Nat := if agentPart then 2 ^ 20 else 2 ^ 28
def firstSlots (agentPart : Bool) : Nat := if agentPart then 256 else 4096

/-- Takes the next SEQ; at the reserve mark, NVM's mark advances by 2^20 (R484). -/
def Dev.takeSeq (d : Dev) : Dev :=
  let seq := d.log.seq + 1
  let mark := if seq ≥ d.log.mark then d.log.mark + 2 ^ 20 else d.log.mark
  { (d.bump Obj.EV_WRITTEN) with log := { d.log with seq := seq, mark := mark } }

/-- Drops the records that begin in the page of an offset when a record begins that page (R488). -/
def dropPage (ring : List EvRec) (off : Nat) : List EvRec :=
  if off % 4096 == 0 then ring.filter (fun r => r.off / 4096 != off / 4096) else ring

/-- Puts a record at the ring's next offset, with no question whether it fits. -/
def Dev.ringPut (d : Dev) (r : EvRec) : Dev :=
  let off := d.log.nextOff
  let r := { r with seq := d.log.seq, off := off }
  let d := d.takeSeq
  let kept := dropPage d.log.ring off
  { d with log := { d.log with
      dropped := d.log.dropped ++ (d.log.ring.filter (fun x => !kept.contains x)).map (fun x => { x with payload := [] })
      ring := kept ++ [r]
      nextOff := (off + r.len) % ringSize d.agentPart } }

/-- A PAD record of a length in bytes. -/
def padRec (d : Dev) (len : Nat) : EvRec :=
  { seq := 0, time := d.time, sev := 0, code := 0x000, ctx := 0, payload := List.replicate (len - 24) 0 }

/-- Fills the rest of the page where a record of `len` bytes does not fit, or would leave 8 or 16 bytes (R488). [DEDUCED, log 117] -/
def Dev.padFor (d : Dev) (len : Nat) : Dev :=
  let rest := 4096 - d.log.nextOff % 4096
  if len = rest ∨ len + 24 ≤ rest then d
  else if rest ≤ 256 then d.ringPut (padRec d rest)
  else (d.ringPut (padRec d (rest - 24))).ringPut (padRec d 24)

/-- Writes a record with the next SEQ: into the ring, and into the first area while that has room (R486, R487). [DESIGN CHOICE, log 83] -/
def Dev.writeRec (d : Dev) (sev code ctx : Nat) (payload : List Byte) : Dev :=
  let d := d.padFor (24 + payload.length)
  let r : EvRec := { seq := d.log.seq, time := d.time, sev := sev, code := code, ctx := ctx, payload := payload,
                     off := d.log.nextOff }
  let d := d.ringPut r
  let copied := d.log.first.length < d.log.pending
  let first := if copied then d.log.first ++ [r] else d.log.first
  { d with
    health := if first.length ≥ d.log.pending then d.health ||| 0x20 else d.health
    log := { d.log with
      first := first
      forward := if d.agentPart ∧ sev ≥ d.obj Obj.EV_FWD_SEV then d.log.forward ++ [r] else d.log.forward } }

/-- The level of a bucket at a time: refilled at its rate, at most its burst, in billionths of a token (R489). -/
def Bucket.levelAt (b : Bucket) (now : Nat) : Nat := min (b.burst * 1000000000) (b.level + b.rate * (now - b.stamp))

/-- Counts a suppressed occurrence in its context's part of the episode (R490). -/
def addEpisode (eps : List Episode) (ctx sev now : Nat) : List Episode :=
  match eps with
  | [] => [{ ctx := ctx, count := 1, first := now, last := now, sev := sev }]
  | e :: rest =>
    if ctx < e.ctx then { ctx := ctx, count := 1, first := now, last := now, sev := sev } :: e :: rest
    else if e.ctx = ctx then { e with count := e.count + 1, last := now, sev := max e.sev sev } :: rest
    else e :: addEpisode rest ctx sev now

/-- An occurrence reaches the recorder: it takes a token and is recorded, or is suppressed and counted (R489). -/
def Dev.record (d : Dev) (sev code ctx : Nat) (payload : List Byte) : Dev :=
  let b := mapGetD d.log.buckets code {}
  let lvl := b.levelAt d.time
  if b.rate ≠ 0 ∧ lvl ≥ 1000000000 then
    let d := { d with log := { d.log with
      buckets := mapSet d.log.buckets code { b with level := lvl - 1000000000, stamp := d.time } } }
    d.writeRec sev code ctx payload
  else
    { d with log := { d.log with
      buckets := mapSet d.log.buckets code { b with
        level := lvl, stamp := d.time
        suppressed := satAdd 64 b.suppressed 1
        episode := addEpisode b.episode ctx sev d.time } } }

/-- The severity Table: Event codes gives a code. -/
def evSeverity (code : Nat) : Nat :=
  if code ∈ [0x086, 0x284, 0x285, 0x302] then 4
  else if code ∈ [0x080, 0x083, 0x084, 0x101, 0x108, 0x185, 0x281, 0x282, 0x283] then 3
  else if code ∈ [0x081, 0x085, 0x100, 0x102, 0x103, 0x104, 0x107, 0x109, 0x10A, 0x182, 0x183, 0x184, 0x202, 0x204,
                  0x303, 0x304, 0x305, 0x306] then 2
  else if code ∈ [0x003, 0x105, 0x106, 0x180, 0x181, 0x186, 0x200, 0x201, 0x203, 0x205, 0x280, 0x300, 0x301] then 1
  else 0

/-- Records an event whose payload no rule lays out: the payload is a free value. [DESIGN CHOICE, log 6] -/
def Dev.event (d : Dev) (code ctx : Nat) : Dev :=
  (d.drawn).record (evSeverity code) code ctx (openPayload d.openBytes (if d.agentPart then 200 else 232))

/-- Codes of Table: Event codes that a bucket exists for (R489). -/
def bucketCodes : List Nat :=
  [0x080, 0x081, 0x082, 0x083, 0x084, 0x085, 0x086, 0x100, 0x101, 0x102, 0x103, 0x104, 0x105, 0x106, 0x107, 0x108, 0x109,
   0x10A, 0x180, 0x181, 0x182, 0x183, 0x184, 0x185, 0x186, 0x200, 0x201, 0x202, 0x203, 0x204, 0x205, 0x280, 0x281, 0x282,
   0x283, 0x284, 0x285, 0x300, 0x301, 0x302, 0x303, 0x304, 0x305, 0x306, 0x380, 0x381, 0x3F0]

/-- Records an event that a rule asks for and Table: Event codes gives no code: the code is a free one of those listed (R498). [DEDUCED, log 29] -/
def Dev.eventOpen (d : Dev) : Dev := (d.drawn).event (bucketCodes.getD (d.openNat % bucketCodes.length) 0x380) 0

/-- The recorder as a reset leaves it: SEQ resumes at the reserve mark, the circulating area is lost, the first area and
the size in effect are kept (R484, R486, R487). -/
def Recorder.afterReset (r : Recorder) : Recorder :=
  { seq := r.mark, mark := r.mark + 2 ^ 20, first := r.first, pending := r.pending }

/-! ## Sending -/

/-- The key of a (peer, association) pair. -/
def peerKey (peer assoc : Nat) : Nat := peer * 65536 + assoc

/-- The key of a (source, association, phase) triple (R413). -/
def slotKey (src assoc : Nat) (phase : Bool) : Nat := (src * 65536 + assoc) * 2 + (if phase then 1 else 0)

/-- Whether an association is a group's (R413). -/
def isGroupAssoc (assoc : Nat) : Bool := (Nat.ble 0xE000 assoc && Nat.ble assoc 0xE004) || (Nat.ble 0xF001 assoc && Nat.ble assoc 0xFFFF)

/-- The value in use of an object that takes effect at the next reset (R429). -/
def Dev.inUse (d : Dev) (key : Nat) : Nat := (mapGet d.net.stored key).getD (objDefault d.agentPart key)

/-- A field port is up: its FP_STATE gives a speed. -/
def Dev.portUp (d : Dev) (p : Nat) : Bool := bitsOf (mapGetD d.net.ports p 0) 7 5 != 0

/-- The port an agent transmits on: port 0 while it is up, otherwise the other (R407), and the lane's port while it uses the lane
(R428); none while neither is up. -/
def Dev.txPort (d : Dev) : Option Nat :=
  if d.net.lane && d.portUp 1 then some 1 else if d.portUp 0 then some 0 else if d.portUp 1 then some 1 else none

/-- FP_STATE of a port: the speed and FEC it trained to; at an agent LANE is its strap and TRANSMITTING the port in use (R407, R427). -/
def Dev.fpState (d : Dev) (p : Nat) : Nat :=
  let w := mapGetD d.net.ports p 0
  if d.agentPart then
    w / 16 * 16 + (if p = 1 ∧ d.obj Obj.FN_P1_MODE = 1 then 8 else 0) + (if d.txPort = some p then 4 else 0)
  else w

/-- The address of an agent that holds no NID: 0x0A, then ID_DIE_ID[39:0] (R407). -/
def dieMac (die : Nat) : Nat := 0x0A * 2 ^ 40 + die % 2 ^ 40

/-- The address of a group (Table: Multicast groups). -/
def groupMac (assoc : Nat) : Nat := 0x034E44000000 + assoc

/-- The unicast address formed for an NID, at a port of a manager (R407). -/
def Dev.macOf (d : Dev) (port nid : Nat) : Nat := d.inUse Obj.FN_MAC_BASE + port * 0x40000 + nid

/-- The device a frame goes to, or the broadcast NID. -/
def sentTo (f : Sent) : Nat := f.unicast.getD f.dst

/-- Ports and addresses of a frame as it leaves. An agent sends on its one port; the manager sends a unicast frame for an agent from the
agent's home port, and addresses agents by NID; a manager is addressed at the source of the last frame received from it (R407, R408).
From which port the manager sends any other frame, and where a manager is addressed that was not heard yet, no rule says. [DESIGN CHOICE, log 108] -/
def Dev.addressed (d : Dev) (f : Sent) : Sent :=
  let n := sentTo f
  let port := if d.agentPart then d.txPort else mapGet d.net.homes n
  { f with
    src := d.net.nid
    port := port
    srcMac := if d.agentPart then (if d.net.nid = nidNone then dieMac (d.key - 1) else d.macOf 0 d.net.nid) else d.macOf (port.getD 0) d.net.nid
    dstMac := if n = nidAll then groupMac (if f.assoc = 0 then 0xE003 else f.assoc)
      else match f.bare with
        | some die => dieMac die
        | none => (mapGet d.net.macs n).getD (d.macOf 0 n) }

/-- Hands a frame to egress under the key of a (peer, association) pair, with the sender's next counter (R417). The counter 2^48 is
never sent: at that limit the frame waits for the new key, which is then asked for. -/
def Dev.sendUnder (d : Dev) (pk : Nat) (f : Sent) : Dev :=
  let t := mapGetD d.net.tx pk {}
  if 2 ^ 48 ≤ t.counter then
    { d with net := { d.net with held := d.net.held ++ [f], tx := mapSet d.net.tx pk { t with asked := true } } }
  else
    let t' := { t with counter := t.counter + 1, asked := t.asked || decide (t.counter + 1 ≥ t.expire) }
    let d := d.bump Obj.FC_TX
    { d with
      out := d.out ++ [{ d.addressed f with phase := t.phase, counter := t.counter, key := t.key, salt := t.salt }]
      net := { d.net with tx := mapSet d.net.tx pk t' } }

/-- The (peer, association) pair whose key protects a frame. -/
def sentPair (f : Sent) : Nat := peerKey (if isGroupAssoc f.assoc then nidAll else sentTo f) f.assoc

/-- Hands a frame to egress under its association. Under association 0 there is no counter. [DESIGN CHOICE, log 9] -/
def Dev.send (d : Dev) (f : Sent) : Dev :=
  if f.assoc = 0 then { (d.bump Obj.FC_TX) with out := d.out ++ [d.addressed f] } else d.sendUnder (sentPair f) f

/-- A new key has replaced that of a pair: the frames that waited for it go out (R417). -/
def Dev.unhold (d : Dev) (pk : Nat) : Dev :=
  let mine := d.net.held.filter (fun f => sentPair f == pk)
  mine.foldl Dev.send { d with net := { d.net with held := d.net.held.filter (fun f => sentPair f != pk) } }

/-- Sends a frame to one peer for the fabric. -/
def Dev.sendTo (d : Dev) (dst assoc : Nat) (m : Msg) : Dev := d.send { dst := dst, assoc := assoc, msg := m }

/-! ## Ingress (R420) -/

/-- The window with a counter accepted, or none where the counter is a repeat (R418). -/
def Window.accept (w : Option Window) (c : Nat) : Option Window :=
  match w with
  | none => some { high := c, bits := 1 }
  | some w =>
    if w.high < c then some { high := c, bits := (w.bits <<< (c - w.high)) ||| 1 }
    else if w.high - c < 1024 ∧ w.bits.getLsbD (w.high - c) = false then
      some { w with bits := w.bits ||| (1#1024 <<< (w.high - c)) }
    else none

/-- What a frame's type asks of its header. -/
structure FrameKind where
  cls        : FrameClass
  claim      : Bool            -- CLAIM_P is set on it (R410)
  unprotected : Bool := false  -- may travel under association 0 (Table: Association numbers)
  fromNone   : Bool := false   -- accepted from 0x3FFFE (R25)
  toNone     : Bool := false   -- accepted for 0x3FFFE (R25)
  hello      : Bool := false
  deriving DecidableEq, Repr

/-- The number of a priority class in the order of Table: Priority classes. -/
def frameClassNum : FrameClass → Nat
  | .withdraw => 0 | .claimCommit => 1 | .heartbeat => 2 | .stage => 3 | .dict => 4 | .telemetry => 5 | .bulk => 6

/-- Whether an NID may stand as a frame's source (R25). -/
def srcAllowed (k : FrameKind) (h : Hdr) : Bool :=
  decide (h.src ≤ 0x21FFF) || (decide (0x3FF00 ≤ h.src) && decide (h.src ≤ 0x3FF0F)) ||
  (decide (h.src = nidNone) && k.fromNone && decide (h.assoc = 0))

/-- Check 2: the form of the frame; LENGTH is at most 8,960, or 8,952 with a claim (R409). -/
def formOk (k : FrameKind) (h : Hdr) : Bool :=
  decide (h.version = 1) && h.typeOk && h.lengthOk && Nat.ble h.length (if k.claim then 8952 else 8960) && h.reserved && (h.claim.isSome == k.claim) && srcAllowed k h &&
  (decide (h.dst ≠ nidNone) || (k.toNone && decide (h.assoc = 0)))

/-- The key held for a frame, by (source, association, phase), or by (association, phase) for a group (R413). [DESIGN CHOICE, log 8] -/
def Net.keyFor (n : Net) (h : Hdr) : Option Key :=
  mapGet n.keys (slotKey (if isGroupAssoc h.assoc then nidAll else h.src) h.assoc h.phase)

/-- Check 6: the frame is for this device, or is a group frame (R550). -/
def dstOk (n : Net) (k : FrameKind) (h : Hdr) (relayOn : Bool) (offered : Option Nat) : Bool :=
  decide (h.dst = n.nid) ||
  (decide (h.dst = nidAll) &&
    ((isGroupAssoc h.assoc && decide (h.mac = .group h.assoc)) ||
     (k.hello && decide (h.assoc = 0) && decide (h.mac = .group 0xE003)) ||
     (decide (h.assoc = 1) && h.relayed && decide (h.mac = .own)) ||
     (decide (h.assoc = 1) && !h.relayed && decide (h.mac = .own) && relayOn))) ||
  (decide (offered = some h.dst) && decide (h.assoc = 0))

/-- The first frame under a new phase starts the grace time of the old key (R416 step 4). -/
def Net.startGrace (n : Net) (h : Hdr) (now : Nat) : Net :=
  let old := slotKey (if isGroupAssoc h.assoc then nidAll else h.src) h.assoc (!h.phase)
  let cur := slotKey (if isGroupAssoc h.assoc then nidAll else h.src) h.assoc h.phase
  if (mapGet n.keys old).isSome && n.fresh.contains cur then
    { n with grace := mapSet n.grace old now, fresh := n.fresh.filter (fun k => k != cur) }
  else n

/-- The outcome of ingress: the device after its counters and windows, and whether the frame is processed. -/
structure Taken where
  dev : Dev
  ok  : Bool

/-- A frame on the wire reaches the device: it carries the tag and the EtherType in use (R405), and comes to its own address, a group it
has joined, which for a manager module is MANAGERS from the start, or the management lane (R420). [DEDUCED, log 81] -/
def Dev.arrives (d : Dev) (h : Hdr) : Bool :=
  h.vlan == some (d.inUse Obj.FN_VID) && h.etherType == d.inUse Obj.FN_ETHERTYPE &&
  match h.mac with
  | .own => true
  | .group a => decide (a ∈ d.net.groups) || (!d.agentPart && a == 0xE003)
  | .lane => decide (d.obj Obj.FN_P1_MODE = 1) || decide (h.dst ∈ d.net.relayed)
  | .other => false

/-- A frame for whose class there is no room is dropped and counted for its class. -/
def Dev.dropFull (d : Dev) (k : FrameKind) : Dev :=
  { d with net := { d.net with dropClass := mapUpd d.net.dropClass (frameClassNum k.cls) 0 (satAdd 64 1) } }

/-- The source address of a manager's frame is kept (R408). -/
def Dev.learnMac (d : Dev) (h : Hdr) : Dev :=
  if h.src < 0x3FF00 then d else { d with net := { d.net with macs := mapSet d.net.macs h.src h.srcMac } }

/-- The checks of a frame under association 0. -/
def Dev.ingressPlain (d : Dev) (k : FrameKind) (h : Hdr) (offered : Option Nat) : Taken :=
  if !k.unprotected then ⟨d.bump Obj.FC_DROP_ASSOC, false⟩
  else if !dstOk d.net k h (!d.agentPart && d.obj Obj.FN_RELAY == 1) offered then ⟨d.bump Obj.FC_DROP_FORMAT, false⟩
  else if !h.room then ⟨d.dropFull k, false⟩
  else ⟨d.learnMac h, true⟩

/-- The device once a frame's ICV has verified and its counter is no repeat: the window changes only here (R418). -/
def Dev.verified (d : Dev) (h : Hdr) (w : Window) : Dev :=
  let d := { d with net := { d.net with windows := mapSet d.net.windows (slotKey h.src h.assoc h.phase) w } }
  ({ d with net := d.net.startGrace h d.time }).learnMac h

/-- The checks of a frame under a key. -/
def Dev.ingressKeyed (d : Dev) (k : FrameKind) (h : Hdr) (gen : Nat → Option Nat) (offered : Option Nat) : Taken :=
  match d.net.keyFor h with
  | none => ⟨d.bump Obj.FC_DROP_ASSOC, false⟩
  | some key =>
    if key ≠ h.key ∨ h.intact = false then ⟨d.bump Obj.FC_DROP_AUTH, false⟩
    else match Window.accept (mapGet d.net.windows (slotKey h.src h.assoc h.phase)) h.counter with
      | none => ⟨d.bump Obj.FC_DROP_REPLAY, false⟩
      | some w =>
        let d := d.verified h w
        if !dstOk d.net k h (!d.agentPart && d.obj Obj.FN_RELAY == 1) offered then ⟨d.bump Obj.FC_DROP_FORMAT, false⟩
        else if h.ctx ≠ 0 ∧ gen h.ctx ≠ some h.gen then ⟨d.bump Obj.FC_DROP_GEN, false⟩
        else if !h.room then ⟨d.dropFull k, false⟩
        else ⟨d, true⟩

/-- The checks of Table: Ingress checks, in order; a frame that an entry of the input stream carries has passed them at the
leader. `gen` is the receiver's current generation of the frame's context
(none: it holds none), `offered` the NID of an ATTEST_REQ answered (check 6). [DESIGN CHOICE, log 9] -/
def Dev.ingress (d : Dev) (k : FrameKind) (h : Hdr) (gen : Nat → Option Nat) (offered : Option Nat := none) : Taken :=
  if d.net.replay then ⟨d, true⟩
  else if !d.arrives h then ⟨d, false⟩
  else
    let d := d.bump Obj.FC_RX
    if !formOk k h then ⟨d.bump Obj.FC_DROP_FORMAT, false⟩
    else if h.assoc = 0 then d.ingressPlain k h offered
    else d.ingressKeyed k h gen offered

/-! ## Fuses (R462) -/

/-- The count of burnt floor bits (R462). -/
def floorOf (fuses : Nat) : Nat := ((upTo 8).filter (fun i => bitOf fuses (16 + i))).length

/-- A value of SC_FUSES_SET is listed: a thermometer pattern of floor bits, signing-key slots, and nothing else. -/
def fusesListed (v : Nat) : Bool :=
  let f := bitsOf v 23 16
  decide (v < 2 ^ 24) && v % 2 ^ 12 == 0 && (upTo 9).any (fun k => f == 2 ^ k - 1)

/-- Fuse bits are burnt; bits already burnt are ignored. -/
def Dev.burn (d : Dev) (v : Nat) : Dev := d.setObj Obj.SC_FUSES (d.obj Obj.SC_FUSES ||| v)

/-! ## Attestation reports (R474, R477) -/

/-- A digest of the part's own: of its certificate (0), its ROM (1), or of the firmware of a version: the RTP's (2), the manager's or
agent's (3), the microcode (4). [DESIGN CHOICE, log 5] -/
def Dev.partDigest (d : Dev) (n ver : Nat) : List Byte := leBytes 32 (Config.ident d.key ((Obj.AT_REPORT * 2 ^ 32 + ver) * 8 + n))

/-- What a report of either part holds (Table: Manager attestation report). -/
structure ReportBody where
  part   : Nat
  die    : Nat
  nonce  : List Byte
  time   : Nat
  state  : List Byte          -- MODE, DEBUG, DEBUG_MAX, POWER
  fuses  : Nat
  owner  : Nat
  parts  : List Byte          -- the five digests of certificate, ROM, RTP firmware, main firmware and microcode
  claim  : Nat
  imp    : Nat
  imgDig : Nat                -- IMP_DIGEST
  mapDig : Nat                -- MAP_DIGEST
  vers   : List Byte          -- agent-version records
  ctxs   : List Byte          -- context records

/-- The bytes of a report with its signature, a free value. [DESIGN CHOICE, log 77] -/
def ReportBody.bytes (r : ReportBody) (sign : Nat) : List Byte :=
  let body := leBytes 8 r.die ++ r.nonce ++ leBytes 8 r.time ++ r.state ++ leBytes 4 r.fuses ++ leBytes 32 r.owner ++ r.parts ++
    leBytes 8 r.claim ++ leBytes 4 r.imp ++ leBytes 2 (r.vers.length / 8) ++ leBytes 2 (r.ctxs.length / 40) ++
    leBytes 32 r.imgDig ++ leBytes 32 r.mapDig ++ leBytes 16 0 ++ r.vers ++ r.ctxs
  [1, BitVec.ofNat 8 r.part, 0, 0] ++ leBytes 4 (8 + body.length + 384) ++ body ++ leBytes 384 sign

/-- The DER device certificate of a part. -/
def Dev.certificate (d : Dev) : List Byte := Config.freeBytes (2 ^ 64 + d.key) 0

end Sys2Proof.Machine
end

