-- ==== Sys2Proof/Machine/Hash.lean ====
section
/-! DEFINITION. Sys2Proof/Machine/Hash.lean: SHA-256 (FIPS 180-4) and the cyclic redundancy checks of Table: CRC
polynomials, over lists of bytes. -/

namespace Sys2Proof.Machine

/-! ## SHA-256 (FIPS 180-4) -/

/-- The word at a place of a number written as a row of 32-bit words, `n` places from its last. -/
def wordOf (row n : Nat) : BitVec 32 := BitVec.ofNat 32 (row >>> (32 * n))

/-- The sixty-four round constants, four rows of sixteen words. -/
def shaRows : List Nat :=
  [0x428a2f9871374491b5c0fbcfe9b5dba53956c25b59f111f1923f82a4ab1c5ed5d807aa9812835b01243185be550c7dc372be5d7480deb1fe9bdc06a7c19bf174,
   0xe49b69c1efbe47860fc19dc6240ca1cc2de92c6f4a7484aa5cb0a9dc76f988da983e5152a831c66db00327c8bf597fc7c6e00bf3d5a7914706ca635114292967,
   0x27b70a852e1b21384d2c6dfc53380d13650a7354766a0abb81c2c92e92722c85a2bfe8a1a81a664bc24b8b70c76c51a3d192e819d6990624f40e3585106aa070,
   0x19a4c1161e376c082748774c34b0bcb5391c0cb34ed8aa4a5b9cca4f682e6ff3748f82ee78a5636f84c878148cc7020890befffaa4506cebbef9a3f7c67178f2]

/-- The constant of a round. -/
def shaConst (i : Nat) : BitVec 32 := wordOf (shaRows.getD (i / 16) 0) (15 - i % 16)

/-- The chaining value before the first block, as one row of eight words. -/
def shaStart : Nat := 0x6a09e667bb67ae853c6ef372a54ff53a510e527f9b05688c1f83d9ab5be0cd19

/-- A word XORed with itself under several right rotations. -/
def spun (w : BitVec 32) (turns : List Nat) : BitVec 32 := turns.foldl (fun acc n => acc ^^^ w.rotateRight n) 0

/-- A 32-bit word of four bytes, highest first. -/
def beWord (bs : List Byte) : BitVec 32 := BitVec.ofNat 32 (bs.foldl (fun a b => a * 256 + b.toNat) 0)

/-- Cuts a list into pieces of n, with fuel. -/
def cutBy {α : Type} (n : Nat) : Nat → List α → List (List α)
  | 0, _ => []
  | fuel + 1, l => if l.isEmpty then [] else l.take n :: cutBy n fuel (l.drop n)

/-- Where a block's rounds stand: the eight working words, and the next sixteen words of the message schedule. -/
structure ShaSt where
  work : List (BitVec 32)
  next : List (BitVec 32)

/-- The schedule moves on by one word. -/
def slide (win : List (BitVec 32)) : List (BitVec 32) :=
  let at_ := fun (n : Nat) => win.getD n 0
  win.drop 1 ++ [(spun (at_ 14) [17, 19] ^^^ (at_ 14 >>> 10)) + at_ 9 + (spun (at_ 1) [7, 18] ^^^ (at_ 1 >>> 3)) + at_ 0]

/-- Round i: the working words shift by one place; the first and the fifth are new. -/
def ShaSt.round (s : ShaSt) (i : Nat) : ShaSt :=
  let v := fun (n : Nat) => s.work.getD n 0
  let pick := (v 6 ^^^ (v 4 &&& (v 5 ^^^ v 6)))
  let most := ((v 0 ||| v 1) &&& v 2) ||| (v 0 &&& v 1)
  let mixed := shaConst i + s.next.getD 0 0 + pick + spun (v 4) [6, 11, 25] + v 7
  { work := (most + spun (v 0) [2, 13, 22] + mixed) :: (s.work.take 3 ++ (v 3 + mixed) :: (s.work.drop 4).take 3)
    next := slide s.next }

/-- One block of 64 bytes is worked into the chaining words. -/
def shaFold (chain : List (BitVec 32)) (block : List Byte) : List (BitVec 32) :=
  let s := (upTo 64).foldl ShaSt.round { work := chain, next := (cutBy 4 16 block).map beWord }
  chain.zipWith (fun x y => x + y) s.work

/-- The message with its padding. -/
def shaPad (m : List Byte) : List Byte :=
  let z := (119 - m.length % 64) % 64
  m ++ [0x80] ++ List.replicate z 0 ++ (leBytes 8 (8 * m.length)).reverse

/-- SHA-256 of a byte list, as 32 bytes. -/
def sha256Bytes (m : List Byte) : List Byte :=
  let p := shaPad m
  let start := (upTo 8).map (fun n => wordOf shaStart (7 - n))
  ((cutBy 64 (p.length / 64 + 1) p).foldl shaFold start).flatMap (fun w => (leBytes 4 w.toNat).reverse)

/-- SHA-256 of a byte list, as a 256-bit value whose lowest byte is the first byte of the digest (R5). [DESIGN CHOICE, log 8] -/
def sha256 (m : List Byte) : Digest := BitVec.ofNat 256 (leNat (sha256Bytes m))

/-! ## Cyclic redundancy checks (Table: CRC polynomials) -/

/-- One byte through a reflected register of 32 bits with a reflected polynomial. -/
def crcRefl (poly : BitVec 32) (r : BitVec 32) (b : Byte) : BitVec 32 :=
  (upTo 8).foldl (fun r _ => if r.getLsbD 0 then (r >>> 1) ^^^ poly else r >>> 1) (r ^^^ b.setWidth 32)

/-- One byte through a 16-bit register, high bit first. -/
def crcHigh16 (poly : BitVec 16) (r : BitVec 16) (b : Byte) : BitVec 16 :=
  (upTo 8).foldl (fun r _ => if r.getLsbD 15 then (r <<< 1) ^^^ poly else r <<< 1) (r ^^^ (b.setWidth 16 <<< 8))

/-- One byte through an 8-bit register, high bit first. -/
def crcHigh8 (poly : BitVec 8) (r : BitVec 8) (b : Byte) : BitVec 8 :=
  (upTo 8).foldl (fun r _ => if r.getLsbD 7 then (r <<< 1) ^^^ poly else r <<< 1) (r ^^^ b)

/-- The initial register of a polynomial code. -/
def crcInit (code : Nat) : Nat :=
  if code = 2 then 0xFFFF else if code = 3 then 0xFF else 0xFFFFFFFF

/-- The register after one more byte. -/
def crcFeed (code r : Nat) (b : Byte) : Nat :=
  if code = 0 then (crcRefl 0x82F63B78 (BitVec.ofNat 32 r) b).toNat
  else if code = 1 then (crcRefl 0xEDB88320 (BitVec.ofNat 32 r) b).toNat
  else if code = 2 then (crcHigh16 0x1021 (BitVec.ofNat 16 r) b).toNat
  else (crcHigh8 0x2F (BitVec.ofNat 8 r) b).toNat

/-- The value a register stands for: combined with the final XOR. -/
def crcFinal (code r : Nat) : Nat :=
  if code = 0 then r ^^^ 0xFFFFFFFF
  else if code = 1 then r ^^^ 0xFFFFFFFF
  else if code = 2 then r
  else r ^^^ 0xFF

/-- The CRC of a byte list under a polynomial code. [DESIGN CHOICE, log 8] -/
def crcOf (code : Nat) (bs : List Byte) : Nat := crcFinal code (bs.foldl (crcFeed code) (crcInit code))

/-! ## The bytes of a record (R483) -/

/-- A record's bytes without the CRC field. -/
def EvRec.headBytes (r : EvRec) : List Byte :=
  leBytes 8 (r.seq * 2 ^ 16 + r.sev * 2 ^ 13 + (r.len / 8 - 1)) ++ leBytes 8 r.time ++ r.payload ++
    leBytes 4 (r.ctx * 2 ^ 20 + r.code * 2 ^ 10 + r.seq % 1024)

/-- A record's bytes: head, payload, tail with its CRC-32C; that of a damaged record does not pass (R123). [DESIGN CHOICE, log 93] -/
def EvRec.bytes (r : EvRec) : List Byte := r.headBytes ++ leBytes 4 (crcOf 0 r.headBytes ^^^ r.damaged)

end Sys2Proof.Machine
end

