-- ==== Sys2Proof/Machine/PlateOps.lean ====
section
/-! DEFINITION. Sys2Proof/Machine/PlateOps.lean: a plate's encoding, its canonical image and digest, its checks, its range
form, and the records of a stage (chapter "Plates, impressions and installation"). -/

namespace Sys2Proof.Machine

/-! ## Sections -/

/-- Entries and bytes per entry of a section (Table: Record header). -/
def secPlaces (sec : Nat) : Nat :=
  if sec = 0 then 1 else if sec ≤ 2 then 512 else if sec = 3 then 256 else if sec = 4 then 64 else if sec = 5 then 4096 else 4608
def secBytes (sec : Nat) : Nat := if sec = 0 then 256 else if sec ≤ 3 then 16 else 32

/-- A section of a plate, and the plate with a section replaced. -/
def Plate.sec (p : Plate) (n : Nat) : List Nat :=
  if n = 0 then [p.header] else if n = 1 then p.blocks else if n = 2 then p.alts else if n = 3 then p.locals
  else if n = 4 then p.trees else if n = 5 then p.excs else p.wdrs
def Plate.setSec (p : Plate) (n : Nat) (l : List Nat) : Plate :=
  if n = 0 then { p with header := l.getD 0 0 } else if n = 1 then { p with blocks := l }
  else if n = 2 then { p with alts := l } else if n = 3 then { p with locals := l }
  else if n = 4 then { p with trees := l } else if n = 5 then { p with excs := l } else { p with wdrs := l }

/-- A list padded with zeros to a length. -/
def padTo (n : Nat) (l : List Nat) : List Nat := (upTo n).map (fun i => l.getD i 0)

/-- Entries without the zeros at their end. -/
def trimZeros (l : List Nat) : List Nat := (l.reverse.dropWhile (fun v => v == 0)).reverse

/-- A place of a section. -/
def Plate.at_ (p : Plate) (sec i : Nat) : Nat := (p.sec sec).getD i 0

/-! ## Header fields (R176) -/

def Plate.imp (p : Plate) : Nat := bitsOf p.header 703 672
def Plate.nid (p : Plate) : Nat := bitsOf p.header 671 654
def Plate.excCount (p : Plate) : Nat := bitsOf p.header 639 627
def Plate.wdrCount (p : Plate) : Nat := bitsOf p.header 623 610
def Plate.locCount (p : Plate) : Nat := bitsOf p.header 609 601
def Plate.treeCount (p : Plate) : Nat := bitsOf p.header 600 594
def Plate.upMap (p : Plate) : Ports := BitVec.ofNat 128 (bitsOf p.header 591 464)
def Plate.seed (p : Plate) : Nat := bitsOf p.header 767 704
def Plate.localBit (p : Plate) (b : Nat) : Bool := bitOf p.header (1280 + b)
def Plate.unreachBit (p : Plate) (b : Nat) : Bool := bitOf p.header (768 + b)

/-- The bitmap of a list of bit numbers. -/
def bitmapOf (l : List Nat) : Nat := l.foldl (fun a b => if bitOf a b then a else a + 2 ^ b) 0

/-- A header of its fields, PLATE_DIGEST zero. -/
def mkHeader (locals unreach : List Nat) (seed imp nid exc wdr loc tree : Nat) (up : Ports) : Nat :=
  bitmapOf locals * 2 ^ 1280 + bitmapOf unreach * 2 ^ 768 + seed % 2 ^ 64 * 2 ^ 704 + imp % 2 ^ 32 * 2 ^ 672 +
  nid % 2 ^ 18 * 2 ^ 654 + 2 ^ 640 + exc % 2 ^ 13 * 2 ^ 627 + wdr % 2 ^ 14 * 2 ^ 610 + loc % 2 ^ 9 * 2 ^ 601 +
  tree % 2 ^ 7 * 2 ^ 594 + up.toNat * 2 ^ 464

/-! ## Canonical image and digests (R182, R183) -/

/-- The canonical plate image. -/
def Plate.image (p : Plate) : List Byte :=
  leBytes 256 (p.header % 2 ^ 1792) ++ (padTo 512 p.blocks).flatMap (leBytes 16) ++ (padTo 512 p.alts).flatMap (leBytes 16) ++
  (padTo 256 p.locals).flatMap (leBytes 16) ++ (padTo 64 p.trees).flatMap (leBytes 32) ++
  (padTo p.excCount p.excs).flatMap (leBytes 32) ++ (padTo p.wdrCount p.wdrs).flatMap (leBytes 32)

/-- The plate digest. -/
def Plate.digest (p : Plate) : Digest := sha256 p.image

/-- The plate with its digest in its header. -/
def Plate.stamp (p : Plate) : Plate := { p with header := p.header % 2 ^ 1792 + p.digest.toNat * 2 ^ 1792 }

/-- A plate under an impression number and a hash seed, with its digest. -/
def renumber (p : Plate) (imp seed : Nat) : Plate :=
  let h := p.header - p.seed * 2 ^ 704 - p.imp * 2 ^ 672 + seed % 2 ^ 64 * 2 ^ 704 + imp % 2 ^ 32 * 2 ^ 672
  ({ p with header := h }).stamp

/-- The impression digest. -/
def impDigest (number : Nat) (plates : SMap Plate) : Digest :=
  sha256 (plates.flatMap (fun e => leBytes 4 e.2.nid ++ leBytes 32 e.2.digest.toNat) ++ leBytes 4 number)

/-- Serial comparison of impression numbers: a is newer than b (R45). [DEDUCED, log 28] -/
def newer (a b : Nat) : Bool :=
  let d := (a + 2 ^ 32 - b % 2 ^ 32) % 2 ^ 32
  decide (1 ≤ d) && decide (d ≤ 2 ^ 31 - 1)

/-- The number after a number. -/
def nextImp (n : Nat) : Nat := (n + 1) % 2 ^ 32

/-! ## The checks of a built plate (R181) -/

/-- Whether a list of keys rises strictly. -/
def rises : List Nat → Bool
  | [] => true
  | [_] => true
  | a :: b :: rest => decide (a < b) && rises (b :: rest)

/-- The lowest offset of the failing checks. -/
def firstBad (l : List (Nat × Bool)) : Option Nat :=
  l.foldl (fun (a : Option Nat) x => if x.2 then (match a with | some o => some (min o x.1) | none => some x.1) else a) none

/-- The sort keys of a local entry, a tree entry. -/
def localKey (v : Nat) : Nat := bitsOf v 127 110 * 2 + bitsOf v 64 64
def treeKey (v : Nat) : Nat := bitsOf v 255 240

/-- The offsets of the fields of a section's slots that are out of order, from the offset of the first: valid slots
first, keys rising. -/
def orderBad (valid : Nat → Bool) (key : Nat → Nat) (size : Nat) : Nat → List Nat → List (Nat × Bool)
  | _, [] => []
  | _, [_] => []
  | off, a :: b :: rest =>
    (off + size, valid b && (!(valid a) || Nat.ble (key b) (key a))) :: orderBad valid key size (off + size) (b :: rest)

/-- The failing field of a plate: the lowest byte offset in its image at which a check of R181 fails. [DEDUCED, log 84] -/
def Plate.formatBad (p : Plate) (imp nid : Nat) : Option Nat :=
  let h := p.header
  let locals := padTo 256 p.locals
  let trees := padTo 64 p.trees
  let excs := padTo p.excCount p.excs
  let wdrs := padTo p.wdrCount p.wdrs
  let lValid := fun (v : Nat) => bitOf v 109
  let tValid := fun (v : Nat) => bitOf v 231
  let xo := 22784
  let wo := xo + 32 * p.excCount
  firstBad (
    [(0, bitsOf h 463 0 != 0),
     (74, bitsOf h 593 592 != 0 || decide (64 < p.treeCount) || p.treeCount != (trees.filter tValid).length),
     (75, decide (128 < p.locCount) || p.locCount != (locals.filter lValid).length),
     (76, decide (4608 < p.wdrCount)), (78, bitsOf h 626 624 != 0 || decide (4096 < p.excCount)),
     (80, bitsOf h 647 640 != 1), (81, bitsOf h 653 648 != 0 || p.nid != nid), (84, p.imp != imp),
     (96, (upTo 512).any (fun b => p.localBit b && p.unreachBit b))] ++
    ((upTo 512).map (fun b => (256 + 16 * b, (p.at_ 1 b != 0) == (p.localBit b || p.unreachBit b)))) ++
    (locals.zipIdx.flatMap (fun x =>
      [(16640 + 16 * x.2 + 8, bitsOf x.1 107 65 != 0), (16640 + 16 * x.2 + 13, !lValid x.1 && x.1 != 0)])) ++
    orderBad lValid localKey 16 (16640 + 13) locals ++
    (trees.zipIdx.flatMap (fun x =>
      [(20736 + 32 * x.2 + 16, bitsOf x.1 222 128 != 0), (20736 + 32 * x.2 + 28, !tValid x.1 && x.1 != 0)])) ++
    orderBad tValid treeKey 32 (20736 + 30) trees ++
    (excs.zipIdx.flatMap (fun x => [(xo + 32 * x.2 + 16, bitsOf x.1 234 128 != 0), (xo + 32 * x.2 + 29, bitOf x.1 237 && bitOf x.1 236)])) ++
    orderBad (fun _ => true) (fun v => bitsOf v 255 238) 32 (xo + 29) excs ++
    (wdrs.zipIdx.flatMap (fun x =>
      [(wo + 32 * x.2 + 16, bitsOf x.1 236 128 != 0), (wo + 32 * x.2 + 29, !bitOf x.1 255 && bitsOf x.1 254 246 != 0)])) ++
    orderBad (fun _ => true) (fun v => bitsOf v 255 237) 32 (wo + 29) wdrs)

/-! ## Range form and capacities (R206, R207, R321) -/

/-- What a range entry's blocks share. -/
def Plate.rangeKey (p : Plate) (b : Nat) : Nat × Nat × Bool × Bool := (p.at_ 1 b, p.at_ 2 b, p.localBit b, p.unreachBit b)

/-- The maximal runs of blocks that share their entries: (lo, hi), ascending. -/
def Plate.ranges (p : Plate) : List (Nat × Nat) :=
  ((upTo 512).foldl (fun (a : List (Nat × Nat)) b =>
    match a with
    | [] => [(b, b)]
    | (lo, hi) :: rest => if p.rangeKey hi = p.rangeKey b then (lo, b) :: rest else (b, b) :: (lo, hi) :: rest) []).reverse

/-- A range entry of a run (R319). -/
def Plate.rangeEntry (p : Plate) (r : Nat × Nat) : Nat :=
  r.1 * 2 ^ 375 + r.2 * 2 ^ 366 + (if p.localBit r.1 then 2 ^ 365 else 0) + (if p.unreachBit r.1 then 2 ^ 364 else 0) +
  p.at_ 2 r.1 * 2 ^ 128 + p.at_ 1 r.1

/-- Places the alternate entries need: the highest block with a non-zero one, plus one. -/
def Plate.altNeed (p : Plate) : Nat := (trimZeros (p.alts.take 512)).length

/-- A field of a node descriptor, and a capability flag. -/
def descField (desc : List Byte) (off n : Nat) : Nat := fieldAt desc off n
def descCap (desc : List Byte) (bit : Nat) : Bool := bitOf (fieldAt desc 4 4) bit

/-- The first section whose capacity a plate exceeds in a form: its RF_SECTION code, the need and the capacity. A plate of more
exception entries than EXC_COUNT can tell exceeds it with what it holds. [DESIGN CHOICE, log 20] -/
def Plate.overflow (p : Plate) (desc : List Byte) (range : Bool) : Option (Nat × Nat × Nat) :=
  let exc := min 4096 (descField desc 0x10 2)
  let rcap := if descCap desc 2 then descField desc 0x12 2 else 0
  let need := max p.excCount p.excs.length
  if exc < need then some (5, need, exc)
  else if descField desc 0x0C 2 < p.locCount then some (3, p.locCount, descField desc 0x0C 2)
  else if descField desc 0x0E 2 < p.treeCount then some (4, p.treeCount, descField desc 0x0E 2)
  else if range then (if rcap < p.ranges.length then some (6, p.ranges.length, rcap) else none)
  else if descField desc 0x08 2 < 512 then some (1, 512, descField desc 0x08 2)
  else if descField desc 0x0A 2 < p.altNeed then some (2, p.altNeed, descField desc 0x0A 2)
  else none

/-- The form a plate is staged in, or the section it does not fit (R207): RANGE only where the plain form does not fit. -/
def Plate.form (p : Plate) (desc : List Byte) : Except (Nat × Nat × Nat) Bool :=
  match p.overflow desc false with
  | none => .ok false
  | some bad =>
    if (bad.1 = 1 ∨ bad.1 = 2) ∧ descCap desc 2 then
      match p.overflow desc true with
      | none => .ok true
      | some b => .error b
    else .error bad

/-! ## Stage records (R189, R190) -/

/-- A stage header. -/
structure StageHdr where
  imp   : Nat
  base  : Nat
  frag  : Nat
  count : Nat
  range : Bool
  full  : Bool
  deriving DecidableEq, Repr

/-- A record of a stage. -/
structure StageRec where
  sec     : Nat
  mode    : Nat
  first   : Nat
  count   : Nat
  entries : List Nat
  deriving DecidableEq, Repr

/-- The stage header of a payload, or the offset of its faulty field. -/
def parseStageHdr (bs : List Byte) : Except Nat StageHdr :=
  let v := fieldAt bs 0 16
  let h : StageHdr := { imp := bitsOf v 127 96, base := bitsOf v 95 64, frag := bitsOf v 63 48, count := bitsOf v 47 32
                        range := bitOf v 3, full := bitOf v 2 }
  if bs.length < 16 then .error 0
  else if bitsOf v 31 4 ≠ 0 ∨ bitsOf v 1 0 ≠ 0 then .error 0
  else if h.count = 0 ∨ 2048 < h.count then .error 4
  else if h.count ≤ h.frag then .error 6
  else .ok h

/-- The records of a payload from an offset on, or the offset of a faulty field. Each record is at least 4 bytes. -/
def parseRecs (bs : List Byte) : Nat → Nat → Except Nat (List StageRec)
  | 0, _ => .ok []
  | fuel + 1, off =>
    if bs.length ≤ off then .ok []
    else if bs.length < off + 4 then .error off
    else
      let h := fieldAt bs off 4
      let sec := bitsOf h 31 28
      let mode := bitsOf h 27 26
      let first := bitsOf h 25 13
      let count := bitsOf h 12 0
      let n := if mode = 0 then count else if mode = 1 then 1 else 0
      if 7 ≤ sec ∨ mode = 3 then .error (off + 3)
      else if 4608 ≤ first then .error (off + 1)
      else if 4608 < count ∨ secPlaces sec < first + count then .error off
      else if bs.length < off + 4 + n * secBytes sec then .error off
      else
        let es := (upTo n).map (fun i => fieldAt bs (off + 4 + i * secBytes sec) (secBytes sec))
        match parseRecs bs fuel (off + 4 + n * secBytes sec) with
        | .error e => .error e
        | .ok rest => .ok ({ sec := sec, mode := mode, first := first, count := count, entries := es } :: rest)

/-- The records of a fragment, or the offset of a faulty field; fragment 0 carries the header record (R189). [DEDUCED, log 84] -/
def stageRecs (h : StageHdr) (bs : List Byte) : Except Nat (List StageRec) :=
  match parseRecs bs bs.length 16 with
  | .error off => .error off
  | .ok l => if h.frag = 0 ∧ l.all (fun r => r.sec != 0 || r.count == 0) then .error 16 else .ok l

/-- Applies a record to a plate. -/
def Plate.apply (p : Plate) (r : StageRec) : Plate :=
  let old := p.sec r.sec
  let new := (upTo (max old.length (r.first + r.count))).map (fun i =>
    if r.first ≤ i ∧ i < r.first + r.count then
      (if r.mode = 0 then r.entries.getD (i - r.first) 0 else if r.mode = 1 then r.entries.getD 0 0 else 0)
    else old.getD i 0)
  p.setSec r.sec (if r.sec = 0 then new else trimZeros new)

/-- A record's bytes. -/
def StageRec.bytes (r : StageRec) : List Byte :=
  leBytes 4 (r.sec * 2 ^ 28 + r.mode * 2 ^ 26 + r.first * 2 ^ 13 + r.count) ++ r.entries.flatMap (leBytes (secBytes r.sec))

/-- A list as its maximal runs of equal entries, with their lengths. -/
def equalRuns (l : List Nat) : List (Nat × Nat) :=
  l.foldr (fun v rs => match rs with
    | (w, n) :: rest => if v = w then (w, n + 1) :: rest else (v, 1) :: rs
    | [] => [(v, 1)]) []

/-- Adds a run of equal entries to the records of a section, latest first, and the place that follows them: zeros as a ZERO
record, two or more others as a REPEAT record, and a single one in a LITERAL record of at most 200 (R190). -/
def addRun (sec : Nat) (a : List StageRec × Nat) (r : Nat × Nat) : List StageRec × Nat :=
  let rec' := fun (mode : Nat) (es : List Nat) => ({ sec := sec, mode := mode, first := a.2, count := r.2, entries := es } : StageRec)
  let out :=
    if r.1 = 0 then rec' 2 [] :: a.1
    else if 2 ≤ r.2 then rec' 1 [r.1] :: a.1
    else match a.1 with
      | x :: rest => if x.mode = 0 ∧ x.count < 200 then { x with count := x.count + 1, entries := x.entries ++ [r.1] } :: rest else rec' 0 [r.1] :: a.1
      | [] => [rec' 0 [r.1]]
  (out, a.2 + r.2)

/-- The records of consecutive entries of a section from a place on: install frames use repeated and zero runs (R190). -/
def runRecs (sec first : Nat) (es : List Nat) : List StageRec := ((equalRuns es).foldl (addRun sec) ([], first)).1.reverse

/-- The runs of consecutive places in which two sections differ: first place and the new entries. -/
def changedRuns (old new : List Nat) (n : Nat) : List (Nat × List Nat) :=
  ((upTo n).foldl (fun (a : List (Nat × List Nat)) i =>
    if old.getD i 0 = new.getD i 0 then a
    else match a with
      | (f, es) :: rest => if f + es.length = i then (f, es ++ [new.getD i 0]) :: rest else (i, [new.getD i 0]) :: a
      | [] => [(i, [new.getD i 0])]) []).reverse

/-- The records that turn one plate into another; sections 5 and 6 are sent whole when they change. -/
def recsBetween (old new : Plate) : List StageRec :=
  { sec := 0, mode := 0, first := 0, count := 1, entries := [new.header] } ::
  [1, 2, 3, 4].flatMap (fun s => (changedRuns (old.sec s) (new.sec s) (secPlaces s)).flatMap (fun r => runRecs s r.1 r.2)) ++
  [5, 6].flatMap (fun s => if old.sec s = new.sec s then [] else runRecs s 0 (new.sec s))

/-- Packs records into fragment bodies of at most 8,900 bytes. -/
def packRecs (l : List StageRec) : List (List Byte) :=
  (l.foldl (fun (a : List (List Byte)) r =>
    let b := r.bytes
    match a with
    | [] => [b]
    | f :: rest => if f.length + b.length ≤ 8900 then (f ++ b) :: rest else b :: f :: rest) []).reverse

/-- The fragments of a stage of a plate: full, or a delta against a base plate of a number. -/
def stageFrames (old : Plate) (base : Nat) (new : Plate) (full range : Bool) : List (List Byte) :=
  let bodies := packRecs (recsBetween (if full then {} else old) new)
  bodies.zipIdx.map (fun b =>
    leBytes 16 (new.imp * 2 ^ 96 + base % 2 ^ 32 * 2 ^ 64 + b.2 * 2 ^ 48 + bodies.length * 2 ^ 32 +
      (if range then 8 else 0) + (if full then 4 else 0)) ++ b.1)

end Sys2Proof.Machine
end

