-- ==== Sys2Proof/Machine/DictRules.lean ====
section
/-! DEFINITION. Sys2Proof/Machine/DictRules.lean: which addresses a device's dictionary holds, which values and lengths a
WRITE may carry, and the order of the checks of a request (chapter "The object dictionary"). -/

namespace Sys2Proof.Machine

/-! ## Addresses (R352) -/

/-- The device holds an index. -/
def holdsIdx (agentPart : Bool) (idx : Nat) : Bool :=
  objRows.any (fun r => r.idx == idx) &&
  (if agentPart then
    [0x1000, 0x1010, 0x1020, 0x1100, 0x1110, 0x1120, 0x1200, 0x1300, 0x1310, 0x1320, 0x1400, 0x1410, 0x1420, 0x4000].contains idx ||
    Nat.ble 0x6000 idx
  else !Nat.ble 0x6000 idx)

/-- Subindices that an agent does not hold of a record both parts hold (R482, R506, R524). -/
def agentLacks (idx sub : Nat) : Bool :=
  (idx == 0x1200 && !([0x02, 0x03, 0x05, 0x06, 0x07, 0x08, 0x09, 0x0C, 0x0D] : List Nat).contains sub) ||
  (idx == 0x4000 && !([0x00, 0x04, 0x07] : List Nat).contains sub) || (idx == 0x1300 && decide (3 < sub)) ||
  (idx == 0x1110 && decide (2 < sub))

/-- The device holds an address. -/
def holdsKey (agentPart : Bool) (key : Nat) : Bool :=
  (objRow key).isSome && holdsIdx agentPart (key / 256 % 65536) &&
  !(agentPart && agentLacks (key / 256 % 65536) (key % 256))

/-! ## Values and lengths (R345, R347, R365) -/

/-- A value the object's row raises or lowers. -/
def ObjRow.adjust (r : ObjRow) (v : Nat) : Nat :=
  let raised := match r.raise with
    | .below => decide (v < r.lo)
    | .butZero => decide (v < r.lo) && v != 0
    | .onlyZero => v == 0
  if raised then r.lo else if r.hi < v then r.hi else v

/-- Reserved values and fields that the row's greatest value does not tell (Tables: Field record, Impression record; R221, R499, R524). [DEDUCED, log 90] -/
def valueBadAt (agentPart : Bool) (key v : Nat) : Bool :=
  if key = Obj.FN_ETHERTYPE then decide (v < 0x600) || v == 0x8100 || v == 0x88A8
  else if key = Obj.FN_VID ∨ key = Obj.IMP_FALLBACK then v == 0
  else if key = Obj.CV_SRAM_KIB then decide (v % 64 ≠ 0)
  else if key = Obj.FN_MAC_BASE then decide (2 ^ 48 ≤ v) || bitOf v 40 || decide (v % 2 ^ 22 ≠ 0)
  else if key = Obj.RL_SEL then !bucketCodes.contains v
  else if key = Obj.CK_SEL then agentPart && decide (1 < v)
  else false

/-- A WRITE's data is a fixed-size value, of its own size. -/
def fixedSize (r : ObjRow) : Bool := match r.ty with | .str | .domain => false | _ => true

/-- Check 7: the length of a WRITE. -/
def lengthBad (r : ObjRow) (n : Nat) : Bool := if fixedSize r then n != r.len else r.len != 0 && decide (r.len < n)

/-- Check 10: a reserved value or non-zero reserved field, for an object without the per-context attribute. -/
def valueBad (agentPart : Bool) (r : ObjRow) (key : Nat) (data : List Byte) : Bool :=
  if r.perCtx then false
  else if fixedSize r then
    decide (r.vmax < leNat data) || (r.acc != .cmd && valueBadAt agentPart key (leNat data))
  else match r.ty with
    | .str => data.any (fun b => decide (b.toNat < 0x20) || decide (0x7E < b.toNat))
    | _ => false

/-- The first of the checks that fails, in the order of Table: Dictionary results, or 0 (R341). `reach`, `mode`, `state`
and `busy` are what checks 4, 5, 8 and 9 find. [DEDUCED, log 42] -/
def dictResult (agentPart : Bool) (key : Nat) (write : Bool) (data : List Byte) (reach mode state busy : Nat) : Nat :=
  if !holdsIdx agentPart (key / 256 % 65536) then 0x0001
  else if !holdsKey agentPart key then 0x0002
  else match objRow key with
    | none => 0x0002
    | some r =>
      if reach ≠ 0 then reach
      else if mode ≠ 0 then mode
      else if write ∧ r.acc = .ro then 0x0003
      else if !write ∧ r.acc = .wo then 0x0004
      else if write ∧ lengthBad r data.length then 0x0005
      else if state ≠ 0 then state
      else if write ∧ busy ≠ 0 then busy
      else if write ∧ valueBad agentPart r key data then 0x0007
      else 0

end Sys2Proof.Machine
end

