-- ==== Sys2Proof/Machine/Semiring.lean ====
section
/-! DEFINITION. Sys2Proof/Machine/Semiring.lean: tiles and the exact result of every station operation (chapter "Tile
formats and semiring arithmetic"). -/

namespace Sys2Proof.Machine

/-! ## Elements and tiles (R94-R97) -/

/-- Bits of an element of a format. -/
def elemBits (fmt : Nat) : Nat :=
  if fmt = 1 ∨ fmt = 5 ∨ fmt = 7 then 32 else if fmt = 3 then 1 else 16

/-- Bytes of a tile of a format (R95). -/
def tileBytes (fmt : Nat) : Nat := 512 * elemBits fmt

/-- An element of a tile. -/
def tileAt (t : Tile) (i j : Nat) : Nat := t.elems.getD (64 * i + j) 0

/-- The tile of a format whose elements a function gives. -/
def tileOf (fmt : Nat) (f : Nat → Nat → Nat) : Tile := { fmt := fmt, elems := (upTo 4096).map (fun n => f (n / 64) (n % 64)) }

/-- The tile that holds one element in every position. -/
def tileFill (fmt v : Nat) : Tile := tileOf fmt (fun _ _ => v % 2 ^ elemBits fmt)

/-- The format default (R97). -/
def formatDefault (fmt : Nat) : Nat := if fmt = 0 then 0xFFFF else if fmt = 1 then 0xFFFF0000 else 0

/-- The ⊕ identity of a semiring (R98), or the format default where SEMIRING is None (R97). -/
def plusIdentity (sem fmt : Nat) : Nat :=
  if sem = 1 ∨ sem = 7 then 0xFFFF else if sem = 2 then 0xFFFF0000
  else if 3 ≤ sem ∧ sem ≤ 6 then 0 else formatDefault fmt

/-- A signed value of a width from its bit pattern. -/
def signedOf (w v : Nat) : Int := if v % 2 ^ w < 2 ^ (w - 1) then (v % 2 ^ w : Int) else (v % 2 ^ w : Int) - (2 ^ w : Int)

/-- The bit pattern of a signed value. -/
def patternOf (w : Nat) (v : Int) : Nat := (v % (2 ^ w : Int)).toNat

/-- The bytes of a tile as memory holds them (R94). -/
def tileToBytes (t : Tile) : List Byte :=
  if t.fmt = 3 then (upTo 64).flatMap (fun i => leBytes 8 ((upTo 64).foldl (fun a j => a + tileAt t i j * 2 ^ j) 0))
  else if t.fmt = 8 then t.elems.flatMap (leBytes 16)
  else if t.fmt = 9 then t.elems.flatMap (leBytes 8)
  else t.elems.flatMap (leBytes (elemBits t.fmt / 8))

/-- The tile that a format makes of bytes. -/
def tileFromBytes (fmt : Nat) (bs : List Byte) : Tile :=
  if fmt = 3 then tileOf 3 (fun i j => bitsOf (fieldAt bs (8 * i) 8) j j)
  else tileOf fmt (fun i j => fieldAt bs ((64 * i + j) * (elemBits fmt / 8)) (elemBits fmt / 8))

/-! ## Binary32 (R102) -/

/-- The canonical quiet NaN of binary32, and of BF16 (R102). -/
def fpNaN : Nat := 0x7FC00000
def bfNaN : Nat := 0x7FC0

/-- A finite number as sign, significand and exponent of two; denormals are read as zero of the same sign. -/
structure FpParts where
  neg : Bool
  mag : Nat
  exp : Int

/-- The parts of a binary32 pattern that is neither infinite nor NaN. -/
def fpParts (v : Nat) : FpParts :=
  let e := bitsOf v 30 23
  if e = 0 then ⟨bitOf v 31, 0, 0⟩ else ⟨bitOf v 31, 2 ^ 23 + v % 2 ^ 23, (e : Int) - 150⟩

/-- Whether a pattern is an infinity or a NaN. -/
def fpIsInf (v : Nat) : Bool := v % 2 ^ 31 == 0x7F800000
def fpIsNaN (v : Nat) : Bool := decide (v % 2 ^ 31 > 0x7F800000)

/-- Rounds a magnitude to nearest, ties to even, dropping `s` low bits. -/
def roundEven (m s : Nat) : Nat :=
  let q := m / 2 ^ s
  let r := m % 2 ^ s
  if s = 0 then m else if r > 2 ^ (s - 1) ∨ (r = 2 ^ (s - 1) ∧ q % 2 = 1) then q + 1 else q

/-- The pattern of a value magnitude times a power of two: rounded to nearest even, overflow to infinity, a result that
would be denormal to zero of its sign. -/
def fpPack (neg : Bool) (mag : Nat) (exp : Int) : Nat :=
  let sgn := if neg then 2 ^ 31 else 0
  if mag = 0 then sgn
  else
    let n := Nat.log2 mag + 1
    let m0 := if n ≤ 24 then mag * 2 ^ (24 - n) else roundEven mag (n - 24)
    let carry := m0 ≥ 2 ^ 24
    let e := exp + (n : Int) - 24 + 150 + (if carry then 1 else 0)
    let m := if carry then m0 / 2 else m0
    if e ≤ 0 then sgn
    else if e ≥ 255 then sgn + 0x7F800000
    else sgn + e.toNat * 2 ^ 23 + m % 2 ^ 23

/-- Binary32 addition. -/
def fpAdd (a b : Nat) : Nat :=
  if fpIsNaN a ∨ fpIsNaN b then fpNaN
  else if fpIsInf a then (if fpIsInf b ∧ bitOf a 31 ≠ bitOf b 31 then fpNaN else a)
  else if fpIsInf b then b
  else
    let x := fpParts a
    let y := fpParts b
    if x.mag = 0 ∧ y.mag = 0 then (if x.neg ∧ y.neg then 2 ^ 31 else 0)
    else
      let e := if x.mag = 0 then y.exp else if y.mag = 0 then x.exp else min x.exp y.exp
      let up := fun (p : FpParts) => if p.mag = 0 then (0 : Int) else
        (if p.neg then -1 else 1) * ((p.mag * 2 ^ (p.exp - e).toNat : Nat) : Int)
      let s := up x + up y
      if s = 0 then 0 else fpPack (decide (s < 0)) s.natAbs e

/-- The exact binary32 product of two BF16 patterns (R98, R102). -/
def bfMul (a b : Nat) : Nat :=
  let x := a * 2 ^ 16
  let y := b * 2 ^ 16
  let neg := bitOf x 31 != bitOf y 31
  if fpIsNaN x ∨ fpIsNaN y then fpNaN
  else if fpIsInf x ∨ fpIsInf y then
    (if (fpIsInf x ∧ ¬ fpIsInf y ∧ (fpParts y).mag = 0) ∨ (fpIsInf y ∧ ¬ fpIsInf x ∧ (fpParts x).mag = 0) then fpNaN
     else (if neg then 2 ^ 31 else 0) + 0x7F800000)
  else fpPack neg ((fpParts x).mag * (fpParts y).mag) ((fpParts x).exp + (fpParts y).exp)

/-- Widens a BF16 pattern to binary32, denormals read as zero and NaNs canonical. -/
def bfWiden (a : Nat) : Nat :=
  let x := a * 2 ^ 16
  if fpIsNaN x then fpNaN else if fpIsInf x then x else fpPack (bitOf x 31) (fpParts x).mag (fpParts x).exp

/-- A binary32 value delivered in BF16: rounded to nearest even, a NaN canonical, an overflow to infinity, a result that
would be denormal to zero of its sign. -/
def bfNarrow (v : Nat) : Nat :=
  if fpIsNaN v then bfNaN
  else if bitsOf v 30 23 = 0 then v / 2 ^ 31 * 2 ^ 15
  else roundEven v 16

/-! ## Semirings (R98-R102) -/

/-- Saturation to 16 bits. -/
def sat16 (v : Nat) : Nat := min v 0xFFFF

/-- ⊗. -/
def semTimes (sem a b : Nat) : Nat :=
  if sem = 1 then sat16 (a + b)
  else if sem = 2 then
    let m := sat16 (a / 65536 + b / 65536)
    m * 65536 + (if m = 0xFFFF then 0 else sat16 ((a % 65536) * (b % 65536)))
  else if sem = 3 then min a b
  else if sem = 4 then (if a = 1 ∧ b = 1 then 1 else 0)
  else if sem = 5 then patternOf 32 (signedOf 16 a * signedOf 16 b)
  else if sem = 6 then bfMul a b
  else
    let h := a / 256 + b / 256
    let l := a % 256 + b % 256
    if a = 0xFFFF ∨ b = 0xFFFF ∨ h ≥ 0xFF ∨ l ≥ 0xFF then 0xFFFF else h * 256 + l

/-- ⊕. Two MINPLUS_CNT elements of metric 0xFFFF, as loaded data may hold with counts that are not 0, give count 0 (R99's last
sentence; its ⊕ clause alone would add the counts). [DEDUCED, log 13] -/
def semPlus (sem a b : Nat) : Nat :=
  if sem = 1 ∨ sem = 7 then min a b
  else if sem = 2 then
    if a / 65536 < b / 65536 then a else if b / 65536 < a / 65536 then b
    else a / 65536 * 65536 + (if a / 65536 = 0xFFFF then 0 else sat16 (a % 65536 + b % 65536))
  else if sem = 3 then max a b
  else if sem = 4 then (if a = 1 ∨ b = 1 then 1 else 0)
  else if sem = 5 then (a + b) % 2 ^ 32
  else fpAdd a b

/-- Adds a list of binary32 terms in an order the release leaves open (R102, R124): a draw picks, at each addition, the
two terms that are added next. [DESIGN CHOICE, log 14] -/
def fpSumOpen (key free : Nat) : Nat → List Nat → Nat
  | 0, l => l.foldl fpAdd 0
  | fuel + 1, l =>
    match l with
    | [] => 0
    | [x] => x
    | _ =>
      let i := Config.freeNat key (free + 2 * fuel) % l.length
      let x := l.getD i 0
      let rest := l.eraseIdx i
      let j := Config.freeNat key (free + 2 * fuel + 1) % rest.length
      fpSumOpen key free fuel (fpAdd x (rest.getD j 0) :: rest.eraseIdx j)

/-- An upset of the hardware during a tile step (R113-R116): the element whose bits it changes, and where. With
`product` it strikes the ⊗ result of inner index k, else the element the step delivers. -/
abbrev UpsetAt := Nat × Nat × Nat

/-- C ⊕ (A ⊗ B) over K at one position, with the products an upset leaves. [DESIGN CHOICE, log 14] -/
def macAt (sem k : Nat) (a b : Tile) (c0 : Nat) (i j : Nat) (up : Nat → Nat → Nat → Nat → Nat) (key free : Nat) : Nat :=
  let prods := (upTo k).map (fun n => up i j n (semTimes sem (tileAt a i n) (tileAt b n j)))
  if sem = 6 then fpSumOpen key (free + 200 * (64 * i + j)) (k + 1) (c0 :: prods)
  else prods.foldl (semPlus sem) c0

/-- One pass of CLOSE: every position reads row k and column k as they stood at its start (R71), with the products an upset
leaves. -/
def closePass (sem : Nat) (up : Nat → Nat → Nat → Nat → Nat) (c : Tile) (k : Nat) : Tile :=
  tileOf c.fmt (fun i j => semPlus sem (tileAt c i j) (up i j k (semTimes sem (tileAt c i k) (tileAt c k j))))

/-- The first n passes of CLOSE. -/
def closeUpTo (sem n : Nat) (up : Nat → Nat → Nat → Nat → Nat) (c : Tile) : Tile := (upTo n).foldl (closePass sem up) c

/-- CLOSE. -/
def closeTile (sem : Nat) (up : Nat → Nat → Nat → Nat → Nat) (c : Tile) : Tile := closeUpTo sem 64 up c

/-- C ⊕ A, the operand widened to the accumulator's format. -/
def ewiseAt (sem a c : Nat) : Nat :=
  if sem = 5 then semPlus 5 c (patternOf 32 (signedOf 16 a))
  else if sem = 6 then fpAdd c (bfWiden a)
  else semPlus sem c a

/-! ## Hatch (R105-R107) -/

/-- ⊕ of elements of a row or column, in the format of its input (R104); the order of FMAC's additions is open (R102). The
operand formats of IMAC and FMAC are added in their accumulator's format, and the sum is delivered in the operand's: the
low 16 bits, or BF16. -/
def redOf (sem fmt : Nat) (vs : List Nat) (key free : Nat) : Nat :=
  if sem = 6 then
    if fmt = 6 then bfNarrow (fpSumOpen key free (vs.length + 1) (vs.map bfWiden)) else fpSumOpen key free (vs.length + 1) vs
  else if sem = 5 ∧ fmt = 4 then (vs.map (fun v => patternOf 32 (signedOf 16 v))).foldl (semPlus 5) 0 % 2 ^ 16
  else vs.foldl (semPlus sem) (plusIdentity sem fmt)

/-- A row, a column of a tile. -/
def rowOf (t : Tile) (i : Nat) : List Nat := (upTo 64).map (tileAt t i)
def colOf (t : Tile) (j : Nat) : List Nat := (upTo 64).map (fun i => tileAt t i j)

/-- The key Hatch orders elements by; none for a NaN (R106). -/
def hatchKey (fmt v : Nat) : Option Int :=
  if fmt = 1 then some (v / 65536)
  else if fmt = 4 then some (signedOf 16 v)
  else if fmt = 5 then some (signedOf 32 v)
  else if fmt = 6 ∨ fmt = 7 then
    let x := if fmt = 6 then v * 65536 else v
    if fpIsNaN x then none
    else some (if bitOf x 31 then -((x % 2 ^ 31 : Nat) : Int) else ((x % 2 ^ 31 : Nat) : Int))
  else some v

/-- x comes before y; false where either is a NaN. -/
def hatchLt (fmt x y : Nat) : Bool :=
  match hatchKey fmt x, hatchKey fmt y with
  | some a, some b => decide (a < b)
  | _, _ => false

/-- x equals y by Hatch's equality (R106). -/
def hatchEq (fmt x y : Nat) : Bool :=
  match hatchKey fmt x, hatchKey fmt y with
  | some a, some b => decide (a = b)
  | _, _ => false

/-- The column of a row's least (greatest) element, the lowest among equals; a row with a NaN has no least element by R106, and
its column is a free function of its elements, so identical operands give identical results (R124). [DEDUCED, log 13] -/
def argOf (fmt : Nat) (least : Bool) (row : List Nat) : Nat :=
  if row.any (fun v => (hatchKey fmt v).isNone) then Config.nanColumn fmt least row % 64
  else ((row.zip (upTo 64)).foldl (fun best (p : Nat × Nat) =>
    if (if least then hatchLt fmt p.1 (row.getD best 0) else hatchLt fmt (row.getD best 0) p.1) then p.2 else best) 0)

/-- CMP_EQ and CMP_LT against a reference tile, with IMM's row broadcast and MATCH_IDENTITY (R106, R107). A broadcast row of 64
or above names no row of a tile: every element of it reads 0. [DESIGN CHOICE, log 92] -/
def cmpTile (sem imm : Nat) (lt : Bool) (t ref : Tile) : Tile :=
  tileOf 3 (fun i j =>
    let r := tileAt ref (if bitOf imm 1 then bitsOf imm 15 8 else i) j
    if lt then (if hatchLt t.fmt (tileAt t i j) r then 1 else 0)
    else if !bitOf imm 2 ∧ hatchEq ref.fmt r (plusIdentity sem ref.fmt) then 0
    else if hatchEq t.fmt (tileAt t i j) r then 1 else 0)

/-! ## Stipple and Proof -/

/-- GATHER's column indices, row offsets and records: record r of the tile's bytes is a U32 column and a U32 value; row i
takes records offset[i] to offset[i+1] - 1. The indices that are 64 or above end the line with BOUNDS. [DESIGN CHOICE, log 105] -/
def gatherRecs (a b : Tile) : List (Nat × Nat × Nat) :=
  let ra := tileToBytes a
  let rb := tileToBytes b
  (upTo 64).flatMap (fun i =>
    let lo := fieldAt rb (4 * i) 4
    let hi := min (fieldAt rb (4 * i + 4) 4) (ra.length / 8)
    (upTo (hi - lo)).map (fun n => (i, fieldAt ra (8 * (lo + n)) 4, fieldAt ra (8 * (lo + n) + 4) 4)))

/-- GATHER. -/
def gatherTile (sem fmt : Nat) (recs : List (Nat × Nat × Nat)) : Tile :=
  tileOf fmt (fun i j =>
    match recs.find? (fun r => r.1 == i && r.2.1 == j) with
    | some r => r.2.2 % 2 ^ elemBits fmt
    | none => plusIdentity sem fmt)

/-- SCATTER: the records of a tile, row by row, without the elements equal to the ⊕ identity. -/
def scatterRecs (sem : Nat) (t : Tile) : List Nat :=
  (upTo 4096).filterMap (fun n =>
    let v := tileAt t (n / 64) (n % 64)
    if v = plusIdentity sem t.fmt then none else some (n % 64 + v * 2 ^ 32))

/-- CANON: the 64 port bitmaps of a B1 tile, one per column; its rows are ports 64 * half on. -/
def canonTile (half : Nat) (t : Tile) : Tile :=
  { fmt := 8, elems := (upTo 64).map (fun j => (upTo 64).foldl (fun a i => a + tileAt t i j * 2 ^ (64 * (half % 2) + i)) 0) }

/-! ## Residues (R110-R116) -/

/-- The parity of the lowest n bits of a number. -/
def parityOf (n v : Nat) : Nat := (upTo n).foldl (fun a i => a + v / 2 ^ i % 2) 0 % 2

/-- The residues of an element that its carried residues are compared with: per field for MC32, of the mathematical
value for signed formats; for floating point the residue of the significand with its hidden bit, 0 where the exponent is 0, and
the exponent's parity (R110). [DESIGN CHOICE, log 15] -/
def residueOf (fmt v : Nat) : List Nat :=
  if fmt = 1 then [v / 65536 % 3, v % 65536 % 3]
  else if fmt = 4 then [(signedOf 16 v % 3).toNat]
  else if fmt = 5 then [(signedOf 32 v % 3).toNat]
  else if fmt = 6 then [((if bitsOf v 14 7 = 0 then 0 else 128) + v % 128) % 3, parityOf 8 (bitsOf v 14 7)]
  else if fmt = 7 then [((if bitsOf v 30 23 = 0 then 0 else 2 ^ 23) + v % 2 ^ 23) % 3, parityOf 8 (bitsOf v 30 23)]
  else if fmt = 3 then [v % 2]
  else [v % 3]

/-- Whether the residues (for B1 the row's parity) show that an element's bits were changed. [DESIGN CHOICE, log 15] -/
def upsetShows (fmt v w : Nat) : Bool := residueOf fmt v != residueOf fmt w

/-- Whether the parity that a station forms of each row of a B1 tile on its second rail differs from the row of its first
(R114). -/
def rowsDiffer (t ref : Tile) : Bool :=
  (upTo 64).any (fun i => (rowOf t i).foldl (· + ·) 0 % 2 != (rowOf ref i).foldl (· + ·) 0 % 2)

end Sys2Proof.Machine
end

