-- ==== Sys2Proof/Machine/HostOps.lean ====
section
/-! DEFINITION. Sys2Proof/Machine/HostOps.lean: shared operations on contexts, interrupts, doorbells, sync objects and
answers, which the families call. -/

namespace Sys2Proof.Machine

abbrev Out := Host.Outcome State Fault Refusal

/-! ## Contexts -/

/-- A context's record; context 0 is always ACTIVE with generation 0 (R38, R40). -/
def Manager.ctx (m : Manager) (c : Nat) : Ctx :=
  mapGetD m.sl.ctxs c (if c = 0 then { st := .active, syncN := 1024, mboxN := 8 } else {})

/-- Writes a context's record. -/
def Manager.setCtx (m : Manager) (c : Nat) (x : Ctx) : Manager := { m with sl := { m.sl with ctxs := mapSet m.sl.ctxs c x } }

/-- A context enters a state: STATE_TIME is stamped (R212). -/
def Manager.enter (m : Manager) (c : Nat) (st : CtxSt) : Manager :=
  m.setCtx c { m.ctx c with st := st, stateTime := m.dev.time }

/-- The partition key of a context and generation (R41). -/
def pKey (ctx gen : Nat) : Nat := if ctx = 0 then 0 else ctx * 16 + gen % 16

/-- The context bound to a function: 0 for the physical one (R218, R393). -/
def Manager.fnCtx (m : Manager) (fn : Nat) : Option Nat :=
  if fn = 0 then some 0 else (m.sl.ctxs.find? (fun e => e.2.vf == fn)).map (fun e => e.1)

/-- The function that serves a context: the bound virtual function, or the physical one for context 0. -/
def Manager.ctxFn (m : Manager) (c : Nat) : Option Nat :=
  if c = 0 then some 0 else if (m.ctx c).vf = 0 then none else some (m.ctx c).vf

/-- The generation a manager holds for a context, for ingress check 7 (R85, R358). -/
def Manager.genOf (m : Manager) (c : Nat) : Option Nat := some (m.ctx c).gen

/-- Changes the manager's device part. -/
def Manager.onDev (m : Manager) (f : Dev → Dev) : Manager := { m with dev := f m.dev }

/-- The object, its write and its advance, at the manager. -/
def Manager.obj (m : Manager) (k : Nat) : Nat := m.dev.obj k
def Manager.setObj (m : Manager) (k v : Nat) : Manager := { m with dev := m.dev.setObj k v }
def Manager.bump (m : Manager) (k : Nat) : Manager := { m with dev := m.dev.bump k }
def Manager.bumpBy (m : Manager) (k n : Nat) : Manager := { m with dev := m.dev.bumpBy k n }

/-! ## Authority (R280, R288, R289) -/

/-- The unit is active (RD_STATE); so is a module while it applies an entry of the active unit's stream. -/
def Manager.active (m : Manager) : Bool := m.obj Obj.RD_STATE == 2 || m.dev.net.replay

/-- The module is in a takeover or leader change, or a unit gaining authority has not finished (R299). -/
def Manager.inTakeover (m : Manager) : Bool :=
  !m.dev.net.replay && (m.obj Obj.RD_STATE == 5 || m.red.gather.isSome || m.red.gaining)

/-- The module leads its triad, with every entry that its followers hold, or is a single-module unit (R288, R290), or does as its
leader did. -/
def Manager.leads (m : Manager) : Bool :=
  m.red.slot.isNone || (decide (some (m.obj Obj.TR_LEADER) = m.red.slot) && m.red.gather.isNone) || m.dev.net.replay

/-- An entry takes the next sequence number, and goes to the triad peers and to the standby, also to those that resynchronise (R288,
R292, R294, R295). -/
def Manager.pushEntry (m : Manager) (e : StreamEntry) : Manager :=
    let n := m.red.nextSeq
    let m := { m with red := { m.red with
      nextSeq := n + 1
      applied := n
      entries := if m.red.slot.isSome || m.red.standby.isSome then mapSet m.red.entries n e else m.red.entries
      triadOut := if m.red.slot.isSome then m.red.triadOut ++ [TriadMsg.entry n e] else m.red.triadOut } }
    let m := if m.red.slot.isSome then m.setObj Obj.TR_SEQ n else m
    match m.red.standby with
    | some nid => (m.bump Obj.RD_REPL_LAG).onDev (fun d => d.sendTo nid 3 (.repl n e))
    | none => m

/-- Only the leader of the active unit makes entries. -/
def Manager.putEntry (m : Manager) (e : StreamEntry) : Manager :=
  if !m.leads || !m.active || m.dev.net.replay then m else m.pushEntry e

/-- An input becomes an entry, with where the leader's draws stand. [DESIGN CHOICE, log 68] -/
def Manager.entry (m : Manager) (i : Instr) : Manager :=
  m.putEntry { kind := .input m.dev.key m.dev.free, input := some i }

/-! ## Interrupts (R389-R391) -/

/-- A function's own state. -/
def Manager.fnSt (m : Manager) (fn : Nat) : HostFn := mapGetD m.host.fns fn {}
def Manager.setFn (m : Manager) (fn : Nat) (x : HostFn) : Manager :=
  { m with host := { m.host with fns := mapSet m.host.fns fn x } }

/-- The vector is masked in the function's MSI-X table. -/
def HostFn.vecMasked (f : HostFn) (vec : Nat) : Bool := mapGetD f.msix (4 * vec + 3) 1 % 2 == 1

/-- The message of a vector: a write to the address in its MSI-X table entry, and to no other (R372). -/
def HostFn.msiOf (f : HostFn) (fn vec : Nat) : Msi :=
  { fn := fn, vector := vec, addr := mapGetD f.msix (4 * vec) 0 + mapGetD f.msix (4 * vec + 1) 0 * 2 ^ 32, data := mapGetD f.msix (4 * vec + 2) 0 }

/-- Sends the message of a vector of a function; while the vector is masked its pending bit is set instead (R390). -/
def Manager.msi (m : Manager) (fn vec : Nat) : Manager :=
  let f := m.fnSt fn
  if f.vecMasked vec then m.setFn fn { f with pba := insNat f.pba vec }
  else { m with host := { m.host with msis := m.host.msis ++ [f.msiOf fn vec] } }

/-- Sets a cause bit; its message is sent when the bit goes from 0 to 1 while it is not masked (R390). [DESIGN CHOICE, log 102] -/
def Manager.raiseInt (m : Manager) (fn cause : Nat) : Manager :=
  let f := m.fnSt fn
  if bitOf f.intStatus cause then m
  else
    let m := m.setFn fn { f with intStatus := f.intStatus + 2 ^ cause }
    if bitOf f.intMask cause then m else m.msi fn cause

/-- Raises a cause at the function that serves a context; nothing when none does. -/
def Manager.raiseCtx (m : Manager) (c cause : Nat) : Manager :=
  match m.ctxFn c with
  | some fn => m.raiseInt fn cause
  | none => m

/-! ## Events of the manager -/

/-- Raises EVENT when the recorder wrote a record (Table: Interrupt causes). -/
def Manager.afterRecord (m : Manager) (d : Dev) (c : Nat) : Manager :=
  let wrote := d.log.seq ≠ m.dev.log.seq
  let m := { m with dev := d }
  if wrote then m.raiseCtx c 4 else m

/-- Records an event with a stated payload, or with one that no rule lays out. -/
def Manager.eventWith (m : Manager) (code c : Nat) (payload : List Byte) : Manager :=
  m.afterRecord (m.dev.record (evSeverity code) code c payload) c
def Manager.event (m : Manager) (code c : Nat) : Manager := m.afterRecord (m.dev.event code c) c

/-- Records an event whose rule says what it names: each value as a U64, in the rule's order. [DESIGN CHOICE, log 93] -/
def Manager.eventOf (m : Manager) (code c : Nat) (vals : List Nat) : Manager := m.eventWith code c (vals.flatMap (leBytes 8))

/-! ## Doorbells (R388) and sync objects (R398-R402) -/

/-- The context that owns a mailbox (R216). -/
def Manager.mboxOwner (m : Manager) (b : Nat) : Option Nat :=
  if b < 8 then some 0
  else (m.sl.ctxs.find? (fun e => decide (e.1 ≠ 0) && Nat.ble e.2.mboxLo b && decide (b < e.2.mboxLo + e.2.mboxN))).map (fun e => e.1)

/-- The context that owns a sync object (R398). -/
def Manager.syncOwner (m : Manager) (n : Nat) : Option Nat :=
  if n < 1024 then some 0
  else (m.sl.ctxs.find? (fun e => decide (e.1 ≠ 0) && Nat.ble e.2.syncLo n && decide (n < e.2.syncLo + e.2.syncN))).map (fun e => e.1)

/-- Sets a doorbell bit; going from 0 to 1 it raises DOORBELL at its owner's function. -/
def Manager.dbSet (m : Manager) (bit : Nat) : Manager :=
  if m.host.doorbells.getLsbD bit then m
  else
    let m := { m with host := { m.host with doorbells := m.host.doorbells ||| (1#256 <<< bit) } }
    match m.mboxOwner (bit / 4) with
    | some c => (m.bump (ctxKey Obj.MBX_DB c)).raiseCtx c 2
    | none => m

/-- A doorbell bit is cleared. -/
def Manager.dbClear (m : Manager) (bit : Nat) : Manager :=
  { m with host := { m.host with doorbells := m.host.doorbells &&& ~~~(1#256 <<< bit) } }

/-- The doorbell bits of a context clear. -/
def Manager.clearBells (m : Manager) (c : Nat) : Manager :=
  ((upTo (4 * (m.ctx c).mboxN)).map (fun i => 4 * (m.ctx c).mboxLo + i)).foldl (fun m b => m.dbClear b) m

/-- A sync object and its write. -/
def Manager.sync (m : Manager) (n : Nat) : SyncObj := mapGetD m.host.syncs n {}
def Manager.setSync (m : Manager) (n : Nat) (o : SyncObj) : Manager :=
  { m with host := { m.host with syncs := mapSet m.host.syncs n o } }

/-- KIND of a sync object. -/
def syncKind (cfg : Nat) : SyncKind :=
  if cfg % 4 = 0 then .counter else if cfg % 4 = 1 then .semaphore else if cfg % 4 = 2 then .lock else .event

/-- The initial state of an object under a configuration (R399). -/
def syncInit (cfg : Nat) : SyncObj := { cfg := cfg }

/-- The object fires: doorbell, SYNC and vector as its configuration says; nothing when DB or VEC is invalid (R399, R402). -/
def Manager.fire (m : Manager) (n : Nat) : Manager :=
  let cfg := (m.sync n).cfg
  match m.syncOwner n with
  | none => m
  | some c =>
    let db := bitsOf cfg 25 18
    let vec := bitsOf cfg 17 7
    let dbBad := bitOf cfg 26 && decide (m.mboxOwner (db / 4) ≠ some c)
    let vecBad := decide (vec ≠ 0) && (decide (vec < 8) || decide (c ≠ 0))
    if dbBad || vecBad then m
    else
      let m := if bitOf cfg 26 then m.dbSet db else m
      let m := if bitOf cfg 3 then m.raiseCtx c 3 else m
      if vec = 0 then m else m.msi 0 vec

/-- A COUNTER, SEMAPHORE or EVENT takes a value, and fires where R402 says so. -/
def Manager.syncPut (m : Manager) (n v : Nat) : Manager :=
  let o := m.sync n
  let fires := match syncKind o.cfg with
    | .counter => decide (o.value < o.target) && decide (o.target ≤ v)
    | .semaphore => decide (o.value = 0) && decide (0 < v)
    | .event => decide (o.value = 0) && decide (v = 1)
    | .lock => false
  let m := m.setSync n { o with value := v }
  if fires then m.fire n else m

/-- A line's signal (SIGNAL_MODE); one that its kind does not give has no effect and is counted (R399). -/
def Manager.syncSignal (m : Manager) (n mode : Nat) : Manager :=
  let o := m.sync n
  let m := m.bump Obj.SY_OPS
  match syncKind o.cfg, mode with
  | .counter, 1 => m.syncPut n ((o.value + 1) % 2 ^ 64)
  | .event, 2 => m.syncPut n 1
  | .semaphore, 3 => m.syncPut n (min (o.value + 1) 0xFFFFFFFF)
  | _, _ => m.bump Obj.SY_BAD_KIND

/-- Whether a line's wait holds (WAIT_MODE). -/
def Manager.syncWaitHolds (m : Manager) (n mode v : Nat) : Bool :=
  let o := m.sync n
  match syncKind o.cfg, mode with
  | _, 0 => true
  | .counter, 1 => Nat.ble v o.value
  | .event, 2 => o.value == 1
  | .semaphore, 3 => decide (0 < o.value)
  | _, _ => false

/-- The wait's own effect when the line starts: a SEMAPHORE is acquired. -/
def Manager.syncWaitTake (m : Manager) (n mode : Nat) : Manager :=
  if mode = 3 then m.setSync n { m.sync n with value := (m.sync n).value - 1 } else m

/-- The tickets that follow once the served one is gone: void tickets are passed over (R401). -/
def passVoid : List Ticket → List Ticket
  | [] => []
  | t :: rest => if t.void then passVoid rest else t :: rest

/-- The served ticket of a lock in ticket mode ends: SO_SERVING advances past it and past void tickets. -/
def advanceTicket (o : SyncObj) : SyncObj :=
  let rest := passVoid (o.tickets.drop 1)
  { o with tickets := rest, serving := match rest with | [] => o.next | t :: _ => t.num }

/-- Manager firmware as the requester of a doorbell or a sync object, of which it reaches every one (R388, R398). [DEDUCED, log 56] -/
def fwFn : Nat := 256

/-- The requester ID of a function: the physical function's base plus the function's number; manager firmware's is 0xFFFF (R400). -/
def requesterId (base fn : Nat) : Nat := if fn = fwFn then 0xFFFF else base + fn

/-- Releases what a function holds of every lock and voids its tickets (R401). -/
def voidFn (rid : Nat) (o : SyncObj) : SyncObj :=
  if syncKind o.cfg ≠ .lock then o
  else if bitOf o.cfg 2 then
    match o.tickets with
    | [] => o
    | t :: rest =>
      let rest := rest.map (fun u => if u.rid = rid then { u with void := true } else u)
      let o := { o with tickets := t :: rest }
      if t.rid = rid then advanceTicket o else o
  else if o.holder = some rid then { o with holder := none } else o

/-- Tickets of a function that voiding newly marks. -/
def voidCount (rid : Nat) (o : SyncObj) : Nat :=
  if syncKind o.cfg = .lock ∧ bitOf o.cfg 2 then ((o.tickets.drop 1).filter (fun u => u.rid == rid && !u.void)).length else 0

/-- Whether a change of a lock fires it: it became free, or SO_SERVING advanced (R402). -/
def lockFires (o o' : SyncObj) : Bool := (o.holder.isSome && o'.holder.isNone) || decide (o.serving ≠ o'.serving)

/-- A function's locks are released and its tickets voided, over every sync object. -/
def Manager.voidLocks (m : Manager) (rid : Nat) : Manager :=
  m.host.syncs.foldl (fun m e =>
    let o := m.sync e.1
    let o' := voidFn rid o
    let m := (m.setSync e.1 o').bumpBy Obj.SY_VOIDED (voidCount rid o)
    if lockFires o o' then m.fire e.1 else m) m

/-! ## Answers -/

/-- CONFIDENTIAL mode is in force (SC_MODE 2). -/
def Manager.confidential (m : Manager) : Bool := m.obj Obj.SC_MODE == 2

/-- A local request is performed: it no longer waits for its turn. -/
def Manager.performed (m : Manager) (r : Req) : Manager :=
  { m with host := { m.host with accepted := m.host.accepted.filter (fun h => h.req != r) } }

/-- The turn of a local request has come: it is the oldest of its function's, with the object and value its slot or descriptor
gave it (R342, R380). A request that none of this module's slots and descriptors holds was passed on by a peer (R288). [DEDUCED, log 119] -/
def Manager.turn (m : Manager) (r : Req) (key : Nat) (write : Bool) (data : List Byte) : Bool :=
  match m.host.accepted.find? (fun h => h.req.fn == r.fn) with
  | none => true
  | some h => if m.host.accepted.any (fun h => h.req == r) then h.req == r && h.key == key && h.write == write && (!write || h.data == data) else true

/-- Answers a request: tenant answers are held in CONFIDENTIAL mode until their fixed instant (R239). [DEDUCED, log 44] -/
def Manager.answer (m : Manager) (r : Req) (result : Nat) (data : List Byte := []) : Manager :=
  if m.confidential && decide (r.fn ≠ 0) then { m with host := { (m.performed r).host with held := m.host.held ++ [⟨r, result, data⟩] } }
  else { m with host := { (m.performed r).host with answers := m.host.answers ++ [⟨r, result, data⟩] } }

/-- Answers a proxied request, which the counts of the dictionary record take (R363). -/
def Manager.answerProxy (m : Manager) (r : Req) (result : Nat) (data : List Byte := []) : Manager :=
  let m := m.bump Obj.DX_PROXIED
  let m := if result = 0 then m else if result = 0x000C then m.bump Obj.DX_TIMEOUTS else m.bump Obj.DX_ERRORS
  m.answer r result data

end Sys2Proof.Machine
end

