-- ==== Sys2Proof/Machine/Domains.lean ====
section
/-! DEFINITION. Sys2Proof/Machine/Domains.lean: power domains, their budgets and their waking (chapter "Power states and
clocks", R507-R513). -/

namespace Sys2Proof.Machine

/-! ## Domains and classes (R507) -/

/-- How many domains a device has. -/
def Dev.domainCount (d : Dev) : Nat := if d.agentPart then 12 else 96

/-- The object that holds the wake budget of a domain's function class. -/
def budgetKey (agent : Bool) (d : Nat) : Nat :=
  if agent then
    if d ≤ 3 then Obj.PWB_ENGINE else if d ≤ 6 then Obj.PWB_TABLE else Obj.PWB_STACKS
  else if d ≤ 67 then Obj.PWB_ENGINE
  else if d ≤ 71 then Obj.PWB_TABLE
  else if d ≤ 75 then Obj.PWB_STACKS
  else if d ≤ 78 then Obj.PWB_CONTROL
  else if d ≤ 88 then Obj.PWB_FIELD
  else if d ≤ 91 then Obj.PWB_TRIAD
  else if d ≤ 94 then Obj.PWB_HOSTPATH
  else Obj.PWB_RTP

/-- The state a domain has taken: 0 ACTIVE, 1 IDLE, 2 STANDBY, 3 OFF. -/
def Dev.domain (d : Dev) (i : Nat) : Nat := mapGetD d.domains i 0

/-- A domain takes a state; ACTIVE is not listed. -/
def Dev.setDomain (d : Dev) (i st : Nat) : Dev :=
  { d with domains := if st = 0 then mapDel d.domains i else mapSet d.domains i st, waking := d.waking.filter (fun k => k != i) }

/-- The exit latency a state has is within a budget in µs (R508, R509). -/
def budgetAllows (budget st : Nat) : Bool := (st == 1 && Nat.ble 1 budget) || (st == 2 && Nat.ble 200 budget)

/-- The deepest of the states a domain's row permits that its class budget allows; 0: none (R509). -/
def Dev.deepest (d : Dev) (i : Nat) (permits : List Nat) : Nat :=
  ((permits.filter (budgetAllows (d.obj (budgetKey d.agentPart i)))).foldl max 0)

/-! ## Entering and leaving (R510, R513) -/

/-- A domain without work enters the deepest state its row and budget permit, where that is deeper than the one it is in. One
that work has begun to wake does not. -/
def Dev.rest (d : Dev) (i : Nat) (permits : List Nat) : Dev :=
  if d.waking.contains i || Nat.ble (d.deepest i permits) (d.domain i) then d else d.setDomain i (d.deepest i permits)

/-- A domain in IDLE or STANDBY begins to wake; its exit latency runs. -/
def Dev.wakeDomain (d : Dev) (i : Nat) : Dev :=
  if d.domain i = 1 ∨ d.domain i = 2 then { d with waking := insNat d.waking i } else d

/-- The exit latency of a waking domain ends: it is ACTIVE, with what it kept. -/
def Dev.awake (d : Dev) (i : Nat) : Dev := if d.waking.contains i then d.setDomain i 0 else d

/-- Every domain deeper than its class budget permits begins to wake (R513). -/
def Dev.wakeDeeper (d : Dev) : Dev :=
  (upTo d.domainCount).foldl (fun d i =>
    if budgetAllows (d.obj (budgetKey d.agentPart i)) (d.domain i) then d else d.wakeDomain i) d

/-- Every domain of ENGINE, TABLE and STACKS begins to wake (R511). -/
def Dev.wakeEngine (d : Dev) : Dev := (upTo 76).foldl (fun d i => d.wakeDomain i) d

/-- R511 at a manager. -/
def Manager.wakeEngine (m : Manager) : Manager := m.onDev Dev.wakeEngine

end Sys2Proof.Machine
end

