-- ==== Sys2Proof/Machine/Fabric.lean ====
section
/-! DEFINITION. Sys2Proof/Machine/Fabric.lean: the link table and what it says of the fabric: links up, leaf sets,
homing, hop distances (chapters "The managed fabric" and "Computing routes"). -/

namespace Sys2Proof.Machine

/-- The link table: entries that differ from reset, by index. -/
abbrev Links := SMap LinkEntry

/-- The entry of a switch's port (R31). -/
def linkOf (ls : Links) (i : Nat) : LinkEntry := mapGetD ls i {}

/-- The link carries routes: it is UP and its word does not fail (R34, R123). -/
def linkUp (l : LinkEntry) : Bool := decide (l.st = .up) && !l.failing

/-- The index of the other end's entry of a link between switches. -/
def farIndex (l : LinkEntry) : Option Nat :=
  if l.peerKind = .switch then some ((l.peerNid % 8192) * 128 + l.peerPort) else none

/-- The switches of the table, rising. -/
def switchesOf (ls : Links) : List Nat := (ls.foldl (fun (acc : List Nat) e =>
  let s := e.1 / 128
  if acc.head? = some s then acc else s :: acc) []).reverse

/-- The UP links of a switch: port and entry. -/
def upPorts (ls : Links) (s : Nat) : List (Nat × LinkEntry) :=
  (ls.filter (fun e => e.1 / 128 == s && linkUp e.2)).map (fun e => (e.1 % 128, e.2))

/-- The leaf set of an endpoint: the switches with an UP link to it (R135), rising. -/
def leafSet (ls : Links) (e : Nat) : List Nat :=
  sortNat ((ls.filter (fun x => linkUp x.2 && decide (x.2.peerKind = .endpoint) && x.2.peerNid == e)).map (fun x => x.1 / 128))

/-- The endpoint is present: its leaf set is not empty (R135). -/
def present (ls : Links) (e : Nat) : Bool := !(leafSet ls e).isEmpty

/-- The endpoints present, rising. -/
def presentEps (ls : Links) : List Nat :=
  sortNat ((ls.filter (fun x => linkUp x.2 && decide (x.2.peerKind = .endpoint))).map (fun x => x.2.peerNid))

/-- The destination block of an endpoint (R27). -/
def blockOf (e : Nat) : Nat := e / 256 % 512

/-- The homing of a block among endpoints with their leaf sets: the set shared by most, among equals the one whose
lowest-numbered endpoint is lower (R28). -/
def homingOf (eps : List (Nat × List Nat)) : List Nat :=
  let count := fun (l : List Nat) => (eps.filter (fun e => e.2 == l)).length
  match eps with
  | [] => []
  | e :: rest => (rest.foldl (fun (best : List Nat) x => if count best < count x.2 then x.2 else best) e.2)

/-- Switch neighbours over UP links that a test admits, rising. -/
def neighbours (ls : Links) (ok : LinkEntry → Bool) (s : Nat) : List Nat :=
  sortNat (((upPorts ls s).filter (fun p => decide (p.2.peerKind = .switch) && ok p.2)).map (fun p => p.2.peerNid % 8192))

/-- Breadth-first levels: pairs of switch and hops from a start, at most `fuel` hops. -/
def bfs (ls : Links) (ok : LinkEntry → Bool) : Nat → Nat → List Nat → SMap Nat → SMap Nat
  | 0, _, _, seen => seen
  | fuel + 1, d, front, seen =>
    let next := sortNat ((front.flatMap (neighbours ls ok)).filter (fun s => (mapGet seen s).isNone))
    if next.isEmpty then seen
    else bfs ls ok fuel (d + 1) next (next.foldl (fun m s => mapSet m s (d + 1)) seen)

/-- Hops from a switch over UP links that a test admits, to every switch within `fuel` hops. -/
def hopsFrom (ls : Links) (ok : LinkEntry → Bool) (fuel start : Nat) : SMap Nat := bfs ls ok fuel 0 [start] [(start, 0)]

/-- The bound on hops used where none is stated: no path of the fabric is longer than its 8,192 switches. -/
def allHops : Nat := 8192

/-- The least hops from a start to any switch of a set. -/
def leastHops (h : SMap Nat) (to_ : List Nat) : Option Nat :=
  to_.foldl (fun (b : Option Nat) s =>
    match mapGet h s, b with
    | some d, some x => some (min d x)
    | some d, none => some d
    | none, b => b) none

/-- The link is not sealed for another context than c. -/
def sealOpen (c : Nat) (l : LinkEntry) : Bool := l.sealCtx == 0 || l.sealCtx == c

/-- Writes an entry; every write of it gives its word a fresh code. -/
def setLink (ls : Links) (i : Nat) (l : LinkEntry) : Links := mapSet ls i { l with failing := false }

/-- PLACE (R166): the centre for a diameter, among switches of the table, or none with no switch. `avail` is the set F. -/
def placeCentre (ls : Links) (avail : List Nat) (diam : Nat) (contig : Bool) : Option Nat :=
  let pres := presentEps ls
  let score := fun (c : Nat) =>
    let r := hopsFrom ls (fun l => l.sealCtx == 0) (diam / 2) c
    let near := fun (e : Nat) => (leastHops r (leafSet ls e)).isSome
    let good := avail.filter near
    if contig then
      (good.filter (fun e => (pres.filter (fun x => blockOf x == blockOf e)).all (fun x => good.contains x))).length
    else good.length
  match switchesOf ls with
  | [] => none
  | s :: rest => some ((rest.foldl (fun (b : Nat × Nat) c => if b.2 < score c then (c, score c) else b) (s, score s)).1)

/-! ## Entries as they read (R32) -/

/-- What the manager keeps of the attested agent at a NID. -/
def Manager.node (m : Manager) (nid : Nat) : NodeInfo := mapGetD m.fab.nodes nid {}
def Manager.setNode (m : Manager) (nid : Nat) (x : NodeInfo) : Manager :=
  { m with fab := { m.fab with nodes := mapSet m.fab.nodes nid x } }

/-- The NID at which the agent of a switch is addressed: the switch's own, or the endpoint NID of a forwarding endpoint
(R37). -/
def Manager.agentOf (m : Manager) (sw : Nat) : Nat :=
  match m.fab.nodes.find? (fun n => n.2.kind == 2 && n.2.fwd == 0x20000 + sw) with
  | some n => n.1
  | none => 0x20000 + sw

/-- The record of the blueprint for a port of a switch (R439). -/
def Manager.bpLinkAt (m : Manager) (i : Nat) : Option BpLink :=
  let nid := 0x20000 + i / 128
  let port := i % 128
  m.disc.bpLinks.find? (fun b => (b.a == nid && b.portA == port) || (b.b == nid && b.portB == port && !b.epB))

/-- The flags of the link table entry of a port, whatever its STATE: WATCHED and MGMT_LANE by the switch's descriptor,
IN_BLUEPRINT by the blueprint (R32). -/
def Manager.flagged (m : Manager) (i : Nat) (l : LinkEntry) : LinkEntry :=
  let port := i % 128
  let desc := (m.node (m.agentOf (i / 128))).desc
  let watched := (upTo 32).any (fun k =>
    let w := fieldAt desc (0x50 + 4 * k) 4
    w % 8 == 1 && !bitOf w 15 && bitsOf w 14 8 == port)
  { l with watched := watched, mgmtLane := !desc.isEmpty && fieldAt desc 0x48 1 == port, inBlueprint := (m.bpLinkAt i).isSome }

/-- The entry of a port as it reads: an entry that nothing has set is ABSENT, with its flags (R31, R32). -/
def Manager.linkEntry (m : Manager) (i : Nat) : LinkEntry := (mapGet m.fab.links i).getD (m.flagged i {})

/-- A switch's descriptor has come: the flags of its entries follow it (R32). -/
def Manager.reflag (m : Manager) (sw : Nat) : Manager :=
  { m with fab := { m.fab with links := m.fab.links.map (fun e => if e.1 / 128 = sw then (e.1, m.flagged e.1 e.2) else e) } }

end Sys2Proof.Machine
end

