-- ==== Sys2Proof/Machine/TableView.lean ====
section
/-! DEFINITION. Sys2Proof/Machine/TableView.lean: table memory as line programs of context 0 see it (R60, R173): the layouts of
link table entries and of context records, and reads and writes of TABLE space. -/

namespace Sys2Proof.Machine

/-! ## Link table entries (R31-R33) -/

/-- STATE of a link as its field holds it, and back; a reserved value is no state of a link and leaves the old one. -/
def LinkSt.code : LinkSt → Nat
  | .absent => 0 | .probing => 1 | .up => 2 | .down => 3 | .adminDown => 4
def linkStOf (old : LinkSt) (v : Nat) : LinkSt :=
  if v = 0 then .absent else if v = 1 then .probing else if v = 2 then .up else if v = 3 then .down
  else if v = 4 then .adminDown else old

/-- PEER_KIND as its field holds it, and back. -/
def PeerKind.code : PeerKind → Nat
  | .none => 0 | .switch => 1 | .endpoint => 2
def peerKindOf (old : PeerKind) (v : Nat) : PeerKind :=
  if v = 0 then .none else if v = 1 then .switch else if v = 2 then .endpoint else old

/-- The 256 bits of an entry (R32). -/
def LinkEntry.bits (l : LinkEntry) : Nat :=
  l.changeTime % 2 ^ 64 * 2 ^ 192 + min l.faults 0xFFFFFFFF * 2 ^ 160 + l.sealCtx % 4096 * 2 ^ 148 + l.capacity % 65536 * 2 ^ 128 +
  l.weight % 65536 * 2 ^ 112 + l.load % 65536 * 2 ^ 96 + (if l.peerKind = .none then 0 else l.peerNid % 2 ^ 18) * 2 ^ 46 +
  l.peerPort % 128 * 2 ^ 39 + l.st.code * 2 ^ 36 + l.peerKind.code * 2 ^ 34 + (if l.mgmtLane then 4 else 0) +
  (if l.inBlueprint then 2 else 0) + (if l.watched then 1 else 0)

/-- An entry as written: its fields are those of the bits, and its word has a fresh code (R123). -/
def LinkEntry.written (l : LinkEntry) (v : Nat) : LinkEntry :=
  { l with
    changeTime := bitsOf v 255 192, faults := bitsOf v 191 160, sealCtx := bitsOf v 159 148, capacity := bitsOf v 143 128
    weight := bitsOf v 127 112, load := bitsOf v 111 96, peerNid := bitsOf v 63 46, peerPort := bitsOf v 45 39
    st := linkStOf l.st (bitsOf v 38 36), peerKind := peerKindOf l.peerKind (bitsOf v 35 34)
    mgmtLane := bitOf v 2, inBlueprint := bitOf v 1, watched := bitOf v 0, failing := false }

/-! ## Context records (R212) -/

/-- The context an endpoint belongs to; 0 when no context holds it (R39). -/
def Manager.epCtx (m : Manager) (e : Nat) : Nat := ((m.sl.ctxs.find? (fun c => c.2.eps.contains e)).map (fun c => c.1)).getD 0

/-- The members of a context; those of context 0 are the endpoints present that no other context holds (R39). [DEDUCED, log 70] -/
def Manager.membersOf (m : Manager) (c : Nat) : List Nat :=
  if c = 0 then (presentEps m.fab.links).filter (fun e => m.epCtx e == 0) else (m.ctx c).eps

/-- The value of a context's state (Table: Context states). -/
def CtxSt.code : CtxSt → Nat
  | .free => 0 | .carving => 1 | .active => 2 | .draining => 3 | .purging => 4 | .quarantine => 5

/-- The byte of a record that holds STATE, SEALED and WAITING. -/
def ctxByte (x : Ctx) : Byte :=
  BitVec.ofNat 8 (x.st.code + (if x.sealed_ then 16 else 0) + (if x.waiting then 32 else 0))

/-- The bytes of a record below its EP_MAP. [DESIGN CHOICE, log 94] -/
def Manager.ctxHead (m : Manager) (c : Nat) : List Byte :=
  let x := m.ctx c
  let cells := if c = 0 then (m.eng.cells.filter (fun k => decide (k.logical < 64))).map (fun k => k.logical) else x.cells
  leBytes 2 c ++ leBytes 1 x.gen ++ [ctxByte x] ++ leBytes 2 (if x.st = .free then 0 else pKey c x.gen) ++ leBytes 1 x.fit ++
  leBytes 1 x.loss ++ leBytes 4 (m.membersOf c).length ++ leBytes 4 0 ++ leBytes 8 x.stateTime ++ leBytes 8 x.tag ++
  leBytes 4 (if c = 0 then 8192 else x.sramKib) ++ leBytes 1 cells.length ++ leBytes 1 x.vf ++ leBytes 2 0 ++ leBytes 4 x.dramMib ++
  leBytes 4 (if x.syncN = 0 then 0 else x.syncLo * 65536 + x.syncN) ++ leBytes 2 (if x.mboxN = 0 then 0 else x.mboxLo * 256 + x.mboxN) ++
  leBytes 14 0 ++ (upTo 16).flatMap (fun g => leBytes 8 (mapGetD x.keyRetired g 0)) ++
  leBytes 8 (cells.foldl (fun a l => if bitOf a l then a else a + 2 ^ l) 0) ++ leBytes 128 x.subscribe.toNat ++ leBytes 696 0

/-- A byte of a record. -/
def Manager.ctxRecord (m : Manager) (c off : Nat) : Byte :=
  if off < 0x400 then (m.ctxHead c).getD off 0
  else BitVec.ofNat 8 ((upTo 8).foldl (fun a k => if (m.membersOf c).contains (8 * (off - 0x400) + k) then a + 2 ^ k else a) 0)

/-! ## TABLE space (R60, R173) -/

/-- Where the link table, the plate annex and the context records begin, and where the records end (R173). The manual places
the records in the last 112 MiB and names no offset there: they lie at its start in the order of their numbers. [DESIGN CHOICE, log 94] -/
def linkBase : Nat := 0x10000000
def annexBase : Nat := 0x12000000
def ctxBase : Nat := 0x19000000
def ctxEnd : Nat := ctxBase + 4096 * 17408

/-- A byte of table memory. What the dictionary store, the recorder's first area and the staging area hold byte by byte is
open. [DESIGN CHOICE, log 94] -/
def Manager.tableByte (m : Manager) (a : Nat) : Byte :=
  if a < linkBase ∨ (annexBase ≤ a ∧ a < ctxBase) then memRead m.eng.mem a
  else if a < annexBase then BitVec.ofNat 8 ((m.linkEntry ((a - linkBase) / 32)).bits / 256 ^ (a % 32))
  else if a < ctxEnd then m.ctxRecord ((a - ctxBase) / 17408) ((a - ctxBase) % 17408)
  else Config.storeByte m.dev.key m.dev.free a

/-- n bytes of table memory. -/
def Manager.tableRead (m : Manager) (a n : Nat) : List Byte := (upTo n).map (fun i => m.tableByte (a + i))

/-- The link entries that bytes from an address on reach, as written. -/
def Manager.writeLinks (m : Manager) (a : Nat) (bs : List Byte) : Manager :=
  let hit := (upTo (bs.length / 32 + 2)).filterMap (fun n =>
    let i := a / 32 + n
    if linkBase ≤ 32 * i ∧ 32 * i < annexBase ∧ 32 * i < a + bs.length then some (i - linkBase / 32) else none)
  let one := fun (ls : Links) (i : Nat) =>
    let at_ := linkBase + 32 * i
    let old := (mapGet ls i).getD (m.flagged i {})
    let v := leNat ((upTo 32).map (fun k =>
      if a ≤ at_ + k ∧ at_ + k < a + bs.length then bs.getD (at_ + k - a) 0 else BitVec.ofNat 8 (old.bits / 256 ^ k)))
    mapSet ls i (old.written v)
  { m with fab := { m.fab with links := hit.foldl one m.fab.links } }

/-- Bytes written to table memory: entries of the link table are written, the rest stands as bytes. A context record, the
dictionary store and the recorder are written by their own rules alone, so bytes written over them are not kept. [DESIGN CHOICE, log 94] -/
def Manager.tableWrite (m : Manager) (a : Nat) (bs : List Byte) : Manager :=
  let mem := (bs.zipIdx).foldl (fun mem b =>
    let x := a + b.2
    if x < linkBase ∨ (annexBase ≤ x ∧ x < ctxBase) then memWrite mem x b.1 else mem) m.eng.mem
  ({ m with eng := { m.eng with mem := mem } }).writeLinks a bs

/-- What a word of table memory belongs to (Table: Uncorrectable words); a plate's annex slot is carried by the switch's next
plate as its entries are. [DEDUCED, log 91] -/
def tableWordAt (a : Nat) : ArrayWord :=
  if a < linkBase then .routeImage (a % 0x4000000 / 8192)
  else if a < annexBase then .linkTable ((a - linkBase) / 32)
  else if a < ctxBase then .routeImage ((a - annexBase) / 0x3800)
  else if a < ctxEnd then .context ((a - ctxBase) / 17408)
  else .dictStore

end Sys2Proof.Machine
end

