-- ==== Sys2Proof/Machine/EngineOps.lean ====
section
/-! DEFINITION. Sys2Proof/Machine/EngineOps.lean: line programs, lines and cells as shared operations (chapter "The line
engine: cells, stations and streams"). -/

namespace Sys2Proof.Machine

/-! ## Cells -/

/-- The physical cell that carries a logical number. -/
def Engine.phys (e : Engine) (l : Nat) : Option Nat :=
  (upTo e.cells.length).find? (fun p => match e.cells[p]? with
    | some c => c.logical == l && decide (c.st ≠ .spare) && decide (c.st ≠ .retired)
    | none => false)

/-- A physical cell and its write. -/
def Engine.cell (e : Engine) (p : Nat) : PhysCell := e.cells.getD p { logical := 0xFF, st := .retired }
def Engine.setCell (e : Engine) (p : Nat) (c : PhysCell) : Engine := { e with cells := e.cells.set p c }

/-- The logical cells enabled, rising. -/
def Engine.logicals (e : Engine) : List Nat :=
  sortNat ((e.cells.filter (fun c => decide (c.logical < 64))).map (fun c => c.logical))

/-- Whether a logical cell runs lines. -/
def Engine.cellRuns (e : Engine) (l : Nat) : Bool :=
  match e.phys l with
  | some p => decide ((e.cell p).st = .enabled)
  | none => false

/-- Changes the engine of a manager. -/
def Manager.onEng (m : Manager) (f : Engine → Engine) : Manager := { m with eng := f m.eng }

/-! ## Memory spaces (R60) -/

/-- Where a context's allocation on a physical cell, its DRAM, begin in the model's one memory. [DESIGN CHOICE, log 12] -/
def sramAddr (phys ctx off : Nat) : Nat := 2 ^ 63 + (phys * 4096 + ctx) * 2 ^ 44 + off
def dramAddr (ctx off : Nat) : Nat := 2 ^ 61 + ctx * 2 ^ 40 + off

/-- The table-memory offset of an entry of RIT space: table [23], side [22], index [21:0] (R60, R173, R174). -/
def ritAddr (v : Nat) : Nat := bitsOf v 23 23 * 0x8000000 + bitsOf v 22 22 * 0x4000000 + 16 * (v % 2 ^ 22)

/-! ## The memory stacks (R168-R171, R478-R480) -/

/-- The 4 KiB pages that n bytes from an address reach. -/
def pagesFrom (a n : Nat) : List Nat := if n = 0 then [] else (upTo ((a + n - 1) / 4096 - a / 4096 + 1)).map (fun i => a / 4096 + i)

/-- The interleave key a group is held under: during a redraw the new one below the sweep pointer (R170 step 3). -/
def Stacks.keyOf (k : Stacks) (pointer g : Nat) : Nat :=
  match k.next with
  | some n => if g < pointer then n else k.key
  | none => k.key

/-- The channel of 64 that holds a page: page i of group g lies in i XOR H(g); [5:4] name its stack, [3:0] the stack's channel
(R168). -/
def Manager.channelOf (m : Manager) (page : Nat) : Nat :=
  let p := Config.stackPage m.dev.key page % 2 ^ 25
  Nat.xor (p % 64) (Config.groupHash (m.eng.stk.keyOf (m.obj Obj.IL_SWEEP) (p / 64)) (p / 64) % 64)

/-- Changes what the stack ports and base dies hold. -/
def Manager.onStk (m : Manager) (f : Stacks → Stacks) : Manager := m.onEng (fun e => { e with stk := f e.stk })

/-- The base dies count a request of each page on its channel (R169). -/
def Manager.countPages (m : Manager) (pages : List Nat) : Manager :=
  m.onStk (fun k => { k with chan := pages.foldl (fun c p => mapUpd c (m.channelOf p) 0 (fun n => n + 1)) k.chan })

/-- The key-epoch bit of a page, and whether the slot it selects holds a key (R478). -/
def Stacks.bit (k : Stacks) (page : Nat) : Nat := if k.turned.contains page then k.slot else k.base
def Stacks.opens (k : Stacks) (page : Nat) : Bool := (k.slots.getD (k.bit page) none).isSome

/-- A byte of the stacks as a read delivers it: decrypted under the slot that its page's bit selects (R478); under an empty slot it
is open. -/
def Manager.stackByte (m : Manager) (a : Nat) : Byte :=
  if m.eng.stk.opens (a / 4096) then memRead m.eng.mem a else Config.cipherByte m.dev.key m.dev.free a

/-- Bytes written to the stacks: under the slot in use, to which the bit of each page written is set (R479 step 2). -/
def Manager.stackWrite (m : Manager) (a : Nat) (bs : List Byte) : Manager :=
  let pages := pagesFrom a bs.length
  let m := m.onEng (fun e => { e with mem := memWriteN e.mem a bs })
  m.onStk (fun k => { k with turned := if k.slot = k.base then k.turned else pages.foldl insNat k.turned })

/-- The page key of an epoch with a salt (R460); an OPEN module's owner key digest is zero. -/
def Manager.pageKey (m : Manager) (salt epoch : Nat) : Nat :=
  Config.pageKey m.dev.key ((m.sec.owner.getD 0).toNat) salt epoch

/-- The keys are derived into the slots (R430 step 4, R515 step 2): that of the newest epoch into the slot in use and, while a
sweep runs, that of the epoch before into the other. -/
def Manager.derivePageKeys (m : Manager) : Manager :=
  let e := m.obj Obj.PK_EPOCH
  let new := some (m.pageKey (m.sec.salts.getD 0 0) e)
  let old := if m.sec.sweep then some (m.pageKey (m.sec.salts.getD 1 0) (e - 1)) else none
  m.onStk (fun k => { k with slots := if k.slot = 0 then [new, old] else [old, new] })

/-! ## Program images (R62-R67) -/

/-- A 64-byte descriptor as a number. -/
def descAt (img : List Byte) (n : Nat) : Nat := fieldAt img (64 * n) 64

/-- A stream descriptor. -/
def parseStream (d : Nat) : StreamDesc :=
  { base := bitsOf d 511 448, strideI := signedOf 32 (bitsOf d 447 416), strideJ := signedOf 32 (bitsOf d 415 384)
    countI := bitsOf d 383 368, countJ := bitsOf d 367 352, again := bitsOf d 351 344, format := bitsOf d 343 340
    space := bitsOf d 339 337, mode := bitsOf d 336 335, prefetch := bitsOf d 334 331, order := bitsOf d 330 330
    listBase := bitsOf d 255 192, id := bitsOf d 191 180 }

/-- A line descriptor. -/
def parseLine (d : Nat) : LineDesc :=
  { imm := bitsOf d 511 448, waitValue := bitsOf d 447 416, waitObj := bitsOf d 415 403, waitMode := bitsOf d 402 401
    signalObj := bitsOf d 400 388, signalMode := bitsOf d 387 386, strO := bitsOf d 383 372, strM := bitsOf d 371 360
    strC := bitsOf d 359 348, strB := bitsOf d 347 336, strA := bitsOf d 335 324
    stages := (upTo 8).map (fun i => bitsOf d (263 + 8 * i) (256 + 8 * i)), id := bitsOf d 191 176
    after := bitsOf d 175 160, cell := bitsOf d 159 154, priority := bitsOf d 153 152, restart := bitOf d 151
    k := bitsOf d 150 144, semiring := bitsOf d 143 140, fmtIn := bitsOf d 139 136, fmtAcc := bitsOf d 135 132
    fmtOut := bitsOf d 131 128 }

/-- A program image. -/
def parseProgram (img : List Byte) : Program :=
  let h := descAt img 0
  let ns := bitsOf h 367 352
  { tag := bitsOf h 511 448, sramKib := bitsOf h 447 416, dramKib := bitsOf h 415 384, cells := bitsOf h 351 345
    streams := (upTo ns).map (fun i => parseStream (descAt img (1 + i)))
    lines := (upTo (bitsOf h 383 368)).map (fun i => parseLine (descAt img (1 + ns + i))) }

/-- The cells a context's programs may run on: its reservation but for withdrawn numbers, or every enabled cell for
context 0 (R55). [DEDUCED, log 91] -/
def Manager.ctxCells (m : Manager) (c : Nat) : List Nat :=
  if c = 0 then m.eng.logicals else (m.ctx c).cells.filter (fun l => m.eng.logicals.contains l)

/-- The per-cell SRAM quota of a context in KiB (R81, R216). -/
def Manager.sramQuota (m : Manager) (c : Nat) : Nat := if c = 0 then 8192 else (m.ctx c).sramKib

/-- The DRAM quota of a context in KiB; context 0 has no quota of the pool. -/
def Manager.dramQuota (m : Manager) (c : Nat) : Nat := if c = 0 then 2 ^ 30 else (m.ctx c).dramMib * 1024

/-- Proof CHECK stands before every Pull and SCATTER that writes elements no Proof has checked since the last Ground, Burin,
Hatch, Stipple or Bite stage: no element leaves a cell without a residue check (R69). -/
def withChecks (checked : Bool) : List Nat → List Nat
  | [] => []
  | s :: rest =>
    if s / 32 = 6 then s :: withChecks true rest
    else if (s / 32 = 7 ∨ s = 0x81) ∧ !checked then 0xC0 :: s :: withChecks (s / 32 == 7) rest
    else s :: withChecks (checked && s / 32 == 7) rest

/-- The stages a line runs: up to the first of station 0, with the checks that R69 asks for (R68). -/
def stagesOf (l : LineDesc) : List Nat := withChecks false (l.stages.takeWhile (fun s => decide (s / 32 ≠ 0)))

/-- Whether following AFTER from a line comes back to it. -/
def afterCycle (ls : List LineDesc) (start : Nat) : Nat → Nat → Bool
  | 0, _ => false
  | fuel + 1, i =>
    match ls.find? (fun l => l.id == i) with
    | none => false
    | some l => if l.after = start then true else if l.after = 0xFFFF then false else afterCycle ls start fuel l.after

/-- No number twice. -/
def noRepeat : List Nat → Bool
  | [] => true
  | x :: rest => !(rest.contains x) && noRepeat rest

/-- The streams a line names. -/
def lineStreams (l : LineDesc) : List Nat := [l.strA, l.strB, l.strC, l.strM, l.strO].filter (fun s => decide (s ≠ 4095))

/-- The form of an image (Table: Load results, FORMAT). [DESIGN CHOICE, log 105] -/
def formatOk (img : List Byte) (cells : Nat) : Bool :=
  let h := descAt img 0
  let p := parseProgram img
  let ns := bitsOf h 367 352
  let nl := bitsOf h 383 368
  decide (64 ≤ img.length) && decide (img.length = 64 * (1 + ns + nl)) && decide (h % 256 = 3) &&
  (upTo ns).all (fun i => descAt img (1 + i) % 256 == 2) && (upTo nl).all (fun i => descAt img (1 + ns + i) % 256 == 1) &&
  decide (0 < p.cells) && decide (p.cells ≤ cells) && p.lines.all (fun l => decide (l.cell < p.cells)) &&
  noRepeat (p.streams.map (fun s => s.id)) && noRepeat (p.lines.map (fun l => l.id)) &&
  p.lines.all (fun l => (lineStreams l).all (fun s => p.streams.any (fun d => d.id == s))) &&
  p.lines.all (fun l => l.after == 0xFFFF || (p.lines.any (fun k => k.id == l.after) && !(afterCycle p.lines l.id (nl + 1) l.id)))

/-- The context and generation of every descriptor. -/
def contextsOk (img : List Byte) (c gen : Nat) : Bool :=
  (upTo (img.length / 64)).all (fun i => bitsOf (descAt img i) 23 12 == c && bitsOf (descAt img i) 31 24 == gen)

/-- The spaces a context's streams may name (R60, R61), FIELD for Pull EMIT alone. -/
def spacesOk (p : Program) (c : Nat) : Bool :=
  p.streams.all (fun s => decide (s.space < (if c = 0 then 6 else 3))) &&
  p.lines.all (fun l =>
    let fieldStr := fun (s : Nat) => p.streams.any (fun d => d.id == s && d.space == 5)
    !([l.strA, l.strB, l.strC, l.strM].any fieldStr) &&
    (!(fieldStr l.strO) ||
      ((stagesOf l).any (fun s => s == 0xE2) && ((stagesOf l).filter (fun s => s / 32 == 7 || s == 0x81)).all (fun s => s == 0xE2))))

/-- The references of a stream's corners lie in a space of `top` bytes (R65). -/
def streamInside (s : StreamDesc) (base top : Nat) : Bool :=
  s.countI == 0 || s.countJ == 0 ||
  [(0, 0), (s.countI - 1, 0), (0, s.countJ - 1), (s.countI - 1, s.countJ - 1)].all (fun (ij : Nat × Nat) =>
    let r : Int := (base : Int) + (ij.1 : Int) * s.strideI + (ij.2 : Int) * s.strideJ
    decide (0 ≤ r) && decide (r + (tileBytes s.format : Int) ≤ (top : Int)))

/-- The working set per cell of a program in KiB (R63). -/
def workKib (p : Program) (quota : Nat) : Nat := if p.sramKib = 0 then quota else p.sramKib

/-- The context's SRAM allocation on a cell in KiB, as CELL and CELLX offsets reach it: its quota, and beyond it what SRAM_KIB
asks for, which R82 and R83 place in the stacks. -/
def allocKib (p : Program) (quota : Nat) : Nat := max quota p.sramKib

/-- BOUNDS: every AFFINE stream stays inside the SRAM allocation or DRAM quota. -/
def boundsOk (p : Program) (sramKib dramKib : Nat) : Bool :=
  p.streams.all (fun s =>
    if s.mode ≠ 0 then true
    else if s.space = 0 then streamInside s (s.base % 2 ^ 24) (1024 * allocKib p sramKib)
    else if s.space = 1 then streamInside s (s.base % 2 ^ 24) (1024 * allocKib p sramKib) && decide (bitsOf s.base 61 56 < p.cells)
    else if s.space = 2 then streamInside s (s.base % 2 ^ 40) (1024 * dramKib)
    else true)

/-- The spill reserve (R83). -/
def spillReserve (p : Program) (quota : Nat) : Nat := p.cells * (workKib p quota - quota)

/-- The sync objects a program names are the context's (SYNC). -/
def Manager.syncsOk (m : Manager) (p : Program) (c : Nat) : Bool :=
  p.lines.all (fun l =>
    (l.waitMode == 0 || decide (m.syncOwner l.waitObj = some c)) &&
    (l.signalMode == 0 || decide (m.syncOwner l.signalObj = some c)))

/-- The checks of Table: Load results in order: the result and LP_SHORT. -/
def Manager.loadResult (m : Manager) (c : Nat) (img : List Byte) : Nat × Nat :=
  let x := m.ctx c
  let p := parseProgram img
  if x.st ≠ .active then (1, 0)
  else if m.obj Obj.ENG_CELLS < 48 then (2, 0)
  else if (mapGet m.eng.runs c).isSome then (3, 0)
  else if !formatOk img (m.ctxCells c).length then (4, 0)
  else if !contextsOk img c x.gen then (5, 0)
  else if !spacesOk p c then (6, 0)
  else if c ≠ 0 ∧ p.lines.any (fun l => l.priority == 2) then (7, 0)
  else if !m.syncsOk p c then (8, 0)
  else if !boundsOk p (m.sramQuota c) (m.dramQuota c) then (9, 0)
  else
    let need := p.dramKib + spillReserve p (m.sramQuota c)
    if need > m.dramQuota c then (10, need - m.dramQuota c) else (0, 0)

/-! ## Streams at run time (R65, R74) -/

/-- How many references a stream issues. -/
def streamCount (s : StreamDesc) : Nat := s.countI * s.countJ * (s.again + 1)

/-- Reference n of a stream as it stands in its space. -/
def streamRef (s : StreamDesc) (list : Nat → Nat) (n : Nat) : Int :=
  let n := n / (s.again + 1)
  let i := if s.order = 0 then n / s.countJ else n % s.countI
  let j := if s.order = 0 then n % s.countJ else n / s.countI
  let bits := if s.space = 2 then 40 else if s.space = 3 then 29 else if s.space = 5 then 18 else 24
  let base : Int := (s.base % 2 ^ bits : Nat)
  if s.mode = 0 then base + (i : Int) * s.strideI + (j : Int) * s.strideJ
  else base + (list n : Int) * s.strideI

/-- A stream of a program. -/
def Program.stream (p : Program) (id : Nat) : Option StreamDesc := if id = 4095 then none else p.streams.find? (fun s => s.id == id)

/-- How often one tile uses each stream: A and B by GATHER, A (unless gathered), B and C by Ground, M by Bite. -/
def usesOf (l : LineDesc) (upto : Nat) : Nat × Nat × Nat × Nat :=
  ((stagesOf l).take upto).foldl (fun (u : (Nat × Nat × Nat × Nat)) s =>
    if s = 0x80 then (u.1 + 1, u.2.1 + 1, u.2.2.1, u.2.2.2)
    else if s / 32 = 1 then
      ((if (stagesOf l).contains 0x80 then u.1 else u.1 + 1), u.2.1 + 1, (if s = 0x22 then u.2.2.1 else u.2.2.1 + 1), u.2.2.2)
    else if s / 32 = 5 then (u.1, u.2.1, u.2.2.1, u.2.2.2 + 1)
    else u) (0, 0, 0, 0)

/-- The tile steps a line runs: as many as its shortest named input stream delivers (R74). A line that names no input
stream runs as many as O has references, and where it has none a line with Pull takes the one tile step that finds O
exhausted. [DESIGN CHOICE, log 105] -/
def tilesOf (p : Program) (l : LineDesc) : Nat :=
  let u := usesOf l 8
  let per := fun (id use : Nat) => (p.stream id).map (fun s => streamCount s / max use 1)
  let ns := [per l.strA u.1, per l.strB u.2.1, per l.strC u.2.2.1, per l.strM u.2.2.2].filterMap (fun x => x)
  match ns with
  | [] =>
    let refs := match p.stream l.strO with | some s => streamCount s | none => 0
    if refs = 0 ∧ (stagesOf l).any (fun s => s / 32 == 7) then 1 else refs
  | n :: rest => rest.foldl min n

/-- Where a reference lies: an address of the model's memory and its size, with the logical cell that holds it (CELL, CELLX);
no reference where it falls outside (BOUNDS). -/
structure TileRef where
  space : Nat
  addr  : Nat
  size  : Nat
  cell  : Nat := 64
  deriving DecidableEq, Repr

/-- Where bytes at an offset of a space lie for a program of a context: none outside its quota, allocation or the space. The
list of a stream in RIT or FIELD space lies at an offset of table memory. [DESIGN CHOICE, log 92] -/
def Manager.place (m : Manager) (c : Nat) (p : Program) (cell space off size : Nat) : Option TileRef :=
  if space ≤ 1 then
    match m.eng.phys cell with
    | some ph => if off + size ≤ 1024 * allocKib p (m.sramQuota c) then some ⟨space, sramAddr ph c off, size, cell⟩ else none
    | none => none
  else if space = 2 then (if off + size ≤ 1024 * m.dramQuota c then some ⟨2, dramAddr c off, size, 64⟩ else none)
  else if off + size ≤ 2 ^ 29 then some ⟨3, off, size, 64⟩ else none

/-- The bytes a reference holds. -/
def Manager.refBytes (m : Manager) (r : TileRef) : List Byte :=
  if r.space = 3 then m.tableRead r.addr r.size
  else if r.space = 2 then (upTo r.size).map (fun i => m.stackByte (r.addr + i))
  else memReadN m.eng.mem r.addr r.size

/-- The logical cell whose SRAM a stream names: the cell of the line, or by CELLX one of the program's cells. -/
def streamCell (run : Run) (cell : Nat) (s : StreamDesc) : Nat := if s.space = 1 then run.cells.getD (bitsOf s.base 61 56) 64 else cell

/-- Where the word lies that reference n of a LIST stream is computed from; none where it falls outside. -/
def Manager.listWord (m : Manager) (c : Nat) (run : Run) (p : Program) (cell : Nat) (s : StreamDesc) (n : Nat) : Option TileRef :=
  m.place c p (streamCell run cell s) s.space (s.listBase + 4 * (n / (s.again + 1))) 4

/-- Resolves reference n of a stream for a line: none where it, or the word of the list it is computed from, falls outside
(BOUNDS). A list word that came under a tag is the line's, by the register the reference is for. BASE and the strides are
taken as they stand, multiples of 512 or not. [DESIGN CHOICE, log 92] -/
def Manager.resolve (m : Manager) (c : Nat) (run : Run) (p : Program) (l : LineRun) (reg : Nat) (s : StreamDesc) (n : Nat) : Option TileRef :=
  let at_ := streamCell run l.cell s
  let word := m.listWord c run p l.cell s n
  if s.mode ≠ 0 ∧ word.isNone then none
  else
    let r := streamRef s (fun _ => (mapGet l.words reg).getD (match word with | some w => leNat (m.refBytes w) | none => 0)) n
    let size := tileBytes s.format
    if r < 0 then none
    else
      let o := r.toNat
      if s.space ≤ 3 then m.place c p at_ s.space o size
      else if s.space = 4 then (if o % 2 ^ 22 + 32 ≤ 2 ^ 22 ∧ o < 2 ^ 24 then some ⟨4, ritAddr o, 512, 64⟩ else none)
      else some ⟨5, o % 2 ^ 18, size, 64⟩

/-- Puts a tile at the front of a cell's recently used tiles; the bytes beyond the quota are spilled, least recently used
first (R82): the list kept, and the tiles spilled. -/
def touch (recent : List (Nat × Nat)) (key size quota : Nat) : List (Nat × Nat) × List (Nat × Nat) :=
  let l := (key, size) :: recent.filter (fun e => e.1 != key)
  let kept := (l.foldl (fun (a : List (Nat × Nat) × Nat) e =>
    if a.2 + e.2 ≤ quota then (a.1 ++ [e], a.2 + e.2) else (a.1, quota + 1)) ([], 0)).1
  (kept, l.drop kept.length)

/-! ## Lines and runs -/

/-- A line of a run. -/
def Run.line (r : Run) (id : Nat) : Option LineRun := r.lines.find? (fun l => l.desc.id == id)

/-- The key of a line's pre-step copy among the tiles of its cell. -/
def copyKey (l : LineRun) : Nat := 2 ^ 64 + l.desc.id

/-- A line's pre-step copy is kept no longer (R118). -/
def Run.dropCopy (r : Run) (l : LineRun) : Run :=
  { r with recent := mapSet r.recent l.cell ((mapGetD r.recent l.cell []).filter (fun e => e.1 != copyKey l))
           away := mapSet r.away l.cell ((mapGetD r.away l.cell []).filter (fun k => k != copyKey l)) }

/-- Changes a line of a run. -/
def Run.setLine (r : Run) (l : LineRun) : Run :=
  { r with lines := r.lines.map (fun k => if k.desc.id = l.desc.id then l else k) }

/-- The priority a line runs at: a host run's PRIORITY 2 is NORMAL outside the hook (R77). -/
def linePriority (r : Run) (l : LineRun) : Nat := if l.desc.priority = 2 ∧ !r.hook then 1 else l.desc.priority

/-- A line has started and is not done. -/
def started (l : LineRun) : Bool := decide (l.phase = .running) || decide (l.phase = .waitMem) || decide (l.phase = .draining)

/-- A line holds a slot of its cell. -/
def holdsSlot (l : LineRun) : Bool := started l && !l.out

/-- Lines on a logical cell, with their contexts. -/
def Engine.linesOn (e : Engine) (cell : Nat) : List (Nat × Run × LineRun) :=
  e.runs.flatMap (fun r => (r.2.lines.filter (fun l => l.cell == cell)).map (fun l => (r.1, r.2, l)))

/-- Lines not finished on a cell: its load. -/
def Engine.load (e : Engine) (cell : Nat) : Nat :=
  ((e.linesOn cell).filter (fun x => match x.2.2.phase with | .done _ => false | _ => true)).length

/-- Writes a line of a context's run. -/
def Manager.setLine (m : Manager) (c : Nat) (l : LineRun) : Manager :=
  match mapGet m.eng.runs c with
  | some r => m.onEng (fun e => { e with runs := mapSet e.runs c (r.setLine l) })
  | none => m

/-- The slots taken of a cell: those of its lines, and that of a computation's REPAIR line (R127). -/
def Engine.slotsTaken (e : Engine) (cell : Nat) : Nat :=
  ((e.linesOn cell).filter (fun x => holdsSlot x.2.2)).length + (if e.stock && !e.owed.contains cell then 1 else 0)

/-- A computation's REPAIR line that still waits for a slot of a cell takes one that is free. -/
def Manager.takeOwed (m : Manager) (cell : Nat) : Manager :=
  if m.eng.owed.contains cell ∧ m.eng.slotsTaken cell < 4 then m.onEng (fun e => { e with owed := e.owed.filter (fun x => x != cell) }) else m

/-- Resumes the suspended line of highest priority on a cell when a slot is free, and no REPAIR line waits for it (R78 step 4). -/
def Manager.resume (m : Manager) (cell : Nat) : Manager :=
  let m := m.takeOwed cell
  let on := m.eng.linesOn cell
  if m.eng.slotsTaken cell ≥ 4 then m
  else
    let sus := on.filter (fun x => started x.2.2 && x.2.2.out)
    let best := sus.foldl (fun (b : Option (Nat × Run × LineRun)) x =>
      match b with
      | none => some x
      | some y => if linePriority y.2.1 y.2.2 < linePriority x.2.1 x.2.2 then some x else some y) none
    match best with
    | some x => m.setLine x.1 { x.2.2 with out := false }
    | none => m

/-- The lowest-priority line in a slot of a cell gives it up for a REPAIR line; a line whose retry is due keeps it until the
retry has run (R78, R80). -/
def Manager.preempt (m : Manager) (cell : Nat) : Manager × Bool :=
  let on := (m.eng.linesOn cell).filter (fun x => holdsSlot x.2.2 && decide (linePriority x.2.1 x.2.2 < 2))
  let rank := fun (x : Nat × Run × LineRun) => 2 * linePriority x.2.1 x.2.2 + (if x.2.2.retry then 1 else 0)
  let low := on.foldl (fun (b : Option (Nat × Run × LineRun)) x => match b with
    | none => some x
    | some y => if rank x < rank y then some x else some y) none
  match low with
  | some x => if x.2.2.retry then (m, false) else (m.setLine x.1 { x.2.2 with out := true }, true)
  | none => (m, false)

/-- A computation's REPAIR line that waits for a slot of a cell gets it at a tile boundary: a free one, or that of the
lowest-priority line, which is suspended unless its retry is due (R78, R80). -/
def Manager.settleOwed (m : Manager) (cell : Nat) : Manager :=
  let m := m.takeOwed cell
  if m.eng.owed.contains cell then
    let r := m.preempt cell
    if r.2 then r.1.takeOwed cell else m
  else m

/-- A computation's REPAIR lines take a slot of each enabled cell: where four are held, the lowest-priority line is put out of
its own (R78, R127), where its retry is due at the boundary after the retry (R80). -/
def Manager.stockStart (m : Manager) : Manager :=
  let m := m.onEng (fun e => { e with stock := true, owed := e.logicals })
  m.eng.logicals.foldl (fun m cell => m.settleOwed cell) m

/-- They give the slots back, and lines that were put out resume. -/
def Manager.stockEnd (m : Manager) : Manager :=
  let m := m.onEng (fun e => { e with stock := false, owed := [] })
  m.eng.logicals.foldl (fun m cell => m.resume cell) m

/-- The status of a run: that of the first line, by LINE_ID, that did not complete OK (R90). -/
def runStatus (r : Run) : Nat :=
  let bad := r.lines.filterMap (fun l => match l.phase with
    | .done st => if st = 0 then none else some (l.desc.id, st)
    | _ => none)
  match bad with
  | [] => 0xFFFF * 65536
  | b :: rest =>
    let f := rest.foldl (fun (a : Nat × Nat) x => if x.1 < a.1 then x else a) b
    f.1 * 65536 + f.2

/-- The host hook's run has ended with a status (R148). -/
def Manager.hookEnded (m : Manager) (status : Nat) : Manager :=
  { m with rt := { m.rt with comp := m.rt.comp.map (fun (x : Comp) => if x.ran then { x with ended := some status } else x) } }

/-- A run ends: LP_STATUS and LP_RUN are set and the completion interrupt is signalled (R90). -/
def Manager.endRun (m : Manager) (c status : Nat) : Manager :=
  let m := if (mapGet m.eng.runs c).any (fun r => r.hook) then m.hookEnded status else m
  let m := (m.onEng (fun e => { e with runs := mapDel e.runs c })).putEntry { kind := .runEnd c status }
  ((m.setObj (ctxKey Obj.LP_STATUS c) status).setObj (ctxKey Obj.LP_RUN c) 2).raiseCtx c 0

/-- Ends the run of a context when every line has completed. -/
def Manager.checkRun (m : Manager) (c : Nat) : Manager :=
  match mapGet m.eng.runs c with
  | some r => if r.lines.all (fun l => match l.phase with | .done _ => true | _ => false) then m.endRun c (runStatus r) else m
  | none => m

/-- Lines that wait for a line that completed with another status than OK complete with it, and so on (R70). -/
def failAfter (status : Nat) : Nat → List Nat → List LineRun → List LineRun
  | 0, _, ls => ls
  | fuel + 1, ids, ls =>
    let hit := fun (l : LineRun) => ids.contains l.desc.after && decide (l.phase = .queued ∨ l.phase = .held)
    let next := (ls.filter hit).map (fun l => l.desc.id)
    if next.isEmpty then ls
    else failAfter status fuel next (ls.map (fun l => if hit l then { l with phase := .done status } else l))

/-- A line completes with a status: its digest is delivered and its signal given when it is OK, its partial digest is
discarded otherwise; lines AFTER it complete with any status that is not OK; a suspended line may resume; the run ends
when it was the last. SIGNAL_MODE names no status: the model gives no signal for a line that did not complete OK. [DESIGN CHOICE, log 92] -/
def Manager.endLine (m : Manager) (c id status : Nat) : Manager :=
  match mapGet m.eng.runs c with
  | none => m
  | some r =>
    match r.line id with
    | none => m
    | some l =>
      let m := if status = 0 ∧ l.digest then
          m.onEng (fun e => { e with digests := mapSet e.digests c (sha256 (l.hashed ++ l.buffer)) }) else m
      let ls := (r.setLine { l with phase := .done status, buffer := [], hashed := [] }).lines
      let ls := if status = 0 then ls else failAfter status (ls.length + 1) [id] ls
      let m := m.onEng (fun e => { e with runs := mapSet e.runs c { (r.dropCopy l) with lines := ls } })
      let m := if status = 0 ∧ l.desc.signalMode ≠ 0 then m.syncSignal l.desc.signalObj l.desc.signalMode else m
      (m.resume l.cell).checkRun c

/-- Every unfinished line of a context's run completes with a status, and the run with it. -/
def Manager.endAllLines (m : Manager) (c status : Nat) : Manager :=
  match mapGet m.eng.runs c with
  | none => m
  | some r =>
    let ls := r.lines.map (fun l => match l.phase with
      | .done _ => l
      | _ => { l with phase := .done status, buffer := [], hashed := [] })
    let cells := sortNat (r.lines.map (fun l => l.cell))
    let m := m.onEng (fun e => { e with runs := mapSet e.runs c { r with lines := ls } })
    cells.foldl (fun m cell => m.resume cell) (m.checkRun c)

/-- A cell is marked RETIRING: its running lines stop and its queued lines are held (R54 steps 1 and 2). A cell that is being
reset retires once the reset is over (R271). -/
def Manager.markRetiring (m : Manager) (p : Nat) : Manager :=
  let pc := m.eng.cell p
  if pc.st = .resetting then m.onEng (fun e => e.setCell p { pc with retireDue := true })
  else if pc.st ≠ .enabled then m
  else m.onEng (fun e =>
    let e := e.setCell p { pc with st := .retiring }
    { e with runs := e.runs.map (fun r => (r.1, { r.2 with lines := r.2.lines.map (fun l =>
      if l.cell ≠ pc.logical then l
      else if started l then { l with phase := .stopped, out := false, buffer := [], hashed := [], tags := [] }
      else if l.phase = .queued then { l with phase := .held } else l) })) })

/-- The least-loaded logical cells of a list, n of them, lowest numbers first among equals (R89). -/
def leastLoaded (e : Engine) : Nat → List Nat → List Nat
  | 0, _ => []
  | n + 1, cells =>
    match cells with
    | [] => []
    | c :: rest =>
      let best := rest.foldl (fun b x => if e.load x < e.load b then x else b) c
      best :: leastLoaded e n (cells.filter (fun x => x != best))

/-- What a context's run counters have counted since the last telemetry period: tile steps, spills, retries (R503). -/
def Manager.engineCounts (m : Manager) (c : Nat) : Nat × Nat × Nat :=
  let b := mapGetD m.tl.base c (0, 0, 0)
  let k := mapGetD m.tl.carry c (0, 0, 0)
  (k.1 + (m.obj (ctxKey Obj.LP_TILES c) - b.1), k.2.1 + (m.obj (ctxKey Obj.LP_SPILL c) - b.2.1),
   k.2.2 + (m.obj (ctxKey Obj.LP_RETRY c) - b.2.2))

/-- What the period has counted so far is kept as a run resets the counters. -/
def Manager.carryCounts (m : Manager) (c : Nat) : Manager :=
  { m with tl := { m.tl with carry := mapSet m.tl.carry c (m.engineCounts c), base := mapDel m.tl.base c } }

/-- Starts a run of a context's loaded program (R89). Where fewer cells remain than CELLS (withdrawn since the load, R55), the
lines of the missing cells run on logical cell 0. [DESIGN CHOICE, log 92] -/
def Manager.startRun (m : Manager) (c : Nat) (hook : Bool) : Manager :=
  match mapGet m.eng.programs c with
  | none => m
  | some p =>
    let cells := leastLoaded m.eng p.cells (m.ctxCells c)
    let r : Run := { cells := cells, lines := p.lines.map (fun d => { desc := d, cell := cells.getD d.cell 0 }), hook := hook }
    let m := m.carryCounts c
    let m := ((m.setObj (ctxKey Obj.LP_TILES c) 0).setObj (ctxKey Obj.LP_SPILL c) 0).setObj (ctxKey Obj.LP_RETRY c) 0
    let m := (m.setObj (ctxKey Obj.LP_TAG c) p.tag).setObj (ctxKey Obj.LP_RUN c) 1
    (m.onEng (fun e => { e with runs := mapSet e.runs c r })).checkRun c

/-- The host hook's program starts; with fewer than 48 cells it completes ENGINE_DEGRADED (R56, R147). -/
def Manager.startHook (m : Manager) : Manager :=
  let m := { m with rt := { m.rt with comp := m.rt.comp.map (fun (x : Comp) => { x with ran := true, owes := false }) } }
  let m := m.startRun 0 true
  if m.obj Obj.ENG_CELLS < 48 then m.endAllLines 0 7 else m

/-- A hook that waited for context 0's own run starts once that has ended. -/
def Manager.hookDue (m : Manager) : Manager :=
  if (mapGet m.eng.runs 0).isNone ∧ m.rt.comp.any (fun x => x.owes) then m.startHook else m

end Sys2Proof.Machine
end

