-- ==== Sys2Proof/Machine/MgrOps.lean ====
section
/-! DEFINITION. Sys2Proof/Machine/MgrOps.lean: operations of the manager that several chapters share: the input stream,
the gate of commands written to objects, and the start and end of a context's purge. -/

namespace Sys2Proof.Machine

/-- Free values a tile step has drawn are not drawn again. [DEDUCED, log 13] -/
def Manager.drawTile (m : Manager) : Manager := m.onDev (fun d => { d with free := d.free + 2 ^ 20 })

/-- The tile steps that the stock lines of a computation or of a background run have retired: how many, no rule says (R92, R124). [DESIGN CHOICE, log 106] -/
def Manager.stockSteps (m : Manager) : Manager := (m.bumpBy Obj.ENG_TILES (m.dev.openNat % 2 ^ 32)).onDev Dev.drawn

/-! ## Authority -/

/-- Changes the redundancy state. -/
def Manager.onRed (m : Manager) (f : Redundancy → Redundancy) : Manager := { m with red := f m.red }

/-- RD_REPL_LAG: the entries that the standby has not acknowledged. -/
def Manager.lag (m : Manager) : Manager :=
  m.setObj Obj.RD_REPL_LAG (match m.red.standby with | some nid => m.red.nextSeq - 1 - mapGetD m.red.acked nid 0 | none => 0)

/-- The peer unit replicates from here on, once it has caught up. -/
def Manager.followPeer (m : Manager) : Manager :=
  let p := m.obj Obj.RD_PEER
  (m.onRed (fun r => { r with standby := if p = 0 then none else some p, inSync := false, acked := [], unheard := 0 })).lag

/-- The claim a command frame carries. -/
def Manager.claim (m : Manager) : Nat := m.obj Obj.RD_CLAIM

/-- The entropy source has failed: what needs a random value waits (R459). Entries applied draw nothing of their own. -/
def Manager.rngOut (m : Manager) : Bool := m.sec.noRng && !m.dev.net.replay

/-- Sends a frame to an agent for the fabric, with no claim. -/
def Manager.sendAgent (m : Manager) (nid : Nat) (x : Msg) : Manager := m.onDev (fun d => d.sendTo nid 1 x)

/-- The die whose agent is given an NID and does not hold it yet (R442). -/
def Manager.dieAt (m : Manager) (nid : Nat) : Option Nat := (m.disc.atts.find? (fun x => x.2.nid == nid && decide (x.2.stage ≤ 1))).map (fun x => x.1)

/-- A KEY_OFFER goes out and awaits its KEY_ACCEPT (R416, R545). The first to a device travels under association 0. Where no
random value is to be had, a new key is offered later, with the repeats (R459). [DESIGN CHOICE, log 7] -/
def Manager.sendOffer (m : Manager) (o : Offer) : Manager :=
  let wait := m.rngOut && decide (o.sends ≤ 1)
  let o := { o with sentAt := m.dev.time, busy := none, sends := if wait then 0 else o.sends }
  let m := if wait then m else if o.assoc = 0 then m.onDev (fun d => d.send { dst := o.nid, assoc := 0, bare := m.dieAt o.nid, msg := o.msg }) else m.onDev (fun d => d.sendTo o.nid o.assoc o.msg)
  let rest := m.fab.offers.filter (fun x => !(x.nid == o.nid && x.key == o.key && x.peer == o.peer))
  { m with fab := { m.fab with offers := rest ++ [o] } }

/-- A drawn salt, or the next after it that no other sender under the key has (R415). -/
def saltFrom (used : List Nat) (v : Nat) : Nat :=
  (((upTo (used.length + 1)).map (fun i => (v + i) % 2 ^ 32)).find? (fun x => !used.contains x)).getD v

/-- The place of a group's key and of a pair's key in the table of salts. -/
def groupSalts (assoc : Nat) (phase : Bool) : Nat := 2 * assoc + (if phase then 1 else 0)
def pairSalts (num : Nat) : Nat := 2 ^ 20 * (num + 1)

/-- A new sender under a shared key is given a salt of its own. -/
def Manager.drawSalt (m : Manager) (who : Nat) : Manager × Nat :=
  let used := mapGetD m.fab.salts who []
  let salt := saltFrom used (m.dev.openNat % 2 ^ 32)
  let m := m.onDev Dev.drawn
  ({ m with fab := { m.fab with salts := mapSet m.fab.salts who (used ++ [salt]) } }, salt)

/-- A new shared key: no salt has been given under it. -/
def Manager.newSalts (m : Manager) (who : Nat) : Manager := { m with fab := { m.fab with salts := mapDel m.fab.salts who } }

/-- The group key of an association is offered to a holder, with a salt of its own (R415). -/
def Manager.offerGroupKey (m : Manager) (assoc : Nat) (phase : Bool) (key : Key) (nid : Nat) : Manager :=
  let r := m.drawSalt (groupSalts assoc phase)
  let p : Nat := if phase then 1 else 0
  r.1.sendOffer { nid := nid, assoc := 1, key := assoc, phase := phase
                  msg := .keyOffer assoc p 0 nidAll r.2 0 (m.obj Obj.FN_REKEY_FRAMES) key }

/-- The phase of a group's key that the manager sends under. -/
def Manager.groupPhase (m : Manager) (assoc : Nat) : Bool :=
  match mapGet m.dev.net.tx (peerKey nidAll assoc) with | some t => t.phase | none => false

/-- A new key of a group is drawn into the phase not in use (R415, R416), and the manager sends under it at once (`now`) or
once it is accepted. The key and its phase. -/
def Manager.drawGroupKey (m : Manager) (assoc : Nat) (now : Bool) : Manager × Key × Bool :=
  let k : Key := BitVec.ofNat 256 m.dev.openNat
  let m := m.onDev Dev.drawn
  let phase := match mapGet m.dev.net.tx (peerKey nidAll assoc) with | some t => !t.phase | none => false
  let r := (m.newSalts (groupSalts assoc phase)).drawSalt (groupSalts assoc phase)
  let m := r.1
  let t : TxKey := { key := k, phase := phase, salt := r.2, expire := m.obj Obj.FN_REKEY_FRAMES, since := m.dev.time }
  let slot := slotKey nidAll assoc phase
  let num : Nat := if phase then 1 else 0
  let m := m.onDev (fun d => { d with net := { d.net with
    keys := mapSet d.net.keys slot k
    windows := mapFilter d.net.windows (fun w _ => !(w / 2 % 65536 == assoc && w % 2 == num))
    fresh := insNat d.net.fresh slot
    groups := insNat d.net.groups assoc
    tx := if now then mapSet d.net.tx (peerKey nidAll assoc) t else d.net.tx } })
  (if now then m.onDev (fun d => d.unhold (peerKey nidAll assoc)) else m, k, phase)

/-- An entry must be acknowledged by a follower or the standby before its answer or frame goes out. -/
def Manager.mustWait (m : Manager) : Bool :=
  !m.dev.net.replay && ((m.red.slot.isSome && m.leads && !m.red.peersIn.isEmpty) || (m.red.standby.isSome && m.red.inSync))

/-- The attested agents that hold a group association: ALL, the switch agents, the endpoint agents (Table: Multicast
groups), those taking part in a firmware broadcast, or the members of a context and the agents of its tree switches (R326). -/
def Manager.groupMembers (m : Manager) (assoc : Nat) : List Nat :=
  let of_ := fun (p : NodeInfo → Bool) => (m.fab.nodes.filter (fun n => p n.2)).map (fun n => n.1)
  if assoc = 0xE000 then of_ (fun _ => true)
  else if assoc = 0xE001 then of_ (fun n => n.kind != 1)
  else if assoc = 0xE002 then of_ (fun n => n.kind != 0)
  else if assoc = 0xE004 then m.cast.targets
  else of_ (fun n => n.groupsHeld.contains assoc)

/-- Sends a frame. With FN_RELAY 1 a group frame goes as unicast copies to the group's members, each with RELAYED set
(R422). -/
def Manager.emit (m : Manager) (f : Sent) : Manager :=
  if f.dst = nidAll ∧ m.obj Obj.FN_RELAY = 1 then
    (m.groupMembers f.assoc).foldl (fun m n =>
      m.onDev (fun d => (d.send { f with unicast := some n, assoc := 1, relayed := true }).bump Obj.FC_RELAYED)) m
  else m.onDev (fun d => d.send f)

/-- A frame is a command that its receiver acknowledges, or a dictionary request (R283). -/
def ackedMsg : Msg → Bool
  | .stage _ | .commit _ _ _ | .isolate _ _ _ | .setKey _ _ _ _ | .revoke _ _ _ _ | .dictReq _ _ _ _ _ _ | .scGrant _ _ _ _ => true
  | _ => false

/-- How many of a list of key exchanges are not acknowledged. -/
def unackedKeys (l : SMap KeyWait) : Nat := (l.filter (fun e => !e.2.acked)).length

/-- The commands whose acknowledgement the manager awaits, proxied requests among them (R421). [DESIGN CHOICE, log 114] -/
def Manager.awaiting (m : Manager) : Nat :=
  (match m.inst.cand with | some c => if m.inst.phase = 2 ∨ m.inst.phase = 4 then c.awaits.length else 0 | none => 0) +
  (m.inst.isolating.map (fun e => e.2.peers.length)).sum +
  (m.sl.ctxs.map (fun e => unackedKeys e.2.setKeys +
    (match e.2.purge with | some p => unackedKeys p.revoke | none => 0) +
    (match e.2.rejoin with | some r => unackedKeys r.keys | none => 0))).sum +
  (m.host.proxied.filter (fun p => p.unsent.isNone)).length + (m.rcv.delivering.map (fun e => e.2)).sum

/-- Commands come to egress: at most 32,768 await their acknowledgement, and a further one waits behind those that wait already
(R421). [DESIGN CHOICE, log 114] -/
def Manager.putCmds (m : Manager) (fs : List Sent) : Manager :=
  let q := m.red.cmdQ ++ fs
  let n := 32768 - (m.awaiting - (q.filter (fun f => ackedMsg f.msg)).length)
  (q.take n).foldl Manager.emit { m with red := { m.red with cmdQ := q.drop n } }

/-- Acknowledgements have come: commands that wait go out in their place. -/
def Manager.drainCmds (m : Manager) : Manager := if m.red.cmdQ.isEmpty then m else m.putCmds []

/-- Whether a frame waits for the acknowledgement of an entry: in a triad every command frame, toward a standby COMMIT
alone (R288, R295). -/
def waitsForEntry (m : Manager) : Msg → Bool
  | .commit _ _ _ => m.mustWait
  | _ => m.red.slot.isSome && m.mustWait

/-- Sends a command frame (R283): only the leader of the active unit does (R280, R289), and in a triad only after a
follower holds the entry that carries it (R288). -/
def Manager.sendCmd (m : Manager) (dst assoc ctx gen : Nat) (x : Msg) : Manager :=
  if !m.active || !m.leads then m
  else
    let f : Sent := { dst := dst, assoc := assoc, ctx := ctx, gen := gen, claim := some m.claim, msg := x }
    if waitsForEntry m x then { m with red := { m.red with heldOut := m.red.heldOut ++ [(m.red.nextSeq - 1, f)] } }
    else m.putCmds [f]

/-- A proxied request goes to its agent under its context and generation; a WRITE is a command frame. -/
def Manager.sendReq (m : Manager) (p : Proxied) (data : List Byte) : Manager :=
  let x : Msg := .dictReq p.ctx p.gen p.num (256 * p.index + p.sub) data p.write
  if p.write then m.sendCmd p.nid 1 p.ctx p.gen x else m.putCmds [{ dst := p.nid, assoc := 1, ctx := p.ctx, gen := p.gen, msg := x }]

/-- The agent restarts, as it announced (R335). -/
def Manager.restarts (m : Manager) (nid : Nat) : Bool := (mapGetD m.fab.nodes nid {}).restarting.isSome

/-- The requests that waited for an agent's restart, and whose agent has ended it, are sent in their order (R361). -/
def Manager.sendDue (m : Manager) : Manager :=
  m.host.proxied.foldl (fun m p =>
    match p.unsent with
    | none => m
    | some data =>
      if m.restarts p.nid then m
      else
        let all := m.host.proxied.map (fun q => if q.num = p.num then { q with unsent := none } else q)
        ({ m with host := { m.host with proxied := all } }).sendReq p data) m

/-- A command frame to one agent for the fabric. -/
def Manager.cmdAgent (m : Manager) (nid : Nat) (x : Msg) : Manager := m.sendCmd nid 1 0 0 x

/-- The agent of a switch is attested. -/
def Manager.hasAgent (m : Manager) (sw : Nat) : Bool := (mapGet m.fab.nodes (m.agentOf sw)).isSome

/-! ## Answers -/

/-- Answers a WRITE: at once, or once the entry that carries it is acknowledged (R288, R295). -/
def Manager.answerWrite (m : Manager) (r : Req) (result : Nat) : Manager :=
  if result = 0 ∧ m.mustWait then
    { m with host := (m.performed r).host, red := { m.red with heldAns := m.red.heldAns ++ [(m.red.nextSeq - 1, ⟨r, result, []⟩)] } }
  else m.answer r result

/-! ## The gate of a request (R341) -/

/-- The context a per-context object is reached for: the bound context of a virtual function, LP_SEL_CTX for the physical
one (R349, R93). -/
def Manager.reachCtx (m : Manager) (fn : Nat) : Option Nat := if fn = 0 then some (m.obj Obj.LP_SEL_CTX) else m.fnCtx fn

/-- The security mode and debug level a request is checked against: those in force when the barrier accepted it (R465, R471); for a
request that did not wait at the barrier, those in force. -/
def Manager.acceptedUnder (m : Manager) (r : Req) : Nat × Nat :=
  match m.host.accepted.find? (fun h => h.req == r) with
  | some h => (h.mode, h.level)
  | none => (m.obj Obj.SC_MODE, m.obj Obj.SC_DEBUG)

/-- Check 5: the mode forbids the access (R465). The all-context views of telemetry and events at level NONE are checked
where they are read. -/
def Manager.modeForbids (m : Manager) (r : Req) (key : Nat) (write : Bool) (v : Nat) : Bool :=
  let mode := (m.acceptedUnder r).1
  ((key == Obj.SC_OWNER || key == Obj.SC_PROVISION) && decide (mode ≠ 0)) ||
  (key == Obj.SC_DEBUG_REQ && decide (mode ≠ 0)) ||
  (key == Obj.EV_CLEAR && write && decide (mode = 2) && decide (2 ≤ v))

/-- Checks 4, 5 and 8: reach, mode, and whether the unit admits the request (R349, R361, R299). 0 when all pass. [DEDUCED, log 42; DEDUCED, log 72; DESIGN CHOICE, log 73] -/
def Manager.gateReach (m : Manager) (r : Req) (key : Nat) (write : Bool) (v : Nat) : Nat :=
  match objRow key with
  | none => 0x0001
  | some row =>
    if row.perCtx ∧ (m.reachCtx r.fn).isNone then 0x0006
    else if !row.perCtx ∧ r.fn ≠ 0 ∧ ¬(row.idx = 0x1000 ∧ !write) then 0x0006
    else if m.modeForbids r key write v then 0x000A
    else 0

/-- Check 8: in a takeover a WRITE is answered RETRY; at a unit that is not active STATE, but for the identity to recorder
and redundancy ranges (R299, R361). Tenant requests of a context being purged are answered STATE (R232 step 1). A module of
which no firmware slot verified serves only reads of the identity to recorder ranges (R431). [DEDUCED, log 42] -/
def Manager.gateState (m : Manager) (r : Req) (key : Nat) (write : Bool) : Nat :=
  let idx := key / 256 % 65536
  let purged := decide (r.fn ≠ 0) && (match m.fnCtx r.fn with | some c => decide ((m.ctx c).st = .purging) | none => false)
  let free := (Nat.ble 0x1000 idx && Nat.ble idx 0x14FF) || (Nat.ble 0x5000 idx && Nat.ble idx 0x50FF)
  let lowest := Nat.ble 0x1000 idx && Nat.ble idx 0x14FF
  if m.pwr.noBoot then (if !write && lowest then 0 else 0x0009)
  else if purged then 0x0009
  else if !write || free then 0
  else if m.inTakeover then 0x0010
  else if !m.active then 0x0009
  else 0

/-- A follower passes a host write to its leader (R288). [DEDUCED, log 48] -/
def Manager.toLeader (m : Manager) (r : Req) (i : Instr) : Manager :=
  let m := m.performed r
  { m with red := { m.red with triadOut := m.red.triadOut ++ [TriadMsg.hostWrite r i] } }

/-- The answer to a value that a command object does not list: VALUE, or an open result where the object is per-context, whose
reserved values are not checked (R365, R366). [DEDUCED, log 88] -/
def Manager.unlisted (m : Manager) (r : Req) (key : Nat) : Manager :=
  if (objRow key).any (fun x => x.perCtx) then (m.onDev Dev.drawn).answer r (m.dev.openNat % 2 ^ 16) else m.answer r 0x0007

/-- A WRITE of a command object: the checks in order, its effect when all pass, and the answer (R341, R348). `listed` are
the values the object's Meaning lists; `busy` says that its action is in progress; `i` is the command itself, which becomes
an entry of the input stream. A follower of a triad passes the write to its leader (R288). -/
def Manager.cmd (m : Manager) (i : Instr) (r : Req) (key v : Nat) (listed : List Nat) (busy : Bool) (eff : Manager → Nat → Manager) : Manager :=
  let reach := m.gateReach r key true v
  if reach ≠ 0 then m.answer r reach
  else
    let st := m.gateState r key true
    if st ≠ 0 then m.answer r st
    else if !listed.contains v then m.unlisted r key
    else if busy then m.answer r 0x0008
    else
      let c := (m.reachCtx r.fn).getD 0
      if !m.leads then m.toLeader r i else (eff (m.entry i) c).answerWrite r 0

/-- A WRITE of an object that is no command and has a row of its own: the checks in order, its effect when all pass, and the
answer (R341). `busy` says that an action in progress forbids it; `i` is the command itself. -/
def Manager.hostWrite (m : Manager) (i : Instr) (r : Req) (key : Nat) (data : List Byte) (busy : Bool) (eff : Manager → Nat → Manager) : Manager :=
  let c := (m.reachCtx r.fn).getD 0
  let result := dictResult false key true data (m.gateReach r key true (leNat data)) 0 (m.gateState r key true) (if busy then 0x0008 else 0)
  if result ≠ 0 then m.answer r result
  else
    if !m.leads then m.toLeader r i else (eff (m.entry i) c).answerWrite r 0

/-- Times within a window of seconds ending now. -/
def inWindow (times : List Nat) (now sec : Nat) : List Nat := times.filter (fun t => decide (now < t + sec * 1000000000))

/-! ## Purging (R231-R236) -/

/-- The link table becomes the current snapshot, and that of the next computation; an older one that waits is dropped (R35,
R128). -/
def Manager.takeSnapshot (m : Manager) : Manager :=
  { m with rt := { m.rt with waiting := some m.fab.links, snap := m.fab.links, snapSeq := m.red.applied } }

/-- A snapshot change: the coalescing window opens, or is open already (R252). With FR_WINDOW_US 0 it closes as it opens. The engine's domains wake (R511). -/
def Manager.windowOpens (m : Manager) : Manager :=
  if m.rt.window then m
  else
    let m := m.wakeEngine
    if m.obj Obj.FR_WINDOW_US = 0 then { m.takeSnapshot with rt := { m.takeSnapshot.rt with closed := some m.dev.time } }
    else { m with rt := { m.rt with window := true } }

/-- A computation without a window becomes wanted on the newest snapshot (R253, R128), and the engine's domains wake (R511). -/
def Manager.snapshotNow (m : Manager) : Manager :=
  m.wakeEngine.takeSnapshot

/-- The computation in progress is given up; its REPAIR lines give their slots back. -/
def Manager.dropComp (m : Manager) : Manager := ({ m with rt := { m.rt with comp := none } }).stockEnd

/-- Step 3 of Table: Response to persistent imbalance: the leader draws a new seed, which is pending from here on, and delivers it
(R150, R164). Where no random value is to be had the re-seed waits (R459). -/
def Manager.reseed (m : Manager) (k : Nat) : Manager :=
  if m.dev.net.replay || m.rngOut then
    { m with rt := { m.rt with sw := mapUpd m.rt.sw k {} (fun x => { x with owed := true }) } }
  else
    let v := m.dev.openNat % 2 ^ 64
    let m := (m.onDev Dev.drawn).putEntry { kind := .seed k v }
    { m with rt := { m.rt with sw := mapUpd m.rt.sw k {} (fun x => x.reseeded v) } }

/-- The HELD endpoints, by their keys, become as given, and CX_HELD follows (R241). -/
def Manager.setHeld (m : Manager) (h : SMap (List Nat)) : Manager :=
  ({ m with sl := { m.sl with held := h } }).setObj Obj.CX_HELD h.length

/-- An endpoint becomes HELD with keys recorded against it (R227, R234, R237). -/
def Manager.hold (m : Manager) (e : Nat) (keys : List Nat) : Manager :=
  m.setHeld (mapUpd m.sl.held e [] (fun ks => keys.foldl (fun l k => if l.contains k then l else l ++ [k]) ks))

/-- A carve has completed: the CONTEXT interrupt of the physical function and a CARVED event (R225). -/
def Manager.carveDone (m : Manager) (tag result c : Nat) : Manager :=
  (m.eventWith 0x200 0 (leBytes 8 tag ++ leBytes 1 result ++ [0] ++ leBytes 2 c ++ leBytes 4 0)).raiseInt 0 1

/-- Sends READY to the agents of an endpoint's peers, the switches its links lead to, whatever the links' states (R256, R259). -/
def Manager.sendReady (m : Manager) (e : Nat) : Manager :=
  (sortNat ((m.fab.links.filter (fun l => decide (l.2.peerKind = .endpoint) && l.2.peerNid == e && decide (l.2.st ≠ .absent))).map
    (fun l => l.1 / 128))).foldl (fun m s => m.cmdAgent (m.agentOf s) (.ready e)) m

/-- READY of an endpoint goes to its peers, and it is gone no longer (R260). -/
def Manager.announceReady (m : Manager) (e : Nat) : Manager := (m.setNode e { m.node e with gone := false }).sendReady e

/-- The key rule: a partition key may be issued (R237). -/
def Manager.keyFree (m : Manager) (c gen : Nat) : Bool :=
  let key := pKey c gen
  !(m.sl.held.any (fun h => h.2.contains key)) &&
  (match mapGet (m.ctx c).keyRetired (gen % 16) with
   | some t => Nat.ble (t + max (m.obj Obj.CX_QUAR_US) (2 * m.obj Obj.IMP_DRAIN_US) * 1000) m.dev.time
   | none => true)

/-- The purge of a context starts (Table: Purge sequence, steps 1 to 7 begin): the generation advances, lines stop, the
program is unloaded, queued frames are dropped, proxied requests answered PURGED, REVOKE sent to members, sync objects
and mailboxes emptied, and the bound function's reset begins. Another cause finds it PURGING and has no effect (R215). -/
def Manager.purgeStart (m : Manager) (c : Nat) : Manager :=
  let x := m.ctx c
  if c = 0 ∨ x.st = .free ∨ x.st = .purging ∨ x.st = .quarantine then m
  else
    let queued := m.sl.queue.filter (fun q => q.ctx == c)
    let m := { m with sl := { m.sl with queue := m.sl.queue.filter (fun q => q.ctx != c)
                                        placing := match m.sl.placing with
                                          | some p => if p.ctx = c then none else some p
                                          | none => none } }
    let m := if queued.isEmpty then m else
      (m.setObj Obj.CX_QUEUED (m.obj Obj.CX_QUEUED - 1)).carveDone x.tag 11 c
    let gen := (x.gen + 1) % 256
    let old := match x.rejoin with | some r => r.oldKeys | none => []
    let purge : PurgeSt := { revoke := x.eps.map (fun e => (e, ({} : KeyWait))), vfDone := x.vf == 0, oldKeys := old ++ [pKey c x.gen] }
    let m := (m.setCtx c { x with gen := gen, waiting := false, carve := none, setKeys := [], rejoin := none, doomed := false
                                  purge := some purge, result := if queued.isEmpty then x.result else 11 }).enter c .purging
    let m := if x.st = .active then (m.bump Obj.CX_PURGES).raiseCtx c 1 else m.bump Obj.CX_PURGES
    let told : List Nat := match x.rejoin with | some r => r.ready | none => []
    let m := told.foldl (fun (m : Manager) e => m.announceReady e) m
    let m : Manager := { m with rt := { m.rt with trees := m.rt.trees.filter (fun t => t.ctx != c), wide := m.rt.wide.filter (fun k => k != c) } }
    -- step 2
    let m := m.endAllLines c 1
    let m := (m.onEng (fun e => { e with programs := mapDel e.programs c, digests := mapDel e.digests c })).onDev (fun d => d.setBlob (ctxKey Obj.LP_IMAGE c) [])
    -- step 4: queued frames of the context, proxied requests
    let m := m.onDev (fun d => { d with out := d.out.filter (fun f => f.ctx != c || f.ctx == 0) })
    let gone := m.host.proxied.filter (fun p => p.ctx == c)
    let m := { m with host := { m.host with proxied := m.host.proxied.filter (fun p => p.ctx != c) } }
    let m := gone.foldl (fun m p => m.answerProxy p.req 0x000E) m
    -- step 5
    let m := x.eps.foldl (fun m e => m.sendCmd e 1 0 0 (.revoke c x.gen 1 e)) m
    -- step 6
    let m := { m with host := { m.host with
      syncs := mapFilter m.host.syncs (fun n _ => decide (n < x.syncLo) || Nat.ble (x.syncLo + x.syncN) n)
      mailboxes := mapFilter m.host.mailboxes (fun n _ => decide (n < x.mboxLo) || Nat.ble (x.mboxLo + x.mboxN) n)
      doorbells := (upTo (4 * x.mboxN)).foldl (fun b i => b &&& ~~~(1#256 <<< (4 * x.mboxLo + i))) m.host.doorbells } }
    m

/-- A draining context whose run has ended is purged (R231). -/
def Manager.drainCheck (m : Manager) (c : Nat) : Manager :=
  if (m.ctx c).st = .draining ∧ (mapGet m.eng.runs c).isNone then m.purgeStart c else if c = 0 then m.hookDue else m

end Sys2Proof.Machine
end

