-- ==== Sys2Proof/Machine/UnitOps.lean ====
section
/-! DEFINITION. Sys2Proof/Machine/UnitOps.lean: a unit's authority: the pairs it has seen, the answers and frames that wait for
an entry's acknowledgement, standing down, handing over, and module faults (chapters "Triads, standby and claim numbers" and
"Faults, hangs and recovery"). -/

namespace Sys2Proof.Machine

/-! ## Pairs (R46, R281) -/

/-- The unit's own pair, compared with another (R46). -/
def pairHigher (c n c' n' : Nat) : Bool := decide (c' < c) || (c == c' && decide (n' < n))

/-- The highest pair seen is kept (R281); where it rises, a unit that has handed over has a successor (R301). -/
def Manager.seeClaim (m : Manager) (c n : Nat) : Manager :=
  if pairHigher c n (m.obj Obj.RD_HIGHEST) (m.obj Obj.RD_HIGHEST_NID) then
    ((m.setObj Obj.RD_HIGHEST c).setObj Obj.RD_HIGHEST_NID n).setObj Obj.RD_HANDOVER 0
  else m

/-- The NID of the unit's pair: its leader's (R290). -/
def Manager.unitNid (m : Manager) : Nat := mapGetD m.red.trio (m.obj Obj.TR_LEADER) m.dev.net.nid

/-- Where a module of a unit without authority copies from: the leader from the active unit, a follower from its leader (R292, R295). -/
def Manager.copiesFrom (m : Manager) (n : Nat) : Nat :=
  if m.red.slot.isSome ∧ some (m.obj Obj.TR_LEADER) ≠ m.red.slot then m.obj Obj.TR_LEADER else n

/-! ## The phase of an install -/

/-- IMP_STATE as the manager stands: the install's phase, or COMPUTING, or IDLE. -/
def Manager.impState (m : Manager) : Manager :=
  m.setObj Obj.IMP_STATE (if m.inst.phase ≠ 0 then m.inst.phase else if m.rt.comp.isSome then 1 else 0)

/-- The install enters a phase. -/
def Manager.phase (m : Manager) (n : Nat) : Manager := ({ m with inst := { m.inst with phase := n } }).impState

/-- A candidate is abandoned: its number is not consumed (R44), and a restore that it carried is over (R210). -/
def Manager.abandon (m : Manager) : Manager :=
  ((({ m with inst := { m.inst with cand := none } }).setObj Obj.IMP_CANDIDATE 0).setObj Obj.IA_RESTORE 0).phase 0

/-! ## Resynchronising (R292, R295) -/

/-- The module begins to resynchronise from a source, a triad slot or the NID of a module of the active unit: it computes nothing and
casts no digest until it is done. -/
def Manager.startResync (m : Manager) (src st : Nat) : Manager :=
  let m := (m.dropComp.onRed (fun r => { r with resync := some src, digests := [], gather := none })).setObj Obj.RD_STATE st
  if src < 3 then (m.setObj Obj.TR_RESYNC 1).setObj Obj.TR_RESYNC_PCT 0 else m

/-! ## Authority lost (R282, R301) -/

/-- A unit that stops managing drops its candidate, its computation and the window (R282, R301); what they showed reads as
idle. -/
def Manager.standDown (m : Manager) : Manager :=
  let m := m.dropComp
  ({ m with
    inst := { m.inst with cand := none, phase := 0, isolating := [], again := false }
    rt := { m.rt with waiting := none, window := false } }).abandon

/-- The unit's pair is another module's of its own triad: that module leads it (R290). -/
def Manager.followMate (m : Manager) (slot c : Nat) : Manager :=
  ((m.setObj Obj.RD_CLAIM c).setObj Obj.TR_LEADER slot).onRed (fun r => { r with gather := none, gain := .none, heldOut := [], cmdQ := [] })

/-- A pair has been met: when it is higher than the unit's own, an active or claiming unit stops sending commands, becomes
standby and resynchronises; the leader of a triad tells its followers, which do so too (R282, R302). A pair of its own triad names
the new leader (R290). -/
def Manager.meetPair (m : Manager) (c n : Nat) : Manager :=
  let m := m.seeClaim c n
  let st := m.obj Obj.RD_STATE
  if (st = 2 ∨ st = 5) ∧ pairHigher c n (m.obj Obj.RD_CLAIM) m.unitNid then
    match m.red.trio.find? (fun x => x.2 == n) with
    | some p => if m.obj Obj.RD_CLAIM < c then m.followMate p.1 c else m
    | none =>
      let m := if m.red.slot.isSome then m.putEntry { kind := .claim c n } else m
      (m.onRed (fun r => { r with gain := .none, gather := none, standby := none, inSync := false, heldOut := [], cmdQ := [] })).standDown.startResync (m.copiesFrom n) 6
  else m

/-! ## Entries acknowledged (R288, R295) -/

/-- A follower has acknowledged an entry, or no peer is in service. -/
def Redundancy.triadHas (r : Redundancy) (n : Nat) : Bool :=
  r.slot.isNone || r.peersIn.isEmpty || r.peersIn.any (fun k => Nat.ble n (mapGetD r.acked k 0))

/-- The standby has acknowledged an entry, or is not waited for. -/
def Redundancy.standbyHas (r : Redundancy) (n : Nat) : Bool :=
  match r.standby with
  | some nid => !r.inSync || Nat.ble n (mapGetD r.acked nid 0)
  | none => true

/-- Toward a standby only COMMIT waits (R295). -/
def sentCommit (f : Sent) : Bool := match f.msg with | .commit _ _ _ => true | _ => false

/-- Answers and command frames whose entry is acknowledged go out; entries that every peer has are dropped. -/
def Manager.release (m : Manager) : Manager :=
  let r := m.red
  let ans := r.heldAns.filter (fun a => r.triadHas a.1 && r.standbyHas a.1)
  let out := r.heldOut.filter (fun f => r.triadHas f.1 && (!sentCommit f.2 || r.standbyHas f.1))
  let m := m.onRed (fun x => { x with
    heldAns := x.heldAns.filter (fun a => !(r.triadHas a.1 && r.standbyHas a.1))
    heldOut := x.heldOut.filter (fun f => !(r.triadHas f.1 && (!sentCommit f.2 || r.standbyHas f.1)))
    entries := mapFilter x.entries (fun n _ => !(x.peersIn.all (fun k => Nat.ble n (mapGetD x.acked k 0)) && x.standbyHas n)) })
  let m := ans.foldl (fun m a => m.answer a.2.req a.2.result a.2.data) m
  out.foldl (fun m f => m.putCmds [f.2]) m

/-! ## Leadership of a triad (R290) -/

/-- The next module in service after a slot. -/
def Manager.nextLeader (m : Manager) (k : Nat) : Nat :=
  let inService := fun (j : Nat) => m.red.peersIn.contains j || (decide (m.red.slot = some j) && m.red.resync.isNone)
  if inService ((k + 1) % 3) then (k + 1) % 3 else if inService ((k + 2) % 3) then (k + 2) % 3 else k

/-- Bit k of TR_MEMBERS is cleared: slot k is not in service and synchronised. -/
def Manager.notMember (m : Manager) (k : Nat) : Manager :=
  m.setObj Obj.TR_MEMBERS (if bitOf (m.obj Obj.TR_MEMBERS) k then m.obj Obj.TR_MEMBERS - 2 ^ k else m.obj Obj.TR_MEMBERS)

/-- This module of a triad no longer is in service and synchronised; where it led, the next module in service leads (R290). -/
def Manager.stepAside (m : Manager) : Manager :=
  match m.red.slot with
  | none => m
  | some me =>
    let next := if m.red.peersIn.contains ((me + 1) % 3) then (me + 1) % 3 else if m.red.peersIn.contains ((me + 2) % 3) then (me + 2) % 3 else me
    (if m.leads then m.setObj Obj.TR_LEADER next else m).notMember me

/-! ## Handing over (R301, R293) -/

/-- The active unit hands over to its standby: YIELD goes out, and the unit stands by; it hands over until a higher pair shows its
successor. [DEDUCED, log 69] -/
def Manager.yieldTo (m : Manager) (cause : Nat) : Manager :=
  match m.red.standby with
  | some nid =>
    if !m.red.inSync ∨ !m.active ∨ !m.leads then m
    else
      let m := m.onDev (fun d => d.send { dst := nid, assoc := 3, claim := some m.claim, msg := .yield_ m.red.applied m.claim cause })
      let m := ((m.setObj Obj.RD_STATE 3).setObj Obj.RD_HANDOVER 1).onRed (fun r => { r with
        standby := none, inSync := false, heldOut := [], cmdQ := [], yieldSent := true, gain := .none, gapFrom := m.dev.time })
      m.standDown.release
  | none => m

/-! ## Module faults (R276, R277) -/

/-- The module takes itself out of service. -/
def Manager.leaveService (m : Manager) : Manager :=
  (m.onRed (fun r => { r with outOfService := true, standby := none, inSync := false, gather := none, gain := .none })).setObj Obj.RD_STATE 8

/-- The module leaves its triad: its peers manage on, and it sends no more heartbeats, commands or entries (R277). -/
def Manager.leaveTriad (m : Manager) : Manager :=
  (m.stepAside.onRed (fun r => { r with peersIn := [], heldOut := [], cmdQ := [] })).leaveService.standDown.release

/-- The faults counted in the current window: MOD_FAULTS (R272, R279). A window of zero ends none (R273). -/
def Manager.faultsNow (m : Manager) : List Nat :=
  let w := m.dev.objC Obj.MOD_FAULT_WINDOW
  if w = 0 then m.red.faults else inWindow m.red.faults m.dev.time w

/-- The standby is in service. -/
def Manager.standbyReady (m : Manager) : Bool := m.active && m.leads && m.red.standby.isSome && m.red.inSync

/-- A module fault is counted. At the limit the module leaves its triad or hands over, and goes out of service, where two triad
peers or a standby are in service; otherwise it stays and sets MOD_ESCALATED (R276, R277). -/
def Manager.moduleFault (m : Manager) : Manager :=
  let m := (m.onRed (fun r => { r with faults := m.faultsNow ++ [m.dev.time] })).event 0x283 0

  if m.dev.objC Obj.MOD_FAULT_WINDOW = 0 ∨ m.red.outOfService ∨ m.faultsNow.length < m.dev.objC Obj.MOD_FAULT_LIMIT then m
  else if 2 ≤ m.red.peersIn.length then m.leaveTriad
  else if m.standbyReady then (m.yieldTo 3).leaveService
  else (m.setObj Obj.MOD_ESCALATED 1).event 0x284 0

end Sys2Proof.Machine
end

