-- ==== Sys2Proof/Machine/CarveOps.lean ====
section
/-! DEFINITION. Sys2Proof/Machine/CarveOps.lean: choosing endpoints and reserving quotas for a carve, its queue and its
completion, and the reset of a virtual function (chapter "Slices and contexts"). -/

namespace Sys2Proof.Machine

/-! ## Availability and choice (R222) -/

/-- An endpoint is of context 0, present in the current snapshot and not fenced: PLACE counts it (R135, R166). -/
def Manager.placeable (m : Manager) (e : Nat) : Bool := m.epCtx e == 0 && present m.rt.snap e && !(m.node e).fenced

/-- An endpoint is available to a carve: it is not HELD either, and its READY has come since it reset (R222, R260). -/
def Manager.available (m : Manager) (e : Nat) : Bool :=
  m.placeable e && !(m.node e).gone && (mapGet m.sl.held e).isNone

/-- The endpoints available, rising. -/
def Manager.availEps (m : Manager) : List Nat := (presentEps m.rt.snap).filter m.available

/-- Sorts numbers by a rank, then by the number. -/
def sortByRank (rank : Nat → Nat) (l : List Nat) : List Nat :=
  (sortNat (l.map (fun e => rank e * 2 ^ 20 + e))).map (fun k => k % 2 ^ 20)

/-- CV_CONTIG's pick: whole blocks in order of (least distance, block) while the total stays within the count, then
endpoints of the next block by ascending NID. -/
def pickBlocks (count : Nat) (avail : List Nat) : List (List Nat) → List Nat → List Nat
  | [], pick => pick
  | b :: rest, pick =>
    if pick.length + b.length ≤ count then pickBlocks count avail rest (pick ++ b)
    else pick ++ (b.filter (fun e => avail.contains e)).take (count - pick.length)

/-- The procedure of R222 for a count, given the distance of each endpoint (none: not reachable). -/
def Manager.pickCount (m : Manager) (count : Nat) (contig : Bool) (avail : List Nat) (dist : Nat → Nat) : List Nat :=
  if contig then
    let pres := presentEps m.rt.snap
    let blocks := sortNat (avail.map blockOf)
    let whole := blocks.filter (fun b => (pres.filter (fun e => blockOf e == b)).all (fun e => avail.contains e))
    let eps := fun (b : Nat) => avail.filter (fun e => blockOf e == b)
    let least := fun (b : Nat) => (eps b).foldl (fun d e => min d (dist e)) (2 ^ 16)
    pickBlocks count avail ((sortByRank least whole).map eps) []
  else (sortByRank dist avail).take count

/-- Distance of an endpoint from a centre over the links PLACE counts, those not sealed (R166): least switch hops to a switch
of its leaf set, 2^16 when none is reached. [DEDUCED, log 87] -/
def Manager.distFrom (m : Manager) (centre : Nat) (e : Nat) : Nat :=
  (leastHops (hopsFrom m.rt.snap (fun l => l.sealCtx == 0) allHops centre) (leafSet m.rt.snap e)).getD (2 ^ 16)

/-- What a choice of endpoints comes to: the endpoints with OK or SHORT_GRANTED and CV_SHORT, or a failure code. -/
inductive Choice where
  | grant (eps : List Nat) (result short : Nat)
  | fail (result short : Nat)
  deriving DecidableEq, Repr

/-- The choice of endpoints and the fit policy (R222, R223). `fit` 3 (WAIT) fails here as EXACT does; the caller queues. -/
def Manager.chooseEps (m : Manager) (q : CarveReq) (centre : Option Nat) : Choice :=
  match q.set_ with
  | some set_ =>
    let out := set_.filter (fun e => !m.available e)
    match out with
    | [] => .grant set_ 0 0
    | e :: _ => if q.fit = 1 then .grant (set_.filter m.available) 1 out.length else .fail 4 e
  | none =>
    let avail := m.availEps
    let dist := fun (e : Nat) => match centre with | some c => m.distFrom c e | none => 0
    let inside := if q.diam = 0 then avail else avail.filter (fun e => Nat.ble (dist e) (q.diam / 2))
    let pick := m.pickCount q.endpoints q.contig inside dist
    if pick.length ≥ q.endpoints then .grant pick 0 0
    else
      let k := q.endpoints - pick.length
      if q.fit = 1 then .grant pick 1 k
      else if q.fit = 2 then
        let wide := m.pickCount q.endpoints false avail dist
        if wide.length ≥ q.endpoints then .grant wide 0 0 else .fail 3 k
      else .fail 3 k

/-! ## Quotas (R216, R217) -/

/-- Free cell SRAM of a logical cell in KiB. -/
def Manager.sramFree (m : Manager) (l : Nat) : Nat :=
  16384 - (m.sl.ctxs.foldl (fun a c => if c.2.cells.contains l ∧ c.1 ≠ 0 then a + c.2.sramKib else a) 0)

/-- The n cells with most free SRAM, lowest numbers among equals. -/
def pickCells (free : Nat → Nat) : Nat → List Nat → List Nat
  | 0, _ => []
  | n + 1, cells =>
    match cells with
    | [] => []
    | c :: rest =>
      let best := rest.foldl (fun b x => if free b < free x then x else b) c
      best :: pickCells free n (cells.filter (fun x => x != best))

/-- The lowest free contiguous range of n numbers within lo to hi - 1. -/
def lowestRange (used : List (Nat × Nat)) (lo hi n : Nat) : Option Nat :=
  ((upTo (hi - lo)).map (fun i => lo + i)).find? (fun a =>
    Nat.ble (a + n) hi && used.all (fun u => Nat.ble (a + n) u.1 || Nat.ble (u.1 + u.2) a))

/-- Reserved ranges of sync objects, of mailboxes. -/
def Manager.syncUsed (m : Manager) : List (Nat × Nat) := (m.sl.ctxs.filter (fun c => c.1 ≠ 0 ∧ c.2.syncN ≠ 0)).map (fun c => (c.2.syncLo, c.2.syncN))
def Manager.mboxUsed (m : Manager) : List (Nat × Nat) := (m.sl.ctxs.filter (fun c => c.1 ≠ 0 ∧ c.2.mboxN ≠ 0)).map (fun c => (c.2.mboxLo, c.2.mboxN))

/-- The lowest enabled virtual function that no context holds (R374). -/
def Manager.freeVf (m : Manager) : Option Nat :=
  ((upTo m.host.numVfs).map (fun i => i + 1)).find? (fun v => m.sl.ctxs.all (fun c => c.2.vf != v))

/-- The resources of a carve. -/
structure Quota where
  cells  : List Nat
  syncLo : Nat
  mboxLo : Nat
  vf     : Nat
  deriving DecidableEq, Repr

/-- Reserves every quota in full, or tells the first that is short: 1 cell SRAM, 2 cells, 3 DRAM, 4 sync objects, 5
mailboxes, 6 virtual function (R217, R223). -/
def Manager.quotaOf (m : Manager) (q : CarveReq) : Except Nat Quota :=
  let cells := pickCells m.sramFree q.cells m.eng.logicals
  if cells.any (fun c => decide (m.sramFree c < q.sramKib)) then .error 1
  else if cells.length < q.cells then .error 2
  else if m.obj Obj.CX_DRAM_FREE_MIB < q.dramMib then .error 3
  else match (if q.sync = 0 then some 0 else lowestRange m.syncUsed 1024 8192 q.sync) with
    | none => .error 4
    | some s => match (if q.mbox = 0 then some 0 else lowestRange m.mboxUsed 8 64 q.mbox) with
      | none => .error 5
      | some b => match (if q.vf then m.freeVf else some 0) with
        | none => .error 6
        | some v => .ok ⟨sortNat cells, s, b, v⟩

/-! ## Sealing (R229, R230) -/

/-- The switches of a carve's ball (R229 step 1). -/
def Manager.ball (m : Manager) (q : CarveReq) (centre : Option Nat) (eps : List Nat) : List Nat :=
  let ls := m.fab.links
  let open_ := fun (l : LinkEntry) => l.sealCtx == 0
  match q.set_, centre with
  | none, some c => if q.diam = 0 then [] else (hopsFrom ls open_ (q.diam / 2) c).map (fun h => h.1)
  | _, _ =>
    let leaves := sortNat (eps.flatMap (leafSet ls))
    let h := leaves.map (fun s => (s, hopsFrom ls open_ allHops s))
    let onPath := fun (s : Nat) => h.any (fun a => h.any (fun b =>
      match mapGet a.2 s, mapGet b.2 s, mapGet a.2 b.1 with
      | some x, some y, some d => decide (x + y = d)
      | _, _, _ => false))
    sortNat (leaves ++ (switchesOf ls).filter onPath)

/-- The link indices a sealed carve seals, at the lower-numbered switch for links between switches, and every member's
leaf link (R229 steps 2 and 3). -/
def Manager.sealSet (m : Manager) (q : CarveReq) (ball eps : List Nat) : List Nat :=
  let ls := m.fab.links
  let pairs := ball.flatMap (fun a => (ball.filter (fun b => decide (a < b))).map (fun b => (a, b)))
  let between := pairs.flatMap (fun p =>
    let ports := ((upPorts ls p.1).filter (fun x => decide (x.2.peerKind = .switch) && x.2.peerNid % 8192 == p.2 &&
      x.2.sealCtx == 0)).map (fun x => p.1 * 128 + x.1)
    if ports.isEmpty then [] else ports.take (max 1 (ports.length * q.sealPct / 100)))
  between ++ (ls.filter (fun e => linkUp e.2 && decide (e.2.peerKind = .endpoint) && eps.contains e.2.peerNid)).map (fun e => e.1)

/-- Writes SEAL_CTX in both entries of each link (R229 step 4). -/
def sealLinks (ls : Links) (c : Nat) (idx : List Nat) : Links :=
  idx.foldl (fun ls i =>
    let l := linkOf ls i
    let ls := setLink ls i { l with sealCtx := c }
    match farIndex l with
    | some j => setLink ls j { linkOf ls j with sealCtx := c }
    | none => ls) ls

/-- Whether sealing would cut leaf switches that serve available or member endpoints of other contexts from one another
over the links that stay unsealed (R230). -/
def Manager.sealCuts (m : Manager) (idx : List Nat) (eps : List Nat) : Bool :=
  let before := m.fab.links
  let after := sealLinks before 1 idx
  let open_ := fun (l : LinkEntry) => l.sealCtx == 0
  let others := (presentEps before).filter (fun e => !eps.contains e && (m.available e || m.epCtx e != 0))
  let leaves := sortNat (others.flatMap (leafSet before))
  leaves.any (fun a =>
    let hb := hopsFrom before open_ allHops a
    let ha := hopsFrom after open_ allHops a
    leaves.any (fun b => (mapGet hb b).isSome && (mapGet ha b).isNone))

/-! ## The course of a carve -/

/-- The outcome of steps 1 to 3. -/
def Manager.carveOut (m : Manager) (result c short : Nat) : Manager :=
  ((m.setObj Obj.CV_RESULT result).setObj Obj.CV_CTX c).setObj Obj.CV_SHORT short

/-- A context taken by a carve goes back to FREE. -/
def Manager.freeCtx (m : Manager) (c : Nat) : Manager :=
  if c = 0 then m
  else
    let x := m.ctx c
    ((m.onDev (fun d => d.setBlob (ctxKey Obj.LP_IMAGE c) [])).setCtx c { gen := x.gen, keyRetired := x.keyRetired, lossDone := [] }).enter c .free

/-- The context a carve is assigned: FREE longest, the lowest number among equals, its next key not barred (R228). -/
def Manager.assignCtx (m : Manager) : Option Nat :=
  let free := ((upTo 4095).map (fun i => i + 1)).filter (fun c => decide ((m.ctx c).st = .free) && m.keyFree c (m.ctx c).gen)
  match free with
  | [] => none
  | c :: rest => some (rest.foldl (fun b x => if (m.ctx x).stateTime < (m.ctx b).stateTime then x else b) c)

/-- A new key of a context group is offered to its holders before SET_KEY (R419). -/
def Manager.offerGroup (m : Manager) (c : Nat) (nids : List Nat) : Manager :=
  let r := m.drawGroupKey (0xF000 + c) true
  nids.foldl (fun m e => m.offerGroupKey (0xF000 + c) r.2.2 r.2.1 e) r.1

/-- SET_KEY to members (step 5), the group key offered first. -/
def Manager.sendKeys (m : Manager) (c gen : Nat) (eps : List Nat) : Manager :=
  let m := m.offerGroup c eps
  eps.foldl (fun m e => m.sendCmd e 1 0 0 (.setKey c gen 1 e)) m

/-- Steps 3 to 5 for endpoints granted: EP_MAP, quotas and function; sealing and its computation; SET_KEY. CX_DIAM is measured
over the links that carry the slice's traffic: its own sealed ones, or those no context has sealed (R145). -/
def Manager.grantCarve (m : Manager) (q : CarveReq) (c : Nat) (eps : List Nat) (result : Nat)
    (quota : Quota) (sealIdx : List Nat) : Manager :=
  let x := m.ctx c
  let ls := if q.sealed_ then sealLinks m.fab.links c sealIdx else m.fab.links
  let leaves := sortNat (eps.flatMap (leafSet ls))
  let diam := leaves.foldl (fun a s =>
    let h := hopsFrom ls (fun l => l.sealCtx == (if q.sealed_ then c else 0)) allHops s
    leaves.foldl (fun a t => max a ((mapGet h t).getD 255)) a) 0
  let m := m.setCtx c { x with
    st := .carving, waiting := false, sealed_ := q.sealed_, fit := q.fit, loss := q.loss, eps := sortNat eps, tag := q.tag
    sramKib := if q.cells = 0 then 0 else q.sramKib, cells := quota.cells, vf := quota.vf, dramMib := q.dramMib
    syncLo := quota.syncLo, syncN := q.sync, mboxLo := quota.mboxLo, mboxN := q.mbox, outcome := result
    sealLinks := if q.sealed_ then sealIdx.length else 0, diam := min diam 255, lossDone := [], doomed := false, carve := some q
    setKeys := (sortNat eps).map (fun e => (e, ({} : KeyWait))), installed := !q.sealed_ }
  let m := { m with fab := { m.fab with links := ls } }
  let m := m.setObj Obj.CX_DRAM_FREE_MIB (m.obj Obj.CX_DRAM_FREE_MIB - q.dramMib)
  let m := m.sendKeys c x.gen (sortNat eps)
  if q.sealed_ then m.snapshotNow else m

/-- Queues a WAIT carve, with its context or without; QUEUE_FULL beyond CV_QUEUE_MAX (R225). -/
def Manager.queueCarve (m : Manager) (q : CarveReq) (c : Nat) : Manager :=
  if m.sl.queue.length ≥ m.obj Obj.CV_QUEUE_MAX then ((m.freeCtx c).carveOut 9 0 0).carveDone q.tag 9 0
  else
    let m := if c = 0 then m else m.setCtx c { m.ctx c with waiting := true, tag := q.tag }
    let num := m.sl.queue.foldl (fun a x => max a (x.num + 1)) 0
    let m := { m with sl := { m.sl with queue := m.sl.queue ++ [({ req := q, ctx := c, since := m.dev.time, num := num } : QueuedCarve)] } }
    ((m.setObj Obj.CX_QUEUED m.sl.queue.length).carveOut 2 c 0).raiseInt 0 1

/-- WAIT queues; with CV_QUEUE_MAX 0 it behaves as EXACT (R241). -/
def Manager.waits (m : Manager) (q : CarveReq) : Bool := q.fit == 3 && m.obj Obj.CV_QUEUE_MAX != 0

/-- What steps 2 and 3 come to for a carve: granted with its quota and seals, or a failure. -/
inductive CarveTry where
  | grant (eps : List Nat) (result short : Nat) (quota : Quota) (sealIdx : List Nat)
  | fail (result short : Nat)

/-- Tries a carve against the present state (R222, R223, R229, R230). -/
def Manager.tryCarve (m : Manager) (q : CarveReq) (centre : Option Nat) : CarveTry :=
  match m.chooseEps q centre with
  | .fail r k => .fail r k
  | .grant eps r k =>
    match m.quotaOf q with
    | .error n => .fail 5 n
    | .ok quota =>
      if q.sealed_ then
        let sealIdx := m.sealSet q (m.ball q centre eps) eps
        if m.sealCuts sealIdx eps then .fail 7 0 else .grant eps r k quota sealIdx
      else .grant eps r k quota []

/-- The centre PLACE finds for a carve that names a count and a diameter (R166). [DESIGN CHOICE, log 20; DEDUCED, log 86; DEDUCED, log 87] -/
def Manager.placeFor (m : Manager) (q : CarveReq) : Option Nat :=
  if q.diam = 0 ∨ q.set_.isSome then none
  else placeCentre m.rt.snap ((presentEps m.rt.snap).filter m.placeable) q.diam q.contig

/-- A queued carve that fits, with PLACE's centre, leaves the queue granted; one queued without a context is assigned it here (R225).
CV_RESULT stays: the record is another carve's by then (R224). -/
def Manager.grantQueued (m : Manager) (q : QueuedCarve) (centre : Option Nat) : Manager :=
  match m.tryCarve q.req centre, (if q.ctx = 0 then m.assignCtx else some q.ctx) with
  | .grant eps r _ quota sealIdx, some c =>
    let m := { m with sl := { m.sl with queue := m.sl.queue.filter (fun x => x.num != q.num) } }
    let m := m.setObj Obj.CX_QUEUED m.sl.queue.length
    let m := if q.ctx = 0 then (m.setCtx c { m.ctx c with tag := q.req.tag }).enter c .carving else m
    m.grantCarve q.req c eps r quota sealIdx
  | _, _ => m

/-- Tries a queued carve again; a grant is delivered in the input stream with the centre it rests on (R289). -/
def Manager.retryCarve (m : Manager) (q : QueuedCarve) : Manager :=
  let centre := m.placeFor q.req
  match m.tryCarve q.req centre, (if q.ctx = 0 then m.assignCtx else some q.ctx) with
  | .grant _ _ _ _ _, some _ => (m.putEntry { kind := .granted q.num centre }).grantQueued q centre
  | _, _ => m

/-- The leader tries every queued carve again in arrival order, and grants each that now fits (R225); anew after each grant, since a
sealed one has changed the snapshot. -/
def Manager.retryQueue (m : Manager) : Manager :=
  if !m.leads || !m.active || m.dev.net.replay then m
  else m.sl.queue.foldl (fun m _ => m.sl.queue.foldl (fun m q => m.retryCarve q) m) m

/-- Step 3 of a carve whose context is assigned. Sealing links changes the snapshot, so queued carves are tried again (R225). -/
def Manager.carveChoose (m : Manager) (q : CarveReq) (c : Nat) (centre : Option Nat) : Manager :=
  match m.tryCarve q centre with
  | .grant eps r k quota sealIdx =>
    let m := (m.carveOut r c k).grantCarve q c eps r quota sealIdx
    if q.sealed_ then m.retryQueue else m
  | .fail r k =>
    if m.waits q then m.queueCarve q c
    else ((m.freeCtx c).carveOut r 0 k).carveDone q.tag r 0

/-- A snapshot change opens the coalescing window; where FR_WINDOW_US is 0 the snapshot is taken at once, and queued carves are
tried again (R225, R252). -/
def Manager.openWindow (m : Manager) : Manager :=
  if !m.rt.window && m.obj Obj.FR_WINDOW_US == 0 then m.windowOpens.retryQueue else m.windowOpens

/-- A computation without a window is wanted; queued carves are tried on its snapshot (R225, R253). -/
def Manager.wantNow (m : Manager) : Manager := m.snapshotNow.retryQueue

/-- A context that a carve has given back lets queued carves be tried again (R225). -/
def Manager.retryIfFree (m : Manager) (c : Nat) : Manager := if (m.ctx c).st = .free then m.retryQueue else m

/-- Removes a queued carve with a result: its context, if it holds one, goes to FREE (R225). -/
def Manager.dropQueued (m : Manager) (q : QueuedCarve) (result : Nat) : Manager :=
  let m := { m with sl := { m.sl with queue := m.sl.queue.filter (fun x => x.num != q.num) } }
  let m := (m.setObj Obj.CX_QUEUED m.sl.queue.length).freeCtx q.ctx
  m.carveDone q.req.tag result q.ctx

/-- The carve record's committed values as a request (R354). -/
def Manager.carveReq (m : Manager) : CarveReq :=
  let o := m.dev.objC
  let set_ := m.dev.blob (committedKey Obj.CV_SET)
  { endpoints := o Obj.CV_ENDPOINTS
    set_ := if set_.length = 16384 then
        some ((upTo 131072).filter (fun e => (set_.getD (e / 8) 0).getLsbD (e % 8))) else none
    diam := o Obj.CV_DIAM, contig := o Obj.CV_CONTIG == 1, sealed_ := o Obj.CV_SEALED == 1, sealPct := o Obj.CV_SEAL_PCT
    fit := o Obj.CV_FIT, waitMs := o Obj.CV_WAIT_MS, sramKib := o Obj.CV_SRAM_KIB, cells := o Obj.CV_CELLS
    dramMib := o Obj.CV_DRAM_MIB, sync := o Obj.CV_SYNC, mbox := o Obj.CV_MBOX, vf := o Obj.CV_VF == 1
    loss := o Obj.CV_LOSS, tag := o Obj.CV_TAG }

/-- The objects of commit group 1 (R356). -/
def carveKeys : List Nat := (upTo 16).map (fun i => 0x380001 + i)

/-- Steps 1 to 3 of a carve, up to PLACE where it is needed (R220, R224, R226, R228). -/
def Manager.submitCarve (m : Manager) : Manager :=
  let len := (m.dev.blob (committedKey Obj.CV_SET)).length
  let q := m.carveReq
  if (len ≠ 0 ∧ len ≠ 16384) ∨ q.sramKib % 64 ≠ 0 then (m.carveOut 12 0 0).carveDone q.tag 12 0
  else match m.assignCtx with
    | none => if m.waits q then m.queueCarve q 0 else (m.carveOut 6 0 0).carveDone q.tag 6 0
    | some c =>
      let m := (m.setCtx c { m.ctx c with tag := q.tag }).enter c .carving
      if q.diam = 0 ∨ q.set_.isSome then (m.carveChoose q c none).retryIfFree c
      else { m with sl := { m.sl with placing := some ⟨q, c⟩ } }

/-- CV_GO's effect (R224). -/
def Manager.goCarve (m : Manager) : Manager := (m.onDev (fun d => d.commitObjs carveKeys)).submitCarve

/-! ## Virtual functions (R375) -/

/-- The ring indices from one free-running index of a descriptor ring up to another. -/
def ringSpan (from_ to_ : Nat) : List Nat := (upTo ((to_ + 2 ^ 32 - from_) % 2 ^ 32)).map (fun i => (from_ + i) % 256)

/-- A descriptor completed: STATUS, XFER_LEN and DONE written (R396). -/
def descDone (d status xfer : Nat) : Nat :=
  let keep := d - bitsOf d 287 240 * 2 ^ 240 - d % 2
  keep + status % 65536 * 2 ^ 272 + xfer % 2 ^ 32 * 2 ^ 240 + 1

/-- A function's reset: outstanding slots and descriptors complete with PURGED, doorbell view and INT_STATUS clear, every
cause is masked, its locks are released and its tickets voided. -/
def Manager.resetFn (m : Manager) (fn : Nat) (result : Nat) : Manager :=
  let f := m.fnSt fn
  let slots := f.slots.map (fun e => (e.1, if e.2.go then { e.2 with go := false, result := result, rlen := 0 } else e.2))
  let open_ := ringSpan f.dqHead f.dqTail
  let ring := open_.foldl (fun (r : SMap Nat) i => mapSet r i (descDone (mapGetD r i 0) result 0)) f.ring
  let m := m.setFn fn { f with slots := slots, ring := ring, dqHead := f.dqTail, intStatus := 0, intMask := 0xFF }
  let m := { m with host := { m.host with proxied := m.host.proxied.filter (fun p => p.req.fn != fn)
                                          held := m.host.held.filter (fun a => a.req.fn != fn)
                                          late := m.host.late.filter (fun r => r.fn != fn)
                                          accepted := m.host.accepted.filter (fun h => h.req.fn != fn)
                                          answers := m.host.answers.filter (fun a => a.req.fn != fn)
                                          waiting := m.host.waiting.filter (fun w => w.1.fn != fn) } }
  m.voidLocks (m.host.rid + fn)

/-! ## Key exchanges -/

/-- A member is acknowledged in a key exchange. -/
def ackKey (ws : SMap KeyWait) (e : Nat) : SMap KeyWait :=
  match mapGet ws e with
  | some w => mapSet ws e { w with acked := true }
  | none => ws

/-- Every member has acknowledged (or was given up). -/
def allAcked (ws : SMap KeyWait) : Bool := ws.all (fun w => w.2.acked)

/-- The members that have not. -/
def unacked (ws : SMap KeyWait) : List (Nat × KeyWait) := ws.filter (fun w => !w.2.acked)

/-! ## REJOIN (R259) -/

/-- The generations [3:0] of keys cease to be in use now (R237). -/
def retireKeys (now : Nat) (k : SMap Nat) (keys : List Nat) : SMap Nat := keys.foldl (fun k key => mapSet k (key % 16) now) k

/-- Step 3 and 4 of a REJOIN, once every member has the new key: READY to peers, REJOINED to the agent, MEMBER_REJOINED. -/
def Manager.rejoinDone (m : Manager) (c : Nat) : Manager :=
  let x := m.ctx c
  match x.rejoin with
  | none => m
  | some r =>
    if r.barred ∨ r.lost ≠ [] ∨ r.keys.isEmpty ∨ !allAcked r.keys then m
    else
      let m := m.setCtx c { x with rejoin := none, keyRetired := retireKeys m.dev.time x.keyRetired r.oldKeys }
      r.ready.foldl (fun m e =>
        let i := mapGetD r.info e (0, 0, 0)
        let m := (m.announceReady e).sendCmd e 1 0 0 (.rejoined c x.gen e)
        let m := m.emit { dst := nidAll, assoc := 0xF000 + c, ctx := c, gen := x.gen, msg := .memberRejoined e i.1 c x.gen i.2.1 i.2.2 }
        m.event 0x203 c) m

/-- A context group's key, as the manager holds it, is offered to further holders (R419). -/
def Manager.offerHeld (m : Manager) (c : Nat) (nids : List Nat) : Manager :=
  let phase := m.groupPhase (0xF000 + c)
  let key := (mapGet m.dev.net.keys (slotKey nidAll (0xF000 + c) phase)).getD 0
  nids.foldl (fun m e => m.offerGroupKey (0xF000 + c) phase key e) m

/-- The agents of switches receive SET_KEY for a TREE entry of a context's present generation, and the key of its group (R326, R419). -/
def Manager.giveTreeKeys (m : Manager) (c : Nat) (sws : List Nat) : Manager :=
  sws.foldl (fun m s => m.sendCmd (m.agentOf s) 1 0 0 (.setKey c (m.ctx c).gen 2 (0x20000 + s))) (m.offerHeld c (sws.map m.agentOf))

/-- The TREE entries of a context take its new generation (R326). -/
def Manager.renewTreeKeys (m : Manager) (c : Nat) : Manager :=
  match mapGet m.rt.treeKeys c with
  | none => m
  | some t => { m.giveTreeKeys c t.2 with rt := { m.rt with treeKeys := mapSet m.rt.treeKeys c ((m.ctx c).gen, t.2) } }

/-- Steps 1 and 2 of a REJOIN when every lost member is READY: the generation advances unless the new key is barred
(R237), and SET_KEY goes to every member, and to the agents that hold a TREE entry (R326). -/
def Manager.rejoinTry (m : Manager) (c : Nat) : Manager :=
  let x := m.ctx c
  match x.rejoin with
  | none => m
  | some r =>
    if r.lost ≠ [] ∨ !r.keys.isEmpty ∨ x.st ≠ .active then m
    else
      let gen := (x.gen + 1) % 256
      if !m.keyFree c gen then m.setCtx c { x with rejoin := some { r with barred := true } }
      else
        let keys := x.eps.map (fun e => (e, ({} : KeyWait)))
        let old := r.oldKeys.filter (fun k => k != pKey c x.gen) ++ [pKey c x.gen]
        let m := m.setCtx c { x with gen := gen, lossDone := [], rejoin := some { r with barred := false, keys := keys, oldKeys := old } }
        (m.sendKeys c gen x.eps).renewTreeKeys c

/-! ## Purge's last step -/

/-- Every overlapping step of a purge has ended (R232 step 8 may follow). -/
def purgeReady (x : Ctx) : Bool :=
  match x.purge with
  | some p => decide (x.st = .purging) && p.tags && p.vfDone && allAcked p.revoke
  | none => false

/-- Step 8: endpoints return to context 0, seals clear, KEY_RETIRED of the old key is set, QUARANTINE (R230, R232). -/
def Manager.purgeEnd (m : Manager) (c : Nat) : Manager :=
  let x := m.ctx c
  if !purgeReady x then m
  else
    let sealed_ := m.fab.links.any (fun e => e.2.sealCtx == c)
    let ls := m.fab.links.map (fun e => if e.2.sealCtx = c then (e.1, { e.2 with sealCtx := 0 }) else e)
    let m := { m with fab := { m.fab with links := ls } }
    let m := (m.setCtx c { gen := x.gen, result := x.result, tag := x.tag
                           keyRetired := retireKeys m.dev.time x.keyRetired (match x.purge with | some p => p.oldKeys | none => []) }).enter c .quarantine
    let m := (m.event 0x201 c).raiseInt 0 1
    let m := if sealed_ then m.openWindow else m
    m.retryQueue

end Sys2Proof.Machine
end

