-- ==== Sys2Proof/Machine/RouteOps.lean ====
section
/-! DEFINITION. Sys2Proof/Machine/RouteOps.lean: the steps of a computation as functions of its snapshot: weights, SPF, block
distances, next-hop sets, alternates, sealed passes, plates; and path counts, trees, loads (chapter "Computing routes"). -/

namespace Sys2Proof.Machine

/-! ## Effective weights (R130-R133) -/

/-- What a computation reads. -/
structure RouteIn where
  ls     : Links
  adj    : SMap Nat
  lex    : Bool
  lfa    : Bool
  raised : List Nat := []      -- entries on zero-weight cycles: weight 1 (R131)
  sw     : List Nat            -- switches of the snapshot, rising

/-- The semiring of the metric (R132). -/
def RouteIn.sem (r : RouteIn) : Nat := if r.lex then 7 else 1

/-- WEIGHT with the rebalancing adjustment. [DEDUCED, log 21; DEDUCED, log 85] -/
def adjusted (lex : Bool) (w a : Nat) : Nat :=
  if lex then w / 256 * 256 + (if a = 0 then w % 256 else min (w % 256 + a) (max 0xFE (w % 256))) else min (w + a) 0xFFFF

/-- The effective weight of an entry, in the main passes (pass 0) or in the sealed pass of a context (R145). -/
def RouteIn.ew (r : RouteIn) (pass i : Nat) : Nat :=
  let l := linkOf r.ls i
  if !linkUp l ∨ l.weight = 0xFFFF ∨ l.sealCtx ≠ pass then 0xFFFF
  else if r.raised.contains i then 1
  else adjusted r.lex l.weight (mapGetD r.adj i 0)

/-- The ports of a switch that face switches over entries with a weight: port, peer and weight. -/
def RouteIn.out (r : RouteIn) (pass s : Nat) : List (Nat × Nat × Nat) :=
  (upPorts r.ls s).filterMap (fun p =>
    if p.2.peerKind = .switch ∧ r.ew pass (s * 128 + p.1) ≠ 0xFFFF
    then some (p.1, p.2.peerNid % 8192, r.ew pass (s * 128 + p.1)) else none)

/-- The UP switch-to-switch entries of a switch of effective weight 0, sealed or not: port and peer. -/
def RouteIn.zeros (r : RouteIn) (s : Nat) : List (Nat × Nat) :=
  (upPorts r.ls s).filterMap (fun p =>
    if p.2.peerKind = .switch ∧ p.2.weight ≠ 0xFFFF ∧ adjusted r.lex p.2.weight (mapGetD r.adj (s * 128 + p.1) 0) = 0
    then some (p.1, p.2.peerNid % 8192) else none)

/-- The entries of weight 0 on cycles of such entries: n reaches s over entries of weight 0 (R131). -/
def RouteIn.zeroCycles (r : RouteIn) : List Nat :=
  let zero := r.sw.map (fun s => (s, r.zeros s))
  let next := fun (s : Nat) => (mapGetD zero s []).map (fun o => o.2)
  let rec reach : Nat → List Nat → List Nat → List Nat
    | 0, _, seen => seen
    | fuel + 1, front, seen =>
      let new := sortNat ((front.flatMap next).filter (fun n => !seen.contains n))
      if new.isEmpty then seen else reach fuel new (seen ++ new)
  zero.flatMap (fun z => z.2.filterMap (fun o =>
    if (reach allHops [o.2] [o.2]).contains z.1 then some (z.1 * 128 + o.1) else none))

/-! ## SPF (R134) -/

/-- A matrix over the switches of the snapshot, by their places in its list. -/
abbrev Mat := List (List Nat)
def matAt (m : Mat) (d i j : Nat) : Nat := (m.getD i []).getD j d
def matMk (n : Nat) (f : Nat → Nat → Nat) : Mat := (upTo n).map (fun i => (upTo n).map (fun j => f i j))

/-- ⊕ of ⊗ over the places of a pivot block, added to an element. -/
def macOver (sem : Nat) (blk : List Nat) (c : Nat) (a b : Nat → Nat) : Nat :=
  blk.foldl (fun acc k => semPlus sem acc (semTimes sem (a k) (b k))) c

/-- One pivot of the blocked schedule: CLOSE of the diagonal block, both panels, then the interior. -/
def pivotStep (sem n dflt : Nat) (m : Mat) (blk : List Nat) : Mat :=
  let in_ := fun (i : Nat) => blk.contains i
  let g := fun (m : Mat) i j => matAt m dflt i j
  let closed := blk.foldl (fun (m : Mat) k => matMk n (fun i j =>
    if in_ i && in_ j then semPlus sem (g m i j) (semTimes sem (g m i k) (g m k j)) else g m i j)) m
  let panels := matMk n (fun i j =>
    if in_ i && !in_ j then macOver sem blk (g closed i j) (fun k => g closed i k) (fun k => g closed k j)
    else if !in_ i && in_ j then macOver sem blk (g closed i j) (fun k => g closed i k) (fun k => g closed k j)
    else g closed i j)
  matMk n (fun i j =>
    if !in_ i && !in_ j then macOver sem blk (g panels i j) (fun k => g panels i k) (fun k => g panels k j) else g panels i j)

/-- The pivot blocks: places of switches by switch number / 64, rising. -/
def pivotBlocks (sw : List Nat) : List (List Nat) :=
  (sortNat (sw.map (fun s => s / 64))).map (fun b => (upTo sw.length).filter (fun i => sw.getD i 0 / 64 == b))

/-- The blocked Floyd–Warshall schedule. -/
def blockedFw (sem dflt : Nat) (sw : List Nat) (w : Mat) : Mat := (pivotBlocks sw).foldl (pivotStep sem sw.length dflt) w

/-- The switch adjacency W. -/
def RouteIn.adjacency (r : RouteIn) (pass : Nat) : Mat :=
  let outs := r.sw.map (r.out pass)
  matMk r.sw.length (fun i j =>
    if i = j then 0
    else ((outs.getD i []).filter (fun o => o.2.1 == r.sw.getD j 0)).foldl (fun a o => min a o.2.2) 0xFFFF)

/-- The switch distances D: by a switch and its distances to the switches in order. -/
def RouteIn.dist (r : RouteIn) (pass : Nat) : SMap (SMap Nat) :=
  let d := blockedFw r.sem 0xFFFF r.sw (r.adjacency pass)
  r.sw.zipIdx.map (fun s => (s.1, r.sw.zipIdx.map (fun t => (t.1, matAt d 0xFFFF s.2 t.2))))

def distAt (d : SMap (SMap Nat)) (x y : Nat) : Nat := mapGetD (mapGetD d x []) y (if x = y then 0 else 0xFFFF)

/-- Ordered pairs joined by a path whose distance overflows (R133). -/
def RouteIn.overflows (r : RouteIn) (pass : Nat) (d : SMap (SMap Nat)) : Nat :=
  if !r.lex then 0
  else
    let ok := fun (l : LinkEntry) => decide (l.sealCtx = pass) && decide (l.weight ≠ 0xFFFF)
    r.sw.foldl (fun a x =>
      let h := hopsFrom r.ls ok allHops x
      a + (r.sw.filter (fun y => x != y && (mapGet h y).isSome && distAt d x y == 0xFFFF)).length) 0

/-! ## Blocks, exceptions, block distances (R135-R137) -/

/-- A pass: its distances, the homing of each block, and the exception endpoints with their leaf sets. -/
structure Pass where
  pass   : Nat
  sem    : Nat
  d      : SMap (SMap Nat)
  homing : SMap (List Nat)
  excs   : SMap (List Nat)

/-- A pass over endpoints with their leaf sets; `alone` endpoints are exception endpoints whatever their leaf set. -/
def RouteIn.mkPass (r : RouteIn) (pass : Nat) (eps : SMap (List Nat)) (alone : Nat → Bool) : Pass :=
  let inBlocks := eps.filter (fun e => !alone e.1)
  let blocks := sortNat (inBlocks.map (fun e => blockOf e.1))
  let homing := blocks.map (fun b => (b, homingOf (inBlocks.filter (fun e => blockOf e.1 == b))))
  { pass := pass, sem := r.sem, d := r.dist pass, homing := homing
    excs := eps.filter (fun e => alone e.1 || mapGetD homing (blockOf e.1) [] != e.2) }

/-- DB: the least distance from a switch to a set, a row of D times the column that holds 0 at the set (R136). [DEDUCED, log 85] -/
def Pass.toSet (p : Pass) (s : Nat) (set_ : List Nat) : Nat :=
  set_.foldl (fun a h => min a (semTimes p.sem (distAt p.d s h) 0)) 0xFFFF

/-- The next-hop set of a switch toward a set (R138). -/
def RouteIn.nh (r : RouteIn) (p : Pass) (s : Nat) (set_ : List Nat) : Ports :=
  let db := p.toSet s set_
  if db = 0xFFFF ∨ set_.contains s then 0
  else portMask (((r.out p.pass s).filter (fun o => semTimes r.sem o.2.2 (p.toSet o.2.1 set_) == db)).map (fun o => o.1))

/-- The alternate set of a switch toward a block's homing (R142). -/
def RouteIn.alt (r : RouteIn) (p : Pass) (s : Nat) (set_ : List Nat) (nh : Ports) : Ports :=
  if !r.lfa then 0
  else portMask (((r.out p.pass s).filter (fun o => !portIn nh o.1 &&
    decide (p.toSet o.2.1 set_ < semTimes r.sem (distAt p.d o.2.1 s) (p.toSet s set_)))).map (fun o => o.1))

/-! ## Entries of a switch -/

/-- A block or exception entry: local, unreachable, or a next-hop set. -/
inductive Hop where
  | local_ (ports : Ports)
  | unreach
  | to_ (nh : Ports)
  deriving DecidableEq, Repr

/-- The entries of a switch while its plate is formed: block entries, alternates, and exception entries by NID. -/
structure Entries where
  blocks : List Hop
  alts   : List Ports
  excs   : SMap Hop
  deriving DecidableEq, Repr

/-- The UP ports of a switch to an endpoint. -/
def portsTo (ls : Links) (s e : Nat) : Ports :=
  portMask (((upPorts ls s).filter (fun p => decide (p.2.peerKind = .endpoint) && p.2.peerNid == e)).map (fun p => p.1))

/-- Block and alternate entry of a block at a switch (R139, R142). -/
def RouteIn.blockEntry (r : RouteIn) (p : Pass) (s b : Nat) : Hop × Ports :=
  let h := mapGetD p.homing b []
  if h.contains s then (.local_ 0, 0)
  else
    let nh := r.nh p s h
    if p.toSet s h = 0xFFFF then (.unreach, 0) else (.to_ nh, r.alt p s h nh)

/-- An exception endpoint's entry at a switch, where it has one (R140). -/
def RouteIn.excEntry (r : RouteIn) (p : Pass) (s e : Nat) (leaf : List Nat) (block : Option Hop) : Option Hop :=
  let h := mapGetD p.homing (blockOf e) []
  if leaf.contains s then
    (if h.contains s ∧ block.isSome then none else some (.local_ (portsTo r.ls s e)))
  else
    let nh := r.nh p s leaf
    let x : Hop := if p.toSet s leaf = 0xFFFF then .unreach else .to_ nh
    if block = some x then none else some x

/-- The entries of a switch in the main pass. -/
def RouteIn.entries (r : RouteIn) (p : Pass) (s : Nat) : Entries :=
  let bs := (upTo 512).map (r.blockEntry p s)
  { blocks := bs.map (fun x => x.1), alts := bs.map (fun x => x.2)
    excs := p.excs.filterMap (fun e => (r.excEntry p s e.1 e.2 ((bs.map (fun x => x.1))[blockOf e.1]?)).map (fun h => (e.1, h))) }

/-! ## Sealed passes (R145, R146) -/

/-- The switches that a context's sealed links join. -/
def sealedSwitches (ls : Links) (c : Nat) : List Nat :=
  sortNat ((ls.filter (fun e => e.2.sealCtx == c)).flatMap (fun e =>
    (e.1 / 128) :: (match farIndex e.2 with | some j => [j / 128] | none => [])))

/-- Applies a context's sealed pass to a switch's entries. `whole` are the blocks whose present endpoints all belong to
the context, `members` its present endpoints. -/
def RouteIn.applySealed (r : RouteIn) (p : Pass) (inside : Bool) (s : Nat) (whole members : List Nat) (x : Entries) : Entries :=
  let mine := members
  let excs := x.excs.filter (fun e => !mine.contains e.1)
  if !inside then
    { blocks := x.blocks.zipIdx.map (fun h => if whole.contains h.2 then Hop.unreach else h.1)
      alts := x.alts.zipIdx.map (fun a => if whole.contains a.2 then 0 else a.1)
      excs := (mine.filter (fun e => !whole.contains (blockOf e))).foldl (fun m e => mapSet m e Hop.unreach) excs }
  else
    let bs := whole.map (fun b => (b, r.blockEntry p s b))
    { blocks := x.blocks.zipIdx.map (fun h => match bs.find? (fun b => b.1 == h.2) with | some b => b.2.1 | none => h.1)
      alts := x.alts.zipIdx.map (fun a => match bs.find? (fun b => b.1 == a.2) with | some b => b.2.2 | none => a.1)
      excs := p.excs.foldl (fun m e =>
        let block := if whole.contains (blockOf e.1) then (bs.find? (fun b => b.1 == blockOf e.1)).map (fun b => b.2.1) else none
        match r.excEntry p s e.1 e.2 block with
        | some h => mapSet m e.1 h
        | none => m) excs }

/-! ## Plates (R139-R144, R176-R180) -/

/-- An entry needs cover: it holds a next-hop set (R141, R143). [DEDUCED, log 85] -/
def Hop.needs : Hop → Bool
  | .to_ _ => true
  | _ => false

/-- The next-hop set of an entry. -/
def Hop.ports : Hop → Ports
  | .to_ nh => nh
  | _ => 0

/-- A bitmap with two ports or more. -/
def twoPorts (m : Ports) : Bool := decide (2 ≤ (portsOf m).length)

/-- The port set a switch uses for an exception endpoint: its exception entry, else its block entry. -/
def Entries.setFor (x : Entries) (e : Nat) : Ports :=
  match mapGet x.excs e with
  | some h => h.ports
  | none => (x.blocks.getD (blockOf e) .unreach).ports

/-- The ports of a switch that have an entry, in any state. -/
def portsAt (ls : Links) (s : Nat) : List (Nat × LinkEntry) := (ls.filter (fun e => e.1 / 128 == s)).map (fun e => (e.1 % 128, e.2))

/-- Ports of a switch toward peers with an UP link toward it in the set that they use for a destination (R144). -/
def withdrawTargets (ls : Links) (all : SMap Entries) (s : Nat) (setOf : Entries → Ports) : Ports :=
  portMask (((portsAt ls s).filter (fun q =>
    decide (q.2.peerKind = .switch) &&
    (match mapGet all (q.2.peerNid % 8192) with
     | none => false
     | some u => (upPorts ls (q.2.peerNid % 8192)).any (fun p => decide (p.2.peerKind = .switch) && p.2.peerNid % 8192 == s &&
         portIn (setOf u) p.1)))).map (fun q => q.1))

/-- The withdraw entries of a switch. -/
def withdrawsOf (ls : Links) (all : SMap Entries) (s : Nat) (x : Entries) : List Nat :=
  let blocks := (upTo 512).filterMap (fun b =>
    let h := x.blocks.getD b .unreach
    if h.needs = true ∧ twoPorts h.ports = false ∧ x.alts.getD b 0 = 0 then
      let t := withdrawTargets ls all s (fun u => (u.blocks.getD b .unreach).ports)
      if t = 0 then none else some (b * 2 ^ 237 + t.toNat)
    else none)
  let excs := x.excs.filterMap (fun e =>
    if e.2.needs = true ∧ twoPorts e.2.ports = false then
      let t := withdrawTargets ls all s (fun u => u.setFor e.1)
      if t = 0 then none else some (2 ^ 255 + e.1 * 2 ^ 237 + t.toNat)
    else none)
  blocks ++ excs

/-- The local entries of a switch (R139, R177). -/
def localsOf (ls : Links) (s : Nat) (x : Entries) : List Nat :=
  let eps := sortNat (((upPorts ls s).filter (fun p => decide (p.2.peerKind = .endpoint))).map (fun p => p.2.peerNid))
  (eps.filter (fun e => match x.blocks[blockOf e]? with | some (.local_ _) => true | _ => false)).flatMap (fun e =>
    let m := (portsTo ls s e).toNat
    [0, 1].filterMap (fun half =>
      let ps := m / 2 ^ (64 * half) % 2 ^ 64
      if ps = 0 then none else some (e * 2 ^ 110 + 2 ^ 109 + half * 2 ^ 64 + ps)))

/-- An exception entry (R179). -/
def excWord (e : Nat) (h : Hop) : Nat :=
  e * 2 ^ 238 + (match h with
    | .local_ p => 2 ^ 237 + p.toNat
    | .unreach => 2 ^ 236
    | .to_ p => p.toNat)

/-- A tree's entry at a switch (R178). -/
def treeWord (t : Tree) (a : TreeAt) : Nat :=
  t.ctx * 2 ^ 244 + t.num * 2 ^ 240 + t.gen * 2 ^ 232 + 2 ^ 231 +
  (match a.parent with | none => 2 ^ 230 | some p => p * 2 ^ 223) + a.children.toNat

/-- The plate of a switch, its digest not yet in its header. -/
def plateOf (ls : Links) (all : SMap Entries) (trees : List Tree) (imp seed s : Nat) (x : Entries) : Plate :=
  let locals := localsOf ls s x
  let ts := trees.filterMap (fun t => (mapGet t.at_ s).map (treeWord t))
  let wdrs := withdrawsOf ls all s x
  let localBlocks := (upTo 512).filter (fun b => match x.blocks.getD b .unreach with | .local_ _ => true | _ => false)
  let unreach := (upTo 512).filter (fun b => match x.blocks.getD b .unreach with | .unreach => true | _ => false)
  { header := mkHeader localBlocks unreach seed imp (0x20000 + s) x.excs.length wdrs.length locals.length ts.length
      (portMask ((upPorts ls s).map (fun p => p.1)))
    blocks := trimZeros (x.blocks.map (fun h => h.ports.toNat)), alts := trimZeros (x.alts.map (fun a => a.toNat))
    locals := locals, trees := ts, excs := x.excs.map (fun e => excWord e.1 e.2), wdrs := wdrs }

/-- NH_EMPTY, LFA_NEED, LFA_COVER and the exception entries of a switch (R139, R143). -/
def statsOf (x : Entries) : List Nat :=
  let empty := (x.blocks.filter (fun h => decide (h = .unreach))).length
  let need := (upTo 512).filter (fun b => (x.blocks.getD b .unreach).needs)
  let cover := need.filter (fun b => twoPorts (x.blocks.getD b .unreach).ports || decide (x.alts.getD b 0 ≠ 0))
  [empty, need.length, cover.length, x.excs.length]

/-! ## A whole computation: steps 1 to 6 -/

/-- What steps 1 to 6 give. -/
structure Routed where
  main    : Pass
  entries : SMap Entries
  zeroCyc : List Nat
  lexOvf  : Nat
  excs    : Nat                 -- exception endpoints of the whole fabric (R137)
  split   : List Nat            -- contexts whose sealed pass leaves leaf switches mutually unreachable (R146)

/-- Steps 1 to 6 over a snapshot. `member` gives the context of an endpoint. -/
def routeAll (r0 : RouteIn) (member : Nat → Nat) : Routed :=
  let raised := r0.zeroCycles
  let r := { r0 with raised := raised }
  let eps := (presentEps r.ls).map (fun e => (e, leafSet r.ls e))
  let p := r.mkPass 0 eps (fun _ => false)
  let main := r.sw.map (fun s => (s, r.entries p s))
  let owners := sortNat ((r.ls.filter (fun e => e.2.sealCtx != 0)).map (fun e => e.2.sealCtx))
  let passes := owners.map (fun c =>
    let mine := eps.filter (fun e => member e.1 == c)
    let blocks := sortNat (mine.map (fun e => blockOf e.1))
    let whole := blocks.filter (fun b => (eps.filter (fun e => blockOf e.1 == b)).all (fun e => member e.1 == c))
    (c, sealedSwitches r.ls c, whole, mine.map (fun e => e.1), r.mkPass c mine (fun e => !whole.contains (blockOf e))))
  let final := main.map (fun e => (e.1, passes.foldl (fun x q =>
    r.applySealed q.2.2.2.2 (q.2.1.contains e.1) e.1 q.2.2.1 q.2.2.2.1 x) e.2))
  let split := (passes.filter (fun q =>
    let leaves := sortNat (q.2.2.2.1.flatMap (leafSet r.ls))
    leaves.any (fun a => leaves.any (fun b => distAt q.2.2.2.2.d a b == 0xFFFF && a != b)))).map (fun q => q.1)
  { main := p, entries := final, zeroCyc := raised, excs := p.excs.length
    lexOvf := passes.foldl (fun a q => a + r.overflows q.1 q.2.2.2.2.d) (r.overflows 0 p.d), split := split }

/-! ## Path counts (R151, R152) -/

/-- The greatest and the least path count of a switch over its blocks that need cover, which `needs` tells: pairs (weight, count)
added along MINPLUS_CNT; each path is counted once. -/
def RouteIn.pathCounts (r : RouteIn) (homing : SMap (List Nat)) (needs : Nat → Nat → Bool) : SMap (Nat × Nat) :=
  let n := r.sw.length
  let w := matMk n (fun i j =>
    if i = j then 0xFFFF * 65536
    else
      let os := (r.out 0 (r.sw.getD i 0)).filter (fun o => o.2.1 == r.sw.getD j 0)
      let least := os.foldl (fun a o => min a o.2.2) 0xFFFF
      if least = 0xFFFF then 0xFFFF * 65536 else least * 65536 + (os.filter (fun o => o.2.2 == least)).length)
  let g := fun (m : Mat) i j => matAt m (0xFFFF * 65536) i j
  let p := (upTo n).foldl (fun (m : Mat) k => matMk n (fun i j => semPlus 2 (g m i j) (semTimes 2 (g m i k) (g m k j)))) w
  let pc := fun (i : Nat) (hs : List Nat) => (upTo n).foldl (fun a j =>
    if hs.contains (r.sw.getD j 0) then semPlus 2 a (if i = j then 1 else g p i j) else a) (0xFFFF * 65536)
  r.sw.zipIdx.map (fun s =>
    let cs := (homing.filter (fun h => needs s.1 h.1)).map (fun h => pc s.2 h.2 % 65536)
    (s.1, (cs.foldl max 0, match cs with | [] => 0 | c :: rest => rest.foldl min c)))

/-! ## Collective trees (R153) -/

/-- Close(cap) in MAXMIN: Wd (R153). -/
def widest (n : Nat) (cap : Mat) : Mat :=
  (upTo n).foldl (fun (m : Mat) k => matMk n (fun i j => max (matAt m 0 i j) (min (matAt m 0 i k) (matAt m 0 k j)))) cap

/-- The predecessor ARGMAX_ROW chooses for a switch, of those a test admits: the one with the widest path from the root through
it, the lowest among equals; none where no path comes through any. -/
def widestPred (n : Nat) (cap wd : Mat) (root v : Nat) (ok : Nat → Bool) : Option Nat :=
  let b := ((upTo n).filter (fun u => u != v && ok u)).foldl (fun (b : Nat × Nat) u =>
    let w := min (if u = root then 0xFFFF else matAt wd 0 root u) (matAt cap 0 u v)
    if b.2 < w then (u, w) else b) (0, 0)
  if b.2 = 0 then none else some b.1

/-- Following predecessors from a switch comes to the root. -/
def leadsTo (pred : SMap Nat) (root : Nat) : Nat → Nat → Bool
  | 0, v => v == root
  | fuel + 1, v => v == root || (match mapGet pred v with | some u => leadsTo pred root fuel u | none => false)

/-- Switches whose predecessors lead round in a circle of equal widths each get one that leads to the root. -/
def breakRounds (n : Nat) (cap wd : Mat) (root : Nat) : Nat → SMap Nat → SMap Nat
  | 0, pred => pred
  | fuel + 1, pred =>
    let good := fun (v : Nat) => leadsTo pred root n v
    match (upTo n).find? (fun v => (mapGet pred v).isSome && !good v &&
      ((widestPred n cap wd root v good).any (fun u =>
        min (if u = root then 0xFFFF else matAt wd 0 root u) (matAt cap 0 u v) == matAt wd 0 root v))) with
    | none => pred
    | some v => match widestPred n cap wd root v good with
      | some u => breakRounds n cap wd root fuel (mapSet pred v u)
      | none => pred

/-- The predecessor of every switch on widest paths from a root (R153). Where ARGMAX_ROW's choices among equals would lead round
in a circle, the model takes the lowest of those that lead to the root. -/
def widePreds (n : Nat) (cap wd : Mat) (root : Nat) : SMap Nat :=
  let pred := (upTo n).foldl (fun (p : SMap Nat) v =>
    if v = root then p else match widestPred n cap wd root v (fun _ => true) with | some u => mapSet p v u | none => p) []
  breakRounds n cap wd root n pred

/-- The path from the root to a place, along the predecessors. -/
def backPath (pred : SMap Nat) (root : Nat) : Nat → Nat → List Nat → List Nat
  | 0, _, path => path
  | fuel + 1, v, path =>
    if v = root then path
    else match mapGet pred v with
      | none => path
      | some u => backPath pred root fuel u (u :: path)

/-- What WIDE comes to for a context: its trees and WD_STATUS. -/
structure WideOut where
  trees  : List Tree
  status : Nat

/-- WIDE. `capable` says that a switch offers reduction, `room` how many tree entries a switch may still take. -/
def wideFor (ls : Links) (sw : List Nat) (capable : Nat → Bool) (room : Nat → Nat) (c gen req : Nat) (leaves members : List Nat) : WideOut :=
  let n := sw.length
  let place := fun (s : Nat) => (upTo n).find? (fun i => sw.getD i 0 == s)
  let capOf := fun (used : List Nat) => matMk n (fun i j =>
    let s := sw.getD i 0
    let t := sw.getD j 0
    if i = j ∨ !capable s ∨ !capable t then 0
    else (upPorts ls s).foldl (fun a p =>
      if p.2.peerKind = .switch ∧ p.2.peerNid % 8192 = t ∧ !used.contains (s * 128 + p.1) then max a p.2.capacity else a) 0)
  let bestPort := fun (used : List Nat) (s t : Nat) => (upPorts ls s).foldl (fun (b : Option (Nat × Nat)) p =>
    if p.2.peerKind = .switch ∧ p.2.peerNid % 8192 = t ∧ !used.contains (s * 128 + p.1) then
      match b with
      | some x => if x.2 < p.2.capacity then some (p.1, p.2.capacity) else b
      | none => some (p.1, p.2.capacity)
    else b) none
  let step := fun (acc : List Tree × List Nat × Option Nat) (t : Nat) =>
    match acc.2.2 with
    | some _ => acc
    | none =>
      let used := acc.2.1
      let cap := capOf used
      let wd := widest n cap
      let ms := leaves.filterMap place
      let score := fun (r : Nat) => ms.foldl (fun a m => min a (matAt wd 0 r m)) 0xFFFF
      let roots := (upTo n).filter (fun i => capable (sw.getD i 0))
      let root := roots.foldl (fun (b : Nat × Nat) i => if b.2 < score i then (i, score i) else b) (0, 0)
      if root.2 = 0 ∨ ms.isEmpty then
        (acc.1, used, some (if leaves.any (fun m => !capable m) then 2 else 4))
      else
        let pred := widePreds n cap wd root.1
        let pairs := ms.flatMap (fun m => let p := backPath pred root.1 n m [m]; p.zip (p.drop 1))
        let kids := fun (i : Nat) => sortNat ((pairs.filter (fun e => e.1 == i)).map (fun e => e.2))
        let nodes := sortNat (root.1 :: pairs.flatMap (fun e => [e.1, e.2]))
        let held := fun (s : Nat) => (acc.1.filter (fun k => (mapGet k.at_ s).isSome)).length
        if nodes.any (fun i => decide (room (sw.getD i 0) < held (sw.getD i 0) + 1)) then (acc.1, used, some 3)
        else
          let links := pairs.flatMap (fun e =>
            let s := sw.getD e.1 0
            let t := sw.getD e.2 0
            match bestPort used s t with
            | none => []
            | some p => (s * 128 + p.1) :: (match farIndex (linkOf ls (s * 128 + p.1)) with | some j => [j] | none => []))
          let at_ := nodes.map (fun i =>
            let s := sw.getD i 0
            let parent := (pairs.find? (fun e => e.2 == i)).bind (fun e =>
              (bestPort used (sw.getD e.1 0) s).map (fun p => (linkOf ls (sw.getD e.1 0 * 128 + p.1)).peerPort))
            let down := (kids i).filterMap (fun k => (bestPort used s (sw.getD k 0)).map (fun p => p.1))
            let eps := ((upPorts ls s).filter (fun p => decide (p.2.peerKind = .endpoint) && members.contains p.2.peerNid)).map (fun p => p.1)
            (s, ({ parent := if i = root.1 then none else parent, children := portMask (down ++ eps) } : TreeAt)))
          let at_ := at_.foldl (fun m e => mapSet m e.1 e.2) []
          (acc.1 ++ [{ ctx := c, num := t, gen := gen, cap := root.2, links := sortNat links, at_ := at_ }], used ++ links, none)
  let res := (upTo req).foldl step ([], [], none)
  { trees := res.1, status := res.2.2.getD 0 }

/-! ## Loads (R156, R157) -/

/-- The arithmetic of LOAD: how a rate in Mb/s is held, the equal share of n ports in a rate, the rate that terms at a place come
to, and the load of a link of a capacity that carries terms. -/
structure LoadArith where
  hold  : Nat → Nat
  share : Nat → Nat → Nat
  keep  : Nat → List Nat → Nat
  load  : Nat → List Nat → Nat → Nat

def natSum (l : List Nat) : Nat := l.foldl (fun a v => a + v) 0

/-- IMAC: rates in I16 units of 1 Gb/s, shares in Q1.14, results rounded down. -/
def imacLoads : LoadArith :=
  { hold := fun t => min (t / 1000) 32767
    share := fun x n => if n = 0 then 0 else x * (16384 / n) / 16384
    keep := fun _ l => min (natSum l) 32767
    load := fun _ l cap => if cap = 0 then (if natSum l = 0 then 0 else 0xFFFF) else min (65535 * natSum l / cap) 0xFFFF }

/-- FMAC: rates and shares in BF16, in Mb/s, and sums in binary32, whose order is open at each place (R102, R124). [DESIGN CHOICE, log 96] -/
def fmacLoads (key free : Nat) : LoadArith :=
  let sum := fun (at_ : Nat) (l : List Nat) => fpSumOpen key (free + 2 ^ 64 * (1 + at_)) (l.length + 1) l
  { hold := fun t => bfNarrow (fpPack false t 0)
    share := fun x n => if n = 0 then 0 else bfMul x (bfNarrow (fpPack false (2 ^ 40 / n * 2 + (if 2 ^ 40 % n = 0 then 0 else 1)) (-41)))
    keep := fun at_ l => bfNarrow (sum at_ l)
    load := fun at_ l cap =>
      let v := sum at_ l
      let f := fpParts v
      if f.mag = 0 ∧ !fpIsInf v then 0
      else if fpIsInf v ∨ cap = 0 then 0xFFFF
      else min (if 0 ≤ f.exp then 65535 * f.mag * 2 ^ f.exp.toNat / (cap * 1000) else 65535 * f.mag / (cap * 1000 * 2 ^ (-f.exp).toNat)) 0xFFFF }

/-- LOAD for one destination block: what flows on each link. Rates enter as `inject` and go on along next-hop sets until none
changes, at most 254 rounds. -/
def loadBlock (k : LoadArith) (b : Nat) (sw : List Nat) (nh : Nat → Ports) (peer : Nat → Nat → Nat) (home : Nat → Bool)
    (inject : Nat → List Nat) : SMap Nat :=
  let flow := fun (x : SMap Nat) => sw.flatMap (fun u =>
    if home u then [] else (portsOf (nh u)).map (fun p => (u * 128 + p, k.share (mapGetD x u 0) (portsOf (nh u)).length)))
  let rate := fun (f : SMap Nat) => sw.map (fun s =>
    (s, k.keep (b * 8192 + s) (inject s ++ (f.filter (fun e => peer (e.1 / 128) (e.1 % 128) == s)).map (fun e => e.2))))
  let rec rounds : Nat → SMap Nat → SMap Nat
    | 0, x => x
    | fuel + 1, x => if rate (flow x) = x then x else rounds fuel (rate (flow x))
  flow (rounds 254 (rate []))

/-- LOAD of every UP switch-to-switch link, by link index. `t` is the traffic in Mb/s from block a to block b. -/
def loadsOf (k : LoadArith) (ls : Links) (sw : List Nat) (homing : SMap (List Nat)) (nh : Nat → Nat → Ports) (t : Nat → Nat → Nat) : SMap Nat :=
  let peer := fun (s p : Nat) => (linkOf ls (s * 128 + p)).peerNid % 8192
  let perBlock := (homing.filter (fun h => !h.2.isEmpty)).map (fun h =>
    loadBlock k h.1 sw (fun u => nh u h.1) peer (fun u => h.2.contains u)
      (fun s => (homing.filter (fun g => g.2.contains s)).map (fun g => k.share (k.hold (t g.1 h.1)) g.2.length)))
  (ls.filter (fun e => linkUp e.2 && decide (e.2.peerKind = .switch))).map (fun e =>
    (e.1, k.load (2 ^ 32 + e.1) (perBlock.flatMap (fun b => (b.filter (fun x => x.1 == e.1)).map (fun x => x.2))) e.2.capacity))

/-! ## Where the results of steps 2 and 3 are kept (R127, R134, R136) -/

/-- The band of a tile row (or column) where n of them are spread over `parts` bands, the larger bands first, and its place in
the band. -/
def bandOf (n parts i : Nat) : Nat × Nat :=
  let q := n / parts
  let big := n % parts
  if i < big * (q + 1) then (i / (q + 1), i % (q + 1)) else (big + (i - big * (q + 1)) / q, (i - big * (q + 1)) % q)

/-- Tile columns of a band. -/
def bandWidth (n parts band : Nat) : Nat := n / parts + (if band < n % parts then 1 else 0)

/-- The floor of the square root of the number of enabled cells. -/
def gridRows (cells : Nat) : Nat := (upTo 9).foldl (fun a k => if k * k ≤ cells then k else a) 0

/-- Where tile (I, J) of D lies: the place of its cell among the enabled cells, and its offset. A cell keeps its tiles one after
another from the start of context 0's SRAM, row by row. [DESIGN CHOICE, log 96] -/
def distPlace (n cells I J : Nat) : Nat × Nat :=
  let r := gridRows cells
  let c := cells / r
  let row := bandOf n r I
  let col := bandOf n c J
  (row.1 * c + col.1, 8192 * (row.2 * bandWidth n c col.1 + col.2))

/-- The offset of DB in context 0's DRAM: the stacks hold context 0 without a quota, and no rule places DB. [DESIGN CHOICE, log 96] -/
def dbBase : Nat := 2 ^ 34

/-- The tiles of D, row by row, absent switches as 0xFFFF with 0 on the diagonal, and those of DB: 512 blocks, then the
exception endpoints in NID order. -/
def Pass.dTile (p : Pass) (I J : Nat) : List Byte :=
  tileToBytes (tileOf 0 (fun i j => distAt p.d (64 * I + i) (64 * J + j)))
def Pass.dbTile (p : Pass) (I J : Nat) : List Byte :=
  tileToBytes (tileOf 0 (fun i j =>
    let s := 64 * I + i
    let x := 64 * J + j
    if (mapGet p.d s).isNone then 0xFFFF
    else if x < 512 then p.toSet s (mapGetD p.homing x [])
    else match p.excs[x - 512]? with
      | some e => p.toSet s e.2
      | none => 0xFFFF))

/-- D is kept in the cells' SRAM and DB in the stacks (Table: Steps of a computation). -/
def Manager.storeDist (m : Manager) (p : Pass) : Manager :=
  let n := match p.d.getLast? with
    | some e => e.1 / 64 + 1
    | none => 0
  let cells := m.eng.logicals
  let cols := 8 + (p.excs.length + 63) / 64
  let at_ := fun (I J : Nat) =>
    let w := distPlace n cells.length I J
    ((cells[w.1]?).bind m.eng.phys).map (fun ph => sramAddr ph 0 w.2)
  let put := fun (I : Nat) (mem : List Host.Cell) (J : Nat) =>
    match at_ I J with
    | some a => memWriteN mem a (p.dTile I J)
    | none => mem
  let m := if cells.isEmpty then m else
    m.onEng (fun e => { e with mem := (upTo n).foldl (fun mem I => (upTo n).foldl (put I) mem) e.mem })
  (upTo n).foldl (fun m I => (upTo cols).foldl (fun m J =>
    m.stackWrite (dramAddr 0 (dbBase + 8192 * (I * cols + J))) (p.dbTile I J)) m) m

end Sys2Proof.Machine
end

