-- ==== Sys2Proof/Machine/RecoverOps.lean ====
section
/-! DEFINITION. Sys2Proof/Machine/RecoverOps.lean: the manager's shared operations of recovery: states of links, member
loss, isolation, and the loss of authority (chapters "Faults, hangs and recovery" and "Plates, impressions and
installation"). -/

namespace Sys2Proof.Machine

/-! ## Agents and links -/

/-- A link's entry and, for a link between switches, its peer's entry. -/
def bothEnds (ls : Links) (i : Nat) : List Nat :=
  i :: (match farIndex (linkOf ls i) with | some j => [j] | none => [])

/-- An entry takes a state: CHANGE_TIME is stamped where it changes (R245). -/
def Manager.putState (m : Manager) (i : Nat) (st : LinkSt) : Manager :=
  let l := linkOf m.fab.links i
  if l.st = st then m
  else { m with fab := { m.fab with links := setLink m.fab.links i { l with st := st, changeTime := m.dev.time } } }

/-- Both entries of a link take a state. -/
def Manager.putBoth (m : Manager) (i : Nat) (st : LinkSt) : Manager := (bothEnds m.fab.links i).foldl (fun m j => m.putState j st) m

/-- The entries of a switch and of its peers' ports facing it. -/
def entriesOf (ls : Links) (s : Nat) : List Nat :=
  sortNat ((ls.filter (fun e => e.1 / 128 == s || (decide (e.2.peerKind = .switch) && e.2.peerNid % 8192 == s))).map (fun e => e.1))

/-! ## Member loss (R257, R258) -/

/-- The context's member-loss policy is applied to a loss, where the context is CARVING once it is ACTIVE; MEMBER_LOST is multicast
where the manager raised it, and the members' acknowledgements are awaited. A DRAINING context is purged under KILL_ALL alone (R214,
R227, R258). -/
def Manager.memberLoss (m : Manager) (e cause resets time : Nat) (raised : Bool) : Manager :=
  let m := m.setNode e { m.node e with lastCause := cause }
  let c := m.epCtx e
  if c = 0 then m
  else
    let x := m.ctx c
    let first := !(x.lossDone.any (fun l => l.1 == x.gen))
    let m := m.event 0x202 c
    let m := if raised then m.emit { dst := nidAll, assoc := 0xF000 + c, ctx := c, gen := x.gen,
                                     msg := .memberLost e cause c x.gen resets time } else m
    let m := { m with rcv := { m.rcv with losses := m.rcv.losses ++ [({ nid := e, cause := cause, ctx := c, gen := x.gen
                                                                        resets := resets, time := time, awaits := x.eps } : LossWait)] } }
    if x.st ≠ .active ∧ x.st ≠ .draining ∧ (x.st ≠ .carving ∨ x.waiting) then m
    else
      let m := m.setCtx c { x with lossDone := if x.lossDone.contains (x.gen, e) then x.lossDone else x.lossDone ++ [(x.gen, e)] }
      let m := if first then m.bump Obj.FR_LOSSES else m
      let ends := decide (x.loss = 0) || (decide (x.st ≠ .draining) && (cause == 4 || cause == 5))
      if ends then (if x.st = .carving then m.setCtx c { m.ctx c with doomed := true } else m.purgeStart c)
      else
        let r := x.rejoin.getD {}
        m.setCtx c { m.ctx c with rejoin := some { r with
          lost := insNat r.lost e, ready := r.ready.filter (fun n => n != e), keys := []
          info := mapSet r.info e (cause, resets, time) } }

/-- Endpoints that were present and are so no longer: members among them meet member loss with a cause. -/
def Manager.lostPresence (m : Manager) (before : List Nat) (cause : Nat) : Manager :=
  (before.filter (fun e => !present m.fab.links e)).foldl (fun m e => m.memberLoss e cause 0 m.dev.time true) m

/-! ## Isolation (R202) -/

/-- The install status of a switch. -/
def Manager.swInst (m : Manager) (s : Nat) : SwInst := mapGetD m.inst.sw s {}
def Manager.setSwInst (m : Manager) (s : Nat) (x : SwInst) : Manager := { m with inst := { m.inst with sw := mapSet m.inst.sw s x } }

/-- A switch's install state moves, but that of an isolated one stays EXCLUDED or LOST until it is readmitted (R202). -/
def SwInst.mark (x : SwInst) (st : IsSt) : SwInst := if x.st = .excluded ∨ x.st = .lost then x else { x with st := st }

/-- The impression of a number, as the archive holds it. -/
def Manager.impOf (m : Manager) (n : Nat) : Impression :=
  if m.inst.committed.number = n then m.inst.committed
  else match m.inst.archive.find? (fun a => a.imp.number == n) with
    | some a => a.imp
    | none => { number := n }

/-- The number a switch's agent reports as its committed one, and the plate digest of that impression, of which none is held where
the archive has not the impression (R211). -/
def Manager.swReports (m : Manager) (s n : Nat) : Manager :=
  let x := m.swInst s
  if x.committed = n then m
  else
    let p := mapGet (m.impOf n).plates s
    m.setSwInst s { x with committed := n, hasDigest := p.isSome, digest := (p.map (fun p => p.digest)).getD 0 }

/-- The switch is isolated. -/
def Manager.isolated (m : Manager) (s : Nat) : Bool := decide ((m.swInst s).st = .excluded) || decide ((m.swInst s).st = .lost)

/-- The ports of a peer that face a switch. -/
def portsFacing (ls : Links) (peer s : Nat) : Ports :=
  portMask ((ls.filter (fun e => e.1 / 128 == peer && decide (e.2.peerKind = .switch) && e.2.peerNid % 8192 == s)).map (fun e => e.1 % 128))

/-- ISOLATE to the agent of a peer. -/
def Manager.sendIsolate (m : Manager) (peer s : Nat) : Manager :=
  m.cmdAgent (m.agentOf peer) (.isolate (m.obj Obj.IMP_COMMITTED) (0x20000 + s) (portsFacing m.fab.links peer s))

/-- The entries of a switch that a detour holds ADMIN_DOWN (R263). -/
def Manager.detouredOf (m : Manager) (s : Nat) : List Nat :=
  (entriesOf m.fab.links s).filter (fun i => m.rcv.detoured.any (fun d => d.2.contains i))

/-- Isolates a switch: its links ADMIN_DOWN, ISOLATE to its peers, IS_STATE; endpoints it alone served meet member loss; a snapshot
change (R202, R252). A candidate that carries its plate and is not yet committed is abandoned: an excluded or lost switch has no plate
in an impression (R183, R197). Links that a detour had set ADMIN_DOWN are the isolation's from here on: they wait for IS_READMIT (R264). -/
def Manager.isolate (m : Manager) (s : Nat) (st : IsSt) : Manager :=
  if m.isolated s then m
  else
    let ls := m.fab.links
    let before := presentEps ls
    let had := m.detouredOf s
    let stale := (m.inst.phase == 2 || m.inst.phase == 3) && m.inst.cand.any (fun c => c.only.isEmpty && (mapGet c.imp.plates s).isSome)
    let m := if stale then m.abandon else m
    let mine := (entriesOf ls s).filter (fun i => decide ((linkOf ls i).st ≠ .adminDown) && decide ((linkOf ls i).st ≠ .absent))
    let peers := (sortNat ((ls.filter (fun e => e.1 / 128 == s && decide (e.2.peerKind = .switch))).map (fun e => e.2.peerNid % 8192))).filter m.hasAgent
    let m := mine.foldl (fun m i => m.putState i .adminDown) m
    let m := m.setSwInst s { m.swInst s with st := st, isoLinks := had.foldl insNat mine }
    let m := { m with
      inst := { m.inst with
        isolating := if peers.isEmpty then m.inst.isolating else mapSet m.inst.isolating s { peers := peers, since := m.dev.time } }
      rcv := { m.rcv with detoured := m.rcv.detoured.map (fun (d : Nat × List Nat) => (d.1, d.2.filter (fun i => !had.contains i))) } }
    let m := peers.foldl (fun m p => m.sendIsolate p s) m
    ((m.eventOf 0x109 0 [0x20000 + s]).lostPresence before 5).openWindow

/-- Bytes that a line stores to table memory. A link entry whose STATE or WEIGHT it changes is a snapshot change, WEIGHT clears the
port's adjustment, and an endpoint whose last UP link it takes meets member loss with LINK_LOSS (R160, R252, R257). -/
def Manager.tableStore (m : Manager) (a : Nat) (bs : List Byte) : Manager :=
  let old := m.fab.links
  let m := m.tableWrite a bs
  let moved := m.fab.links.filter (fun e =>
    let new := linkOf m.fab.links e.1
    decide ((linkOf old e.1).st ≠ new.st) || (linkOf old e.1).weight != new.weight)
  if moved.isEmpty then m
  else
    let m := { m with rt := { m.rt with adj := mapFilter m.rt.adj (fun i _ => (linkOf old i).weight == (linkOf m.fab.links i).weight) } }
    m.openWindow.lostPresence (presentEps old) 1

end Sys2Proof.Machine
end

