-- ==== Sys2Proof/Machine/AgentOps.lean ====
section
/-! DEFINITION. Sys2Proof/Machine/AgentOps.lean: the shared operations of an agent: taking a frame, the output stage,
reports, mailboxes, fences, failover mask, node writes and the reset of its node (chapters "The Bamen agent and the node
contract" and "Faults, hangs and recovery"). -/

namespace Sys2Proof.Machine

/-! ## The agents of the fabric -/

/-- An agent as it leaves its reset, on die `die`. -/
def Agent.fresh (die : Nat) : Agent :=
  { dev := { agentPart := true, key := die + 1, log := { pending := 256 } } }

/-- The agent on a die. -/
def State.agent (s : State) (die : Nat) : Agent := mapGetD s.agents die (Agent.fresh die)
def State.setAgent (s : State) (die : Nat) (a : Agent) : State := { s with agents := mapSet s.agents die a }

/-- Objects and events of an agent. -/
def Agent.onDev (a : Agent) (f : Dev → Dev) : Agent := { a with dev := f a.dev }
def Agent.obj (a : Agent) (k : Nat) : Nat := a.dev.obj k
def Agent.setObj (a : Agent) (k v : Nat) : Agent := { a with dev := a.dev.setObj k v }
def Agent.bump (a : Agent) (k : Nat) : Agent := { a with dev := a.dev.bump k }
def Agent.event (a : Agent) (code c : Nat) : Agent := { a with dev := a.dev.event code c }

/-- Kind of the node: 0 switch, 1 endpoint, 2 forwarding endpoint, 0xFF no accepted descriptor. -/
def Agent.kind (a : Agent) : Nat := a.obj Obj.AG_KIND
def Agent.isSwitch (a : Agent) : Bool := a.kind == 0 || a.kind == 2
def Agent.isEndpoint (a : Agent) : Bool := a.kind == 1 || a.kind == 2

/-- The switch NID the agent serves (R37). -/
def Agent.switchNid (a : Agent) : Nat := if a.kind = 2 then a.obj Obj.AG_FWD_NID else a.obj Obj.AG_NID

/-- The highest pair seen (R283). -/
def Agent.pair (a : Agent) : Nat × Nat := (a.obj Obj.AG_CLAIM, a.obj Obj.AG_CLAIM_NID)

/-- The control cores run (R332, R549). -/
def Agent.runs (a : Agent) : Bool := a.restart.isNone

/-- The generation the partition table holds for a context (R326, R420 check 7). -/
def Agent.genOf (a : Agent) (c : Nat) : Option Nat := (mapGet a.ptable c).map (fun e => e.gen)

/-- The MEMBER entry, with its context: an endpoint agent holds at most one. -/
def Agent.member (a : Agent) : Option (Nat × PartEntry) := a.ptable.find? (fun e => e.2.role == 1)

/-! ## Sending -/

/-- The unit of the highest pair (R284), or the one that attested the agent while no claim has been seen. -/
def Agent.home (a : Agent) : Nat := if a.obj Obj.AG_CLAIM = 0 then a.manager else a.obj Obj.AG_CLAIM_NID

/-- Sends to a manager, to a peer's agent, and to a group; where the manager relays, a group frame goes to it under association 1, which
makes the copies (R422). -/
def Agent.sendMgr (a : Agent) (nid : Nat) (m : Msg) : Agent := a.onDev (fun d => d.sendTo nid 1 m)
def Agent.toMgr (a : Agent) (m : Msg) : Agent := a.sendMgr a.home m
def Agent.toPeer (a : Agent) (nid : Nat) (m : Msg) : Agent := a.onDev (fun d => d.sendTo nid 2 m)
def Agent.toGroup (a : Agent) (assoc c gen : Nat) (m : Msg) : Agent :=
  if a.dev.net.relay then a.onDev (fun d => d.send { dst := nidAll, assoc := 1, ctx := c, gen := gen, unicast := some a.home, msg := m })
  else a.onDev (fun d => d.send { dst := nidAll, assoc := assoc, ctx := c, gen := gen, msg := m })

/-- A new report takes the next number and is sent; beyond 1,024 unacknowledged it waits (R244). -/
def Agent.report (a : Agent) (type : Nat) (mk : Nat → Msg) : Agent :=
  let r : Report := { type := type, num := a.rep.next, msg := mk a.rep.next }
  let a := { a with rep := { a.rep with next := (a.rep.next + 1) % 65536 } }
  if a.rep.unacked.length < 1024 ∧ a.rep.waiting.isEmpty then
    ({ a with rep := { a.rep with unacked := a.rep.unacked ++ [r] } }).toMgr r.msg
  else { a with rep := { a.rep with waiting := a.rep.waiting ++ [r] } }

/-- Records that reached EV_FWD_SEV go to the active unit in EVENT frames, once (R497). -/
def Agent.flush (a : Agent) : Agent :=
  let recs := a.dev.log.forward
  let a := a.onDev (fun d => { d with log := { d.log with forward := [] } })
  if a.link.asleep || a.link.held then { a with dev := { a.dev with log := { a.dev.log with forward := recs } } }
  else if a.dev.net.nid = nidNone then a else recs.foldl (fun a r => a.toMgr (.eventRec r.bytes)) a

/-- A meaning that changes one agent. -/
def onAgent (s : State) (die : Nat) (f : Agent → Agent) : Out := .next (s.setAgent die (f (s.agent die)).flush)

/-! ## Taking a frame -/

/-- The highest pair seen after a pair is met (R283); a new claim ends a debug grant (R473). -/
def Agent.see (a : Agent) (c n : Nat) : Agent :=
  if pairHigher c n a.pair.1 a.pair.2 then
    let a := if c ≠ a.pair.1 then ({ a with link := { a.link with grant := none } }).setObj Obj.SC_DEBUG 0 else a
    (a.setObj Obj.AG_CLAIM c).setObj Obj.AG_CLAIM_NID n
  else a

/-- The field island takes frames: the agent is neither in SENTINEL nor held in reset (R516, R519). [DEDUCED, log 81] -/
def Agent.hears (a : Agent) : Bool := !a.link.asleep && !a.link.held

/-- What taking a frame gives: the agent, and whether its firmware acts on the frame now. -/
structure AgentTake where
  ag : Agent
  ok : Bool

/-- A frame arrives: ingress; while the control cores are stopped a WITHDRAW-class frame is held, up to 64, and every
other frame is discarded and counted (R334); a claim it carries raises the highest pair (R283). [DEDUCED, log 81] -/
def Agent.take (a : Agent) (k : FrameKind) (h : Hdr) (m : Option Msg) (offered : Option Nat := none) : AgentTake :=
  if !a.hears then ⟨a, false⟩
  else
  let t := a.dev.ingress k h a.genOf offered
  let a := { a with dev := t.dev }
  if !t.ok then ⟨a, false⟩
  else match a.restart with
    | some r =>
      match m with
      | some m =>
        if k.cls = .withdraw ∧ r.latched.frames.length < 64 then
          ⟨{ a with restart := some { r with latched := { r.latched with frames := r.latched.frames ++ [⟨h, m⟩] } } }, false⟩
        else ⟨a.onDev (fun d => { d with net := { d.net with dropClass := mapUpd d.net.dropClass (frameClassNum k.cls) 0 (satAdd 64 1) } }), false⟩
      | none => ⟨a.onDev (fun d => { d with net := { d.net with dropClass := mapUpd d.net.dropClass (frameClassNum k.cls) 0 (satAdd 64 1) } }), false⟩
    | none =>
      match h.claim with
      | some c => ⟨a.see c h.src, true⟩
      | none => ⟨a, true⟩

/-- The output stage accepts a command frame: its pair is the highest (R283). -/
def Agent.accepts (a : Agent) (h : Hdr) : Bool := h.claim == some a.pair.1 && h.src == a.pair.2

/-- The highest pair as a refusal carries it in [383:128] (R192). -/
def Agent.pairField (a : Agent) : Digest := BitVec.ofNat 256 (a.pair.1 * 2 ^ 192 + a.pair.2 * 2 ^ 174)

/-- What the agent's command frames ask of their headers. -/
def stageCmd : FrameKind := { cls := .stage, claim := true }
def commitCmd : FrameKind := { cls := .claimCommit, claim := true }
def dictCmd : FrameKind := { cls := .dict, claim := true }
def withdrawFrame : FrameKind := { cls := .withdraw, claim := false }

/-! ## Descriptor fields -/

/-- The accepted descriptor's byte fields. -/
def Agent.df (a : Agent) (off n : Nat) : Nat := descField a.node.desc off n
def Agent.cap (a : Agent) (bit : Nat) : Bool := descCap a.node.desc bit

/-- A watch entry and a fence entry's role (R316). -/
def Agent.watchOf (a : Agent) (input : Nat) : Nat := if input < 32 then a.df (0x50 + 4 * input) 4 else 0
def Agent.fenceRole (a : Agent) (k : Nat) : Nat := a.df (0xD0 + 2 * k) 2 % 4
def Agent.fencesOf (a : Agent) (role : Nat) : Nat := bitmapOf ((upTo 8).filter (fun k => a.fenceRole k == role))

/-- Number of a port in the agent's tables: endpoint ports follow at 128. -/
def portNo (ep : Bool) (p : Nat) : Nat := if ep then 128 + p else p

/-- Asserts or releases the fences of a mask (R313). -/
def Agent.assertFences (a : Agent) (mask : Nat) : Agent := a.setObj Obj.WF_FENCE (a.obj Obj.WF_FENCE ||| mask)
def Agent.releaseFences (a : Agent) (mask : Nat) : Agent :=
  a.setObj Obj.WF_FENCE (bitmapOf ((upTo 8).filter (fun k => bitOf (a.obj Obj.WF_FENCE) k && !bitOf mask k)))

/-! ## Node writes -/

/-- Writes go out on the node port, counted (AG_NODE_WRITES). -/
def Agent.write (a : Agent) (ws : List NodeWrite) : Agent :=
  ({ a with node := { a.node with writes := a.node.writes ++ ws } }).onDev (fun d => d.bumpBy Obj.AG_NODE_WRITES ws.length)

/-- Table writes follow those that wait already; STAMP, FMASK and PKEY go ahead of them (R307). -/
def Agent.writeTables (a : Agent) (ws : List NodeWrite) : Agent :=
  if a.store.pend.isNone && a.node.queued.isEmpty then a.write ws else { a with node := { a.node with queued := a.node.queued ++ ws } }

/-- The table writes that wait are issued, in order. -/
def Agent.issue (a : Agent) : Agent := ({ a with node := { a.node with queued := [] } }).write a.node.queued

/-- F takes a value in one FMASK write. -/
def Agent.writeF (a : Agent) (f : Ports) : Agent := ({ a with node := { a.node with fmask := f } }).write [.fmask f]

/-- Side q of the plate store. -/
def Agent.side (a : Agent) (q : Nat) : Plate := if q = 0 then a.store.side0 else a.store.side1
def Agent.setSide (a : Agent) (q : Nat) (p : Plate) : Agent :=
  { a with store := if q = 0 then { a.store with side0 := p } else { a.store with side1 := p } }

/-- The side the switch stamps for: that of the committed number's parity (R43). -/
def Agent.active (a : Agent) : Nat := a.obj Obj.AG_COMMITTED % 2

/-- The node address of side q. -/
def Agent.sideBase (a : Agent) (q : Nat) : Nat := a.df 0x18 8 + q * a.df 0x20 4

/-- A local entry and the upper unit of an exception entry as written to the node: GONE from the gone list (R256). -/
def localUnit (gone : List Nat) (v : Nat) : Nat :=
  if bitOf v 109 && gone.contains (bitsOf v 127 110) then v + 2 ^ 108 else v
def excUpper (gone : List Nat) (v : Nat) : Nat :=
  let u := v / 2 ^ 128
  if bitOf v 237 && gone.contains (bitsOf v 255 238) then u + 2 ^ 107 else u

/-- The maps region (R318). -/
def mapsUnits (p : Plate) (range : Bool) : List Nat :=
  (upTo 4).map (fun i => bitsOf p.header (1280 + 128 * i + 127) (1280 + 128 * i)) ++
  (upTo 4).map (fun i => bitsOf p.header (768 + 128 * i + 127) (768 + 128 * i)) ++
  [p.seed + 2 ^ 64 * (p.locCount * 2 ^ 31 + p.treeCount * 2 ^ 24 + (if range then 2 ^ 23 + p.ranges.length * 2 ^ 13 else 0) + p.excCount)]

/-- The 16-byte units of a plate on a node side, in region order: offset in the side and canonical value, with the value
written (R318, R319, R321). The range and the exception region are written to at least `nr` and `ne` places. -/
def Agent.units (a : Agent) (p : Plate) (range : Bool) (nr ne : Nat) : List (Nat × Nat × Nat) :=
  let plain := fun (off : Nat) (l : List Nat) => l.zipIdx.map (fun v => (off + 16 * v.2, v.1, v.1))
  let wide := fun (off : Nat) (l : List Nat) => l.zipIdx.flatMap (fun v =>
    [(off + 32 * v.2, v.1 % 2 ^ 128, v.1 % 2 ^ 128), (off + 32 * v.2 + 16, v.1 / 2 ^ 128, v.1 / 2 ^ 128)])
  let tables :=
    if range then
      (padTo (max nr p.ranges.length) (p.ranges.map p.rangeEntry)).zipIdx.flatMap (fun r =>
        (upTo 3).map (fun i => (a.df 0x38 4 + 48 * r.2 + 16 * i, bitsOf r.1 (128 * i + 127) (128 * i), bitsOf r.1 (128 * i + 127) (128 * i))))
    else plain (a.df 0x24 4) (padTo 512 p.blocks) ++ plain (a.df 0x28 4) (padTo (min 512 (a.df 0x0A 2)) p.alts)
  tables ++
  (padTo (min 256 (a.df 0x0C 2)) p.locals).zipIdx.map (fun v => (a.df 0x2C 4 + 16 * v.2, v.1, localUnit a.node.gone v.1)) ++
  wide (a.df 0x30 4) (padTo (min 64 (a.df 0x0E 2)) p.trees) ++
  (padTo (max ne p.excCount) (p.excs.take p.excCount)).zipIdx.flatMap (fun v =>
    [(a.df 0x34 4 + 32 * v.2, v.1 % 2 ^ 128, v.1 % 2 ^ 128), (a.df 0x34 4 + 32 * v.2 + 16, v.1 / 2 ^ 128, excUpper a.node.gone v.1)]) ++
  plain (a.df 0x3C 4) (mapsUnits p range)

/-- The writes of a stage: every unit where the side is unknown or the store invalid, else those that differ from the store's copy in the form it was
written, places that were in use before among them (R191, R321, R323). -/
def Agent.stageWrites (a : Agent) (q : Nat) (p : Plate) (range : Bool) : List NodeWrite :=
  let known := !a.node.unknown.contains q && a.obj Obj.AG_PLATE_VALID == 1
  let held := a.side q
  let form := a.node.range.contains q
  let nr := if known && form then held.ranges.length else 0
  let ne := if known then held.excCount else 0
  let new := a.units p range nr ne
  let old := if known then a.units held form p.ranges.length p.excCount else []
  let base := a.sideBase q
  let changed := if old.isEmpty then new else new.filter (fun u => !(old.any (fun o => o.1 == u.1 && o.2.1 == u.2.1)))
  changed.map (fun u => .unit (base + u.1) u.2.2)

/-- The writes that set or clear GONE for an endpoint on a side (R256, R323). -/
def Agent.goneWrites (a : Agent) (q nid : Nat) (set_ : Bool) : List NodeWrite :=
  let p := a.side q
  let base := a.sideBase q
  let on := if set_ then [nid] else []
  (p.locals.zipIdx.filter (fun v => bitOf v.1 109 && bitsOf v.1 127 110 == nid)).map (fun v =>
    .unit (base + a.df 0x2C 4 + 16 * v.2) (localUnit on v.1)) ++
  ((padTo p.excCount p.excs).zipIdx.filter (fun v => bitOf v.1 237 && bitsOf v.1 255 238 == nid)).map (fun v =>
    .unit (base + a.df 0x34 4 + 32 * v.2 + 16) (excUpper on v.1))

/-- GONE written on a side: a rejected write is repeated up to three times; `rejects` says how many attempts the node
rejects. After the fourth the side is unknown (R323). -/
def Agent.goneSide (a : Agent) (q nid : Nat) (set_ : Bool) (rejects : Nat) : Agent :=
  let ws := a.goneWrites q nid set_
  if ws.isEmpty then a
  else
    let a := (upTo (1 + min 3 rejects)).foldl (fun a _ => a.writeTables ws) a
    if rejects < 4 then a
    else
      let a := (a.bump Obj.AG_WRITE_ERRS).onDev Dev.eventOpen
      { a with node := { a.node with unknown := insNat a.node.unknown q } }

/-- The plate store becomes invalid: every node side is unknown (R325). -/
def Agent.invalidate (a : Agent) : Agent :=
  ({ a with node := { a.node with unknown := [0, 1], queued := [] }
            store := { a.store with side0 := {}, side1 := {}, stagedBy := none, pend := none, whole := [] } }.setObj Obj.AG_PLATE_VALID 0).setObj
    Obj.AG_STAGED (a.obj Obj.AG_COMMITTED)

/-- A stage being assembled, written or awaiting its writes is abandoned and answered BASE with DETAIL 0xFFFFFFFF (R317). -/
def Agent.dropAssembly (a : Agent) : Agent :=
  let gone := a.store.pend.toList.map (fun x => x.imp) ++ (a.store.whole ++ a.store.asm.toList).map (fun x => x.imp)
  gone.foldl (fun a imp => a.toMgr (.stageAck imp 3 0xFFFFFFFF 0)) { a with store := { a.store with asm := none, pend := none, whole := [] } }

/-! ## Ports (R242-R247) -/

/-- Watch inputs that are mapped and enabled. -/
def Agent.inputsOn (a : Agent) : Nat :=
  ((upTo 32).filter (fun i => a.watchOf i % 8 != 0 && bitOf (a.obj Obj.WF_ENABLE) i)).length

/-- WF_CHECKS: each enabled input is sampled once per microsecond (R242). [DEDUCED, log 111] -/
def Agent.wfChecks (a : Agent) : Nat :=
  (a.obj Obj.WF_CHECKS + a.inputsOn * ((a.dev.time - max a.dev.since a.node.sampled) / 1000)) % 2 ^ 64

/-- The samples taken so far are counted, before the inputs that are sampled change. -/
def Agent.countChecks (a : Agent) : Agent :=
  { a.setObj Obj.WF_CHECKS a.wfChecks with node := { a.node with sampled := a.dev.time } }

/-- What is seen of a port. -/
def Agent.port (a : Agent) (p : Nat) : PortWatch := mapGetD a.node.watch p {}
def Agent.setPort (a : Agent) (p : Nat) (w : PortWatch) : Agent := { a with node := { a.node with watch := mapSet a.node.watch p w } }
def PortWatch.bad (w : PortWatch) : Bool := !w.inputs.isEmpty || w.msg

/-- The agent's LINK_EVENT for a port (R244). -/
def Agent.linkEvent (a : Agent) (p : Nat) (good : Bool) : Agent :=
  let ep := Nat.ble 128 p
  let nid := if ep then a.obj Obj.AG_NID else a.switchNid
  let time := a.dev.time
  a.report 0x21 (fun n => .linkEvent nid (p % 128) ep good n time)

/-- The ports a destination leaves by under a mask (R185). -/
def destPorts (p : Plate) (exc : Bool) (id : Nat) (f : Ports) : Ports :=
  if exc then
    match p.excs.find? (fun v => bitsOf v 255 238 == id) with
    | some v => BitVec.ofNat 128 (v % 2 ^ 128) &&& ~~~f
    | none => 0
  else
    let m := BitVec.ofNat 128 (p.at_ 1 id) &&& ~~~f
    if m = 0 then BitVec.ofNat 128 (p.at_ 2 id) &&& ~~~f else m

/-- Whether a destination's block or exception entry includes a port. -/
def destUses (p : Plate) (exc : Bool) (id port : Nat) : Bool :=
  if exc then
    match p.excs.find? (fun v => bitsOf v 255 238 == id) with
    | some v => bitOf (v % 2 ^ 128) port
    | none => false
  else bitOf (p.at_ 1 id) port

/-- The withdraw entries of the destinations that a port's loss leaves uncovered (R247): kind, ID and targets. -/
def uncovered (p : Plate) (port : Nat) (f : Ports) : List (Bool × Nat × Ports) :=
  ((padTo p.wdrCount p.wdrs).map (fun v => (bitOf v 255, bitsOf v 254 237, BitVec.ofNat 128 (v % 2 ^ 128)))).filter
    (fun (w : Bool × Nat × Ports) => destUses p w.1 w.2.1 port && destPorts p w.1 w.2.1 f == 0)

/-- Cuts a list into frames of at most 2,232 records. -/
def cutDests : Nat → List Nat → List (List Nat)
  | 0, _ => []
  | _, [] => []
  | fuel + 1, l => l.take 2232 :: cutDests fuel (l.drop 2232)

/-- WITHDRAW to the agents of the peers that uncovered destinations name, except behind ports in F (R247, R248). -/
def Agent.withdraw (a : Agent) (port : Nat) : Agent :=
  if a.obj Obj.AG_PLATE_VALID = 0 then a
  else
    let f := a.node.fmask
    let ds := uncovered (a.side a.active) port f
    let peers := sortNat (ds.flatMap (fun d => (portsOf (d.2.2 &&& ~~~f)).filterMap (fun q => (mapGet a.peers q).map (fun r => r.agent))))
    peers.foldl (fun a n =>
      let mine := ds.filter (fun d => (portsOf (d.2.2 &&& ~~~f)).any (fun q => (mapGet a.peers q).map (fun r => r.agent) == some n))
      let words := mine.map (fun d => (if d.1 then 2 ^ 31 else 0) + d.2.1)
      (cutDests (words.length + 1) words).foldl (fun a l =>
        (a.toPeer n (.withdraw (a.obj Obj.AG_COMMITTED) a.switchNid port l)).setObj Obj.AG_WDR_SENT
          ((a.obj Obj.AG_WDR_SENT + 1) % 2 ^ 32)) a) a

/-- Firmware acts on a port's state where it differs from the one it last acted on: WITHDRAW and LINK_EVENT (R247). -/
def Agent.actOnPort (a : Agent) (p : Nat) : Agent :=
  let w := a.port p
  if !a.runs || !a.hears || w.bad == w.told then a
  else
    let a := a.setPort p { w with told := w.bad }
    let a := if w.bad && decide (p < 128) && a.isSwitch then a.withdraw p else a
    a.linkEvent p (!w.bad)

/-- A port's watch changes. On becoming bad the watch writer sets its bit of F in one node-port write (R247, R312). -/
def Agent.watchPort (a : Agent) (p : Nat) (f : PortWatch → PortWatch) : Agent :=
  let w := a.port p
  let w' := f w
  let a := a.setPort p w'
  let a := if !w.bad && w'.bad && decide (p < 128) && a.isSwitch && a.hears then a.writeF (a.node.fmask ||| portBit p) else a
  a.actOnPort p

/-! ## Mailboxes (R327-R329) -/

/-- The message header of a length, code and counter. -/
def mbHdr (alive code len : Nat) : Nat := alive * 2 ^ 24 + code * 2 ^ 16 + len

/-- The check value of a message, over its header and payload bytes (R328). -/
def Agent.mbCheck (a : Agent) (hdr : Nat) (data : List Byte) : Nat := crcOf (a.obj Obj.MX_CRC) (leBytes 4 hdr ++ data)

/-- Posts the next queued message of a mailbox that has none posted: its registers are written, and TAKEN and DONE are clear (R328). -/
def Agent.postNext (a : Agent) (box : Nat) : Agent :=
  let b := mapGetD a.node.outBoxes box {}
  match b.posted, b.queue with
  | none, m :: rest =>
    let alive := (b.alive + 1) % 256  -- one above the last counter accepted
    let hdr := mbHdr alive m.1 m.2.length
    let b := { b with posted := some m, chk := a.mbCheck hdr m.2, queue := rest, hdr := hdr, data := m.2, ack := 0 }
    { a with node := { a.node with outBoxes := mapSet a.node.outBoxes box b } }
  | _, _ => a

/-- A message to node firmware: posted, queued behind the mailbox, or discarded and counted at a full queue (R329). -/
def Agent.post (a : Agent) (box code : Nat) (data : List Byte) : Agent :=
  let b := mapGetD a.node.outBoxes box {}
  if b.posted.isSome ∧ 64 ≤ b.queue.length then a.bump Obj.AG_EVT_LOST
  else
    ({ a with node := { a.node with outBoxes := mapSet a.node.outBoxes box { b with queue := b.queue ++ [(code, data)] } } }).postNext box

/-- Once space frees, mailbox 4 carries one EVENTS_LOST with the count of discarded messages (R329). -/
def Agent.tellLost (a : Agent) : Agent :=
  let n := a.obj Obj.AG_EVT_LOST
  if n = a.node.lostTold ∨ 64 ≤ (mapGetD a.node.outBoxes 4 {}).queue.length then a
  else ({ a with node := { a.node with lostTold := n } }).post 4 0x14 (leBytes 4 n)

/-- The payload of a member event (R257). -/
def memberBytes (lost cause c gen resets time : Nat) : List Byte :=
  leBytes 16 (lost * 2 ^ 110 + cause * 2 ^ 96 + c * 2 ^ 84 + gen * 2 ^ 76 + resets * 2 ^ 64 + time % 2 ^ 64)

/-- A message of node firmware as a mailbox received it: header, payload and check value. -/
abbrev NodeMsg := Nat × List Byte × Nat

/-- The codes of the node-to-agent mailboxes. -/
def boxCode (box code : Nat) : Bool :=
  (box == 0 && (code == 0 || code == 1)) || (box == 1 && code == 2) || (box == 2 && code == 3)

/-- The reception of a message: its return code by the order of Table: Mailbox return codes; `lengthOk` says whether the
length suits the code. MB_ACK echoes the counter (R327, R328). [DEDUCED, log 35] -/
def Agent.receive (a : Agent) (box : Nat) (m : NodeMsg) (code : Nat → List Byte → Nat) : Agent × Nat :=
  let hdr := m.1 % 2 ^ 32
  let alive := bitsOf hdr 31 24
  let len := hdr % 64
  let b := mapGetD a.node.inBoxes box {}
  let data := padTo (min len 56) (m.2.1.map BitVec.toNat) |>.map (BitVec.ofNat 8)
  let ret :=
    if a.mbCheck hdr data ≠ m.2.2 then 1
    else if (match b.alive with | some k => decide (alive ≠ (k + 1) % 256) | none => false) then 2
    else if !boxCode box (bitsOf hdr 23 16) then 3
    else if 57 ≤ len then 4
    else code (bitsOf hdr 23 16) data
  let b := { b with alive := if ret = 0 then some alive else b.alive, ack := 2 ^ 31 + 2 ^ 30 + ret * 256 + alive }
  let a := { a with node := { a.node with inBoxes := mapSet a.node.inBoxes box b } }
  (if ret = 0 then a.bump Obj.MX_RCVD else a.bump Obj.MX_REJECT, ret)

/-! ## The reset of the node (R255, R264, R265, R272, R274, R310, R317) -/

/-- A node reset is detected. `hard` says that the node-port link or a RESET input showed it. A RESET_NOTICE and a link
loss or RESET input within 1 s of each other are one reset (R310). -/
def Agent.sameReset (a : Agent) (hard : Bool) : Bool :=
  match (if hard then a.node.lastNote else a.node.lastHard) with
  | some t => decide (a.dev.time < t + 1000000000)
  | none => false

/-- Resets in the escalation window (R272, R273). -/
def Agent.resetCount (a : Agent) : Nat :=
  let w := a.obj Obj.AP_RESET_WINDOW
  (if w = 0 then a.rep.resets else a.rep.resets.filter (fun t => decide (a.dev.time < t + w * 1000000000))).length

/-- The endpoint part of a node's reset: the reset is counted, GONE to confirmed peers, MEMBER_LOST to the context's
group, EP_RESET to the manager; at RESET_LIMIT the endpoint is fenced (R255, R274). [DEDUCED, log 31] -/
def Agent.endpointReset (a : Agent) (cause : Nat) : Agent :=
  let nid := a.obj Obj.AG_NID
  let t := a.dev.time
  let a := { a with rep := { a.rep with resets := a.rep.resets ++ [t] } }
  let n := a.resetCount
  let fence := decide (a.obj Obj.AP_RESET_WINDOW ≠ 0) && Nat.ble (max 1 (a.obj Obj.AP_RESET_LIMIT)) n
  let a := if fence then ({ a with rep := { a.rep with fenced := true } }).event 0x204 0 else a
  let cause := if fence then 4 else cause
  let resets := min n 255
  let a := (sortNat (a.peers.map (fun p => p.2.agent))).foldl (fun a p => a.toPeer p (.gone nid)) a
  let a := match a.member with
    | some (c, e) => if c = 0 then a else a.toGroup (0xF000 + c) c e.gen (.memberLost nid cause c e.gen resets t)
    | none => a
  a.report 0x24 (fun k => .epReset nid cause resets k t)

/-- The switch part of a node's reset: its tables are lost, and the node-heartbeat watchdog stops (R265, R268, R317). [DEDUCED, log 25] -/
def Agent.switchReset (a : Agent) : Agent :=
  let a := a.dropAssembly.invalidate
  { a with node := { a.node with hbRuns := false } }

/-- NODE_LOST is sent for the switch (R309). -/
def Agent.sendNodeLost (a : Agent) : Agent :=
  let nid := a.switchNid
  let t := a.node.linkDown.getD a.dev.time
  a.report 0x27 (fun k => .nodeLost nid k t)

/-- What firmware does on a detected reset of its node. -/
def Agent.resetActs (a : Agent) (cause : Nat) : Agent :=
  let granted := a.node.granted && a.node.detoured
  let coupled := a.kind == 2 && a.cap 6
  let a := if a.isEndpoint then a.endpointReset cause else a
  let a := if a.kind = 0 then a.switchReset
    else if coupled then (if granted then a.switchReset else a.switchReset.sendNodeLost)
    else a
  { a with node := { a.node with asked := none, detoured := false } }

/-- A reset of the node is detected: fences of role ISOLATE are asserted in hardware, the heartbeat watchdog stops, and
firmware acts, or the detection is latched while the cores do not run (R312, R268, R549). -/
def Agent.nodeReset (a : Agent) (cause : Nat) (hard : Bool) : Agent :=
  if !a.hears then a
  else
  let t := a.dev.time
  let same := a.sameReset hard
  let a := { a with node := if hard then { a.node with lastHard := some t } else { a.node with lastNote := some t } }
  let a := if a.isEndpoint then a.assertFences (a.fencesOf 1) else a
  let a := { a with node := { a.node with hbRuns := false, ready := false, inReset := true } }
  if same then a
  else match a.restart with
    | some r => { a with restart := some { r with latched := { r.latched with resets := r.latched.resets ++ [(cause, hard)] } } }
    | none => a.resetActs cause

/-- The fences of an endpoint are released: its node is ready, it is not fenced, and it awaits no REJOINED (R259-R261,
R274). -/
def Agent.tryRelease (a : Agent) : Agent :=
  if a.node.ready && !a.rep.fenced then a.releaseFences (a.fencesOf 1) else a

end Sys2Proof.Machine
end

