-- ==== Sys2Proof/Machine/AgentFaults.lean ====
section
/-! DEFINITION. Sys2Proof/Machine/AgentFaults.lean: an agent's part in faults and recovery: watched ports, WITHDRAW,
reports, the reset of its node, member events (chapter "Faults, hangs and recovery"). -/

namespace Sys2Proof.Machine

/-! ## Watched ports (R242, R243, R247) -/

/-- The LINK entry of an enabled watch input: the port it watches. -/
def Agent.inputPort (a : Agent) (input : Nat) : Option Nat :=
  let w := a.watchOf input
  if w % 8 = 1 ∧ bitOf (a.obj Obj.WF_ENABLE) input then some (portNo (bitOf w 15) (bitsOf w 14 8)) else none

/-- Bit i of WF_LEVEL. -/
def Agent.setLevel (a : Agent) (input : Nat) (on : Bool) : Agent :=
  let v := a.obj Obj.WF_LEVEL
  a.setObj Obj.WF_LEVEL (bitmapOf ((upTo 32).filter (fun i => if i = input then on else bitOf v i)))

/-- WATCH_PORT_BAD: the second consecutive sample of an input lies on the fault side (R242). -/
def execWatchPortBad (die input : Nat) (s : State) : Out :=
  onAgent s die (fun a =>
    match (if a.link.held then none else a.inputPort input) with
    | none => a
    | some p => (a.setLevel input true).watchPort p (fun w => { w with inputs := insNat w.inputs input }))

/-- WATCH_PORT_GOOD: every sample of an input for FR_GOOD_MS has been on the good side; or, with no input named, FR_GOOD_MS
has passed since node firmware reported the port good, with no bad report (R242, R243). An input of role RESET leaves its reset
side (WF_LEVEL). -/
def execWatchPortGood (die : Nat) (input : Option Nat) (ep : Bool) (port : Nat) (s : State) : Out :=
  onAgent s die (fun a =>
    match input with
    | some i =>
      match a.inputPort i with
      | none => if a.watchOf i % 8 = 2 ∧ bitOf (a.obj Obj.WF_ENABLE) i then a.setLevel i false else a
      | some p => (a.setLevel i false).watchPort p (fun w => { w with inputs := w.inputs.filter (fun k => k != i) })
    | none => a.watchPort (portNo ep port) (fun w => if w.goods then { w with msg := false, goods := false } else w))

/-- LINK_MSG: node firmware reports a port bad or good (R243). -/
def execLinkMsg (die : Nat) (ep : Bool) (port : Nat) (good : Bool) (s : State) : Out :=
  onAgent s die (fun a =>
    let now := decide (a.obj Obj.AP_GOOD_MS = 0)
    if !a.hears then a else a.watchPort (portNo ep port) (fun w =>
      if good then (if w.msg then { w with msg := !now, goods := !now } else w)
      else { w with msg := true, goods := false }))

/-! ## Reports (R244) -/

/-- A report is acknowledged. Once the oldest is, waiting ones take the places that are free, up to 1,024 (R244). -/
def Agent.onEventAck (a : Agent) (type num : Nat) : Agent :=
  let hit := fun (r : Report) => r.type == type && r.num == num
  let left := a.rep.unacked.filter (fun r => !hit r)
  let go := if a.rep.unacked.head?.any hit then a.rep.waiting.take (1024 - left.length) else []
  go.foldl (fun a r => a.toMgr r.msg)
    { a with rep := { a.rep with unacked := left ++ go, waiting := a.rep.waiting.drop go.length } }

/-- EVENT_ACK: the manager has taken a report. -/
def execEventAck (die : Nat) (hdr : Hdr) (type report : Nat) (s : State) : Out :=
  onAgent s die (fun a =>
    let t := a.take withdrawFrame hdr (some (.eventAck type report))
    if t.ok then t.ag.onEventAck type report else t.ag)

/-- REPORT_RETRY: every unacknowledged report is repeated, to the unit of the highest pair (R244, R284). -/
def execReportRetry (die : Nat) (s : State) : Out :=
  onAgent s die (fun a => if a.runs then a.rep.unacked.foldl (fun a r => a.toMgr r.msg) a else a)

/-! ## WITHDRAW (R248, R249) -/

/-- A WITHDRAW is accepted or discarded. [DEDUCED, log 34; DEDUCED, log 89] -/
def Agent.onWithdraw (a : Agent) (imp nid count : Nat) : Agent :=
  let ports := (a.peers.filter (fun p => p.2.nid == nid && decide (p.1 < 128))).map (fun p => p.1)
  let known := (a.store.flipped.isSome && imp == a.obj Obj.AG_COMMITTED) || some imp == a.store.prev
  if ports.isEmpty || !known || count == 0 || decide (2232 < count) then a.bump Obj.AG_WDR_DROP
  else a.writeF (a.node.fmask ||| portMask ports)

/-- WITHDRAW: F is set for every port facing the sender (R249). -/
def execWithdraw (die : Nat) (hdr : Hdr) (imp nid port : Nat) (dests : List Nat) (s : State) : Out :=
  onAgent s die (fun a =>
    let t := a.take withdrawFrame hdr (some (.withdraw imp nid port dests))
    if t.ok then t.ag.onWithdraw imp nid dests.length else t.ag)

/-! ## The reset of the node -/

/-- ENDPOINT_RESET_DETECT: a RESET watch input is on its reset side (R255, R311). -/
def execEndpointResetDetect (die input : Nat) (s : State) : Out :=
  onAgent s die (fun a =>
    if !a.link.held ∧ a.watchOf input % 8 = 2 ∧ bitOf (a.obj Obj.WF_ENABLE) input then (a.setLevel input true).nodeReset 0 true else a)

/-- A NODE_CTL command, or its latch while the control cores do not run (R549); none is taken while the node island is off. -/
def Agent.nodeCtl (a : Agent) (code : Nat) (f : Agent → Agent) : Agent :=
  if !a.hears then a
  else match a.restart with
  | some r => { a with restart := some { r with latched := { r.latched with ctl := some code } } }
  | none => f a

/-- RESET_NOTICE: node firmware announces a reset of its node (R310). -/
def execResetNotice (die : Nat) (s : State) : Out := onAgent s die (fun a => (a.nodeReset 0 false).nodeCtl 2 id)

/-- NODE_LINK_DOWN: the node-port link goes down (R309). -/
def execNodeLinkDown (die : Nat) (s : State) : Out :=
  onAgent s die (fun a =>
    let a := { a with node := { a.node with linkDown := some a.dev.time, lostSent := false } }
    if a.isEndpoint then a.nodeReset 0 true else a)

/-- The agent gives its switch up: the plate store is invalid and NODE_LOST goes out (R309). -/
def Agent.loseNode (a : Agent) : Agent := ({ a with node := { a.node with lostSent := true } }).switchReset.sendNodeLost

/-- NODE_LOST_TIMEOUT: the node-port link of a switch has been down for 1 ms (R309); while the control cores do not run the loss is
latched (R549). -/
def execNodeLostTimeout (die : Nat) (s : State) : Out :=
  onAgent s die (fun a =>
    if a.node.linkDown.isNone || a.node.lostSent || !a.isSwitch || !a.hears then a
    else match a.restart with
      | some r => { a with restart := some { r with latched := { r.latched with lost := true } } }
      | none => a.loseNode)

/-- The reports of an endpoint's readiness (R261): fences are released where nothing holds them. -/
def Agent.nodeIsReady (a : Agent) : Agent :=
  let a := { a with node := { a.node with ready := true } }
  if !a.isEndpoint then a
  else
    let nid := a.obj Obj.AG_NID
    let a := a.report 0x36 (fun n => .nodeReady nid n)
    if a.member.isNone then a.tryRelease else a

/-- NODE_CTL_READY: node firmware reports READY (R261). -/
def execNodeCtlReady (die : Nat) (s : State) : Out := onAgent s die (fun a => a.nodeCtl 1 Agent.nodeIsReady)

/-- RESET_REQ from node firmware of a coupled forwarding endpoint is forwarded to the manager (R262, R263). [DEDUCED, log 33] -/
def Agent.nodeAsksReset (a : Agent) : Agent :=
  let a := { a with node := { a.node with granted := false, detoured := false } }
  if a.kind = 2 ∧ a.cap 6 then
    let a := { a with node := { a.node with asked := some a.dev.time } }
    let nid := a.obj Obj.AG_NID
    let sw := a.switchNid
    a.report 0x39 (fun n => .resetReq nid sw n)
  else a

/-- RESET_REQ_NODE: node firmware requests a reset. -/
def execResetReqNode (die : Nat) (s : State) : Out := onAgent s die (fun a => a.nodeCtl 3 Agent.nodeAsksReset)

/-- RESET_GRANT: the manager grants the reset (R263). -/
def execResetGrant (die : Nat) (hdr : Hdr) (nid : Nat) (_detour : Bool) (s : State) : Out :=
  onAgent s die (fun a =>
    let t := a.take dictCmd hdr none
    let a := t.ag
    if !t.ok || !a.accepts hdr || nid != a.obj Obj.AG_NID then a
    else { a with node := { a.node with granted := true, detoured := true, asked := none } })

/-- DETOUR_TIMEOUT: no commit has followed within FR_DETOUR_MS; the agent grants the reset, which counts as forced (R263). [DEDUCED, log 33] -/
def execDetourTimeout (die : Nat) (s : State) : Out :=
  onAgent s die (fun a =>
    if a.node.asked.isNone || !a.runs then a
    else { a with node := { a.node with granted := true, detoured := false, asked := none } })

/-! ## GONE, READY and member events (R256, R257, R259) -/

/-- GONE for an endpoint: it joins the gone list and its entries are marked on both sides. -/
def Agent.onGone (a : Agent) (nid rej0 rej1 : Nat) : Agent :=
  let a := { a with node := { a.node with gone := insNat a.node.gone nid } }
  (a.goneSide 0 nid true rej0).goneSide 1 nid true rej1

/-- GONE: a peer's endpoint has reset; `rej0` and `rej1` are how often the node rejects the writes of each side (R323). -/
def execGone (die : Nat) (hdr : Hdr) (nid rej0 rej1 : Nat) (s : State) : Out :=
  onAgent s die (fun a =>
    let t := a.take withdrawFrame hdr (some (.gone nid))
    if t.ok then t.ag.onGone nid rej0 rej1 else t.ag)

/-- READY: GONE is cleared for an endpoint; for the agent's own endpoint it is its readmission: the count is cleared and
the fences are released where node firmware has reported READY (R256, R274). [DEDUCED, log 32] -/
def execReady (die : Nat) (hdr : Hdr) (nid rej0 rej1 : Nat) (s : State) : Out :=
  onAgent s die (fun a =>
    let t := a.take dictCmd hdr none
    let a := t.ag
    if !t.ok || !a.accepts hdr then a
    else
      let a := if a.isEndpoint && nid == a.obj Obj.AG_NID then
          ({ a with rep := { a.rep with resets := [], fenced := false } }).tryRelease else a
      let was := a.node.gone.contains nid
      let a := { a with node := { a.node with gone := a.node.gone.filter (fun n => n != nid) } }
      if was then (a.goneSide 0 nid false rej0).goneSide 1 nid false rej1 else a)

/-- A member event for the endpoint's current context and generation is posted to node firmware (R257). -/
def Agent.postMember (a : Agent) (code lost cause c gen resets time : Nat) : Agent :=
  match a.member with
  | some (mc, e) => if mc = c ∧ e.gen = gen then a.post 4 code (memberBytes lost cause c gen resets time) else a
  | none => a

/-- MEMBER_LOST at a member's agent: posted where it is current, and acknowledged to the manager. -/
def Agent.onMemberLost (a : Agent) (lost cause c gen resets time : Nat) : Agent :=
  (a.postMember 0x10 lost cause c gen resets time).toMgr (.memberAck c gen lost)

/-- A group frame that an agent sent to the manager for copying goes to the group's members (R422, R550). -/
def Manager.copyFrame (m : Manager) (k : FrameKind) (hdr : Hdr) (assoc : Nat) (x : Msg) : Manager :=
  let t := m.dev.ingress k hdr m.genOf
  let m := { m with dev := t.dev }
  if t.ok && hdr.dst == nidAll then m.emit { dst := nidAll, assoc := assoc, ctx := hdr.ctx, gen := hdr.gen, msg := x } else m

/-- MEMBER_LOST_RECEIVE (R257): at a member's agent; at a manager that relays, which makes the copies (R422). -/
def execMemberLostReceive (dev : At) (hdr : Hdr) (lost cause ctx gen resets time : Nat) (s : State) : Out :=
  match dev with
  | none => .next { s with mgr := s.mgr.copyFrame withdrawFrame hdr (0xF000 + ctx) (.memberLost lost cause ctx gen resets time) }
  | some die => onAgent s die (fun a =>
    let t := a.take withdrawFrame hdr (some (.memberLost lost cause ctx gen resets time))
    if t.ok then t.ag.onMemberLost lost cause ctx gen resets time else t.ag)

/-- What a DICT-class frame without a claim asks of its header. -/
def dictPlain : FrameKind := { cls := .dict, claim := false }

/-- MEMBER_REJOINED (R257, R259). -/
def execMemberRejoined (die : Nat) (hdr : Hdr) (lost cause ctx gen resets time : Nat) (s : State) : Out :=
  onAgent s die (fun a =>
    let t := a.take dictPlain hdr none
    if t.ok then t.ag.postMember 0x11 lost cause ctx gen resets time else t.ag)

/-- REJOINED: the endpoint's fences are released (R259). -/
def execRejoined (die : Nat) (hdr : Hdr) (_ctx _gen nid : Nat) (s : State) : Out :=
  onAgent s die (fun a =>
    let t := a.take dictCmd hdr none
    let a := t.ag
    if !t.ok || !a.accepts hdr || nid != a.obj Obj.AG_NID then a else a.tryRelease)

/-! ## The node heartbeat (R268) -/

/-- NODE_HB: a node heartbeat; the watchdog runs from the first after a reset. -/
def execNodeHb (die : Nat) (s : State) : Out :=
  onAgent s die (fun a => if a.hears then { a with node := { a.node with hbRuns := true } } else a)

/-- NODE_HB_TIMEOUT: no NODE_HB for three periods. An endpoint's node counts as reset with cause NODE_HANG, and may be held
in reset; a switch's agent records an event. -/
def execNodeHbTimeout (die : Nat) (s : State) : Out :=
  onAgent s die (fun a =>
    if !a.node.hbRuns || a.obj Obj.AP_NODE_HB_US == 0 || !a.runs then a
    else if a.isEndpoint then
      let a := { a with node := { a.node with hbRuns := false, ready := false, inReset := true } }
      let a := (a.assertFences (a.fencesOf 1)).resetActs 3
      if a.obj Obj.AP_HANG_RESET = 1 then a.assertFences (a.fencesOf 2) else a
    else a.event 0x184 0)

/-- RESET_FENCE_RELEASE: the reset fence has been held for 1 ms (R268). -/
def execResetFenceRelease (die : Nat) (s : State) : Out := onAgent s die (fun a => if a.runs then a.releaseFences (a.fencesOf 2) else a)

end Sys2Proof.Machine
end

