-- ==== Sys2Proof/Machine/DictOps.lean ====
section
/-! DEFINITION. Sys2Proof/Machine/DictOps.lean: the object dictionary's shared rules: reading and
writing stored values, the directory, and the values both parts derive (chapter "The object
dictionary"). -/

namespace Sys2Proof.Machine

/-! ## Reading and writing stored values -/

/-- The bytes an object reads as: a fixed-size value at its size, a STR or DOMAIN at its length. `k` is the copy read. -/
def Dev.readStored (d : Dev) (r : ObjRow) (k : Nat) : List Byte := if fixedSize r then leBytes r.len (d.obj k) else d.blob k

/-- An RW or RWS object takes a value, raised or lowered as its row says (R347, R353); EV_FIRST_SIZE is lowered to the slots
of the part (R486). [DEDUCED, log 90] -/
def Dev.writeStored (d : Dev) (r : ObjRow) (k : Nat) (data : List Byte) : Dev :=
  let v := r.adjust (leNat data)
  if fixedSize r then d.setObj k (if k = Obj.EV_FIRST_SIZE then min (firstSlots d.agentPart) v else v) else d.setBlob k data

/-- The committed values of a record's RWS subindices (R353). -/
def Dev.committed (d : Dev) (idx : Nat) : List Byte :=
  (objRows.filter (fun r => r.idx == idx && r.acc == .rws)).flatMap (fun r =>
    let k := committedKey (idx * 256 + r.subLo)
    if fixedSize r then leBytes r.len (d.objC (idx * 256 + r.subLo)) else leBytes 4 (d.blob k).length ++ d.blob k)

/-! ## The directory (R351) -/

/-- Code of a type and of an access. -/
def tyCode : ObjTy → Nat
  | .u8 => 0 | .u16 => 1 | .u32 => 2 | .u64 => 3 | .i32 => 4 | .bool => 5 | .bits => 6 | .str => 7 | .domain => 8 | .cmd => 0
def accCode : ObjAcc → Nat
  | .ro => 0 | .rw => 1 | .wo => 2 | .rws => 3 | .cmd => 4

/-- Greatest length of the committed values of a record: the sizes of its RWS objects, a DOMAIN's behind its length (R353). -/
def committedMax (idx : Nat) : Nat :=
  (objRows.filter (fun r => r.idx == idx && r.acc == .rws)).foldl (fun n r => n + if fixedSize r then r.len else 4 + r.len) 0

/-- MAX_LEN of an address. A DOMAIN that a rule bounds has that bound: the committed values (R353), the comparison lists (R445),
the first area (R486), reads of records (R495, R504), a report of attestation (R474), and the lists of links and of agents. -/
def maxLen (agentPart : Bool) (r : ObjRow) (key : Nat) : Nat :=
  if key = Obj.PW_DOMAINS then (if agentPart then 12 else 96)
  else if r.subLo = 0xFF then committedMax r.idx
  else if r.idx = 0x3030 ∧ r.ty = .domain then 65536 * 32
  else if key = Obj.EV_FIRST then (if agentPart then 256 * 224 else 4096 * 256)
  else if key = Obj.ER_READ ∨ key = Obj.TS_READ then 1048576
  else if key = Obj.AT_REPORT then if agentPart then 744 else 352 + 16 * 8 + 4096 * 40 + 384
  else if key = Obj.TV_LINKS then 8192 * 128 * 8
  else if key = Obj.FW_FAILED then 4 * (131072 + 8192)
  else r.len

/-- DD_DESC of an address: a CMD object's TYPE follows its size. -/
def dirDesc (agentPart : Bool) (key : Nat) : Nat :=
  if !holdsKey agentPart key then 0xFFFFFFFFFFFFFFFF
  else match objRow key with
    | none => 0xFFFFFFFFFFFFFFFF
    | some r =>
      let ty := if r.ty = .cmd ∧ r.len = 4 then 2 else tyCode r.ty
      maxLen agentPart r key * 2 ^ 32 + ty * 2 ^ 28 + accCode r.acc * 2 ^ 24 + (if Nat.ble 0x2000 r.idx && decide (r.idx < 0x3000) then 2 ^ 18 else 0) +
      (if r.masked then 2 ^ 17 else 0) + (if r.perCtx then 2 ^ 16 else 0) + r.group * 2 ^ 8

/-- DD_NEXT: the lowest defined address above one. -/
def dirNext (agentPart : Bool) (key : Nat) : Nat :=
  (objRows.foldl (fun (best : Option Nat) r =>
    (upTo (r.subHi + 1 - r.subLo)).foldl (fun (best : Option Nat) i =>
      let k := r.idx * 256 + r.subLo + i
      if key < k ∧ holdsKey agentPart k then
        match best with
        | some b => some (min b k)
        | none => some k
      else best) best) none).getD 0xFFFFFFFF

/-! ## Values every device derives when they are read -/

/-- A string as bytes. -/
def strBytes (s : String) : List Byte := s.toList.map (fun c => BitVec.ofNat 8 c.toNat)

/-- Objects whose value no rule fixes: sensor readings, and the progress of a copy. -/
def openKeys : List Nat :=
  [Obj.DV_TEMP, Obj.PW_INPUT_MW, Obj.PW_SUPPLY_MV, Obj.CK_MIN_MHZ, Obj.CK_NOW_MHZ, Obj.TR_RESYNC_PCT]

/-- TR_RESYNC_PCT: how far a resynchronisation has come no rule says; it never falls while it lasts, and is 0 when idle (R304). [DESIGN CHOICE, log 6] -/
def Dev.resyncPct (d : Dev) : Nat := if d.obj Obj.TR_RESYNC = 1 then max (d.obj Obj.TR_RESYNC_PCT) (d.openNat % 101) else 0

/-- Table: Island clocks, the rows of the part: nominal and floor frequency in MHz (R522). -/
def islandClock (agentPart : Bool) (row : Nat) : Nat × Nat :=
  ((if agentPart then [(800, 600), (500, 400)] else [(1600, 1200), (1200, 900), (1000, 750), (800, 600), (1000, 800)]) : List (Nat × Nat)).getD row (0, 0)

/-- The version of the running firmware (ID_FW_VER). [DESIGN CHOICE, log 5] -/
def Dev.fwVer (d : Dev) : Nat := (mapGet d.fwVers d.fw).getD (Config.ident d.key (Obj.ID_FW_VER * 4 + d.fw) % 2 ^ 32)

/-- The value of an object both parts derive, when it is one of them. [DESIGN CHOICE, log 5] -/
def Dev.view (d : Dev) (key : Nat) : Option (List Byte) :=
  let idx := key / 256
  let ident := fun (n : Nat) => leBytes n (Config.ident d.key key)
  if key = Obj.ID_NAME then some (strBytes (if d.agentPart then "NWA-160" else "NWM-4800"))
  else if key = Obj.ID_STEPPING then some (strBytes (if d.agentPart then "B0" else "A1"))
  else if key = Obj.ID_FW_VER then some (leBytes 4 d.fwVer)
  else if key = Obj.ID_ROM_VER then some (ident 2)
  else if key = Obj.ID_SERIAL then some (ident 16)
  else if key = Obj.ID_DIE_ID then some (if d.agentPart then leBytes 8 (d.key - 1) else ident 8)
  else if key = Obj.ID_NID then some (leBytes 4 d.net.nid)
  else if key = Obj.DV_TIME then some (leBytes 8 d.time)
  else if key = Obj.DV_RESETS then some (leBytes 4 (Config.ident d.key key + d.resets))
  else if key = Obj.DV_HEALTH then some (leBytes 4 (if d.agentPart then d.health.toNat / 8 * 8 else d.health.toNat))
  else if key = Obj.DV_UPTIME_S then some (leBytes 4 (min ((d.time - d.since) / 1000000000) (2 ^ 32 - 1)))
  else if key = Obj.DD_DESC then some (leBytes 8 (dirDesc d.agentPart (d.obj Obj.DD_SEL)))
  else if key = Obj.DD_NEXT then some (leBytes 4 (dirNext d.agentPart (d.obj Obj.DD_SEL)))
  else if idx = 0x1110 ∧ key % 256 ≠ 0 then some (leBytes 4 (d.fpState (key % 256 - 1)))
  else if key = 0x111000 then some [if d.agentPart then 2 else 8]
  else if key = 0x130000 then some [if d.agentPart then 3 else 8]
  else if key = Obj.FC_DROP_CLASS then some ((upTo 7).flatMap (fun c => leBytes 8 (mapGetD d.net.dropClass c 0)))
  else if key = Obj.FN_RELAY ∧ d.agentPart then some [0]
  else if key = Obj.EV_NEXT_SEQ then some (leBytes 8 d.log.seq)
  else if key = Obj.EV_OLDEST_SEQ then some (leBytes 8 (match d.log.ring with | [] => d.log.seq | r :: _ => r.seq))
  else if key = Obj.EV_FIRST then some (d.log.first.flatMap EvRec.bytes)
  else if key = Obj.EV_FWD_SEV ∧ !d.agentPart then some [0]
  else if key = Obj.RL_RATE then some (leBytes 4 (mapGetD d.log.buckets (d.obj Obj.RL_SEL) {}).stagedRate)
  else if key = Obj.RL_BURST then some (leBytes 2 (mapGetD d.log.buckets (d.obj Obj.RL_SEL) {}).stagedBurst)
  else if key = Obj.RL_SUPPRESSED then some (leBytes 8 (mapGetD d.log.buckets (d.obj Obj.RL_SEL) {}).suppressed)
  else if key = 0x1410FF then
    let b := mapGetD d.log.buckets (d.obj Obj.RL_SEL) {}
    some (leBytes 4 b.rate ++ leBytes 2 b.burst)
  else if key % 256 = 0xFF then some (d.committed idx)
  else if key = Obj.PW_DOMAINS then
    some ((upTo (if d.agentPart then 12 else 96)).map (fun i => BitVec.ofNat 8 (mapGetD d.domains i 0)))
  else if key = Obj.CK_NOMINAL_MHZ then some (leBytes 2 (islandClock d.agentPart (d.obj Obj.CK_SEL)).1)
  else if key = Obj.CK_FLOOR_MHZ then some (leBytes 2 (islandClock d.agentPart (d.obj Obj.CK_SEL)).2)
  else if key = Obj.TR_RESYNC_PCT then some (leBytes 1 d.resyncPct)
  else if openKeys.contains key then
    match objRow key with
    | some r => some (leBytes r.len d.openNat)
    | none => none
  else none

/-- The device after a READ of an address: an open value has been drawn. -/
def Dev.afterRead (d : Dev) (key : Nat) : Dev :=
  if key = Obj.TR_RESYNC_PCT then (d.setObj key d.resyncPct).drawn else if openKeys.contains key then d.drawn else d

/-- Where a WRITE of RL_RATE or RL_BURST is staged: in the bucket of the selected code (R491, R499). -/
def Dev.stageRate (d : Dev) (key v : Nat) : Dev :=
  let code := d.obj Obj.RL_SEL
  let b := mapGetD d.log.buckets code {}
  let b := if key = Obj.RL_RATE then { b with stagedRate := v } else { b with stagedBurst := max 1 v }
  { d with log := { d.log with buckets := mapSet d.log.buckets code b } }

/-- RL_COMMIT: staged rates and bursts take effect; each bucket that changes is set to its new burst, full (R491). -/
def Dev.commitRates (d : Dev) : Dev :=
  { d with log := { d.log with buckets := d.log.buckets.map (fun e =>
      let b := e.2
      (e.1, if b.stagedRate = b.rate ∧ b.stagedBurst = b.burst then b
            else { b with rate := b.stagedRate, burst := b.stagedBurst, level := b.stagedBurst * 1000000000, stamp := d.time })) } }

/-- The SUPPRESSED record of one context's part of an episode (R490). -/
def Dev.writeSummary (d : Dev) (code : Nat) (e : Episode) : Dev :=
  d.writeRec e.sev 0x001 e.ctx (leBytes 2 code ++ [0, 0] ++ leBytes 4 (min e.count 0xFFFFFFFF) ++ leBytes 8 e.first ++ leBytes 8 e.last)

/-- The episode of a code ends: its parts, and the device without them. -/
def Dev.endEpisode (d : Dev) (code : Nat) : Dev × List Episode :=
  let b := mapGetD d.log.buckets code {}
  ({ d with log := { d.log with buckets := mapSet d.log.buckets code { b with episode := [] } } }, b.episode)

/-- The summaries of a code's episode are written, one for each context (R490). -/
def Dev.summaries (d : Dev) (code : Nat) : Dev :=
  let r := d.endEpisode code
  r.2.foldl (fun d e => d.writeSummary code e) r.1

/-- Codes whose episode an RL_COMMIT ends: their bucket changes, which fills it, to a rate that is not zero (R490, R491). -/
def Dev.commitCodes (d : Dev) : List Nat :=
  (d.log.buckets.filter (fun e => !(e.2.stagedRate == e.2.rate && e.2.stagedBurst == e.2.burst) && e.2.stagedRate != 0 &&
    !e.2.episode.isEmpty)).map (fun e => e.1)

/-- A bucket is full again after a suppression (R490). -/
def Dev.bucketFull (d : Dev) (code : Nat) : Bool :=
  let b := mapGetD d.log.buckets code {}
  b.rate != 0 && !b.episode.isEmpty && Nat.ble (b.burst * 1000000000) (b.levelAt d.time)

/-! ## The recorder's view and its clearing (R492, R495, R496) -/

/-- The records of the views of an agent, and of the manager's context views before hidden forms: PAD is never shown. -/
def shown (rs : List EvRec) (p : EvRec → Bool) : List EvRec := rs.filter (fun r => r.code != 0 && p r)

/-- The records of a view a read returns: from a cursor on, whole records up to a number of bytes. -/
def fillRecs : Nat → List EvRec → List EvRec
  | _, [] => []
  | room, r :: rest => if r.len ≤ room then r :: fillRecs (room - r.len) rest else []

/-- A read of ER_READ over a view (R495): the bytes and the device with cursor, lost and damaged counts advanced. `ck` is
the cursor's key, `lk` and `mk` those of ER_LOST and ER_MAX. -/
def Dev.erRead (d : Dev) (ck lk mk : Nat) (p : EvRec → Bool) : Dev × List Byte :=
  let cur := d.obj ck
  let view := shown d.log.ring p
  let from_ := view.filter (fun r => Nat.ble cur r.seq)
  let start := max cur (match d.log.ring with | [] => cur | r :: _ => r.seq)
  let lost := ((shown d.log.dropped p).filter (fun r => Nat.ble cur r.seq)).length
  let good := from_.filter (fun r => r.damaged == 0)
  let out := fillRecs (max 256 (d.obj mk)) good
  let last : Nat := match out.getLast? with | some r => r.seq + 1 | none => start
  let bad := (from_.filter (fun r => r.damaged != 0 && decide (r.seq < last))).length
  let d := (d.bumpBy lk lost).bumpBy Obj.EV_DAMAGED bad
  (d.setObj ck last, out.flatMap EvRec.bytes)

/-- SEQ of the last record that a clear of the areas of a code clears; where the areas hold none the spec states no value. [DESIGN CHOICE, log 116] -/
def Dev.lastCleared (d : Dev) (which : Nat) : Nat :=
  match (if which = 2 then [] else d.log.ring) ++ (if which = 1 then [] else d.log.first) with
  | [] => d.openNat % 2 ^ 48
  | rs => rs.foldl (fun k r => max k r.seq) 0

/-- Clears the areas of a code: 1 circulating, 2 first, 3 both; a CLEARED record takes the first place of each (R496): ring offset 0,
and the first slot. [DESIGN CHOICE, log 116] -/
def Dev.clearLog (d : Dev) (which : Nat) : Dev :=
  let payload := [BitVec.ofNat 8 which] ++ List.replicate 7 0 ++ leBytes 8 (d.lastCleared which)
  let d := d.drawn
  let log := d.log
  let log := if which = 2 then log else { log with ring := [], nextOff := 0 }
  let log := if which = 1 then log else { log with first := [], pending := d.obj Obj.EV_FIRST_SIZE }
  let full := decide (log.first.length ≥ log.pending)
  let d := { d with log := log, health := if full then d.health else d.health &&& ~~~0x20#32 }
  d.writeRec 1 0x003 0 payload

end Sys2Proof.Machine
end

