-- ==== Sys2Proof/Machine/AgentNode.lean ====
section
/-! DEFINITION. Sys2Proof/Machine/AgentNode.lean: an agent's node window and control island: the descriptor, saved
link-training settings, mailboxes, its dictionary, firmware restart and reset (chapter "The Bamen agent and the node
contract"). -/

namespace Sys2Proof.Machine

/-! ## The node descriptor (R314-R317) -/

/-- A field of a published descriptor. -/
abbrev Desc := List Byte

/-- Bytes of a range are all zero. -/
def zeroIn (d : Desc) (off n : Nat) : Bool := ((d.drop off).take n).all (fun b => b == 0)

/-- The regions of a table side: the offset of the field that places it, its offset and its length (R318). -/
def descRegions (d : Desc) : List (Nat × Nat × Nat) :=
  [(0x24, fieldAt d 0x24 4, 16 * fieldAt d 0x08 2), (0x28, fieldAt d 0x28 4, 16 * fieldAt d 0x0A 2),
   (0x2C, fieldAt d 0x2C 4, 16 * fieldAt d 0x0C 2), (0x30, fieldAt d 0x30 4, 32 * fieldAt d 0x0E 2),
   (0x34, fieldAt d 0x34 4, 32 * fieldAt d 0x10 2)] ++
  (if descCap d 2 then [(0x38, fieldAt d 0x38 4, 48 * fieldAt d 0x12 2)] else []) ++ [(0x3C, fieldAt d 0x3C 4, 144)]

/-- Two regions overlap. -/
def overlap (a b : Nat × Nat × Nat) : Bool :=
  decide (a.2.2 ≠ 0) && decide (b.2.2 ≠ 0) && decide (a.2.1 < b.2.1 + b.2.2) && decide (b.2.1 < a.2.1 + a.2.2)

/-- The checks of a descriptor in the order of Table: Join results, each with the offset of its field. `regOk` says that
the read of REG_BASE + 0x00 succeeded. -/
def descChecks (d : Desc) (regOk : Bool) : List (Nat × List (Nat × Bool)) :=
  let kind := fieldAt d 1 1
  let sw := kind == 0 || kind == 2
  let f := fun (off n : Nat) => fieldAt d off n
  let mg := f 0x48 1
  let watch := (upTo 32).map (fun i => (0x50 + 4 * i, f (0x50 + 4 * i) 4))
  let fences := (upTo 8).map (fun i => (0xD0 + 2 * i, f (0xD0 + 2 * i) 2))
  let regions := descRegions d
  [(2, [(0x00, f 0 1 != 1), (0x01, decide (2 < kind)), (0x04, bitsOf (f 4 4) 31 8 != 0),
        (0x08, sw && decide (512 < f 0x08 2)), (0x0A, sw && decide (512 < f 0x0A 2)), (0x0C, sw && decide (256 < f 0x0C 2)),
        (0x0E, sw && decide (64 < f 0x0E 2)), (0x10, sw && decide (4096 < f 0x10 2)),
        (0x12, sw && descCap d 2 && decide (512 < f 0x12 2)), (0x48, Nat.ble 128 mg && decide (mg < 255)),
        (0x49, !zeroIn d 0x49 7), (0xE8, !zeroIn d 0xE8 24)] ++
       watch.map (fun w => (w.1, bitsOf w.2 23 16 != 0 || bitsOf w.2 7 4 != 0 || decide (2 < w.2 % 8))) ++
       fences.map (fun w => (w.1, bitsOf w.2 15 2 != 0 || w.2 % 4 == 3))),
   (3, [(0x02, if sw then f 2 1 == 0 || decide (128 < f 2 1) else f 2 1 != 0),
        (0x03, if kind = 0 then f 3 1 != 0 else f 3 1 == 0 || decide (16 < f 3 1)),
        (0x48, mg != 0xFF && Nat.ble (if sw then f 2 1 else f 3 1) mg)]),
   (4, [(0x04, sw && !(descCap d 0 && descCap d 1))]),
   (5, [(0x08, sw && !descCap d 2 && decide (f 0x08 2 < 512)), (0x12, sw && descCap d 2 && f 0x12 2 == 0)]),
   (6, [(0x18, sw && f 0x18 8 % 4096 != 0), (0x20, sw && f 0x20 4 % 4096 != 0), (0x40, f 0x40 8 % 256 != 0 || !regOk)] ++
       regions.map (fun r => (r.1, sw && (r.2.1 % 16 != 0 || decide (f 0x20 4 < r.2.1 + r.2.2) ||
         regions.any (fun q => decide (q.1 < r.1) && overlap q r))))),
   (7, watch.map (fun w => (w.1, w.2 % 8 == 1 && Nat.ble (if bitOf w.2 15 then f 3 1 else f 2 1) (bitsOf w.2 14 8))))]

/-- The first check that fails: its join result and the lowest offset of a failing field; none when the descriptor is
accepted. -/
def descBad (d : Desc) (regOk : Bool) : Option (Nat × Nat) :=
  (descChecks d regOk).findSome? (fun c => (firstBad c.2).map (fun off => (c.1, off)))

/-- Firmware takes a published descriptor. One published while joined is a reset of the node, unless it follows a reset
already detected (R317). A read of REG_BASE that succeeds shows the node port up; the sideband reads nothing there (R308, R309). [DEDUCED, log 30; DEDUCED, log 120] -/
def Agent.publish (a : Agent) (regOk : Bool) : Agent :=
  let d := padTo 256 (a.node.descArea.map BitVec.toNat) |>.map (BitVec.ofNat 8)
  let a := a.countChecks
  let again := a.obj Obj.AG_JOIN == 0 && !a.node.inReset
  let a := if again then
      let a := { a with node := { a.node with hbRuns := false, ready := false } }
      if a.isEndpoint then (a.assertFences (a.fencesOf 1)).resetActs 0 else a.switchReset
    else a
  let a := { a with node := { a.node with published := d, inReset := false, linkDown := if regOk then none else a.node.linkDown } }
  let a := a.bump Obj.ND_PUBLISHED
  match descBad d regOk with
  | some (res, off) =>
    (((({ a with node := { a.node with desc := [] } }).setObj Obj.AG_JOIN res).setObj Obj.AG_KIND 0xFF).setObj Obj.ND_REASON off)
  | none =>
    (((({ a with node := { a.node with desc := d } }).setObj Obj.AG_JOIN 0).setObj Obj.AG_KIND (fieldAt d 1 1)).setObj
      Obj.ND_REASON 0xFFFFFFFF)

/-- DESC_PUBLISH: node firmware has written the descriptor `desc` and publishes it (R314). -/
def execDescPublish (die : Nat) (desc : List Byte) (regOk : Bool) (s : State) : Out :=
  onAgent s die (fun a => if !a.hears then a else
    ({ a with node := { a.node with descArea := desc } }).nodeCtl 4 (fun a => a.publish regOk))

/-! ## Saved link-training settings (R330, R331, R337) -/

/-- The CRC of an LT area passes over its settings. -/
def ltOk (area : List Byte) : Bool :=
  let n := fieldAt area 8 4
  Nat.ble n 16320 && fieldAt area 12 4 == crcOf 0 ((area.drop 0x40).take n)

/-- The area is checked and written to the older NVM copy. -/
def Agent.saveLt (a : Agent) : Agent :=
  let a := { a with node := { a.node with ltWants := false } }
  if !ltOk a.node.lt then a.setObj Obj.LT_VALID 0
  else
    let a := { a with node := { a.node with ltCopies := a.node.lt :: a.node.ltCopies.take 1, ltLast := some a.dev.time } }
    (a.bump Obj.LT_SAVES).setObj Obj.LT_VALID 1

/-- LT_SAVE: a save, or one deferred to 60 s after the previous (R331). -/
def Agent.ltSave (a : Agent) : Agent :=
  match a.node.ltLast with
  | some t => if a.dev.time < t + 60000000000 then { a with node := { a.node with ltWants := true } } else a.saveLt
  | none => a.saveLt

/-- Node firmware has written the LT area; only the node port carries it, so while that is down the area stays (R308). [DEDUCED, log 120] -/
def Agent.writeLt (a : Agent) (area : List Byte) : Agent :=
  if a.node.linkDown.isSome then a else { a with node := { a.node with lt := area } }

def execLtSave (die : Nat) (area : List Byte) (s : State) : Out :=
  onAgent s die (fun a => if !a.hears then a else (a.writeLt area).nodeCtl 5 Agent.ltSave)

/-- LT_SAVE_DEFERRED: 60 s after the previous save, the area as it then stands is saved. -/
def execLtSaveDeferred (die : Nat) (area : List Byte) (s : State) : Out :=
  onAgent s die (fun a =>
    if !a.hears then a
    else
      let a := a.writeLt area
      if a.node.ltWants && a.runs then a.saveLt else a)

/-! ## Mailboxes -/

/-- What a mailbox says of a message's length and form once its code is defined (R327, R501). -/
def formCode (box code : Nat) (data : List Byte) : Nat :=
  let n := data.length
  if box = 0 then (if code = 0 then (if n = 0 then 0 else 4) else if n = 0 then 4 else 0)
  else if box = 1 then
    let form := fieldAt data 0 1
    if n = 0 then 4
    else if form = 1 then (if n = 12 then 0 else 4)
    else if form = 2 ∨ form = 3 then
      let k := if form = 2 then fieldAt data 2 1 else fieldAt data 3 1
      if k = 0 ∨ 6 < k ∨ n ≠ 8 + 8 * k then 4 else 0
    else if form = 4 then (if n = 16 then 0 else 4)
    else 3
  else 0

/-- A LOG message becomes a NODE_LOG record, its bytes filled up to a multiple of 8. -/
def Agent.logMessage (a : Agent) (data : List Byte) : Agent :=
  a.onDev (fun d => d.record 0 0x381 0 (data ++ List.replicate ((8 - data.length % 8) % 8) 0))

/-- The latest value of a count is kept (R501). -/
def putCount (m : SMap Nat) (k v : Nat) : SMap Nat := mapSet m k v

/-- A node counter sample. -/
def Agent.sample (a : Agent) (data : List Byte) : Agent :=
  let form := fieldAt data 0 1
  let t := a.tl
  let t' :=
    if form = 2 then
      let ep := bitOf (fieldAt data 3 1) 0
      (upTo (fieldAt data 2 1)).foldl (fun (t : Samples) i =>
        { t with tx := putCount t.tx (portNo ep (fieldAt data 1 1 + i)) (fieldAt data (8 + 8 * i) 8) }) t
    else if form = 3 then
      (upTo (fieldAt data 3 1)).foldl (fun (t : Samples) i =>
        { t with rx := putCount t.rx (fieldAt data 1 2 + i) (fieldAt data (8 + 8 * i) 8) }) t
    else { t with counters := putCount t.counters (fieldAt data 4 4) (fieldAt data 8 8) }
  { a with tl := { t' with changed := t.changed || t' != t } }

/-- A neighbour report: kept, a confirmation it contradicts ended, and sent to the manager once attested (R249, R436). -/
def Agent.neighbourReport (a : Agent) (data : List Byte) : Agent :=
  let ep := bitOf (fieldAt data 1 1) 0
  let port := fieldAt data 2 1 % 128
  let n := portNo ep port
  let b := fieldAt data 3 1
  let r : NeighRec := { node := fieldAt data 4 8, port := b % 128, ep := bitOf b 7 }
  let a := { a with neigh := mapSet a.neigh n r }
  let a := match mapGet a.peers n with
    | some p => if r.node ≠ 0 ∧ r.node ≠ p.node then { a with peers := mapDel a.peers n } else a
    | none => a
  if a.dev.net.nid = nidNone then a else a.toMgr (.neighbour r.node r.port r.ep port ep)

/-- A HOST_REPLY answers the last HOST_MSG (R362). -/
def Agent.hostReply (a : Agent) (data : List Byte) : Agent :=
  match a.node.hmLast with
  | none => a
  | some c => (a.onDev (fun d => d.setBlob (ctxKey Obj.HM_REPLY c) data)).setObj (ctxKey Obj.HM_STATUS c) 3

/-- A message of node firmware is taken: checked, and acted on when it is accepted. -/
def Agent.takeMessage (a : Agent) (box hdr : Nat) (data : List Byte) (chk : Nat) : Agent :=
  let r := a.receive box (hdr, data, chk) (formCode box)
  let code := bitsOf hdr 23 16
  let data := data.take (hdr % 64)
  if r.2 ≠ 0 then r.1
  else if box = 0 then (if code = 1 then r.1.logMessage data else r.1)
  else if box = 1 then (if fieldAt data 0 1 = 1 then r.1.neighbourReport data else r.1.sample data)
  else r.1.hostReply data

/-- The registers of a node-to-agent mailbox take what node firmware writes (R327). -/
def Agent.putMessage (a : Agent) (box hdr : Nat) (data : List Byte) (chk : Nat) : Agent :=
  let b := mapGetD a.node.inBoxes box {}
  { a with node := { a.node with inBoxes := mapSet a.node.inBoxes box { b with hdr := hdr % 2 ^ 32, data := data, chk := chk % 2 ^ 32 } } }

/-- A message of node firmware on a mailbox is taken at once; while the control cores do not run it stays pending, and writes to its
mailbox have no effect until it is done (R328, R549). -/
def Agent.nodeMessage (a : Agent) (box hdr : Nat) (data : List Byte) (chk : Nat) : Agent :=
  if !a.hears || (mapGetD a.node.inBoxes box {}).held.isSome then a
  else
    let a := a.putMessage box hdr data chk
    if a.runs then a.takeMessage box hdr data chk
    else { a with node := { a.node with inBoxes := mapUpd a.node.inBoxes box {} (fun b => { b with held := some (hdr, data, chk) }) } }

/-- The messages that wait in the node-to-agent mailboxes are taken. -/
def Agent.takeHeld (a : Agent) : Agent :=
  [0, 1, 2].foldl (fun (a : Agent) (box : Nat) =>
    let b := mapGetD a.node.inBoxes box {}
    match b.held with
    | none => a
    | some (hdr, data, chk) =>
      ({ a with node := { a.node with inBoxes := mapSet a.node.inBoxes box { b with held := none } } }).takeMessage box hdr data chk) a

/-- NODE_DOORBELL: a doorbell-only message on mailbox 0. [DEDUCED, log 35] -/
def execNodeDoorbell (die hdr : Nat) (data : List Byte) (chk : Nat) (s : State) : Out :=
  onAgent s die (fun a => a.nodeMessage 0 hdr data chk)
/-- NODE_LOG: LOG on mailbox 0. -/
def execNodeLog (die hdr : Nat) (data : List Byte) (chk : Nat) (s : State) : Out :=
  onAgent s die (fun a => a.nodeMessage 0 hdr data chk)
/-- TELEMETRY_SAMPLE: a node counter sample on mailbox 1. -/
def execTelemetrySample (die hdr : Nat) (data : List Byte) (chk : Nat) (s : State) : Out :=
  onAgent s die (fun a => a.nodeMessage 1 hdr data chk)
/-- NEIGHBOUR_REPORT: a probe result on mailbox 1. -/
def execNeighbourReport (die hdr : Nat) (data : List Byte) (chk : Nat) (s : State) : Out :=
  onAgent s die (fun a => a.nodeMessage 1 hdr data chk)
/-- HOST_REPLY: an answer on mailbox 2. -/
def execHostReply (die hdr : Nat) (data : List Byte) (chk : Nat) (s : State) : Out :=
  onAgent s die (fun a => a.nodeMessage 2 hdr data chk)

/-- NODE_MESSAGE_TAKEN: node firmware has taken the message of an agent-to-node mailbox and set DONE with a return code;
the next queued message is posted (R328, R329). -/
def execNodeMessageTaken (die box code : Nat) (s : State) : Out :=
  onAgent s die (fun a =>
    let b := mapGetD a.node.outBoxes box {}
    match b.posted with
    | none => a
    | some _ =>
      let b := { b with posted := none, alive := if code = 0 then (b.alive + 1) % 256 else b.alive
                        ack := 2 ^ 31 + 2 ^ 30 + code % 2 ^ 16 * 256 + bitsOf b.hdr 31 24 }
      let a := { a with node := { a.node with outBoxes := mapSet a.node.outBoxes box b } }
      let a := a.bump Obj.MX_SENT
      let a := if code = 0 then a else a.bump Obj.MX_REJECT
      let a := match box, a.node.hmQueue with
        | 5, c :: rest =>
          let a := { a with node := { a.node with hmQueue := rest } }
          if rest.contains c then a else a.setObj (ctxKey Obj.HM_STATUS c) 2
        | _, _ => a
      (a.postNext box).tellLost)

/-! ## The node window as node firmware reads it (R309, R310, R327) -/

/-- NODE_STAT (Table: Node window). [DEDUCED, log 118] -/
def Agent.nodeStat (a : Agent) : Nat :=
  a.obj Obj.AG_JOIN * 2 ^ 24 + a.obj Obj.LT_VALID % 2 * 128 + (if a.node.granted then 64 else 0) +
  (if a.obj Obj.WF_FENCE &&& a.fencesOf 1 ≠ 0 then 32 else 0) + (if a.runs then 0 else 16)

/-- A register of a mailbox: header, data, check, GO, acknowledgement; others of its 128 bytes, and the reserved mailboxes, read zero. [DEDUCED, log 118] -/
def Agent.boxWord (a : Agent) (box off : Nat) : Nat :=
  let show_ := fun (hdr : Nat) (data : List Byte) (chk : Nat) (go : Bool) (ack : Nat) =>
    if off = 0 then hdr else if off < 0x3C then fieldAt data (off - 4) 4 else if off = 0x3C then chk
    else if off = 0x40 then (if go then 1 else 0) else if off = 0x44 then ack else 0
  if box ≤ 2 then
    let b := mapGetD a.node.inBoxes box {}
    show_ b.hdr b.data b.chk b.held.isSome b.ack
  else if 4 ≤ box ∧ box ≤ 6 then
    let b := mapGetD a.node.outBoxes box {}
    show_ b.hdr b.data b.chk b.posted.isSome b.ack
  else 0

/-- The 32-bit word that node firmware reads at an aligned offset of the node window; reserved offsets read zero, and what a read of
NODE_HB, LINK_MSG or NODE_CTL returns no rule says. No command writes a reserved offset. [DEDUCED, log 118] -/
def Agent.windowWord (a : Agent) (off : Nat) : Option Nat :=
  if off < 0x0C then none
  else if off = 0x0C then some a.nodeStat
  else if 0x100 ≤ off ∧ off < 0x200 then some (fieldAt a.node.descArea (off - 0x100) 4)
  else if 0x400 ≤ off ∧ off < 0x800 then some (a.boxWord ((off - 0x400) / 0x80) ((off - 0x400) % 0x80))
  else if 0x4000 ≤ off ∧ off < 0x8000 then some (fieldAt a.node.lt (off - 0x4000) 4)
  else some 0

/-! ## The dictionary of an agent (R337, R357-R359) -/

/-- HM_SEND: HOST_MSG is posted on mailbox 5 (R362). -/
def Agent.hmSend (a : Agent) (c : Nat) (data : List Byte) : Agent :=
  let lost := a.obj Obj.AG_EVT_LOST
  let a' := a.post 5 0x20 data
  if a'.obj Obj.AG_EVT_LOST ≠ lost then a'.setObj (ctxKey Obj.HM_STATUS c) 4
  else
    ({ a' with node := { a'.node with hmQueue := a'.node.hmQueue ++ [c], hmLast := some c } } |>.setObj
      (ctxKey Obj.HM_STATUS c) 1).bump (ctxKey Obj.HM_SENT c)

/-- The value of an object the agent derives. -/
def Agent.view (a : Agent) (key : Nat) : Option (List Byte) :=
  let ports := fun (p : Nat → Bool) => leBytes 16 (bitmapOf ((upTo 128).filter p))
  if key = Obj.WF_BAD then some (ports (fun p => (a.port (if a.isSwitch then p else 128 + p)).bad))
  else if key = Obj.WF_FMASK then some (leBytes 16 a.node.fmask.toNat)
  else if key = Obj.WF_CHECKS then some (leBytes 8 a.wfChecks)
  else if key = Obj.MX_QUEUE then some (leBytes 1 (mapGetD a.node.outBoxes 4 {}).queue.length)
  else if key = Obj.LT_NODE_ID then some (leBytes 8 (fieldAt a.node.lt 0 8))
  else if key = Obj.LT_LENGTH then some (leBytes 2 (fieldAt a.node.lt 8 4))
  else if key = Obj.PW_STATE then some (leBytes 1 (a.dev.domain 7))
  else if key = Obj.ND_DESC then some a.node.published
  else if key = Obj.SC_EXPIRE then
    some (leBytes 4 (match a.link.grant with | some t => (t - a.dev.time + 999999999) / 1000000000 | none => 0))
  else if key = Obj.TL_FACTOR then some (leBytes 2 (a.obj Obj.AP_TL_PERIOD_MS / 1000))
  else a.dev.view key

/-- The requester reaches the object (R357): a virtual function reaches per-context objects of its own context and
generation, where the partition table holds its MEMBER entry. -/
def Agent.reaches (a : Agent) (c gen key : Nat) : Bool :=
  if c = 0 then true
  else
    (match objRow key with | some r => r.perCtx | none => false) &&
    (match mapGet a.ptable c with | some e => e.role == 1 && e.gen == gen | none => false)

/-- Whether an object is an own command of the agent with the values it lists. -/
def agentListed (key : Nat) : Option (List Nat) :=
  if key = Obj.AG_RESTART ∨ key = Obj.LT_CLEAR ∨ key = Obj.SC_APPLY ∨ key = Obj.RL_COMMIT ∨ key = Obj.AT_GO then some [1]
  else if key = Obj.EV_CLEAR then some [1, 2, 3]
  else if key = Obj.DV_RESET then some [0x5A]
  else none

/-- The agent's reset (R548): descriptor, window, neighbour table, gone list, plate store, partition table, keys and
claims go; fences are released. NVM with its firmware slots, local time and the node's own state stay. [DEDUCED, log 80] -/
def Agent.reset (a : Agent) (cause : Nat) : Agent :=
  let d := a.dev
  let stored := [Obj.FN_ETHERTYPE, Obj.FN_VID, Obj.FN_PCP_MAP, Obj.FN_MAC_BASE]
  let objs := stored.foldl (fun (o : SMap Nat) k => match mapGet d.objs k with | some v => mapSet o k v | none => o) []
  let dev : Dev := { agentPart := true, key := d.key, free := d.free, objs := objs, time := d.time, out := d.out
                     log := d.log.afterReset, health := if d.log.first.length ≥ d.log.pending then 0x20 else 0
                     fw := d.fw, fwVers := d.fwVers, floor := floorOf (d.obj Obj.SC_FUSES), resets := d.resets + 1, since := d.time
                     net := { stored := stored.foldl (fun (o : SMap Nat) k =>
                                match mapGet objs k with | some v => mapSet o k v | none => o) [] } }
  let dev := (((dev.setObj Obj.DV_RESET_CAUSE cause).setObj Obj.AG_SLOT d.fw).setObj Obj.LT_SAVES (a.obj Obj.LT_SAVES)).setObj
    Obj.FN_P1_MODE (a.obj Obj.FN_P1_MODE)
  let dev := (dev.setObj Obj.SC_FUSES (a.obj Obj.SC_FUSES)).setObj Obj.PW_REF_LOST (if a.link.refLost then 1 else 0)
  let lt := (a.node.ltCopies.find? ltOk).getD []
  { dev := if lt.isEmpty then dev else dev.setObj Obj.LT_VALID 1
    node := { writes := a.node.writes, fmask := a.node.fmask, unknown := [0, 1], lt := lt
              ltCopies := a.node.ltCopies, ltLast := a.node.ltLast }
    bulk := { held := a.bulk.held, slot := a.bulk.slot }
    link := { held := true, refLost := a.link.refLost, lowSupply := a.link.lowSupply, straps := a.link.straps } }

/-- AGENT_RESET: the agent resets through AG_RESET# (cause 1) or another cause (R548). -/
def execAgentReset (die cause : Nat) (s : State) : Out :=
  onAgent s die (fun a => a.reset (if a.link.lowSupply then 0 else cause))

/-- The control island restarts (R332, R549): its cores stop, and `prev` is the slot the boot ROM falls back to. -/
def Agent.stopCores (a : Agent) (prev : Nat) (announced activated : Bool) : Agent :=
  match a.restart with
  | some _ => a
  | none => ({ a with restart := some { since := a.dev.time, prev := prev, announced := announced, activated := activated } }.bump
      Obj.AG_RESTARTS).setObj Obj.AG_RESTART 1

/-- A command object of an agent takes effect. -/
def Agent.command (a : Agent) (key v : Nat) : Agent :=
  if key = Obj.AG_RESTART then a.stopCores a.dev.fw true false
  else if key = Obj.LT_CLEAR then
    ({ a with node := { a.node with ltCopies := [], lt := [] } }).setObj Obj.LT_VALID 0
  else if key = Obj.EV_CLEAR then a.onDev (fun d => d.clearLog v)
  else if key = Obj.SC_FUSES_SET then a.onDev (fun d => d.burn v)
  else if key = Obj.RL_COMMIT then a.onDev (fun d => d.commitCodes.foldl Dev.summaries d.commitRates)
  else if key = Obj.DV_RESET then a.reset 2
  else a

/-- Answers a DICT_REQ, under the context and generation it came with. -/
def Agent.answerDict (a : Agent) (hdr : Hdr) (tag result : Nat) (data : List Byte) : Agent :=
  a.onDev (fun d => d.send { dst := hdr.src, assoc := 1, ctx := hdr.ctx, gen := hdr.gen, msg := .dictReply hdr.ctx hdr.gen tag result data })

end Sys2Proof.Machine
end

