-- ==== Sys2Proof/Machine/AgentDict.lean ====
section
/-! DEFINITION. Sys2Proof/Machine/AgentDict.lean: dictionary requests at an agent, and its own commands reached by them
(chapters "The object dictionary", "The Bamen agent and the node contract" and "Security, attestation and debug"). -/

namespace Sys2Proof.Machine

/-- What a DICT_REQ asks of its header: it is a command frame when it carries a WRITE (R410). -/
def dictReqFrame (write : Bool) : FrameKind := { cls := .dict, claim := write }

/-- The object's copy for the requester's context. -/
def copyFor (key c : Nat) : Nat :=
  match objRow key with
  | some r => if r.perCtx then ctxKey key c else key
  | none => key

/-- The records of the agent's recorder view: every record through the physical function, those of its context through a
virtual one (R492). -/
def agentShows (c : Nat) (r : EvRec) : Bool := c == 0 || r.ctx == c

/-- A READ: the value, and the agent after what reading changes (R495, R467). [DEDUCED, log 36; DEDUCED, log 37] -/
def Agent.readObj (a : Agent) (c key : Nat) : Agent × List Byte :=
  if key = Obj.ER_READ then
    let r := a.dev.erRead (ctxKey Obj.ER_CURSOR c) (ctxKey Obj.ER_LOST c) (ctxKey Obj.ER_MAX c) (agentShows c)
    ({ a with dev := r.1 }, r.2)
  else if key = Obj.ER_PENDING then
    (a, leBytes 4 ((shown a.dev.log.ring (agentShows c)).filter (fun r => Nat.ble (a.obj (ctxKey Obj.ER_CURSOR c)) r.seq)).length)
  else if key = Obj.SC_NONCE then
    let v := a.dev.openBytes.take 32
    ((a.onDev Dev.drawn).onDev (fun d => d.setBlob Obj.SC_NONCE v), v)
  else match a.view key with
    | some v => (a.onDev (fun d => d.afterRead key), v)
    | none =>
      match objRow key with
      | some r => (a, a.dev.readStored r (copyFor key c))
      | none => (a, [])

/-- SC_APPLY at an agent: it has no owner slot, so no token changes it; the code it reports is open (R468, R472). -/
def Agent.applyToken (a : Agent) : Agent :=
  let v := 1 + a.dev.openNat % 7
  (a.onDev Dev.drawn).setObj Obj.SC_RESULT v

/-- A WRITE that passed its checks. [DEDUCED, log 36; DEDUCED, log 37] -/
def Agent.writeObj (a : Agent) (c key : Nat) (data : List Byte) : Agent :=
  if key = Obj.HM_SEND then a.hmSend c data
  else if key = Obj.RL_RATE ∨ key = Obj.RL_BURST then a.onDev (fun d => d.stageRate key (leNat data))
  else if key = Obj.SC_APPLY then a.applyToken
  else match objRow key with
    | some r =>
      if r.acc = .cmd then a.command key (leNat data)
      else
        let a := (if key = Obj.WF_ENABLE then a.countChecks else a).onDev (fun d => d.writeStored r (copyFor key c) data)
        if r.idx = 0x1300 then a.onDev Dev.wakeDeeper else a
    | none => a

/-- Check 10 for the agent's commands: a value the object does not list. Fuses of an agent are burnt as a manager's are
(R462). -/
def agentValueBad (key : Nat) (data : List Byte) : Bool :=
  if key = Obj.SC_FUSES_SET then !fusesListed (leNat data) else
  match agentListed key with
  | some l => !l.contains (leNat data)
  | none => false

/-- A dictionary request at an agent: ingress, the output stage for a WRITE, the checks in order, the effect and the
reply (R283, R341, R357-R359). -/
def Agent.dictReq (a : Agent) (hdr : Hdr) (tag key : Nat) (data : List Byte) (write : Bool) : Agent :=
  let t := a.take (dictReqFrame write) hdr none
  let a := t.ag
  if !t.ok then a
  else if write && !a.accepts hdr then a.answerDict hdr tag 0x000D []
  else
    let c := hdr.ctx
    let reach := if a.reaches c hdr.gen key then 0 else 0x0006
    let res := dictResult true key write data reach 0 0 0
    if res ≠ 0 then a.answerDict hdr tag res []
    else if write then
      if agentValueBad key data then a.answerDict hdr tag 0x0007 []
      else if key = Obj.AG_RESTART ∨ key = Obj.DV_RESET then (a.answerDict hdr tag 0 []).writeObj c key data
      else (a.writeObj c key data).answerDict hdr tag 0 []
    else
      let r := a.readObj c key
      r.1.answerDict hdr tag 0 r.2

/-- DICT_REQ: an agent takes a proxied request. -/
def execDictReq (die : Nat) (hdr : Hdr) (tag key : Nat) (data : List Byte) (write : Bool) (s : State) : Out :=
  onAgent s die (fun a => a.dictReq hdr tag key data write)

/-- LT_CLEAR: 1 erases both saved copies (R337). -/
def execLtClear (die : Nat) (hdr : Hdr) (tag v : Nat) (s : State) : Out :=
  onAgent s die (fun a => a.dictReq hdr tag Obj.LT_CLEAR [BitVec.ofNat 8 v] true)

/-- AG_RESTART: 1 restarts the control island with its state retained (R332). -/
def execAgRestart (die : Nat) (hdr : Hdr) (tag v : Nat) (s : State) : Out :=
  onAgent s die (fun a => a.dictReq hdr tag Obj.AG_RESTART [BitVec.ofNat 8 v] true)

/-- HM_SEND: HOST_MSG is posted on mailbox 5 (R362). -/
def execHmSend (die : Nat) (hdr : Hdr) (tag : Nat) (data : List Byte) (s : State) : Out :=
  onAgent s die (fun a => a.dictReq hdr tag Obj.HM_SEND data true)

/-- SC_GRANT: an agent debug grant names a die, a duration and an impression number under the manager's signature; when it
verifies, INVASIVE access opens for its duration (R472). A grant that fails has no effect; the result it is answered with
is open. [DEDUCED, log 37] -/
def execScGrant (die : Nat) (hdr : Hdr) (tag gdie dur imp : Nat) (sigOk : Bool) (s : State) : Out :=
  onAgent s die (fun a =>
    let t := a.take (dictReqFrame true) hdr none
    let a := t.ag
    if !t.ok then a
    else if !a.accepts hdr then a.answerDict hdr tag 0x000D []
    else if hdr.ctx ≠ 0 then a.answerDict hdr tag 0x0006 []
    else if sigOk && gdie == die && imp == a.obj Obj.AG_COMMITTED then
      let a := { a with link := { a.link with grant := some (a.dev.time + dur * 1000000000) } }
      ((a.setObj Obj.SC_DEBUG 2).setObj Obj.SC_DEBUG_MAX 2).answerDict hdr tag 0 []
    else
      let r := 1 + a.dev.openNat % 17
      (a.onDev Dev.drawn).answerDict hdr tag r [])

/-! ## Restarts of the control island (R332-R334, R549) -/

/-- A frame held during a restart is processed. The writes it causes are rejected `rej0` and `rej1` times on each side. -/
def Agent.heldFrame (a : Agent) (m : Msg) (rej0 rej1 : Nat) : Agent :=
  match m with
  | .withdraw imp nid _ dests => a.onWithdraw imp nid dests.length
  | .eventAck type num => a.onEventAck type num
  | .gone nid => a.onGone nid rej0 rej1
  | .memberLost lost cause c gen resets time => a.onMemberLost lost cause c gen resets time
  | _ => a

/-- The NODE_CTL command latched while the control cores did not run. -/
def Agent.latchedCtl (a : Agent) (ctl : Option Nat) (regOk : Bool) : Agent :=
  match ctl with
  | some 1 => a.nodeIsReady
  | some 3 => a.nodeAsksReset
  | some 4 => a.publish regOk
  | some 5 => a.ltSave
  | _ => a

/-- The ports whose state is kept. -/
def Agent.watched (a : Agent) : List Nat := a.node.watch.map (fun w => w.1)

/-- Switch ports found bad while the watch writer did not run take their bits of F (R242, R516). -/
def Agent.catchUp (a : Agent) : Agent :=
  let bad := a.watched.filter (fun p => decide (p < 128) && (a.port p).bad && !portIn a.node.fmask p)
  if bad.isEmpty || !a.isSwitch then a else a.writeF (a.node.fmask ||| portMask bad)

/-- BULK_REPORT of the agent's state (R452). -/
def Agent.bulkReport (a : Agent) (image state : Nat) : Agent := a.toMgr (.bulkReport image state 0 false [])

/-- FIRMWARE_RUNNING: restarted firmware runs. It adopts the retained state (`adopts`), or its plate store is invalid; it
processes the held frames in order and acts on what changed since the stop (R334, R549). -/
def execFirmwareRunning (die : Nat) (adopts regOk : Bool) (rej0 rej1 : Nat) (s : State) : Out :=
  onAgent s die (fun a =>
    match a.restart with
    | none => a
    | some r =>
      let a := ({ a with restart := none, bulk := { a.bulk with image := none, count := 0, blocks := [], pass := 0, due := false } }).setObj
        Obj.AG_RESTART 0
      let a := if adopts then a else a.invalidate
      let a := a.setObj Obj.AG_SLOT a.dev.fw
      let a := r.latched.frames.foldl (fun a f => a.heldFrame f.msg rej0 rej1) a
      let a := a.watched.foldl (fun a p => a.actOnPort p) a.catchUp
      let a := r.latched.resets.foldl (fun a x => a.resetActs x.1) a
      let a := if r.latched.lost && !a.node.lostSent then a.loseNode else a
      let a := (a.latchedCtl r.latched.ctl regOk).takeHeld
      if r.activated then ({ a with bulk := { a.bulk with state := 5 } }).bulkReport (a.bulk.held.getD 0) 5 else a)

/-- RESTART_TIMEOUT: the new firmware answers no heartbeat within 150 ms; the boot ROM restarts the previous slot (for an
unannounced restart the other one), records an event and reports a failed activation (R333, R549). -/
def execRestartTimeout (die : Nat) (s : State) : Out :=
  onAgent s die (fun a =>
    match a.restart with
    | none => a
    | some r =>
      let a := a.onDev (fun d => { d with fw := r.prev })
      let a := ({ a with restart := some { r with since := a.dev.time, prev := 1 - r.prev, activated := false } }).bump Obj.AG_RESTARTS
      let a := a.event 0x304 0
      if r.activated then ({ a with bulk := { a.bulk with state := 6 } }).bulkReport (a.bulk.held.getD 0) 6 else a)

/-- CORE_WATCHDOG: a control core misses its 10 ms watchdog; the control island restarts unannounced (R549). [DEDUCED, log 80] -/
def execCoreWatchdog (die : Nat) (s : State) : Out :=
  onAgent s die (fun a => a.stopCores (1 - a.dev.fw) false false)

end Sys2Proof.Machine
end

