-- ==== Sys2Proof/Machine/AgentNet.lean ====
section
/-! DEFINITION. Sys2Proof/Machine/AgentNet.lean: an agent on the field network: heartbeats, claims, time stamps, the
management lane, attestation, keys and firmware images (chapters "Slarolu field network", "From power-on to a ready
fabric" and "Event recorder"). -/

namespace Sys2Proof.Machine

/-! ## Heartbeats, claims, time stamps -/

/-- A round number is met: rounds skipped are counted (R423). [DEDUCED, log 38] -/
def Dev.hearRound (d : Dev) (round : Nat) : Dev :=
  let gap : Nat := match d.net.round with
    | some r => if (round + 2 ^ 32 - r) % 2 ^ 32 < 2 ^ 31 then (round + 2 ^ 32 - r) % 2 ^ 32 - 1 else 0
    | none => 0
  { (d.bumpBy Obj.FC_HB_GAPS gap) with net := { d.net with round := some round } }

/-- Frames that carry a claim in the HEARTBEAT class, and their replies. -/
def hbFrame : FrameKind := { cls := .heartbeat, claim := true }
def hbReplyFrame : FrameKind := { cls := .heartbeat, claim := false }

/-- HB_REPLY of a round: a switch agent to the sender, an endpoint agent to its collector (R424). [DEDUCED, log 38] -/
def Agent.hbReply (a : Agent) (to_ round : Nat) : Agent :=
  if a.isSwitch then
    let map := match a.link.epMap with
      | some m => some (if a.link.epRound = round then m else 0)
      | none => none
    a.sendMgr to_ (.hbReply round (a.obj Obj.AG_COMMITTED) map)
  else
    let m : Msg := .hbReply round (a.obj Obj.AG_COMMITTED) none
    if a.link.collector = 0x3FFFF then a.sendMgr to_ m else a.toPeer a.link.collector m

/-- The agent goes to the management lane, or returns from it (R428). -/
def Agent.onLane (a : Agent) (on : Bool) : Agent := a.onDev (fun d => { d with net := { d.net with lane := on } })

/-- HEARTBEAT_AGENT: an agent takes a HEARTBEAT and answers it, whatever its claim (R284, R424). One that arrives on port 0
brings it back from the lane (R428). Whether it came as a copy shows whether the manager relays (R422). [DEDUCED, log 109] -/
def execHeartbeatAgent (die : Nat) (hdr : Hdr) (port round _imp : Nat) (s : State) : Out :=
  onAgent s die (fun a =>
    let t := a.take hbFrame hdr none
    let a := t.ag
    if !t.ok then a
    else
      let a := a.onDev (fun d => { d.hearRound round with net := { (d.hearRound round).net with relay := hdr.relayed } })
      let a := if a.dev.net.lane && port == 0 && a.dev.portUp 0 then a.onLane false else a
      a.hbReply hdr.src round)

/-- CLAIM_AGENT: a CLAIM raises the highest pair; a switch agent that accepts it answers CLAIM_ACK (R283, R286). -/
def execClaimAgent (die : Nat) (hdr : Hdr) (_prev _prevNid _cause _imp : Nat) (s : State) : Out :=
  onAgent s die (fun a =>
    let t := a.take commitCmd hdr none
    let a := t.ag
    if !t.ok || !a.accepts hdr || !a.isSwitch then a
    else
      let c := a.obj Obj.AG_COMMITTED
      let st := a.obj Obj.AG_STAGED
      a.sendMgr hdr.src (.claimAck c st (st != c && a.store.stagedBy.isSome)))

/-- TIMED_REPLY (R425): the stamps t1, t2 and t3 = now. -/
def Agent.timedReply (a : Agent) (to_ t1 t2 : Nat) : Agent :=
  let asked := a.dev.net.tx.any (fun e => e.2.asked)
  a.sendMgr to_ (.timedReply t1 t2 a.dev.time (a.obj Obj.AG_WDR_SENT) asked a.restart.isSome (a.obj Obj.AG_PLATE_VALID == 1))

/-- TIMED: answered for any manager; the unit of the highest pair names the collector and the home address (R408, R424,
R425). [DEDUCED, log 38] -/
def execTimed (die : Nat) (hdr : Hdr) (t1 homeMac collector : Nat) (s : State) : Out :=
  onAgent s die (fun a =>
    let t := a.take hbFrame hdr none
    let a := t.ag
    if !t.ok then a
    else
      let a := { a with link := { a.link with lastT := (t1, a.dev.time) } }
      let a := if hdr.src = a.home then { a with link := { a.link with homeMac := homeMac, collector := collector } } else a
      a.timedReply hdr.src t1 a.dev.time)

/-- REKEY_TIMER at an agent: FN_REKEY_S has passed since a key it sends under took effect; it asks for a new one in its
TIMED_REPLY (R417). -/
def Dev.askRekey (d : Dev) (peer assoc : Nat) : Dev :=
  match mapGet d.net.tx (peerKey peer assoc) with
  | some t => if d.obj Obj.FN_REKEY_S = 0 then d
              else { d with net := { d.net with tx := mapSet d.net.tx (peerKey peer assoc) { t with asked := true } } }
  | none => d

/-! ## The port in use (R407) -/

/-- The field ports of an agent take states; where it thereby transmits on another port it replies at once, so that the network
relearns its address. -/
def Agent.withPorts (a : Agent) (ports : SMap Nat) : Agent :=
  let was := a.dev.txPort
  let a := a.onDev (fun d => { d with net := { d.net with ports := ports } })
  if a.dev.txPort = was ∨ a.dev.txPort.isNone ∨ !a.runs ∨ !a.hears ∨ a.dev.net.nid = nidNone then a
  else a.timedReply a.home a.link.lastT.1 a.link.lastT.2

/-! ## The management lane (R427, R428) -/

/-- LANE_SWITCH: no HEARTBEAT on port 0 for three rounds; an agent strapped to LANE moves to the lane and says so. -/
def execLaneSwitch (die : Nat) (s : State) : Out :=
  onAgent s die (fun a =>
    if a.obj Obj.FN_P1_MODE ≠ 1 ∨ a.dev.net.lane ∨ !a.hears ∨ !a.runs then a
    else (a.onLane true).timedReply a.home a.link.lastT.1 a.link.lastT.2)

/-- LANE_RELAY: a frame for another NID, from the lane (`fromLane`) or from port 0, is relayed within FN_RELAY_RATE. [DESIGN CHOICE, log 39] -/
def execLaneRelay (die src dst : Nat) (fromLane : Bool) (s : State) : Out :=
  onAgent s die (fun a =>
    if a.obj Obj.FN_P1_MODE ≠ 1 ∨ !a.hears ∨ dst = a.dev.net.nid then a
    else if (fromLane && !a.dev.portUp 0) || (!fromLane && !a.dev.net.relayed.contains dst) then a
    else
      let sec := a.dev.time / 1000000000
      let n := if a.link.relaySec = sec then a.link.relayed else 0
      if a.obj Obj.FN_RELAY_RATE ≤ n then
        { a with link := { a.link with relaySec := sec, relayed := n, laneDrops := a.link.laneDrops + 1 } }
      else
        let a := { a with link := { a.link with relaySec := sec, relayed := n + 1, passed := a.link.passed ++ [(src, dst, !fromLane)] } }
        let a := if fromLane then a.onDev (fun d => { d with net := { d.net with relayed := insNat d.net.relayed src } }) else a
        a.bump Obj.FC_RELAYED)

/-! ## Telemetry (R501, R502) -/

/-- Runs of consecutive numbers with their values, at most 1,117 values each. -/
def runsOf : SMap Nat → List (Nat × List Nat)
  | [] => []
  | (k, v) :: rest =>
    match runsOf rest with
    | [] => [(k, [v])]
    | (j, vs) :: more => if j = k + 1 ∧ vs.length < 1117 then (k, v :: vs) :: more else (k, [v]) :: (j, vs) :: more

/-- Fills frames of at most 8,960 payload bytes with records. [DESIGN CHOICE, log 40] -/
def fillFrames (cur : List TlRec) (size : Nat) : List TlRec → List (List TlRec)
  | [] => if cur.isEmpty then [] else [cur]
  | r :: rest =>
    let n := 8 + 8 * r.words.length
    if size + n ≤ 8960 ∨ cur.isEmpty then fillFrames (cur ++ [r]) (size + n) rest
    else cur :: fillFrames [r] (16 + n) rest

/-- The records of a period. [DESIGN CHOICE, log 40] -/
def Agent.periodRecords (a : Agent) : List TlRec :=
  let sw := a.switchNid
  let ep := a.obj Obj.AG_NID
  let c : Nat := match a.member with | some (c, _) => c | none => 0
  let ports := if a.isSwitch then runsOf (a.tl.tx.filter (fun e => decide (e.1 < 128))) else []
  let blocks := if a.isSwitch then runsOf a.tl.rx else []
  ports.map (fun r => ({ group := 1, ctx := 0, nid := sw, first := r.1, words := r.2 } : TlRec)) ++
  blocks.map (fun r => ({ group := 2, ctx := 0, nid := sw, first := r.1, words := r.2 } : TlRec)) ++
  (if a.isEndpoint then [({ group := 4, ctx := c, nid := ep, first := 0, words := [a.tl.dropPkey] } : TlRec)] else []) ++
  a.tl.counters.map (fun e => ({ group := 5, ctx := c, nid := if a.isEndpoint then ep else sw, first := 0, words := [e.1, e.2] } : TlRec)) ++
  (if a.isSwitch then [({ group := 6, ctx := 0, nid := sw, first := 0, words := [a.tl.dropRoute, a.tl.nakSent] } : TlRec)] else [])

/-- TELEMETRY_PERIOD_END: the node's DROP_PKEY, DROP_ROUTE and NAK_SENT are read, and the period's records are sent unless
no count changed. [DESIGN CHOICE, log 40] -/
def execTelemetryPeriodEnd (die dropPkey dropRoute nakSent : Nat) (s : State) : Out :=
  onAgent s die (fun a =>
    if !a.runs || !a.hears then a
    else
      let t := a.tl
      let changed := t.changed || t.dropPkey != dropPkey || t.dropRoute != dropRoute || t.nakSent != nakSent
      let seq := t.period
      let a := { a with tl := { t with dropPkey := dropPkey, dropRoute := dropRoute, nakSent := nakSent, changed := false
                                       period := (seq + 1) % 2 ^ 32 } }
      if !changed || a.dev.net.nid == nidNone then a
      else
        let frames := fillFrames [] 16 a.periodRecords
        frames.zipIdx.foldl (fun a f =>
          (a.toMgr (.telemetry a.dev.time seq (f.2 + 1 == frames.length) f.1)).bump Obj.TL_FRAMES) a)

/-! ## HELLO and attestation (R437, R442, R477, R545) -/

/-- The neighbour records a HELLO carries. -/
def Agent.nbrBytes (a : Agent) : List Byte :=
  (a.neigh.filter (fun e => e.2.node != 0)).flatMap (fun e =>
    leBytes 16 (e.2.node * 2 ^ 64 + e.2.port % 128 * 2 ^ 57 + (if e.2.ep then 2 ^ 56 else 0) + e.1 % 128 * 2 ^ 49 +
      (if Nat.ble 128 e.1 then 2 ^ 48 else 0)))

/-- The HELLO payload (Table: HELLO payload). -/
def Agent.helloBytes (a : Agent) : List Byte :=
  let nbr := a.nbrBytes
  leBytes 8 (a.dev.key - 1) ++ leBytes 8 (a.df 0xE0 8) ++ leBytes 1 a.kind ++ leBytes 1 (a.obj Obj.AG_JOIN) ++
  leBytes 1 (2 * a.obj Obj.AG_PLATE_VALID + a.dev.fw) ++ [0] ++ leBytes 4 a.dev.fwVer ++ leBytes 2 (nbr.length / 16) ++
  leBytes 6 0 ++ nbr

/-- A field port is up. -/
def Agent.anyPort (a : Agent) : Bool := a.dev.portUp 0 || a.dev.portUp 1

/-- HELLO is sent; the interval doubles up to 1 s, and returns to 10 ms where the payload has changed. -/
def Agent.hello (a : Agent) : Agent :=
  let p := a.helloBytes
  let ms := if a.link.helloLast != p then 10 else min 1000 (2 * a.link.helloMs)
  ({ a with link := { a.link with helloLast := p, helloMs := ms } }).onDev (fun d =>
    d.send { dst := nidAll, assoc := 0, msg := .hello p })

/-- HELLO begins, or begins again at the 10 ms interval, once a field port is up. -/
def Agent.startHello (a : Agent) : Agent :=
  let a := { a with link := { a.link with helloOn := true, helloMs := 10, helloLast := [] } }
  if a.anyPort then a.hello else a

/-- HELLO_REPEAT: the HELLO interval expires. -/
def execHelloRepeat (die : Nat) (s : State) : Out :=
  onAgent s die (fun a => if a.link.helloOn && a.anyPort && a.runs && a.hears then a.hello else a)

/-- HELLO_RESUME: 100 ms after ATTEST_REPORT no NID has been taken. -/
def execHelloResume (die : Nat) (s : State) : Out :=
  onAgent s die (fun a =>
    if a.link.reported && a.dev.net.nid == nidNone && a.runs && a.hears && !a.link.helloOn then a.startHello else a)

/-- The partition table's words (R326). [DEDUCED, log 62] -/
def Agent.tableBytes (a : Agent) : List Byte :=
  (upTo 4096).flatMap (fun c =>
    match mapGet a.ptable c with
    | some e => leBytes 4 (2 ^ 31 + e.role % 4 * 2 ^ 29 + e.gen % 256 * 2 ^ 16 + e.key % 2 ^ 16)
    | none => leBytes 4 0)

/-- What an ATTEST_REQ asks of its header. -/
def attestFrame : FrameKind := { cls := .dict, claim := false, unprotected := true, toNone := true }

/-- The ATTEST_REQ payload (R412). -/
def attestPayload (nonce : Digest) (nid fwd : Nat) : List Byte :=
  leBytes 64 (nonce.toNat * 2 ^ 256 + nid * 2 ^ 238 + fwd * 2 ^ 220)

/-- The agent's report on an ATTEST_REQ (R477): the manager's layout, with the digests it binds in their places. The agent at
key k + 1 is that of die k. [DESIGN CHOICE, log 77] -/
def Agent.attestation (a : Agent) (nonce : Digest) (nid fwd : Nat) : List Byte :=
  let d := a.dev
  let zero := leBytes 32 0
  let body : ReportBody :=
    { part := 2, die := d.key - 1, nonce := leBytes 32 (sha256 (attestPayload nonce nid fwd)).toNat, time := d.time
      state := [0xFF] ++ leBytes 1 (a.obj Obj.SC_DEBUG) ++ leBytes 1 (a.obj Obj.SC_DEBUG_MAX) ++ leBytes 1 (min 2 (mapGetD d.domains 7 0))
      fuses := a.obj Obj.SC_FUSES, owner := (sha256 a.link.helloLast).toNat
      parts := d.partDigest 0 0 ++ d.partDigest 1 0 ++ zero ++ d.partDigest 3 d.fwVer ++ zero
      claim := a.obj Obj.AG_CLAIM, imp := a.obj Obj.AG_COMMITTED, imgDig := (sha256 a.tableBytes).toNat, mapDig := 0
      vers := leBytes 8 (d.fwVer * 2 ^ 32 + 1), ctxs := [] }
  body.bytes d.openNat

/-- ATTEST_REQ: HELLO stops, and a signed ATTEST_REPORT binds the request and the HELLO last sent. [DEDUCED, log 62] -/
def execAttestReq (die : Nat) (hdr : Hdr) (nonce : Digest) (nid fwd : Nat) (s : State) : Out :=
  onAgent s die (fun a =>
    let t := a.take attestFrame hdr none
    let a := t.ag
    if !t.ok then a
    else
      let a := { a with link := { a.link with helloOn := false, offered := some (nid, fwd), reported := true } }
      (a.onDev (fun d => d.send { dst := hdr.src, assoc := 0, msg := .attestReport (a.attestation nonce nid fwd) d.certificate })).onDev
        Dev.drawn)

/-! ## Keys (R413-R419) -/

/-- The NID a key is found by: the group's, or the other holder's. -/
def holderOf (src assoc peer : Nat) : Nat := if isGroupAssoc assoc then nidAll else if assoc = 2 then peer else src

/-- A KEY_OFFER at a device: the status of KEY_ACCEPT, and the device with the key installed in its phase and used from
its next frame on (R416), with the offerer's salt where the offer gives it (R415). An offer of a key already installed is accepted
again and installs nothing (R545). -/
def Dev.takeOffer (d : Dev) (src assoc : Nat) (phase : Bool) (peer : Nat) (salts : Salts) (expire : Nat) (key : Key) (valid : Bool) : Dev × Nat :=
  let who := holderOf src assoc peer
  let slot := slotKey who assoc phase
  if !valid then (d, 2)
  else if mapGet d.net.keys slot = some key then (d, 0)
  else if (mapGet d.net.grace slot).isSome then (d, 1)
  else
    let n := d.net
    let had := n.keys.any (fun e => e.1 / 2 == slot / 2)
    let num : Nat := if phase then 1 else 0
    let n := { n with
      keys := mapSet n.keys slot key
      windows := mapFilter n.windows (fun k _ =>
        if isGroupAssoc assoc then !(k / 2 % 65536 == assoc && k % 2 == num) else k != slot)
      fresh := insNat n.fresh slot
      groups := if isGroupAssoc assoc then insNat n.groups assoc else n.groups
      tx := mapSet n.tx (peerKey who assoc) { key := key, phase := phase, salt := salts.tx, expire := expire, since := d.time }
      salts := if assoc = 1 ∨ assoc = 3 then mapSet n.salts slot salts.rx else n.salts }
    let d := { d with net := n }
    (if had then d.bump Obj.FC_REKEYS else d, 0)

/-- KEY_ACCEPT under the key of its association (R416 step 2); frames that waited for the key follow it (R417). -/
def Dev.acceptKey (d : Dev) (src assoc : Nat) (phase : Bool) (peer status : Nat) : Dev :=
  let m : Msg := .keyAccept assoc (if phase then 1 else 0) status
  if status ≠ 0 then d.sendTo src 1 m
  else
    let pk := peerKey (holderOf src assoc peer) assoc
    (d.sendUnder pk { dst := src, assoc := assoc, msg := m }).unhold pk

/-- What a KEY_OFFER asks of its header. -/
def offerFrame : FrameKind := { cls := .dict, claim := false, unprotected := true }

/-- The agent takes the NID of the ATTEST_REQ it last answered (R442). -/
def Agent.takeNid (a : Agent) (nid fwd mgr : Nat) : Agent :=
  let a := a.onDev (fun d => { d with net := { d.net with nid := nid } })
  let a := { a with manager := mgr, link := { a.link with reported := false, offered := none, helloOn := false } }
  (a.setObj Obj.AG_NID nid).setObj Obj.AG_FWD_NID fwd

/-- A KEY_OFFER at an agent. A wrapped key comes with a signature; a key in clear comes inside the manager's association.
`ports` are the ports that face the peer an agent-agent key is for, and `peerAs` the NID the peer has on those links. [DEDUCED, log 34; DESIGN CHOICE, log 103] -/
def Agent.keyOffer (a : Agent) (hdr : Hdr) (assoc : Nat) (phase : Bool) (wrap peer : Nat) (salts : Salts) (expire : Nat) (key : Key)
    (sigOk : Bool) (ports : List Nat) (peerAs : Nat) : Agent :=
  let offered := if a.link.reported && a.dev.net.nid == nidNone then a.link.offered else none
  let t := a.take offerFrame hdr none (offered.map (fun o => o.1))
  let a := t.ag
  if !t.ok then a
  else
    let valid := if wrap = 1 then sigOk && assoc == 1 else wrap == 0 && hdr.assoc == 1 && (assoc == 2 || isGroupAssoc assoc)
    let a := if valid && assoc == 1 && hdr.assoc == 0 then
        match offered with
        | some o => if o.1 = hdr.dst then a.takeNid o.1 o.2 hdr.src else a
        | none => a
      else a
    let r := a.dev.takeOffer hdr.src assoc phase peer salts expire key valid
    let a := { a with dev := r.1.acceptKey hdr.src assoc phase peer r.2 }
    if r.2 = 0 ∧ assoc = 2 then
      { a with peers := ports.foldl (fun m p => mapSet m p ({ agent := peer, nid := peerAs, node := (mapGetD a.neigh p {}).node } : PeerRec)) a.peers }
    else a

/-- The old key of a slot is erased: its grace time has ended (R416 step 4). -/
def Dev.endGrace (d : Dev) (src assoc : Nat) (phase : Bool) : Dev :=
  let slot := slotKey src assoc phase
  if (mapGet d.net.grace slot).isNone then d
  else
    let num : Nat := if phase then 1 else 0
    { d with net := { d.net with
        grace := mapDel d.net.grace slot
        keys := mapDel d.net.keys slot
        windows := mapFilter d.net.windows (fun k _ =>
          if isGroupAssoc assoc then !(k / 2 % 65536 == assoc && k % 2 == num) else k != slot) } }

/-! ## Starting (R434) -/

/-- A cold start begins a local time of its own, in which no save has been made (R331). [DESIGN CHOICE, log 112] -/
def Agent.forgetSave (a : Agent) : Agent := { a with node := { a.node with ltLast := none } }

/-- AGENT_START: both supplies are in range and reset is released. `cold` says that the agent was unpowered; `slotOk` and
`otherOk` are what the boot ROM finds of the active slot's image and of the other; `p0` and `p1` are the FP_STATE words of
the field ports as trained, `straps` the straps as sampled (R534). Where neither slot verifies, the agent does not run. [DEDUCED, log 41] -/
def execAgentStart (die : Nat) (cold slotOk otherOk : Bool) (p0 p1 straps : Nat) (s : State) : Out :=
  onAgent s die (fun a =>
    let a := if cold then
        let a := a.onDev (fun d => { d with time := 0, since := 0 })
        a.forgetSave.reset 0
      else a
    let a := { a with link := { a.link with straps := straps, lowSupply := false } }
    if !slotOk && !otherOk then { a with link := { a.link with held := true } }
    else
      let a := if slotOk then a else (a.onDev (fun d => { d with fw := 1 - d.fw })).event 0x303 0
      let a := if a.link.refLost then a else a.onDev (fun d => { d with net := { d.net with
        ports := mapSet (mapSet d.net.ports 0 (portWord p0)) 1 (portWord p1) } })
      let a := (a.setObj Obj.AG_SLOT a.dev.fw).setObj Obj.FN_P1_MODE (bitsOf straps 1 1)
      ({ a with link := { a.link with held := false, asleep := false } }).startHello)

/-- The sideband's static address (R308, R534). -/
def Agent.sidebandAddr (a : Agent) : Nat := 0x58 + bitsOf a.link.straps 4 2

/-- NP_PERST# is held low by the agent: in root-complex mode, while the agent is in reset (R535). -/
def Agent.perstLow (a : Agent) : Bool := bitOf a.link.straps 0 && a.link.held

/-! ## Firmware images (R450-R454) -/

/-- Blocks of a number that have not arrived, as ranges. -/
def missingRanges (count : Nat) (have_ : SMap (List Byte)) : List (Nat × Nat) :=
  ((upTo count).filter (fun b => (mapGet have_ b).isNone)).foldr (fun b (acc : List (Nat × Nat)) =>
    match acc with
    | [] => [(b, 1)]
    | (f, n) :: rest => if f = b + 1 then (b, n + 1) :: rest else (b, 1) :: (f, n) :: rest) []

/-- An image's header is well formed for a target and its body has the digest the header gives (R450, R453, R462). -/
def imageOk (img : List Byte) (target floor : Nat) : Bool :=
  let len := fieldAt img 8 4
  fieldAt img 0 1 == 1 && fieldAt img 1 1 == target && fieldAt img 2 2 == 0 && img.length == 64 + len + 384 &&
  decide (fieldAt img 0x30 1 ≤ 8) && Nat.ble floor (fieldAt img 0x30 1) && fieldAt img 0x31 15 == 0 &&
  fieldAt img 0x10 32 == leNat (sha256Bytes ((img.drop 64).take len))

/-- The agent turns to an image: a partial image of another is discarded (R453). A verified one that it keeps is found COMPLETE, or
ACTIVE where it runs (R455). -/
def Agent.turnTo (a : Agent) (image count : Nat) : Agent :=
  if a.bulk.image = some image then a
  else if a.bulk.held = some image then
    { a with bulk := { a.bulk with image := some image, count := count, blocks := [], state := if a.bulk.slot = a.dev.fw then 5 else 1 } }
  else { a with bulk := { a.bulk with image := some image, count := count, blocks := [], state := 0 } }

/-- Every block has arrived: the image is verified, and written to the slot that does not run. -/
def Agent.finishImage (a : Agent) (sigOk writeOk : Bool) : Agent :=
  let img := a.bulk.blocks.flatMap (fun b => b.2)
  if !sigOk || !imageOk img 1 a.dev.floor then { a with bulk := { a.bulk with state := 2, blocks := [] } }
  else if !writeOk then { a with bulk := { a.bulk with state := 3, held := none, blocks := [] } }
  else
    let a := a.onDev (fun d => { d with fwVers := mapSet d.fwVers (1 - d.fw) (fieldAt img 4 4) })
    { a with bulk := { a.bulk with state := 1, held := a.bulk.image, slot := 1 - a.dev.fw, blocks := [] } }

/-- What BULK frames ask of their headers. -/
def bulkFrame : FrameKind := { cls := .bulk, claim := false }

/-- BULK_DATA: a block is marked received; with the last one the image is verified and written. -/
def execBulkData (die : Nat) (hdr : Hdr) (image block count pass : Nat) (data : List Byte) (sigOk writeOk : Bool) (s : State) : Out :=
  onAgent s die (fun a =>
    let t := a.take bulkFrame hdr none
    let a := t.ag
    if !t.ok || count == 0 || decide (2048 < count) then a
    else
      let a := a.turnTo image count
      if a.bulk.held = some image ∨ count ≤ block then a
      else
        let a := { a with bulk := { a.bulk with blocks := mapSet a.bulk.blocks block data, pass := pass, state := 0 } }
        if a.bulk.blocks.length = count then a.finishImage sigOk writeOk else a)

/-- END_OF_PASS: a BULK_REPORT is due after a random delay. -/
def execEndOfPass (die : Nat) (hdr : Hdr) (image count pass : Nat) (s : State) : Out :=
  onAgent s die (fun a =>
    let t := a.take bulkFrame hdr none
    let a := t.ag
    if !t.ok || count == 0 || decide (2048 < count) then a
    else
      let a := a.turnTo image count
      { a with bulk := { a.bulk with pass := pass, due := true } })

/-- BULK_REPORT_SEND: the delay has ended. -/
def execBulkReportSend (die : Nat) (s : State) : Out :=
  onAgent s die (fun a =>
    if !a.bulk.due || !a.runs || !a.hears then a
    else
      let miss := if a.bulk.state = 0 then missingRanges a.bulk.count a.bulk.blocks else []
      ({ a with bulk := { a.bulk with due := false } }).toMgr
        (.bulkReport (a.bulk.image.getD 0) a.bulk.state a.bulk.pass (decide (1024 < miss.length)) (miss.take 1024)))

/-- ACTIVATE: the agent announces its restart, posts FW_NOTICE, marks the new slot active and restarts; for an image it
does not hold COMPLETE it answers its actual state (R454). -/
def execActivate (die : Nat) (hdr : Hdr) (image : Nat) (s : State) : Out :=
  onAgent s die (fun a =>
    let t := a.take dictCmd hdr none
    let a := t.ag
    if !t.ok || !a.accepts hdr then a
    else if a.bulk.held ≠ some image ∨ a.bulk.state ≠ 1 then a.bulkReport image a.bulk.state
    else
      let a := ({ a with bulk := { a.bulk with state := 4 } }).bulkReport image 4
      let a := (a.onDev Dev.drawn).post 6 0x30 (a.dev.openBytes.take 56)
      let old := a.dev.fw
      (a.onDev (fun d => { d with fw := 1 - old })).stopCores old true true)

end Sys2Proof.Machine
end

