-- ==== Sys2Proof/Machine/AgentStage.lean ====
section
/-! DEFINITION. Sys2Proof/Machine/AgentStage.lean: an agent's part in installation and keys: STAGE, COMMIT, ISOLATE,
SET_KEY, REVOKE (chapters "Plates, impressions and installation" and "The Bamen agent and the node contract"). -/

namespace Sys2Proof.Machine

/-! ## Staging (R189-R193, R321, R546, R547) -/

/-- The plate a complete assembly builds: from the committed plate, or from nothing when FULL is set. -/
def Agent.buildPlate (a : Agent) (x : Assembly) : Plate :=
  let recs := x.frags.flatMap (fun f => match parseRecs f.2 f.2.length 16 with | .ok l => l | .error _ => [])
  let p := recs.foldl (fun p r => p.apply r) (if x.full then {} else a.side a.active)
  { p with excs := p.excs.take p.excCount, wdrs := p.wdrs.take p.wdrCount }

/-- Microseconds until the side last flipped away from has drained (R204). -/
def Agent.drainLeft (a : Agent) : Nat :=
  match a.store.flipped with
  | none => 0
  | some t => (t + a.obj Obj.AP_DRAIN_US * 1000 - a.dev.time + 999) / 1000

/-- The status and detail of a complete stage before its node writes (R546, checks 1 to 7). PARITY is for a store that is valid: an
agent whose store is not joins by the next candidate (R298, R444, R547). [DEDUCED, log 107] -/
def Agent.stageStatus (a : Agent) (x : Assembly) (p : Plate) : Nat × Nat :=
  let c := a.obj Obj.AG_COMMITTED
  let valid := a.obj Obj.AG_PLATE_VALID == 1
  if a.obj Obj.AG_JOIN ≠ 0 then (10, a.obj Obj.AG_JOIN)
  else if !newer x.imp c then (1, c)
  else if valid && x.imp % 2 == c % 2 then (9, c)
  else if !x.full && (!valid || x.base != c) then (3, if valid then c else 0xFFFFFFFF)
  else if a.drainLeft ≠ 0 then (4, a.drainLeft)
  else match p.formatBad x.imp a.switchNid with
    | some off => (5, off)
    | none =>
      match p.overflow a.node.desc x.range with
      | some (sec, need, cap) => (6, sec * 2 ^ 28 + (need - cap))
      | none => (0, 0)

/-- Every fragment of a stage has arrived: the checks, then the node writes of the units that differ, after which the side is known,
but for a write rejected meanwhile (R323); they wait on their pacing
until STAGE_NODE_WRITES_DONE; the answer goes to the unit of the highest pair (R191, R284, R307, R321). [DESIGN CHOICE, log 100] -/
def Agent.stageComplete (a : Agent) (x : Assembly) : Agent :=
  let p := a.buildPlate x
  let st := a.stageStatus x p
  if st.1 ≠ 0 then a.toMgr (.stageAck x.imp st.1 st.2 0)
  else
    let q := x.imp % 2
    let ws := a.stageWrites q p x.range
    let a := (a.setSide q p).setObj Obj.AG_STAGED x.imp
    let ranges := if x.range then insNat a.node.range q else a.node.range.filter (fun k => k != q)
    let pend : StagePend := { imp := x.imp, claim := x.claim, from_ := x.from_, range := x.range, plate := p }
    { a with
      store := { a.store with stagedBy := none, pend := some pend }
      node := { a.node with queued := a.node.queued ++ ws, range := ranges, unknown := a.node.unknown.filter (fun k => k != q) } }

/-- Stages whose fragments are complete are taken in order, each when the node writes of the one before have ended: those that are
answered without writes, up to one whose writes go out (R191). -/
def Agent.nextStages : List Assembly → Agent → Agent
  | [], a => { a with store := { a.store with whole := [] } }
  | x :: rest, a =>
    let a := a.stageComplete x
    if a.store.pend.isSome then { a with store := { a.store with whole := rest } } else nextStages rest a

/-- A fragment that the output stage accepts joins its assembly, or begins a new one (R191). [DEDUCED, log 25] -/
def Agent.fragment (a : Agent) (h : StageHdr) (payload : List Byte) : Agent :=
  let new : Assembly := { imp := h.imp, base := h.base, full := h.full, range := h.range, count := h.count
                          claim := a.pair.1, from_ := a.pair.2 }
  let x := match a.store.asm with
    | some x => if x.imp = h.imp ∧ (x.claim, x.from_) = a.pair then x else new
    | none => new
  let x := { x with frags := mapSet x.frags h.frag payload }
  if (upTo x.count).all (fun i => (mapGet x.frags i).isSome) then
    let a := { a with store := { a.store with asm := none } }
    if a.store.pend.isSome then { a with store := { a.store with whole := a.store.whole ++ [x] } } else a.stageComplete x
  else { a with store := { a.store with asm := some x } }

/-- STAGE: an agent takes a fragment of a stage (R191, R283, R546). [DESIGN CHOICE, log 24; DEDUCED, log 84] -/
def execStage (die : Nat) (hdr : Hdr) (payload : List Byte) (s : State) : Out :=
  onAgent s die (fun a =>
    let t := a.take stageCmd hdr none
    let a := t.ag
    let imp := fieldAt payload 12 4
    if !t.ok then a
    else if !a.accepts hdr then a.sendMgr hdr.src (.stageAck imp 2 0 a.pairField)
    else
      let bad := fun (off : Nat) =>
        ({ a with store := { a.store with asm := none } }).sendMgr hdr.src
          (.stageAck imp 5 (2 ^ 31 + fieldAt payload 6 2 % 2 ^ 15 * 2 ^ 16 + off) 0)
      match parseStageHdr payload with
      | .error off => bad off
      | .ok h =>
        match stageRecs h payload with
        | .error off => bad off
        | .ok _ => a.fragment h payload)

/-- STAGE_NODE_WRITES_DONE: the node writes of a stage have ended and WRITE_STATUS has been read as `status`; the agent
answers with the plate digest or with NODE_WRITE (R191, R321, R546). [DEDUCED, log 25] -/
def execStageNodeWritesDone (die status : Nat) (s : State) : Out :=
  onAgent s die (fun a =>
    match a.store.pend with
    | none => a
    | some x =>
      if !a.runs then a
      else
        let a := ({ a with store := { a.store with pend := none } }).issue
        let a :=
          if status % 2 ^ 16 ≠ 0 then
            let a := { a with node := { a.node with unknown := insNat a.node.unknown (x.imp % 2) } }
            (a.onDev (fun d => d.bumpBy Obj.AG_WRITE_ERRS (status % 2 ^ 16))).toMgr (.stageAck x.imp 7 status 0)
          else
            let a := { a with store := { a.store with stagedBy := some (x.claim, x.from_) } }
            a.toMgr (.stageAck x.imp 0 0 x.plate.digest)
        Agent.nextStages a.store.whole a)

/-- STAGE_ASSEMBLY_TIMEOUT: a stage's fragments have not all come within AP_STAGE_US; they are discarded unanswered (R191). -/
def execStageAssemblyTimeout (die : Nat) (s : State) : Out :=
  onAgent s die (fun a => if a.runs then { a with store := { a.store with asm := none } } else a)

/-! ## Commit (R187, R195, R322, R546) -/

/-- The flip: STAMP is written and read back, the F bits of ports UP in the new plate and reported good are cleared in
one FMASK write, and the numbers take their new values. -/
def Agent.flip (a : Agent) (imp drain : Nat) (digest : Digest) : Agent :=
  let q := imp % 2
  let up := (a.side q).upMap
  let good := (portsOf up).filter (fun p => !(a.port p).bad)
  let a := a.write [.stamp (q == 1)]
  let a := a.writeF (a.node.fmask &&& ~~~(portMask good))
  let old := a.obj Obj.AG_COMMITTED
  let a := (((a.setObj Obj.AG_COMMITTED imp).setObj Obj.AP_DRAIN_US drain).setObj Obj.AG_PLATE_VALID 1)
  { a with store := { a.store with prev := a.store.flipped.map (fun _ => old), digest := digest, flipped := some a.dev.time } }

/-- FLIP_TIME as COMMIT_ACK carries it in [191:128]. -/
def Agent.flipField (a : Agent) : Digest := BitVec.ofNat 256 (a.store.flipped.getD 0 % 2 ^ 64)

/-- COMMIT: the checks of R546 in order, and the flip; DRAIN_US is taken from every one (Table: Agent parameter record). [DESIGN CHOICE, log 24; DEDUCED, log 28; DEDUCED, log 89] -/
def execCommit (die : Nat) (hdr : Hdr) (imp drain : Nat) (digest : Digest) (s : State) : Out :=
  onAgent s die (fun a =>
    let t := a.take commitCmd hdr none
    let a := t.ag
    let c := a.obj Obj.AG_COMMITTED
    if !t.ok then a
    else if !a.accepts hdr then a.sendMgr hdr.src (.commitAck imp 2 0 a.pairField)
    else
    let a := a.setObj Obj.AP_DRAIN_US drain
    if imp = c then a.toMgr (.commitAck imp 0 0 a.flipField)
    else if !newer imp c then a.toMgr (.commitAck imp 1 c 0)
    else match a.store.stagedBy with
      | none => a.toMgr (.commitAck imp 8 0 0)
      | some by_ =>
        if a.obj Obj.AG_STAGED ≠ imp then a.toMgr (.commitAck imp 8 0 0)
        else if by_ ≠ a.pair then a.toMgr (.commitAck imp 2 0 a.pairField)
        else
          let a := a.flip imp drain digest
          a.toMgr (.commitAck imp 0 0 a.flipField))

/-- An agent records an event whose rule says what it names: each value as a U64, in the rule's order. [DESIGN CHOICE, log 93] -/
def Agent.eventOf (a : Agent) (code c : Nat) (vals : List Nat) : Agent :=
  a.onDev (fun d => d.record (evSeverity code) code c (vals.flatMap (leBytes 8)))

/-- ISOLATE: the failover bits of the ports facing the isolated switch are set at once, and the agent records the isolation with the
IMPRESSION it was told (R202). [DESIGN CHOICE, log 24; DESIGN CHOICE, log 93] -/
def execIsolate (die : Nat) (hdr : Hdr) (imp nid : Nat) (ports : Ports) (s : State) : Out :=
  onAgent s die (fun a =>
    let t := a.take commitCmd hdr none
    let a := t.ag
    if !t.ok then a
    else if !a.accepts hdr then a.sendMgr hdr.src (.isolateAck nid 2)
    else ((a.writeF (a.node.fmask ||| ports)).eventOf 0x109 0 [nid, imp]).toMgr (.isolateAck nid 0))

/-! ## Partition keys (R226, R232, R324, R326) -/

/-- A key command writes PKEY at the node: a MEMBER entry of an endpoint whose node offers the check. -/
def Agent.writesKey (a : Agent) (role : Nat) : Bool := role == 1 && a.isEndpoint && a.cap 5

/-- A key command's acknowledgement waits for the PKEY write that carries its key or a later one (R324). -/
def Agent.queueKey (a : Agent) (key : Nat) (p : KeyPend) : Agent :=
  let waiting := match a.keyQ with | some (_, l) => l | none => []
  { a with keyQ := some (key, waiting ++ [p]) }

/-- SET_KEY: the entry is recorded, the key queued for the node (R324). [DESIGN CHOICE, log 24; DEDUCED, log 27] -/
def execSetKey (die : Nat) (hdr : Hdr) (ctx gen role nid : Nat) (s : State) : Out :=
  onAgent s die (fun a =>
    let t := a.take dictCmd hdr none
    let a := t.ag
    if !t.ok then a
    else if !a.accepts hdr then a.sendMgr hdr.src (.keyAck ctx gen role 2)
    else if role ≠ 1 ∧ role ≠ 2 ∨ nid ≥ 2 ^ 18 then a
    else
      let key := pKey ctx gen
      let others := if role = 1 then mapFilter a.ptable (fun c e => e.role != 1 || c == ctx) else a.ptable
      let a := { a with ptable := mapSet others ctx { role := role, gen := gen, key := key } }
      if a.writesKey role then a.queueKey key { ctx := ctx, gen := gen, role := role, dst := hdr.src }
      else a.sendMgr hdr.src (.keyAck ctx gen role 0))

/-- The key of a context's group is erased and the group left (R419). -/
def Agent.dropGroup (a : Agent) (c : Nat) : Agent :=
  let assoc := 0xF000 + c
  a.onDev (fun d => { d with net := { d.net with
    keys := mapDel (mapDel d.net.keys (slotKey nidAll assoc false)) (slotKey nidAll assoc true)
    tx := mapDel d.net.tx (peerKey nidAll assoc)
    groups := d.net.groups.filter (fun g => g != assoc) } })

/-- A key command that writes no key is acknowledged when the PKEY write that is queued has completed, or at once (R324). -/
def Agent.afterKey (a : Agent) (p : KeyPend) : Agent :=
  match a.keyQ with
  | some (key, _) => a.queueKey key p
  | none => a.sendMgr p.dst (.keyAck p.ctx p.gen p.role 0)

/-- REVOKE: the entry it names is removed; a member's node takes key 0 and CONTEXT_PURGED is posted (R232 step 5, R324). [DESIGN CHOICE, log 24; DEDUCED, log 27] -/
def execRevoke (die : Nat) (hdr : Hdr) (ctx gen role nid : Nat) (s : State) : Out :=
  onAgent s die (fun a =>
    let t := a.take dictCmd hdr none
    let a := t.ag
    if !t.ok then a
    else if !a.accepts hdr then a.sendMgr hdr.src (.keyAck ctx gen role 2)
    else if role ≠ 1 ∧ role ≠ 2 ∨ nid ≥ 2 ^ 18 then a
    else
      let named := match mapGet a.ptable ctx with
        | some e => e.role == role && e.gen == gen
        | none => false
      let a := if named then ({ a with ptable := mapDel a.ptable ctx }).dropGroup ctx else a
      let a := if named && role == 1 then
          let a := (a.onDev (fun d => d.setBlob (ctxKey Obj.HM_REPLY ctx) [])).setObj (ctxKey Obj.HM_STATUS ctx) 0
          ((a.onDev Dev.drawn).post 4 0x12 (a.dev.openBytes.take 56)).tryRelease
        else a
      let p : KeyPend := { ctx := ctx, gen := gen, role := role, dst := hdr.src }
      if !a.writesKey role then a.sendMgr hdr.src (.keyAck ctx gen role 0)
      else if a.member.isNone then a.queueKey 0 p
      else a.afterKey p)

/-- PKEY_WRITE_COMPLETE: the queued PKEY write has completed; every key command it serves is acknowledged, with NODE_WRITE
where WRITE_STATUS shows it rejected (R324). -/
def execPkeyWriteComplete (die : Nat) (rejected : Bool) (s : State) : Out :=
  onAgent s die (fun a =>
    match a.keyQ with
    | none => a
    | some (key, l) =>
      if !a.runs then a
      else
        let a := ({ a with keyQ := none }).write [.pkey key]
        let a := if rejected then a.bump Obj.AG_WRITE_ERRS else a
        l.foldl (fun a p => a.sendMgr p.dst (.keyAck p.ctx p.gen p.role (if rejected then 1 else 0))) a)

end Sys2Proof.Machine
end

