-- ==== Sys2Proof/Machine/Contexts.lean ====
section
/-! DEFINITION. Sys2Proof/Machine/Contexts.lean: the manager's commands of slices and contexts (chapter "Slices and
contexts"). -/

namespace Sys2Proof.Machine

/-- CV_GO: commits group 1 and runs steps 1 to 3; BUSY while a carve waits for PLACE (R224, R354); STATE before the
fabric is READY (R447). -/
def execCvGo (req : Req) (value : Nat) (s : State) : Out :=
  if s.mgr.obj Obj.DS_STATE ≠ 4 ∧ s.mgr.gateReach req Obj.CV_GO true value = 0 ∧ s.mgr.gateState req Obj.CV_GO true = 0 then
    .next { s with mgr := s.mgr.answer req 0x0009 }
  else .next { s with mgr := s.mgr.cmd (.cvGo req value) req Obj.CV_GO value [1] s.mgr.sl.placing.isSome (fun m _ => m.goCarve) }

/-- CV_CANCEL: removes every queued carve of a tag with CANCELLED (R225). -/
def execCvCancel (req : Req) (tag : Nat) (s : State) : Out :=
  .next { s with mgr := s.mgr.cmd (.cvCancel req tag) req Obj.CV_CANCEL tag [tag] false (fun m _ =>
    ((m.sl.queue.filter (fun q => q.req.tag == tag)).foldl (fun m q => m.dropQueued q 11) m).retryQueue) }

/-- PLACE's centre reaches the carve that waits for it, which chooses its endpoints (R166). -/
def Manager.placed (m : Manager) (centre : Option Nat) : Manager :=
  match m.sl.placing with
  | none => m
  | some p => (({ m with sl := { m.sl with placing := none } }).carveChoose p.req p.ctx centre).retryIfFree p.ctx

/-- PLACE_COMPLETE: PLACE, which the leader runs, delivers its centre, an entry of the input stream (R166, R289). -/
def execPlaceComplete (s : State) : Out :=
  let m := s.mgr
  match m.sl.placing with
  | none => .next s
  | some p =>
    if !m.active || !m.leads then .next s
    else
      let centre := m.placeFor p.req
      .next { s with mgr := (m.stockSteps.putEntry { kind := .centre centre }).placed centre }

/-- WAIT_EXPIRED: the WAIT limit of the first queued carve of a tag has passed (R225). CV_WAIT_MS 0 sets no limit. -/
def execWaitExpired (tag : Nat) (s : State) : Out :=
  match s.mgr.sl.queue.find? (fun q => q.req.tag == tag && q.req.waitMs != 0) with
  | none => .next s
  | some q => .next { s with mgr := (s.mgr.entry (.waitExpired tag)).dropQueued q 8 |>.retryQueue }

/-- An answer of a HELD endpoint that has returned to context 0: its acknowledgement of the key 0x0000 ends its being HELD; after
another answer that key is written to it (R227, R234). -/
def Manager.heldAnswers (m : Manager) (e c : Nat) : Manager :=
  if (mapGet m.sl.held e).isNone ∨ m.epCtx e ≠ 0 then m
  else if c = 0 then m.setHeld (mapDel m.sl.held e)
  else m.cmdAgent e (.setKey 0 0 1 e)

/-- A KEY_ACK the manager takes: it counts toward the carve (R226), the purge (R234) or the REJOIN (R259) of its context
and generation. Status NODE_WRITE or CLAIM acknowledges nothing. -/
def Manager.keyAcked (m : Manager) (e c gen status : Nat) : Manager :=
  if status ≠ 0 then m
  else
    let m := m.heldAnswers e c
    let x := m.ctx c
    if x.st = .purging ∧ (gen + 1) % 256 = x.gen then
      match x.purge with
      | some p => m.setCtx c { x with purge := some { p with revoke := ackKey p.revoke e } }
      | none => m
    else if gen ≠ x.gen then m
    else if x.st = .carving then m.setCtx c { x with setKeys := ackKey x.setKeys e }
    else match x.rejoin with
      | some r =>
        if r.keys.isEmpty then m
        else (m.setCtx c { x with rejoin := some { r with keys := ackKey r.keys e } }).rejoinDone c
      | none => m

/-- The kind of a frame of the DICT class without a claim. -/
def dictFrame : FrameKind := { cls := .dict, claim := false }

/-- KEY_ACK (R226, R234, R259, R324). A reply of an old generation is dropped at ingress (R232 step 4), but for the REVOKE
answers of the purge itself, which the frame's header carries under generation 0 of the fabric. -/
def execKeyAck (hdr : Hdr) (ctx gen role status : Nat) (s : State) : Out :=
  let t := s.mgr.dev.ingress dictFrame hdr s.mgr.genOf
  let m := { s.mgr with dev := t.dev }
  if t.ok ∧ role = 1 then .next { s with mgr := ((m.entry (.keyAck hdr ctx gen role status)).keyAcked hdr.src ctx gen status).drainCmds }
  else .next { s with mgr := m }

/-- The keys of members whose agents have not answered after two attempts: they are HELD; the others are sent again. -/
def secondTry (ws : SMap KeyWait) : SMap KeyWait × List Nat × List Nat :=
  let late := unacked ws
  let again := (late.filter (fun w => w.2.attempts == 1)).map (fun w => w.1)
  let lost := (late.filter (fun w => w.2.attempts != 1)).map (fun w => w.1)
  (ws.map (fun w => if w.2.acked then w else if w.2.attempts = 1 then (w.1, { w.2 with attempts := 2 }) else (w.1, { w.2 with acked := true })),
   again, lost)

/-- CV_SHORT of a carve whose members were removed, while the carve record is still that carve's (R224, R227). -/
def Manager.shortOf (m : Manager) (c n : Nat) : Manager := if m.obj Obj.CV_CTX = c then m.setObj Obj.CV_SHORT n else m

/-- A carve's members removed after two attempts (R227): HELD, no longer members; the fit policy then fails or shortens
the carve. -/
def Manager.membersFailed (m : Manager) (c : Nat) (lost : List Nat) : Manager :=
  match lost with
  | [] => m
  | e :: _ =>
    let x := m.ctx c
    let m := lost.foldl (fun m e => m.hold e [pKey c x.gen]) m
    let x := m.ctx c
    let x : Ctx := { x with eps := x.eps.filter (fun k => !lost.contains k), setKeys := x.setKeys.filter (fun w => !lost.contains w.1) }
    let exact := decide (x.fit = 0) || decide (x.fit = 3) || (decide (x.fit = 2) && (match x.carve with | some q => q.set_.isSome | none => false))
    if exact then
      (((m.setCtx c { x with result := 10 }).shortOf c e).carveDone x.tag 10 c).purgeStart c
    else (m.setCtx c { x with outcome := 1 }).shortOf c lost.length

/-- SET_KEY_TIMEOUT: CV_KEY_US has passed since the last attempt of a context's SET_KEYs (R226, R227). -/
def execSetKeyTimeout (ctx : Nat) (s : State) : Out :=
  let m := s.mgr.entry (.setKeyTimeout ctx)
  let x := m.ctx ctx
  if x.st = .carving then
    let t := secondTry x.setKeys
    let m := m.setCtx ctx { x with setKeys := t.1 }
    let m := t.2.1.foldl (fun m e => m.sendCmd e 1 0 0 (.setKey ctx x.gen 1 e)) m
    .next { s with mgr := m.membersFailed ctx t.2.2 }
  else match x.rejoin with
    | none => .next s
    | some r =>
      let t := secondTry r.keys
      let m := m.setCtx ctx { x with rejoin := some { r with keys := t.1 } }
      let m := t.2.1.foldl (fun m e => m.sendCmd e 1 0 0 (.setKey ctx x.gen 1 e)) m
      let m := t.2.2.foldl (fun m e => m.hold e (r.oldKeys ++ [pKey ctx x.gen])) m
      .next { s with mgr := m.rejoinDone ctx }

/-- P_PART_SEL reads the context of a profile carve that has completed (R370). -/
def Manager.selectPart (m : Manager) (c : Nat) : Manager :=
  if m.sl.profile = some c then { m.setObj Obj.LP_SEL_CTX c with sl := { m.sl with profile := none } } else m

/-- Members found not present after step 3 whose loss nothing has told of meet it now (R227). -/
def Manager.missing (m : Manager) (c : Nat) : Manager :=
  let x := m.ctx c
  (x.eps.filter (fun e => !present m.fab.links e && !x.lossDone.contains (x.gen, e))).foldl (fun m e =>
    if m.epCtx e = c then m.memberLoss e 1 0 m.dev.time true else m) m

/-- CARVE_COMPLETE: steps 4 and 5 have both ended; the context becomes ACTIVE (R226 step 6). What members lost meanwhile bring with
them follows (R227): the purge, or the REJOIN. -/
def execCarveComplete (ctx : Nat) (s : State) : Out :=
  let m := s.mgr
  let x := m.ctx ctx
  if x.st ≠ .carving ∨ x.waiting ∨ x.carve.isNone ∨ !x.installed ∨ !allAcked x.setKeys then .next s
  else
    let m := ((m.entry (.carveComplete ctx)).setCtx ctx { x with carve := none, setKeys := [], result := x.outcome }).enter ctx .active
    let m := m.raiseInt (if x.vf = 0 then 0 else x.vf) 0
    let m := (m.selectPart ctx).carveDone x.tag x.outcome ctx
    .next { s with mgr := if x.doomed then m.purgeStart ctx else (m.missing ctx).rejoinTry ctx }

/-- CX_RELEASE written 1: an ACTIVE context drains; the purge starts with no run in progress or with CX_DRAIN_MS 0 (R231,
R241). -/
def execCxReleaseDrain (req : Req) (s : State) : Out :=
  let c := (s.mgr.reachCtx req.fn).getD 0
  let x := s.mgr.ctx c
  if (c = 0 ∨ (x.st ≠ .active ∧ x.st ≠ .draining ∧ x.st ≠ .purging)) ∧ s.mgr.gateReach req Obj.CX_RELEASE true 1 = 0 then
    .next { s with mgr := s.mgr.answer req 0x0009 }
  else
    .next { s with mgr := s.mgr.cmd (.cxReleaseDrain req) req Obj.CX_RELEASE 1 [1, 2] (decide (x.st ≠ .active)) (fun m c =>
      let m := (m.enter c .draining).raiseCtx c 1
      if m.obj Obj.CX_DRAIN_MS = 0 then m.purgeStart c else m.drainCheck c) }

/-- CX_RELEASE written 2: the purge starts at once; no effect in PURGING, QUARANTINE or FREE (R215, R231). -/
def execCxReleasePurge (req : Req) (s : State) : Out :=
  let c := (s.mgr.reachCtx req.fn).getD 0
  if c = 0 ∧ s.mgr.gateReach req Obj.CX_RELEASE true 2 = 0 then .next { s with mgr := s.mgr.answer req 0x0009 }
  else .next { s with mgr := s.mgr.cmd (.cxReleasePurge req) req Obj.CX_RELEASE 2 [1, 2] false (fun m c => m.purgeStart c) }

/-- DRAIN_TIMEOUT: CX_DRAIN_MS has passed since a context entered DRAINING (R231). -/
def execDrainTimeout (ctx : Nat) (s : State) : Out :=
  if (s.mgr.ctx ctx).st ≠ .draining then .next s
  else .next { s with mgr := (s.mgr.entry (.drainTimeout ctx)).purgeStart ctx }

/-- PURGE_TAGS_RETURNED: every memory tag of the purged context has returned; its cell SRAM is zeroed and returns to the
pool, and its DRAM pages begin to be zeroed (R219, R232 step 3). -/
def execPurgeTagsReturned (ctx : Nat) (s : State) : Out :=
  let m := s.mgr
  let x := m.ctx ctx
  match x.purge with
  | none => .next s
  | some p =>
    if p.tags ∨ m.eng.tags.any (fun t => t.2.ctx == ctx) then .next s
    else
      let m := m.entry (.purgeTagsReturned ctx)
      let mem := (upTo 68).foldl (fun mem ph => memZero mem (sramAddr ph ctx 0) (2 ^ 44)) m.eng.mem
      let mem := memZero mem (dramAddr ctx 0) (2 ^ 40)
      let m := m.onEng (fun e => { e with mem := mem })
      let m := { m with sl := { m.sl with zeroing := m.sl.zeroing + x.dramMib } }
      .next { s with mgr := m.setCtx ctx { x with cells := [], sramKib := 0, dramMib := 0, purge := some { p with tags := true } } }

/-- REVOKE_TIMEOUT: PG_ACK_US has passed since the last attempt of a purge's REVOKEs; after two attempts a member is HELD
with its old key recorded (R232 step 5, R234). -/
def execRevokeTimeout (ctx : Nat) (s : State) : Out :=
  let m := s.mgr
  let x := m.ctx ctx
  match x.purge with
  | none => .next s
  | some p =>
    let m := m.entry (.revokeTimeout ctx)
    let t := secondTry p.revoke
    let m := m.setCtx ctx { x with purge := some { p with revoke := t.1 } }
    let m := t.2.1.foldl (fun m e => m.sendCmd e 1 0 0 (.revoke ctx ((x.gen + 255) % 256) 1 e)) m
    .next { s with mgr := t.2.2.foldl (fun m e => m.hold e p.oldKeys) m }

/-- VF_RESET: the bound virtual function of a purged context is reset and unbound (R232 step 7, R375). -/
def execVfReset (ctx : Nat) (s : State) : Out :=
  let m := s.mgr
  let x := m.ctx ctx
  match x.purge with
  | none => .next s
  | some p =>
    let m := m.entry (.vfReset ctx)
    if x.vf = 0 then .next { s with mgr := m.setCtx ctx { x with purge := some { p with vfDone := true } } }
    else
      let m := ((m.resetFn x.vf 0x000E).clearBells ctx).setCtx ctx { x with vf := 0, purge := some { p with vfDone := true } }
      .next { s with mgr := m }

/-- PURGE_COMPLETE. -/
def execPurgeComplete (ctx : Nat) (s : State) : Out := .next { s with mgr := (s.mgr.entry (.purgeComplete ctx)).purgeEnd ctx }

/-- QUARANTINE_EXPIRE: a context's quarantine time has passed (R236). -/
def execQuarantineExpire (ctx : Nat) (s : State) : Out :=
  if (s.mgr.ctx ctx).st ≠ .quarantine then .next s
  else .next { s with mgr := ((s.mgr.entry (.quarantineExpire ctx)).freeCtx ctx).retryQueue }

/-- DRAM_PAGE_ZEROED: released DRAM returns to the pool as it is zeroed (R219). -/
def execDramPageZeroed (mib : Nat) (s : State) : Out :=
  let m := s.mgr.entry (.dramPageZeroed mib)
  let n := min mib m.sl.zeroing
  let m := { m with sl := { m.sl with zeroing := m.sl.zeroing - n } }
  .next { s with mgr := m.setObj Obj.CX_DRAM_FREE_MIB (m.obj Obj.CX_DRAM_FREE_MIB + n) }

/-- CONFIDENTIAL_REPLY_RELEASE: the fixed instant of a tenant request (R239): a reply held is delivered; a proxied one not
ready passes to the next multiple of CF_PROXY_US, and CF_OVERRUN advances once, as it is delivered. -/
def execConfidentialReplyRelease (req : Req) (s : State) : Out :=
  let m := s.mgr
  match m.host.held.find? (fun a => a.req == req) with
  | some a =>
    let m := if m.host.late.contains req then m.bump Obj.CF_OVERRUN else m
    .next { s with mgr := { m with host := { m.host with
      held := m.host.held.filter (fun x => x.req != req), late := m.host.late.filter (fun r => r != req), answers := m.host.answers ++ [a] } } }
  | none =>
    if m.host.proxied.any (fun p => p.req == req) ∧ !m.host.late.contains req then
      .next { s with mgr := { m with host := { m.host with late := m.host.late ++ [req] } } }
    else .next s

end Sys2Proof.Machine
end

