-- ==== Sys2Proof/Machine/LinkOps.lean ====
section
/-! DEFINITION. Sys2Proof/Machine/LinkOps.lean: which agents a link's neighbour reports name, when a PROBING link becomes
UP, and the readmission of an isolated switch (chapters "From power-on to a ready fabric", "Faults, hangs and recovery"
and "Plates, impressions and installation"). -/

namespace Sys2Proof.Machine

/-- Changes what discovery holds. -/
def Manager.onDisc (m : Manager) (f : Discovery → Discovery) : Manager := { m with disc := f m.disc }

/-- The dies whose newest HELLO carries a NODE_ID. -/
def Discovery.diesOf (x : Discovery) (node : Nat) : List Nat :=
  if node = 0 then [] else (x.hellos.filter (fun h => h.2.node == node)).map (fun h => h.1)

/-- The node record a die is matched to. -/
def Discovery.nidOf (x : Discovery) (die : Nat) : Option Nat := (x.matches_.find? (fun k => k.2.die == die)).map (fun k => k.1)

/-- What a die reports at a port. -/
def Discovery.nbr (x : Discovery) (die port : Nat) : Option NbrRep := mapGet (mapGetD x.nbrs die []) port

/-- The NID a report's peer has: the switch NID of a forwarding part, or the record's own. -/
def Discovery.peerNid (x : Discovery) (die : Nat) (ep : Bool) : Option Nat :=
  match x.nidOf die with
  | none => none
  | some n =>
    match mapGet x.bpNodes n with
    | some b => some (if b.kind = 2 ∧ !ep then b.fwd else n)
    | none => some n

/-- A fresh report of a die at a port names (NID, port, endpoint port) of a matched peer. -/
def Manager.names (m : Manager) (die port : Nat) : Option (Nat × Nat × Bool) :=
  match m.disc.nbr die port with
  | none => none
  | some r =>
    if !r.fresh then none
    else match m.disc.diesOf r.node with
      | [d] => (m.disc.peerNid d r.ep).map (fun n => (n, r.port, r.ep))
      | _ => none

/-- The die of the agent that serves a NID of a link. -/
def Manager.dieServing (m : Manager) (nid : Nat) : Option Nat :=
  (m.fab.nodes.find? (fun n => n.1 == nid || (n.2.kind == 2 && n.2.fwd == nid))).map (fun n => n.2.die)

/-- Both ends' fresh reports name each other with the same ports (R443). -/
def Manager.confirmed (m : Manager) (i : Nat) : Bool :=
  let l := linkOf m.fab.links i
  let self := 0x20000 + i / 128
  let ep := decide (l.peerKind = .endpoint)
  match m.dieServing self, m.dieServing l.peerNid with
  | some a, some b =>
    m.names a (i % 128) == some (l.peerNid, l.peerPort, ep) &&
    m.names b (if ep then 128 + l.peerPort else l.peerPort) == some (self, i % 128, false)
  | _, _ => false

/-- The agent-agent key of two confirmed peers is offered to both (R249, R442); with `renew` a new one, in the phase not in
use (R416, R417). -/
def Manager.offerPair (m : Manager) (a b : Nat) (renew : Bool := false) : Manager :=
  let lo := min a b
  let hi := max a b
  let num := lo * 2 ^ 18 + hi
  if a = b then m
  else
    let had := mapGet m.disc.pairs num
    let new : PairKey := { key := BitVec.ofNat 256 m.dev.openNat, phase := match had with | some k => !k.phase | none => false }
    let draw := renew || had.isNone
    let k : PairKey := if draw then new else had.getD new
    let m := if draw then ((m.onDev Dev.drawn).newSalts (pairSalts num)).onDisc (fun x => { x with pairs := mapSet x.pairs num k }) else m
    let p : Nat := if k.phase then 1 else 0
    [(lo, hi), (hi, lo)].foldl (fun m e =>
      let r := m.drawSalt (pairSalts num)
      r.1.sendOffer { nid := e.1, assoc := 1, key := 2, phase := k.phase, peer := e.2
                      msg := .keyOffer 2 p 0 e.2 r.2 0 (m.obj Obj.FN_REKEY_FRAMES) k.key }) m

/-- A PROBING link whose ends are confirmed becomes UP: a snapshot change; its peers' agents are offered their key. -/
def Manager.bringUp (m : Manager) (i : Nat) : Manager :=
  let l := linkOf m.fab.links i
  if l.st ≠ .probing ∨ !m.confirmed i then m
  else
    let m := ((m.putBoth i .up).event 0x181 0).openWindow
    let far := if l.peerKind = .switch then m.agentOf (l.peerNid - 0x20000) else l.peerNid
    m.offerPair (m.agentOf (i / 128)) far

/-- The entries of a list that face another isolated switch than s, each handed over to that switch's isolation, which holds them
closed as well. -/
def Manager.handOver (m : Manager) (s : Nat) (l : List Nat) : Manager :=
  l.foldl (fun m i =>
    let e := linkOf m.fab.links i
    let o := if i / 128 ≠ s then i / 128 else e.peerNid % 8192
    m.setSwInst o { m.swInst o with isoLinks := insNat (m.swInst o).isoLinks i }) m

/-- An entry that faces s stays closed when s is readmitted: the switch at its other end is isolated too (R202). -/
def Manager.faces (m : Manager) (s i : Nat) : Bool :=
  let e := linkOf m.fab.links i
  if i / 128 ≠ s then m.isolated (i / 128) else decide (e.peerKind = .switch) && m.isolated (e.peerNid % 8192)

/-- Returns the ADMIN_DOWN entries that isolation set to PROBING: a snapshot change (R202, R252). Those whose ends still
name each other become UP (R443). [DEDUCED, log 22] -/
def Manager.readmitSwitch (m : Manager) (s : Nat) : Manager :=
  let x := m.swInst s
  let shut := x.isoLinks.filter (fun i => decide ((linkOf m.fab.links i).st = .adminDown))
  let back := shut.filter (fun i => !m.faces s i)
  let m := m.handOver s (shut.filter (m.faces s))
  let m := back.foldl (fun m i => m.putState i .probing) m
  let m := (m.setSwInst s { x with st := .absent, isoLinks := [], readmit := true }).openWindow
  let m := if back.isEmpty ∨ (m.obj Obj.DS_STATE ≠ 1 ∧ m.obj Obj.DS_STATE ≠ 2) then m else m.onDisc (fun d => { d with settle := true })
  (back.foldl (fun m i => m.bringUp i) m).retryQueue

end Sys2Proof.Machine
end

