-- ==== Sys2Proof/Machine/InstallOps.lean ====
section
/-! DEFINITION. Sys2Proof/Machine/InstallOps.lean: the course of a candidate at the manager: staging, failed attempts,
agreement, commit, drain and release (chapter "Plates, impressions and installation"). -/

namespace Sys2Proof.Machine

/-! ## The sides of the route image and alternate tables (R129, R173-R175) -/

/-- Writes the block and alternate entries and the annex slots of plates to the side that a number's parity selects. [DEDUCED, log 18] -/
def Manager.storePlates (m : Manager) (number : Nat) (plates : SMap Plate) : Manager :=
  let side := number % 2
  m.onEng (fun e => { e with mem := plates.foldl (fun mem p =>
    let at_ := side * 0x4000000 + 16 * 512 * p.1
    let slot := annexBase + (2 * p.1 + side) * 0x1C00
    let annex := leBytes 256 p.2.header ++ (padTo 256 p.2.locals).flatMap (leBytes 16) ++ (padTo 64 p.2.trees).flatMap (leBytes 32)
    memWriteN (memWriteN (memWriteN mem at_ ((padTo 512 p.2.blocks).flatMap (leBytes 16)))
      (0x8000000 + at_) ((padTo 512 p.2.alts).flatMap (leBytes 16))) slot annex) e.mem })

/-- The block and alternate entries of a plate as the table side of a number holds them. -/
def sideEntries (mem : List Host.Cell) (number : Nat) (s : Nat) (p : Plate) : Plate :=
  let at_ := fun (base i : Nat) => leNat (memReadN mem (base + number % 2 * 0x4000000 + 16 * (512 * s + i)) 16)
  { p with blocks := p.blocks.zipIdx.map (fun e => at_ 0 e.2), alts := p.alts.zipIdx.map (fun e => at_ 0x8000000 e.2) }

/-- The entries E of a plate, each ANDed with what the hook made of it, E' of `left`; an entry that would become empty is kept.
Also the bits removed (R147). -/
def hookCut (left p : Plate) : Plate × Nat :=
  let cut := fun (l l' : List Nat) => l.zipIdx.map (fun e =>
    let v := l'.getD e.2 e.1 &&& e.1
    if v = 0 then e.1 else v)
  let b := cut p.blocks left.blocks
  let a := cut p.alts left.alts
  let bits := fun (x y : List Nat) => (x.zip y).foldl (fun n e =>
    n + (portsOf (BitVec.ofNat 128 e.1)).length - (portsOf (BitVec.ofNat 128 e.2)).length) 0
  ({ p with blocks := b, alts := a }, bits p.blocks b + bits p.alts a)

/-- The computation in progress takes the number after the impression that has just been committed under its own, and its entries,
as far as the hook has rewritten them, the side of that number (R43, R129). -/
def Manager.moveComp (m : Manager) : Manager :=
  match m.rt.comp with
  | none => m
  | some c =>
    let number := nextImp (m.obj Obj.IMP_COMMITTED)
    if c.number = number then m
    else
      let held := c.plates.map (fun p => (p.1, (hookCut (sideEntries m.eng.mem c.number p.1 p.2) p.2).1))
      let m := if c.hook then m.storePlates number held else m.storePlates number c.plates
      { m with rt := { m.rt with comp := some { c with number := number } } }

/-! ## Staging (R188, R194, R207, R208) -/

/-- The impression a stage's delta is against: the committed one; for the completion of an interrupted install the one
before it, from the archive (R185, R297). -/
def Manager.stageBase (m : Manager) : Impression :=
  let prev := (m.obj Obj.IMP_COMMITTED + (2 ^ 32 - 1)) % 2 ^ 32
  match m.inst.cand with
  | some c =>
    if c.only.isEmpty then m.inst.committed
    else match m.inst.archive.find? (fun a => a.imp.number == prev) with
      | some a => a.imp
      | none => { number := prev }
  | none => m.inst.committed

/-- The plate of a switch is staged full. -/
def Manager.stageFull (m : Manager) (s : Nat) : Bool :=
  let n := m.node (m.agentOf s)
  !n.plateValid || (mapGet m.stageBase.plates s).isNone || m.rt.wholeFor.contains s || (m.inst.cand.any (fun c => c.full)) ||
  (m.swInst s).last == 3 || (m.swInst s).readmit

/-- The fragments of a plate's stage. -/
def Manager.stageOf (m : Manager) (s : Nat) (p : Plate) (full : Bool) : List (List Byte) :=
  let range := match p.form (m.node (m.agentOf s)).desc with | .ok r => r | .error _ => false
  let base := m.stageBase
  stageFrames ((mapGet base.plates s).getD {}) (if base.number = m.inst.committed.number then m.obj Obj.IMP_COMMITTED else base.number) p full range

/-- Sends a stage of a switch's plate: one more attempt. It is held while the agent restarts or is parked (R335, R517). [DEDUCED, log 59] -/
def Manager.sendStage (m : Manager) (s : Nat) (full : Bool) : Manager :=
  let n := m.node (m.agentOf s)
  match m.inst.cand with
  | none => m
  | some c =>
    if n.restarting.isSome ∨ n.parked then m.setNode (m.agentOf s) { n with stageHeld := some full }
    else
    let frames := m.stageOf s (mapGetD c.imp.plates s {}) full
    let x := m.swInst s
    let m := m.setSwInst s { x with attempts := x.attempts + 1, bytes := (frames.map List.length).foldl (fun a b => a + b) 0 }
    let m := { m with inst := { m.inst with cand := some { c with whole := if full then insNat c.whole s else c.whole } } }
    frames.foldl (fun m f => m.cmdAgent (m.agentOf s) (.stage f)) m

/-- Switches in descending order of their expected node writes: the places in which their plates differ. -/
def Manager.stageOrder (m : Manager) (plates : SMap Plate) : List Nat :=
  let writes := fun (e : Nat × Plate) =>
    let old := (mapGet m.inst.committed.plates e.1).getD {}
    [1, 2, 3, 4, 5].foldl (fun a sec => a + (changedRuns (old.sec sec) (e.2.sec sec) (max (old.sec sec).length (e.2.sec sec).length)).foldl
      (fun a r => a + r.2.length) 0) 0
  ((sortNat (plates.map (fun e => (100000 - min 100000 (writes e)) * 2 ^ 13 + e.1))).map (fun k => k % 2 ^ 13))

/-- The refusal record of a candidate that does not fit (R208). -/
def Manager.refuse (m : Manager) (imp : Nat) (bad : List (Nat × Nat × Nat × Nat)) : Manager :=
  match bad with
  | [] => m
  | b :: _ =>
    let m := ((m.setObj Obj.RF_IMP imp).setObj Obj.RF_SWITCH (0x20000 + b.1)).setObj Obj.RF_SECTION b.2.1
    let m := ((m.setObj Obj.RF_NEED b.2.2.1).setObj Obj.RF_CAP b.2.2.2).setObj Obj.RF_OVER (b.2.2.1 - b.2.2.2)
    ((m.setObj Obj.RF_SWITCHES bad.length).bump Obj.IMP_REFUSED).event 0x108 0

/-! ## Commit (R195, R196) -/

/-- The archive after a commit: the oldest of 256 is dropped (R209). -/
def pushArchive (l : List ArchImp) (a : ArchImp) : List ArchImp := (if 256 ≤ l.length then l.drop 1 else l) ++ [a]

/-- The switches at which plates hold a tree entry of each context. -/
def treeMap (plates : SMap Plate) : SMap (List Nat) :=
  plates.foldl (fun m e => e.2.trees.foldl (fun m w => if bitOf w 231 then mapUpd m (bitsOf w 255 244) [] (fun l => insNat l e.1) else m) m) []

/-- The agents of switches that gain or lose tree entries of a context receive SET_KEY or REVOKE for a TREE entry (R326); the entry
that is revoked is of the generation it was set under. -/
def Manager.moveTreeKeys (m : Manager) (plates : SMap Plate) : Manager :=
  let old := m.rt.treeKeys
  let new := (treeMap plates).map (fun e => (e.1, ((m.ctx e.1).gen, e.2)))
  let m := new.foldl (fun m e =>
    let had := mapGetD old e.1 (0, [])
    m.giveTreeKeys e.1 (e.2.2.filter (fun s => !(had.1 == e.2.1 && had.2.contains s)))) m
  let m := old.foldl (fun m e =>
    (e.2.2.filter (fun s => !(mapGetD new e.1 (0, [])).2.contains s)).foldl (fun m s =>
      m.sendCmd (m.agentOf s) 1 0 0 (.revoke e.1 e.2.1 2 (0x20000 + s))) m) m
  { m with rt := { m.rt with treeKeys := new } }

/-- The trees that plates carry: context and number (R154, R178). -/
def treesIn (plates : SMap Plate) : List (Nat × Nat) :=
  plates.foldl (fun l e => e.2.trees.foldl (fun l w =>
    let t := (bitsOf w 255 244, bitsOf w 243 240)
    if bitOf w 231 && !l.contains t then l ++ [t] else l) l) []

/-- A seed that a committed plate carries is pending no longer (R164). -/
def seedCommitted (plates : SMap Plate) (now : Nat) (s : Nat) (x : SwitchRt) : SwitchRt :=
  if x.fresh && (mapGet plates s).any (fun p => some p.seed == x.seed) then { x with fresh := false, seedAt := some now } else x

/-- What an impression carries becomes the committed one's: trees and seeds, and PCOUNT is queued for it (R151, R154, R164). -/
def Manager.carry (m : Manager) (c : Cand) : Manager :=
  let trees := treesIn c.imp.plates
  let built := trees.filterMap (fun t => (c.trees ++ m.rt.trees ++ m.rt.built).find? (fun x => x.ctx == t.1 && x.num == t.2))
  let m := { m with rt := { m.rt with
    built := built
    sw := m.rt.sw.map (fun (e : Nat × SwitchRt) => (e.1, seedCommitted c.imp.plates m.dev.time e.1 e.2))
    pcount := some c.imp.number, pSnap := c.snap, pAdj := c.adj, pLex := c.lex } }
  let was := m.rt.carried
  let m := { m with rt := { m.rt with carried := trees } }
  (sortNat ((was ++ trees).map (fun t => t.1))).foldl (fun m k =>
    m.setObj (ctxKey Obj.WD_BUILT k) (trees.filter (fun t => t.1 == k)).length) (m.moveTreeKeys c.imp.plates)

/-- A committed impression takes its place: IMP_COMMITTED, IMP_DIGEST, the archive, its side of the tables, the trees and seeds it
carries. IMP_FULL ends with the commit of a candidate staged full for it, and IMP_LAST_US is taken where a window closed for it
(R188, R211). -/
def Manager.putCommitted (m : Manager) (c : Cand) : Manager :=
  let m := (m.setObj Obj.IMP_COMMITTED c.imp.number).onDev (fun d => d.setBlob Obj.IMP_DIGEST (leBytes 32 c.imp.digest.toNat))
  let m := { m with inst := { m.inst with
    committed := c.imp, archive := pushArchive m.inst.archive { imp := c.imp, time := m.dev.time } } }
  let m := (m.moveComp.storePlates c.imp.number c.imp.plates).carry c
  let m := (m.setObj Obj.IA_DEPTH m.inst.archive.length).setObj Obj.RF_SWITCHES 0
  let m := if c.full then m.setObj Obj.IMP_FULL 0 else m
  let m := if m.obj Obj.DS_STATE = 3 then (m.setObj Obj.DS_STATE 4).setObj Obj.DS_READY_MS ((m.dev.time - m.disc.claimed) / 1000000) else m
  let m := match c.closed with
    | some t => { m.setObj Obj.IMP_LAST_US ((m.dev.time - t) / 1000) with
        rt := { m.rt with closed := if m.rt.closed = c.closed then none else m.rt.closed } }
    | none => m
  let m := m.event 0x106 0
  if m.confidential then m.eventWith 0x186 0 (leBytes 4 c.imp.number ++ [0, 0, 0, 0]) else m

/-- The COMMIT frame of a candidate. -/
def Manager.commitMsg (m : Manager) (c : Cand) : Msg := .commit c.imp.number (m.obj Obj.IMP_DRAIN_US) c.imp.digest

/-- COMMIT is multicast, and every switch of the impression is awaited (R196 step 5); the completion of an interrupted
install is committed to its own switches alone, by unicast (R297). -/
def Manager.commitSend (m : Manager) : Manager :=
  match m.inst.cand with
  | none => m
  | some c =>
    let all := if c.only.isEmpty then c.imp.plates.map (fun e => e.1) else c.only
    let m := if c.only.isEmpty then (m.putEntry { kind := .decision c.imp.number c.imp.digest c.imp.plates c.full }).putCommitted c else m
    let m := m.phase 4
    let m := { m with
      inst := { m.inst with cand := some { c with awaits := all }, lastAck := m.dev.time
                            sw := all.foldl (fun w s => mapUpd w s {} (fun x => x.mark .commitPending)) m.inst.sw }
      rt := { m.rt with wholeFor := m.rt.wholeFor.filter (fun s => !c.whole.contains s) } }
    if c.only.isEmpty then m.sendCmd nidAll 0xE001 0 0 (m.commitMsg c)
    else all.foldl (fun m s => m.cmdAgent (m.agentOf s) (m.commitMsg c)) m

/-- The other modules in service of a triad agree with this one's digest (R200, R293): at least one other holds it, or
the module is alone and RD_SOLO lets it act as a single module. -/
def Manager.agreed (m : Manager) (d : Digest) : Bool :=
  match m.red.slot with
  | none => true
  | some k =>
    if m.red.peersIn.isEmpty then m.obj Obj.RD_SOLO == 1
    else m.red.peersIn.any (fun p => p != k && (mapGet m.red.digests p).map (fun x => x.2) == some d)

/-- Every stage is acknowledged: agreement where needed, then COMMIT. A completion commits what a decision committed before (R297). -/
def Manager.tryCommit (m : Manager) : Manager :=
  match m.inst.cand with
  | none => m
  | some c =>
    if !c.awaits.isEmpty ∨ (m.inst.phase ≠ 2 ∧ m.inst.phase ≠ 3) ∨ !m.leads ∨ !m.active then m
    else if !c.only.isEmpty || m.agreed c.imp.digest then m.commitSend
    else m.phase 3

/-! ## Readmission (R298, R547) -/

/-- A switch may join the next candidate: its store is invalid, or its committed number has not the parity of the number that
candidate takes. While a computation or a candidate that does not hold the switch is in progress that number is not yet known, and
an adoption readmits after its own commit alone. [DEDUCED, log 107] -/
def Manager.mayJoin (m : Manager) (s : Nat) : Bool :=
  m.rt.comp.isNone && m.inst.cand.isNone && (match m.red.gain with | .none => true | _ => false) &&
  (!(m.node (m.agentOf s)).plateValid || (m.swInst s).committed % 2 != nextImp (m.obj Obj.IMP_COMMITTED) % 2)

/-- The isolated switches that are to join again do so, each once it may; until then it stays isolated (R298 step 5, R547). -/
def Manager.joinLater (m : Manager) : Manager :=
  let may := m.red.readmits.filter m.mayJoin
  let m := may.foldl (fun m s => m.readmitSwitch s) m
  { m with red := { m.red with readmits := m.red.readmits.filter (fun s => !may.contains s) } }

/-! ## A complete candidate (R197, R198) -/

/-- Switches whose plates do not fit, rising: switch, section, need, capacity (R207). -/
def Manager.unfit (m : Manager) (plates : SMap Plate) : List (Nat × Nat × Nat × Nat) :=
  plates.filterMap (fun e => match e.2.form (m.node (m.agentOf e.1)).desc with
    | .ok _ => none
    | .error b => some (e.1, b))

/-- A candidate is complete: it is refused, is installed, replaces the one being staged, or is abandoned where COMMIT of
another has been sent. Before a fabric's gate has passed no stage is sent (R448), while a unit gains authority none but the completion's
(R299), and a restore is over with its candidate. [DEDUCED, log 23] -/
def Manager.newCandidate (m : Manager) (c : Cand) : Manager :=
  let m := match m.red.slot with
    | some k => { m with red := { m.red with
      digests := mapSet m.red.digests k (⟨c.imp.number, c.entry⟩, c.imp.digest)
      triadOut := m.red.triadOut ++ [TriadMsg.digest ⟨c.imp.number, c.entry⟩ c.imp.digest] } }
    | none => m
  if m.inst.phase = 4 ∨ m.inst.phase = 5 then ({ m with inst := { m.inst with again := true } }).impState
  else if m.obj Obj.DS_STATE < 3 || m.red.gaining then (if c.restore then m.setObj Obj.IA_RESTORE 0 else m).impState
  else
    let bad := m.unfit c.imp.plates
    if !bad.isEmpty then (m.refuse c.imp.number bad).abandon.joinLater
    else
      let all := c.imp.plates.map (fun e => e.1)
      let m := { m with inst := { m.inst with
        cand := some { c with awaits := all, whole := [], full := m.obj Obj.IMP_FULL == 1 }
        sw := all.foldl (fun w s => mapUpd w s {} (fun x => { x with attempts := 0 })) m.inst.sw } }
      let m := ((m.setObj Obj.IMP_CANDIDATE c.imp.number).setObj Obj.IA_RESTORE (if c.restore then 1 else 0)).phase 2
      let m := (m.stageOrder c.imp.plates).foldl (fun m s => m.sendStage s (m.stageFull s)) m
      m.tryCommit

/-! ## Failed attempts (R197, R201) -/

/-- The candidate is the completion of an interrupted install (R297). -/
def Manager.completes (m : Manager) : Bool := m.inst.cand.any (fun c => !c.only.isEmpty)

/-- A switch that cannot be staged for the completion is isolated and leaves it; without another the completion is over (R201, R297,
R299). [DESIGN CHOICE, log 110] -/
def Manager.notCompleted (m : Manager) (s : Nat) : Manager :=
  let m := m.isolate s .excluded
  match m.inst.cand with
  | none => m
  | some c =>
    let c := { c with awaits := c.awaits.filter (fun k => k != s), only := c.only.filter (fun k => k != s) }
    if c.only.isEmpty then (({ m with red := { m.red with gain := .none } }).abandon).wantNow
    else ({ m with inst := { m.inst with cand := some c } }).tryCommit.wantNow

/-- A stage attempt of a switch has failed with a status. -/
def Manager.stageFailed (m : Manager) (s status : Nat) : Manager :=
  let x := m.swInst s
  let m := m.setSwInst s { x.mark .stageFailed with last := status }
  let part := m.obj Obj.IMP_PARTIAL
  if m.completes then (if x.attempts < max 1 (m.obj Obj.IMP_RETRIES) then m.sendStage s true else m.notCompleted s)
  else if part = 2 then (m.abandon.event 0x107 0).joinLater
  else if part = 0 ∧ x.attempts < max 1 (m.obj Obj.IMP_RETRIES) then m.sendStage s true
  else if part = 0 ∧ m.obj Obj.IMP_FALLBACK = 2 then (m.abandon.event 0x107 0).joinLater
  else ((m.isolate s .excluded).abandon).wantNow

/-! ## Drain and release (R196 steps 8 and 9) -/

/-- Every COMMIT and every isolation is acknowledged: the install drains, and step 4 of sealed carves it carries has ended
(R226). [DEDUCED, log 26] -/
def Manager.checkDrain (m : Manager) : Manager :=
  let quiet := match m.inst.cand with
    | some c => c.awaits.isEmpty
    | none => true
  if decide (m.inst.phase = 4) && m.inst.isolating.isEmpty && quiet then
    let sealed_ := fun (c : Nat) => match m.inst.cand with
      | some k => k.snap.any (fun l => l.2.sealCtx == c)
      | none => false
    let ctxs := m.sl.ctxs.map (fun e => (e.1, if decide (e.2.st = .carving) && (sealed_ e.1 || e.2.sealLinks == 0) then { e.2 with installed := true } else e.2))
    ({ m with sl := { m.sl with ctxs := ctxs } }).phase 5
  else m

/-- A switch that gave no acknowledgement within IMP_COMMIT_US is lost and isolated (R193, R202, R203). -/
def Manager.loseSwitch (m : Manager) (s : Nat) : Manager :=
  let m := m.setSwInst s { m.swInst s with last := 0x8000 }
  m.isolate s .lost


end Sys2Proof.Machine
end

