-- ==== Sys2Proof/Machine/Install.lean ====
section
/-! DEFINITION. Sys2Proof/Machine/Install.lean: the manager's commands of installation (chapter "Plates, impressions and
installation"). -/

namespace Sys2Proof.Machine

/-- What an agent → manager frame of each type asks of its header. -/
def stageFrame : FrameKind := { cls := .stage, claim := false }
def commitFrame : FrameKind := { cls := .claimCommit, claim := false }

/-- The switch an agent's NID serves: a switch agent's own, or a forwarding endpoint's (R37). -/
def Manager.switchOf (m : Manager) (nid : Nat) : Nat :=
  if 0x20000 ≤ nid then nid - 0x20000 else (m.node nid).fwd - 0x20000

/-- The pair an acknowledgement with status CLAIM carries (R192). -/
def ackPair (d : Digest) : Nat × Nat := (bitsOf d.toNat 255 192, bitsOf d.toNat 191 174)

/-- STAGE_ACK (R194): counted when its status is OK and its digest is the manager's; CLAIM tells of a higher pair (R282);
any other outcome is a failed attempt. -/
def execStageAck (hdr : Hdr) (imp status detail : Nat) (digest : Digest) (s : State) : Out :=
  let t := s.mgr.dev.ingress stageFrame hdr s.mgr.genOf
  let m := { s.mgr with dev := t.dev }
  if !t.ok then .next { s with mgr := m }
  else
    let sw := m.switchOf hdr.src
    let m := m.entry (.stageAck hdr imp status detail digest)
    let m := if status = 2 then m.meetPair (ackPair digest).1 (ackPair digest).2 else m
    let x := m.swInst sw
    let m := m.setSwInst sw { x with last := status }
    let m := if status = 1 ∨ (status = 3 ∧ detail ≠ 0xFFFFFFFF) ∨ status = 9 then m.swReports sw (detail % 2 ^ 32) else m
    match m.inst.cand with
    | none => .next { s with mgr := m }
    | some c =>
      if m.inst.phase ≠ 2 ∨ c.imp.number ≠ imp ∨ !c.awaits.contains sw then .next { s with mgr := m }
      else if status = 0 ∧ (mapGetD c.imp.plates sw {}).digest = digest then
        let m := m.setSwInst sw ((m.swInst sw).mark .staged)
        let m := { m with inst := { m.inst with cand := some { c with awaits := c.awaits.filter (fun k => k != sw) } } }
        .next { s with mgr := m.tryCommit.drainCmds }
      else .next { s with mgr := m.stageFailed sw (if status = 0 then 0x8001 else status) }

/-- STAGE_ATTEMPT_TIMEOUT: an attempt is unanswered within IMP_STAGE_US (R197). -/
def execStageAttemptTimeout (switch : Nat) (s : State) : Out :=
  match s.mgr.inst.cand with
  | none => .next s
  | some c =>
    if s.mgr.inst.phase ≠ 2 ∨ !c.awaits.contains switch ∨ (s.mgr.node (s.mgr.agentOf switch)).stageHeld.isSome then .next s
    else .next { s with mgr := (s.mgr.entry (.stageAttemptTimeout switch)).stageFailed switch 0x8000 }

/-- COMMIT_ACK (R195, R196): the switch has flipped; CLAIM tells of a higher pair. -/
def execCommitAck (hdr : Hdr) (imp status detail : Nat) (field : Digest) (s : State) : Out :=
  let t := s.mgr.dev.ingress commitFrame hdr s.mgr.genOf
  let m := { s.mgr with dev := t.dev }
  if !t.ok then .next { s with mgr := m }
  else
    let sw := m.switchOf hdr.src
    let m := m.entry (.commitAck hdr imp status detail field)
    let m := if status = 2 then m.meetPair (ackPair field).1 (ackPair field).2 else m
    let x := m.swInst sw
    let m := m.setSwInst sw { x with last := status }
    let m := if status = 1 then m.swReports sw (detail % 2 ^ 32) else m
    match m.inst.cand with
    | none => .next { s with mgr := m }
    | some c =>
      if m.inst.phase ≠ 4 ∨ c.imp.number ≠ imp ∨ status ≠ 0 ∨ !c.awaits.contains sw then .next { s with mgr := m }
      else
        let m := m.setSwInst sw { (m.swInst sw).mark .current with
          committed := imp, digest := (mapGetD c.imp.plates sw {}).digest, hasDigest := true, readmit := false }
        let m := m.setNode (m.agentOf sw) { m.node (m.agentOf sw) with plateValid := true, committed := imp }
        let m := { m with inst := { m.inst with
          cand := some { c with awaits := c.awaits.filter (fun k => k != sw) }, lastAck := m.dev.time } }
        .next { s with mgr := m.checkDrain.drainCmds }

/-- COMMIT_RETRY: COMMIT is repeated by unicast to agents that have not acknowledged (R196 step 7). -/
def execCommitRetry (s : State) : Out :=
  let m := s.mgr
  match m.inst.cand with
  | none => .next s
  | some c =>
    if m.inst.phase ≠ 4 then .next s
    else .next { s with mgr := c.awaits.foldl (fun m k => m.cmdAgent (m.agentOf k) (m.commitMsg c)) m }

/-- COMMIT_TIMEOUT: agents still silent after IMP_COMMIT_US are lost and isolated; a computation starts at once (R203). -/
def execCommitTimeout (s : State) : Out :=
  let m := s.mgr
  match m.inst.cand with
  | none => .next s
  | some c =>
    if m.inst.phase ≠ 4 ∨ c.awaits.isEmpty then .next s
    else
      let m := m.entry .commitTimeout
      let m := c.awaits.foldl (fun m k => m.loseSwitch k) m
      let m := { m with inst := { m.inst with cand := some { c with awaits := [] } } }
      .next { s with mgr := m.wantNow.checkDrain }

/-! ## Isolation (R202) -/

/-- Step 3 of adoption ends: every isolation is acknowledged and IMP_DRAIN_US has passed; step 4 computes without a window (R298). -/
def Manager.adoptDrained (m : Manager) : Manager :=
  match m.red.gain with
  | .isolating n =>
    if m.inst.isolating.isEmpty then ((m.entry .oldSideRelease).onRed (fun r => { r with gain := .adopting n })).wantNow else m
  | _ => m

/-- The acknowledgement of a peer is no longer awaited. -/
def Manager.isoDone (m : Manager) (s peer : Nat) : Manager :=
  match mapGet m.inst.isolating s with
  | none => m
  | some w =>
    let left := w.peers.filter (fun p => p != peer)
    let m := { m with inst := { m.inst with
      isolating := if left.isEmpty then mapDel m.inst.isolating s else mapSet m.inst.isolating s { w with peers := left }
      lastAck := m.dev.time } }
    m.checkDrain.drainCmds

/-- ISOLATE_ACK (R202). -/
def execIsolateAck (hdr : Hdr) (nid status : Nat) (s : State) : Out :=
  let t := s.mgr.dev.ingress commitFrame hdr s.mgr.genOf
  let m := { s.mgr with dev := t.dev }
  if !t.ok ∨ status ≠ 0 ∨ nid < 0x20000 then .next { s with mgr := m }
  else .next { s with mgr := (m.entry (.isolateAck hdr nid status)).isoDone (nid - 0x20000) (m.switchOf hdr.src) }

/-- ISOLATE_RETRY: ISOLATE is repeated to the peers that have not acknowledged (R202). -/
def execIsolateRetry (switch : Nat) (s : State) : Out :=
  match mapGet s.mgr.inst.isolating switch with
  | none => .next s
  | some w => .next { s with mgr := w.peers.foldl (fun m p => m.sendIsolate p switch) s.mgr }

/-- ISOLATE_TIMEOUT: peers silent for IMP_COMMIT_US are lost and isolated in turn; their acknowledgements are replaced by
those of their own isolation (R202). -/
def execIsolateTimeout (switch : Nat) (s : State) : Out :=
  match mapGet s.mgr.inst.isolating switch with
  | none => .next s
  | some w =>
    let m := s.mgr.entry (.isolateTimeout switch)
    let m := w.peers.foldl (fun m p => m.loseSwitch p) m
    let m := w.peers.foldl (fun m p => m.isoDone switch p) m
    .next { s with mgr := m.wantNow }

/-! ## Release, and commands of the install objects -/

/-- The committed impression carries no route over a switch: none of its links was UP in its snapshot. -/
def Manager.avoids (m : Manager) (s : Nat) : Bool := (entriesOf m.rt.pSnap s).all (fun i => !linkUp (linkOf m.rt.pSnap i))

/-- RESET_GRANT after a detour commit and its drain (R263). -/
def Manager.grantDetours (m : Manager) : Manager :=
  let done := m.inst.detour.filter (fun e => m.avoids (m.switchOf e.1))
  let m := { m with inst := { m.inst with detour := m.inst.detour.filter (fun e => !m.avoids (m.switchOf e.1)) } }
  done.foldl (fun m e => m.cmdAgent e.1 (.resetGrant e.1 true)) m

/-- OLD_SIDE_RELEASE: IMP_DRAIN_US after the last acknowledgement the old side is released (R196 step 9, R198, R263, R297,
R298); so does the wait of adoption's step 3. [DEDUCED, log 26] -/
def execOldSideRelease (s : State) : Out :=
  let m := s.mgr
  if m.inst.phase ≠ 5 then .next { s with mgr := m.adoptDrained }
  else
    let m := m.entry .oldSideRelease
    let again := m.inst.again
    let m := ({ m with inst := { m.inst with cand := none, again := false } }).setObj Obj.IMP_CANDIDATE 0
    let m := (m.setObj Obj.IA_RESTORE 0).phase 0
    let m := m.grantDetours
    let m := match m.red.gain with
      | .completing _ => ({ m with red := { m.red with gain := .none } }).openWindow
      | .adopting _ => ({ m with red := { m.red with gain := .none } })
      | _ => m
    let m := m.joinLater
    .next { s with mgr := if again && m.rt.comp.isNone then m.wantNow else m }

/-- IMP_FULL: the next candidate is staged full to every agent, and a computation starts (R188, R253); STATE before the
fabric is READY (R447). -/
def execImpFull (req : Req) (value : Nat) (s : State) : Out :=
  if s.mgr.obj Obj.DS_STATE ≠ 4 ∧ s.mgr.gateReach req Obj.IMP_FULL true value = 0 ∧ s.mgr.gateState req Obj.IMP_FULL true = 0 then
    .next { s with mgr := s.mgr.answer req 0x0009 }
  else .next { s with mgr := s.mgr.cmd (.impFull req value) req Obj.IMP_FULL value [1] (s.mgr.obj Obj.IMP_FULL == 1) (fun m _ => (m.setObj Obj.IMP_FULL 1).wantNow) }

/-- IS_READMIT: the ADMIN_DOWN entries that isolation set return to PROBING (R202), once the switch may join the next candidate
(R547); for a switch that is not isolated it has no effect (R348). -/
def execIsReadmit (req : Req) (value : Nat) (s : State) : Out :=
  .next { s with mgr := s.mgr.cmd (.isReadmit req value) req Obj.IS_READMIT value [1] (s.mgr.red.readmits.contains (s.mgr.obj Obj.SW_SEL)) (fun m _ =>
    let k := m.obj Obj.SW_SEL
    if m.isolated k then (m.onRed (fun r => { r with readmits := insNat r.readmits k })).joinLater else m) }

/-- Every port that a plate's block, alternate and exception entries name is UP in a snapshot (R210). -/
def restorable (ls : Links) (p : Nat × Plate) : Bool :=
  let used := (p.2.blocks ++ p.2.alts ++ p.2.excs.map (fun v => v % 2 ^ 128)).foldl (fun a v => a ||| v) 0
  (portsOf (BitVec.ofNat 128 used)).all (fun q => linkUp (linkOf ls (p.1 * 128 + q)))


/-- IA_RESTORE: the archived impression IA_SEL becomes a candidate under the next number and the current seeds, or the
restore is refused (R210). [DESIGN CHOICE, log 106] -/
def execIaRestore (req : Req) (value : Nat) (s : State) : Out :=
  .next { s with mgr := s.mgr.cmd (.iaRestore req value) req Obj.IA_RESTORE value [1] (s.mgr.obj Obj.IA_RESTORE == 1) (fun m _ =>
    match m.inst.archive.find? (fun a => a.imp.number == m.obj Obj.IA_SEL && a.available) with
    | none => m.event 0x10A 0
    | some a =>
      if !a.imp.plates.all (restorable m.rt.snap) then m.event 0x10A 0
      else
        let n := nextImp (m.obj Obj.IMP_COMMITTED)
        let plates := a.imp.plates.map (fun p => (p.1, renumber p.2 n ((mapGetD m.rt.sw p.1 {}).seed.getD 0)))
        (m.setObj Obj.IA_RESTORE 1).newCandidate { imp := { number := n, digest := impDigest n plates, plates := plates }
                                                   entry := m.red.applied, snap := m.rt.snap, awaits := [], restore := true }) }

end Sys2Proof.Machine
end

