-- ==== Sys2Proof/Machine/FieldOps.lean ====
section
/-! DEFINITION. Sys2Proof/Machine/FieldOps.lean: the manager's shared operations of bring-up: matching agents to the
blueprint, attestation, keys, link confirmation, comparison lists and the ready gate (chapters "From power-on to a ready
fabric", "Slarolu field network" and "The Bamen agent and the node contract"). -/

namespace Sys2Proof.Machine

/-! ## Keys (R415-R417) -/

/-- The manager's own sending key toward an agent or manager: a new key in the phase not in use is installed for receiving,
and offered (R416, R417). `assoc` is the association that carries the offer; where that one has reached the counter limit, the offer is
forced through as a first one travels. PEER_NID of a manager-manager key is the offerer. [DESIGN CHOICE, log 113] -/
def Manager.offerOwnKey (m : Manager) (nid key assoc : Nat) : Manager :=
  let atLimit := Nat.ble (2 ^ 48) (mapGetD m.dev.net.tx (peerKey nid assoc) {}).counter
  let phase := match mapGet m.dev.net.tx (peerKey nid key) with | some t => !t.phase | none => false
  let k : Key := BitVec.ofNat 256 m.dev.openNat
  let m := m.onDev Dev.drawn
  let saltTx := m.dev.openNat % 2 ^ 32
  let m := m.onDev Dev.drawn
  let saltRx := saltFrom [saltTx] (m.dev.openNat % 2 ^ 32)
  let m := m.onDev Dev.drawn
  let slot := slotKey nid key phase
  let m := m.onDev (fun d => { d with net := { d.net with
    keys := mapSet d.net.keys slot k, windows := mapDel d.net.windows slot, fresh := insNat d.net.fresh slot
    salts := mapSet d.net.salts slot saltTx } })
  let p : Nat := if phase then 1 else 0
  m.sendOffer { nid := nid, assoc := if atLimit then 0 else assoc, key := key, phase := phase, saltRx := saltRx
                msg := .keyOffer key p 1 (if key = 3 then m.dev.net.nid else 0) saltTx saltRx (m.obj Obj.FN_REKEY_FRAMES) k }

/-- The key of a fabric group, drawn where there is none, is offered to an agent. -/
def Manager.offerFabric (m : Manager) (assoc nid : Nat) : Manager :=
  match mapGet m.dev.net.tx (peerKey nidAll assoc) with
  | some t => m.offerGroupKey assoc t.phase t.key nid
  | none =>
    let r := m.drawGroupKey assoc true
    r.1.offerGroupKey assoc r.2.2 r.2.1 nid

/-! ## Values delivered to agents (R338, R429) -/

/-- The objects of the agent parameter record and the values the manager's source objects give them. -/
def Manager.apValues (m : Manager) : List (Nat × Nat) :=
  [(Obj.AP_STAGE_US, m.obj Obj.IMP_STAGE_US), (Obj.AP_DRAIN_US, m.obj Obj.IMP_DRAIN_US), (Obj.AP_GOOD_MS, m.obj Obj.FR_GOOD_MS),
   (Obj.AP_REPORT_RETRY_US, m.obj Obj.FR_REPORT_RETRY_US), (Obj.AP_NODE_HB_US, m.obj Obj.FR_NODE_HB_US),
   (Obj.AP_HANG_RESET, m.obj Obj.FR_HANG_RESET), (Obj.AP_DETOUR_MS, m.obj Obj.FR_DETOUR_MS),
   (Obj.AP_RESET_LIMIT, m.dev.objC Obj.RESET_LIMIT), (Obj.AP_RESET_WINDOW, m.dev.objC Obj.RESET_WINDOW),
   (Obj.AP_TL_PERIOD_MS, m.tl.present)]

/-- The manager's field values an agent stores. -/
def Manager.fnValues (m : Manager) : List (Nat × Nat) :=
  [Obj.FN_ETHERTYPE, Obj.FN_VID, Obj.FN_PCP_MAP, Obj.FN_MAC_BASE].map (fun k => (k, m.obj k))

/-- Command-frame dictionary writes of the manager's own to an agent, under tag 0. -/
def Manager.deliver (m : Manager) (nid : Nat) (vals : List (Nat × Nat)) : Manager :=
  let m := { m with rcv := { m.rcv with delivering := mapUpd m.rcv.delivering nid 0 (fun n => n + vals.length) } }
  vals.foldl (fun m v =>
    let len : Nat := match objRow v.1 with | some r => r.len | none => 0
    let m := m.setNode nid { m.node nid with delivered := mapSet (m.node nid).delivered v.1 v.2 }
    m.cmdAgent nid (.dictReq 0 0 0 v.1 (leBytes len v.2) true)) m

/-- Objects whose change the agents must be told of (R338). -/
def apSources : List Nat :=
  [Obj.IMP_STAGE_US, Obj.IMP_DRAIN_US, Obj.FR_GOOD_MS, Obj.FR_REPORT_RETRY_US, Obj.FR_NODE_HB_US, Obj.FR_HANG_RESET,
   Obj.FR_DETOUR_MS, Obj.TL_PERIOD_MS]

/-- The agent parameter record goes to every attested agent. [DEDUCED, log 82] -/
def Manager.deliverAll (m : Manager) : Manager := (m.fab.nodes.map (fun n => n.1)).foldl (fun m n => m.deliver n m.apValues) m

/-! ## Who is who (R440) -/

/-- The dies a record's identity names. [DEDUCED, log 61] -/
def Discovery.identDies (x : Discovery) (n : BpNode) : List Nat :=
  if n.identKind = 1 then x.diesOf n.ident else if n.identKind = 2 then (x.hellos.filter (fun h => h.1 == n.ident)).map (fun h => h.1) else []

/-- The node record that a switch NID or an endpoint NID of a link record belongs to. -/
def Discovery.nodeOf (x : Discovery) (nid : Nat) : Option Nat :=
  if (mapGet x.bpNodes nid).isSome then some nid else (x.bpNodes.find? (fun n => n.2.kind == 2 && n.2.fwd == nid)).map (fun n => n.1)

/-- The die matched to a node record. -/
def Discovery.dieOf (x : Discovery) (nid : Nat) : Option Nat := (mapGet x.matches_ nid).map (fun k => k.die)

/-- The links of the blueprint at a node, as (own port, the other node's record, its port): endpoint ports at 128 + port. -/
def Discovery.cables (x : Discovery) (nid : Nat) : List (Nat × Nat × Nat) :=
  x.bpLinks.flatMap (fun l =>
    let a := x.nodeOf l.a
    let b := x.nodeOf l.b
    let pb := if l.epB then 128 + l.portB else l.portB
    (match a, b with
     | some na, some nb => (if na = nid then [(l.portA, nb, pb)] else []) ++ (if nb = nid then [(pb, na, l.portA)] else [])
     | _, _ => []))

/-- The dies that matched neighbours of waves up to a bound point to for a node, and the least wave of those neighbours. -/
def Discovery.pointed (x : Discovery) (nid : Nat) : List Nat × Nat :=
  (x.cables nid).foldl (fun (acc : List Nat × Nat) c =>
    match mapGet x.matches_ c.2.1 with
    | none => acc
    | some k =>
      match x.nbr k.die c.2.2 with
      | none => acc
      | some r =>
        match x.diesOf r.node with
        | [] => acc
        | l => (l.foldl insNat acc.1, min acc.2 k.wave)) ([], 2 ^ 16)

/-- The identity of a record is carried by two agents, or its matched neighbours point to different ones. -/
def Discovery.conflict (x : Discovery) (nid : Nat) (n : BpNode) : List Nat :=
  let l := if n.identKind = 0 then (x.pointed nid).1 else x.identDies n
  if 2 ≤ l.length then l else []

/-- One round of matching: nodes not matched yet, from the anchors outward. -/
def Discovery.matchRound (x : Discovery) : Discovery :=
  x.bpNodes.foldl (fun y n =>
    if (mapGet x.matches_ n.1).isSome then y
    else
      let found := if n.2.identKind = 0 then x.pointed n.1 else (x.identDies n.2, 0)
      let wave := if n.2.identKind = 0 then found.2 + 1 else 0
      match found.1 with
      | [d] => if (y.nidOf d).isSome ∨ y.failed.contains (d, n.1) then y
               else { y with matches_ := mapSet y.matches_ n.1 { die := d, wave := wave } }
      | _ => y) x

/-- Matching, round by round until no more is matched; a match not attested yet ends where a conflict appears. [DEDUCED, log 61] -/
def Discovery.matchAll (x : Discovery) : Nat → Discovery
  | 0 => x
  | fuel + 1 =>
    let y := x.matchRound
    if y.matches_.length = x.matches_.length then x else Discovery.matchAll y fuel

/-- Matches are brought up to date with the reports held. -/
def Manager.rematch (m : Manager) : Manager :=
  let held := fun (nid : Nat) => (mapGet m.fab.nodes nid).isSome
  let x := m.disc
  let keep := x.matches_.filter (fun k => held k.1 || (match mapGet x.bpNodes k.1 with
    | some n => (x.conflict k.1 n).isEmpty
    | none => false))
  let x := Discovery.matchAll { x with matches_ := keep } (x.bpNodes.length + 1)
  ({ m with disc := x }).setObj Obj.DS_WAVE (x.matches_.foldl (fun (a : Nat) (k : Nat × Match) => max a k.2.wave) 0)

/-! ## The ready gate's settle period (R446) -/

/-- A comparison entry (Table: Comparison entry). -/
def cmpEntry (die nid port : Nat) (link : Bool) (reason expPeer expPort foundPeer foundPort expKind foundKind node : Nat) : Nat :=
  die * 2 ^ 192 + nid * 2 ^ 174 + port * 2 ^ 167 + (if link then 2 ^ 166 else 0) + reason * 2 ^ 152 + expPeer * 2 ^ 134 +
  expPort * 2 ^ 127 + foundPeer * 2 ^ 109 + foundPort * 2 ^ 102 + expKind * 2 ^ 88 + foundKind * 2 ^ 80 + node * 2 ^ 16

/-- The HELLO of a die. -/
def Discovery.hello (x : Discovery) (die : Nat) : HelloRec := mapGetD x.hellos die {}

/-- A matched neighbour of a POSITION node exists: an anchor reaches it by position. -/
def Discovery.reached (x : Discovery) (nid : Nat) : Bool := (x.cables nid).any (fun c => (mapGet x.matches_ c.2.1).isSome)

/-- The missing nodes and links. -/
def Manager.missNodes (m : Manager) : List Nat :=
  let x := m.disc
  x.bpNodes.filterMap (fun n =>
    match x.dieOf n.1 with
    | some d =>
      let h := x.hello d
      if h.join = 0 then none else some (cmpEntry d n.1 0 false 3 0 0 0 0 n.2.kind h.kind h.node)
    | none =>
      let why := if x.failed.any (fun f => f.2 == n.1) then 4 else if n.2.identKind ≠ 0 ∨ x.reached n.1 then 0 else 1
      some (cmpEntry 0 n.1 0 false why 0 0 0 0 n.2.kind 0xFF 0))
def Manager.missLinks (m : Manager) : List Nat :=
  m.disc.bpLinks.filterMap (fun l =>
    let e := linkOf m.fab.links ((l.a - 0x20000) * 128 + l.portA)
    if e.st = .up then none
    else some (cmpEntry 0 l.a l.portA true 5 l.b l.portB e.peerNid e.peerPort 0xFF 0xFF 0))

/-- The blueprint lists a switch's port. -/
def Discovery.listed (x : Discovery) (nid port : Nat) : Bool :=
  x.bpLinks.any (fun l => (l.a == nid && l.portA == port) || (l.b == nid && l.portB == port && !l.epB))

/-- The extra agents and links. -/
def Manager.extras (m : Manager) : List Nat :=
  let x := m.disc
  let clash := x.bpNodes.flatMap (fun n => if (mapGet x.matches_ n.1).isSome then [] else x.conflict n.1 n.2)
  let open_ := fun (kind : Nat) => x.bpNodes.any (fun n => n.2.kind == kind && n.2.identKind == 0 &&
    (mapGet x.matches_ n.1).isNone && !x.reached n.1)
  let agents := x.hellos.filterMap (fun h =>
    match x.nidOf h.1 with
    | some nid => if h.2.join = 0 then none else
        some (cmpEntry h.1 nid 0 false 3 0 0 0 0 (mapGetD x.bpNodes nid ⟨0, 0, 0xFF, 0, 0, 0⟩).kind h.2.kind h.2.node)
    | none =>
      let why := if clash.contains h.1 then 2 else if x.failed.any (fun f => f.1 == h.1) then 4
        else if open_ h.2.kind then 1 else 6
      some (cmpEntry h.1 0 0 false why 0 0 0 0 0xFF h.2.kind h.2.node))
  let links := m.fab.links.filterMap (fun e =>
    if e.2.st = .up ∧ !x.listed (0x20000 + e.1 / 128) (e.1 % 128) ∧
       !(e.2.peerKind = .switch ∧ e.2.peerNid < 0x20000 + e.1 / 128) then
      some (cmpEntry 0 (0x20000 + e.1 / 128) (e.1 % 128) true 6 0 0 e.2.peerNid e.2.peerPort 0xFF 0xFF 0)
    else none)
  agents ++ links

/-- Links whose reported peer or port differs from the blueprint. -/
def Manager.miswired (m : Manager) : List Nat :=
  let x := m.disc
  let side := fun (l : BpLink) (nid port expNid expPort : Nat) (expEp selfEp : Bool) =>
    match (x.nodeOf nid).bind x.dieOf with
    | none => none
    | some d =>
      match x.nbr d (if selfEp then 128 + port else port) with
      | none => none
      | some r =>
        if r.node = 0 then none
        else
          let found : Option Nat := match x.diesOf r.node with | [e] => x.peerNid e r.ep | _ => none
          let why : Option Nat := if found ≠ some expNid then some 7 else if r.port ≠ expPort ∨ r.ep ≠ expEp then some 8 else none
          why.map (fun w => cmpEntry d l.a l.portA true w expNid expPort (found.getD 0) r.port 0xFF 0xFF r.node)
  x.bpLinks.filterMap (fun l =>
    match side l l.a l.portA l.b l.portB l.epB false with
    | some e => some e
    | none => side l l.b l.portB l.a l.portA false l.epB)

/-- Matched nodes whose KIND differs from their record. -/
def Manager.wrongKind (m : Manager) : List Nat :=
  let x := m.disc
  x.matches_.filterMap (fun k =>
    let h := x.hello k.2.die
    match mapGet x.bpNodes k.1 with
    | some n => if n.kind = h.kind then none else some (cmpEntry k.2.die k.1 0 false 9 0 0 0 0 n.kind h.kind h.node)
    | none => none)

/-- The gate's counts stay within READY_TOLERANCE (R446). [DEDUCED, log 47] -/
def Manager.gatePasses (m : Manager) : Bool :=
  let within := fun (n limit : Nat) => limit == 0xFFFFFFFF || Nat.ble n limit
  let strict := fun (k : Nat) => if m.confidential then 0 else m.obj k
  within m.missNodes.length (m.obj Obj.RY_MISS_NODE) && within m.missLinks.length (m.obj Obj.RY_MISS_LINK) &&
  within m.extras.length (m.obj Obj.RY_EXTRA) && within m.miswired.length (strict Obj.RY_MISWIRED) &&
  within m.wrongKind.length (strict Obj.RY_WRONG_KIND)

/-! ## Adoption (R297, R298) -/

/-- The COMMITTED value most switch agents report, the newer among equals; 0 with no report. -/
def Manager.adoptNumber (m : Manager) : Nat :=
  let vals := m.red.reports.map (fun r => r.2.committed)
  let count := fun (v : Nat) => (vals.filter (fun w => w == v)).length
  match vals with
  | [] => 0
  | v :: rest => rest.foldl (fun b w => if count b < count w then w else if count b = count w ∧ newer w b then w else b) v

/-- Adoption of the agents' state (R298 steps 1 to 3). [DEDUCED, log 63] -/
def Manager.adopt (m : Manager) : Manager :=
  let n := m.adoptNumber
  let m := ((m.dropComp.setObj Obj.IMP_COMMITTED n).setObj Obj.IMP_FULL 1).onDev (fun d => d.setBlob Obj.IMP_DIGEST [])
  let m := { m with inst := { m.inst with archive := [], committed := { number := n } } }
  let m := m.setObj Obj.IA_DEPTH 0
  let odd := (m.red.reports.filter (fun r => r.2.committed != n)).map (fun r => r.1)
  let m := { m with red := { m.red with gain := .isolating n, readmits := odd } }
  odd.foldl (fun m s => m.isolate s .excluded) m

/-- The gate passes: INSTALLING, and the first impression is computed, after adoption where any switch agent reports a
number; without, IMP_FULL is pending at N = 0 (R298, R447). -/
def Manager.evalGate (m : Manager) : Manager :=
  let m := m.onDisc (fun x => { x with settle := false })
  if m.obj Obj.DS_STATE ≠ 1 ∧ m.obj Obj.DS_STATE ≠ 2 then m
  else if m.gatePasses then
    let m := m.setObj Obj.DS_STATE 3
    if m.obj Obj.IMP_COMMITTED = 0 ∧ m.red.reports.any (fun r => r.2.committed != 0) then m.adopt
    else (if m.obj Obj.IMP_COMMITTED = 0 then m.setObj Obj.IMP_FULL 1 else m).wantNow
  else m.setObj Obj.DS_STATE 2

/-- A change restarts the settle period; with DS_SETTLE_MS 0 the gate is evaluated after each change (R446). -/
def Manager.touchGate (m : Manager) : Manager :=
  if m.obj Obj.DS_STATE ≠ 1 ∧ m.obj Obj.DS_STATE ≠ 2 then m
  else if m.obj Obj.DS_SETTLE_MS = 0 ∧ m.disc.atts.isEmpty then m.evalGate
  else m.onDisc (fun x => { x with settle := true })

/-! ## Links named by neighbour reports (R443, R245) -/

/-- The switch NID and endpoint NID of the agent on a die that holds a NID. -/
def Manager.selfNid (m : Manager) (die port : Nat) : Option Nat :=
  match m.fab.nodes.find? (fun n => n.2.die == die) with
  | none => none
  | some n => if 128 ≤ port then (if n.2.kind = 0 then none else some n.1)
              else if n.2.kind = 0 then some n.1 else if n.2.kind = 2 then some n.2.fwd else none

/-- Blueprint, watch and lane fields of an entry. [DEDUCED, log 63; DEDUCED, log 65] -/
def Manager.dress (m : Manager) (i : Nat) (l : LinkEntry) : LinkEntry :=
  let l := m.flagged i l
  match m.bpLinkAt i with
  | some b => { l with weight := if b.a = 0x20000 + i / 128 then b.wAB else b.wBA, capacity := b.cap }
  | none => { l with weight := 0xFFFF, capacity := 0 }

/-- The entry of a switch port becomes PROBING from ABSENT, or its peer is renewed while it is PROBING. -/
def Manager.probe (m : Manager) (i peer port : Nat) (kind : PeerKind) : Manager :=
  let l := linkOf m.fab.links i
  if l.st = .absent then
    let l := m.dress i { l with peerNid := peer, peerPort := port, peerKind := kind, st := .probing, changeTime := m.dev.time }
    { m with fab := { m.fab with links := setLink m.fab.links i l } }
  else if l.st = .probing then
    { m with fab := { m.fab with links := setLink m.fab.links i { l with peerNid := peer, peerPort := port, peerKind := kind } } }
  else m

/-- A PROBING link whose ends are confirmed becomes UP, which restarts the settle period. [DEDUCED, log 58] -/
def Manager.tryUp (m : Manager) (i : Nat) : Manager :=
  if (linkOf m.fab.links i).st ≠ .probing ∨ !m.confirmed i then m else (m.bringUp i).touchGate

/-- A fresh report of a die at a port acts on the link table. -/
def Manager.applyReport (m : Manager) (die port : Nat) : Manager :=
  match m.selfNid die port, m.names die port with
  | some self, some (peer, q, ep) =>
    if port < 128 then
      let i := (self - 0x20000) * 128 + port
      let m := m.probe i peer q (if ep then .endpoint else .switch)
      let m := if ep || decide (peer < 0x20000) then m else m.probe ((peer - 0x20000) * 128 + q) self port .switch
      m.tryUp i
    else if ep ∨ peer < 0x20000 then m
    else
      let i := (peer - 0x20000) * 128 + q
      (m.probe i self (port - 128) .endpoint).tryUp i
  | _, _ => m

/-- Every report held acts on entries it could not act on before, because its peer was not matched. -/
def Manager.applyReports (m : Manager) : Manager :=
  m.disc.nbrs.foldl (fun m d => d.2.foldl (fun m p => m.applyReport d.1 p.1) m) m

/-- The reports of a link's ends date from before its fault (R245). -/
def Manager.staleReports (m : Manager) (i : Nat) : Manager :=
  let l := linkOf m.fab.links i
  let mark := fun (m : Manager) (die port : Nat) =>
    m.onDisc (fun x => match x.nbr die port with
      | some r => { x with nbrs := mapSet x.nbrs die (mapSet (mapGetD x.nbrs die []) port { r with fresh := false }) }
      | none => x)
  let m := match m.dieServing (0x20000 + i / 128) with | some d => mark m d (i % 128) | none => m
  match m.dieServing l.peerNid with
  | some d => mark m d (if l.peerKind = .endpoint then 128 + l.peerPort else l.peerPort)
  | none => m

/-! ## Home ports (R408) -/

/-- The manager's field ports that are up, rising. -/
def Manager.portsUp (m : Manager) : List Nat := (upTo 8).filter (fun p => m.dev.portUp p)

/-- The home port an agent is given: numbered among the ports that are up. -/
def Manager.homePort (m : Manager) (nid : Nat) : Nat :=
  let up := m.portsUp
  if up.isEmpty then 0 else up.getD (nid % up.length) 0

/-- The address of one of the manager's ports (R407). -/
def Manager.portMac (m : Manager) (port : Nat) : Nat :=
  m.dev.macOf port m.dev.net.nid

/-- The manager gives an agent a home port (R408). -/
def Manager.setHome (m : Manager) (nid port : Nat) : Manager :=
  m.onDev (fun d => { d with net := { d.net with homes := mapSet d.net.homes nid port } })

/-- The agents of an endpoint's leaf switches that are attested. -/
def Manager.leafAgents (m : Manager) (e : Nat) : List Nat :=
  ((leafSet m.fab.links e).map m.agentOf).filter (fun n => (mapGet m.fab.nodes n).isSome)

/-- The collector of an endpoint agent: the agent of the lowest-numbered switch of its leaf set, but for those passed over
and those that have missed two heartbeats (R424). -/
def Manager.collectorFor (m : Manager) (e : Nat) (not_ : List Nat) : Option Nat :=
  ((m.leafAgents e).filter (fun n => !not_.contains n && decide ((m.node n).misses < 2))).head?

/-! ## Attestation (R441, R442, R444) -/

/-- ATTEST_REQ goes to a die with the NID it is assigned, under a nonce of its own; where none can be drawn it goes out with
a later repeat (R459). -/
def Manager.sendAttest (m : Manager) (die : Nat) (a : Att) : Manager :=
  if m.rngOut then
    m.onDisc (fun x => { x with
      atts := mapSet x.atts die { a with
        stage := 0, hello := false, newHello := false, again := a.again || (mapGet x.redo die).getD false }
      redo := mapDel x.redo die })
  else
  let nonce : Digest := BitVec.ofNat 256 m.dev.openNat
  let m := m.onDev Dev.drawn
  let m := m.onDev (fun d => d.send { dst := nidNone, assoc := 0, bare := some die, msg := .attestReq nonce a.nid a.fwd })
  m.onDisc (fun x => { x with atts := mapSet x.atts die { a with
    digests := a.digests ++ [sha256 (attestPayload nonce a.nid a.fwd)], sends := a.sends + 1, sentAt := m.dev.time, stage := 0, hello := false, newHello := false
    again := a.again || (mapGet x.redo die).getD false }, redo := mapDel x.redo die })

/-- The NID and forwarding NID a die is to be attested under: none for one that is not joined, or that a matched
neighbour points to for a position already matched. -/
def Manager.assign (m : Manager) (die : Nat) : Option (Nat × Nat) :=
  let x := m.disc
  match x.nidOf die with
  | some nid =>
    if (x.hello die).join ≠ 0 then some (nidNone, 0)
    else some (nid, match mapGet x.bpNodes nid with | some n => if n.kind = 2 then n.fwd else 0 | none => 0)
  | none =>
    if x.bpNodes.any (fun n => (mapGet x.matches_ n.1).isSome && (x.pointed n.1).1.contains die) then some (nidNone, 0) else none

/-- The dies due for attestation, by wave, then NID. -/
def Manager.due (m : Manager) : List Nat :=
  let x := m.disc
  let rank := fun (die : Nat) => match x.nidOf die with
    | some n => (mapGetD x.matches_ n ⟨0, 0⟩).wave * 2 ^ 18 + n
    | none => 2 ^ 40 + die
  let want := (x.hellos.map (fun h => h.1)).filter (fun d =>
    (mapGet x.atts d).isNone && !x.ended.contains d && !x.failed.any (fun f => f.1 == d) && (m.assign d).isSome &&
    (!m.fab.nodes.any (fun n => n.2.die == d) || (mapGet x.redo d).isSome))
  (want.foldl (fun (l : List (Nat × Nat)) d => insertPair (rank d, d) l) []).map (fun p => p.2)
where
  insertPair (p : Nat × Nat) : List (Nat × Nat) → List (Nat × Nat)
    | [] => [p]
    | q :: rest => if p.1 < q.1 then p :: q :: rest else q :: insertPair p rest

/-- Attestations start while fewer than DS_WAVE_MAX are outstanding; only the leader of an active unit attests. -/
def Manager.pump (m : Manager) : Manager :=
  if !m.active || !m.leads then m
  else
    let room := m.obj Obj.DS_WAVE_MAX - m.disc.atts.length
    (m.due.take room).foldl (fun m d =>
      match m.assign d with
      | some (nid, fwd) => m.sendAttest d { nid := nid, fwd := fwd }
      | none => m) m

/-- The unit's CLAIM to one agent (R442). -/
def Manager.sendClaim (m : Manager) (nid : Nat) : Manager :=
  if !m.leads then m
  else m.onDev (fun d => d.send { dst := nid, assoc := 1, claim := some m.claim
                                  msg := .claim m.red.prev.1 m.red.prev.2.1 m.red.prev.2.2 (m.obj Obj.IMP_COMMITTED) })

/-- The association-1 key of a newly attested agent is offered under association 0, in place of any it held before. -/
def Manager.offerFirst (m : Manager) (nid : Nat) : Manager :=
  let m := m.onDev (fun d => { d with net := { d.net with
    keys := mapDel (mapDel d.net.keys (slotKey nid 1 false)) (slotKey nid 1 true)
    windows := mapDel (mapDel d.net.windows (slotKey nid 1 false)) (slotKey nid 1 true)
    grace := mapDel (mapDel d.net.grace (slotKey nid 1 false)) (slotKey nid 1 true)
    tx := mapDel d.net.tx (peerKey nid 1) } })
  m.offerOwnKey nid 1 0

/-- Everything an agent is given once it is attested (R338, R429, R444, R326). -/
def Manager.equip (m : Manager) (die nid : Nat) : Manager :=
  let again := (mapGetD m.disc.atts die { nid := nid }).again
  let m := m.onDisc (fun x => { x with atts := mapDel x.atts die })
  let m := (m.deliver nid m.apValues).deliver nid m.fnValues
  let m := m.sl.ctxs.foldl (fun m e =>
    if e.2.eps.contains nid ∧ (e.2.st = .active ∨ e.2.st = .draining) ∧ e.1 ≠ 0 then
      (m.offerHeld e.1 [nid]).sendCmd nid 1 0 0 (.setKey e.1 e.2.gen 1 nid)
    else m) m
  let kind := (m.node nid).kind
  if kind = 1 then m.touchGate.pump
  else
    let sw := m.switchOf nid
    let m := (m.rt.treeKeys.filter (fun t => t.2.2.contains sw)).foldl (fun m t => m.giveTreeKeys t.1 [sw]) m
    let m := if again then (m.setNode nid { m.node nid with plateValid := false }).wantNow else m
    m.touchGate.pump

/-- An agent has taken its NID and answered under its key: it is attested; peers' keys and group keys follow, then the
claim (R442). -/
def Manager.keyed (m : Manager) (die nid : Nat) (a : Att) : Manager :=
  let h := m.disc.hello die
  let old := m.node nid
  let node : NodeInfo := { die := die, kind := h.kind, fwd := a.fwd, desc := a.desc, fwVer := h.fwVer, slot := h.flags % 2, debug := a.debug
                           plateValid := h.flags / 2 % 2 == 1, resets := old.resets, lastCause := old.lastCause
                           gone := old.gone, fenced := old.fenced, answered := m.dev.net.round.getD 0, homePort := m.homePort nid }
  let m := (m.setNode nid node).setHome nid node.homePort
  let m := if node.kind = 2 then m.reflag (node.fwd - 0x20000) else if node.kind = 0 then m.reflag (nid - 0x20000) else m
  let m := { m with rcv := { m.rcv with reports := mapDel m.rcv.reports nid, delivering := mapDel m.rcv.delivering nid } }
  let m := m.setObj Obj.DS_ATTESTED m.fab.nodes.length
  let m := m.applyReports
  let peers := sortNat ((m.fab.links.filter (fun e => linkUp e.2 && (m.agentOf (e.1 / 128) == nid || e.2.peerNid == nid ||
    (decide (e.2.peerKind = .switch) && m.agentOf (e.2.peerNid - 0x20000) == nid)))).map (fun e =>
      let far := if e.2.peerKind = .switch then m.agentOf (e.2.peerNid - 0x20000) else e.2.peerNid
      if m.agentOf (e.1 / 128) = nid then far else m.agentOf (e.1 / 128)))
  let m := peers.foldl (fun m p => m.offerPair nid p) m
  let m := m.offerFabric 0xE000 nid
  let m := if node.kind ≠ 1 then m.offerFabric 0xE001 nid else m
  let m := if node.kind ≠ 0 then m.offerFabric 0xE002 nid else m
  let m := m.sendClaim nid
  let m := m.onDisc (fun x => { x with atts := mapSet x.atts die { a with stage := 2, sends := 1, sentAt := m.dev.time } })
  if node.kind = 1 then m.equip die nid else m

end Sys2Proof.Machine
end

