-- ==== Sys2Proof/Machine/Recovery.lean ====
section
/-! DEFINITION. Sys2Proof/Machine/Recovery.lean: the manager's commands of failure and recovery: reports, link states,
member loss, detours, heartbeats, hangs and readmission (chapter "Faults, hangs and recovery"). -/

namespace Sys2Proof.Machine

/-! ## Report numbers (R244) -/

/-- The window of report numbers of an agent with a number taken, or none where it is a repeat (R244). -/
def takeNumber (w : Option Window) (n : Nat) : Option Window :=
  match w with
  | none => some { high := n, bits := 1 }
  | some w =>
    let ahead := (n + 65536 - w.high % 65536) % 65536
    let back := (w.high + 65536 - n % 65536) % 65536
    if ahead ≠ 0 ∧ ahead < 32768 then some { high := n, bits := (w.bits <<< ahead) ||| 1 }
    else if back < 1024 ∧ w.bits.getLsbD back = false then some { w with bits := w.bits ||| (1#1024 <<< back) }
    else none

/-! ## Link faults (R245, R246) -/

/-- The entry a report names: a switch port's own, or the one whose far end is an endpoint's port (R31). [DEDUCED, log 58] -/
def Manager.reported (m : Manager) (nid port : Nat) (ep : Bool) : Option Nat :=
  if ep then
    (m.fab.links.find? (fun e => decide (e.2.peerKind = .endpoint) && e.2.peerNid == nid && e.2.peerPort == port)).map (fun e => e.1)
  else if 0x20000 ≤ nid ∧ nid < 0x22000 ∧ port < 128 then some ((nid - 0x20000) * 128 + port)
  else none

/-- A fault is counted in an entry that goes from UP to DOWN. -/
def Manager.countFault (m : Manager) (i : Nat) : Manager :=
  let l := linkOf m.fab.links i
  let now := m.dev.time
  let times := (inWindow l.flapTimes now (m.obj Obj.FR_FLAP_WINDOW_S)) ++ [now]
  { m with fab := { m.fab with links := setLink m.fab.links i { l with faults := min (l.faults + 1) 0xFFFFFFFF, flapTimes := times } } }

/-- The link's faults have reached the flap limit within the window; a limit or window of 0 disables the rule. -/
def Manager.flaps (m : Manager) (i : Nat) : Bool :=
  let lim := m.obj Obj.FR_FLAP_LIMIT
  let win := m.obj Obj.FR_FLAP_WINDOW_S
  decide (lim ≠ 0) && decide (win ≠ 0) && Nat.ble lim (inWindow (linkOf m.fab.links i).flapTimes m.dev.time win).length

/-- A BAD report of an entry: both ends go DOWN where they are UP or PROBING, the fault is counted once, and a link that
flaps goes ADMIN_DOWN; endpoints that lose their last link meet member loss with LINK_LOSS (R257). -/
def Manager.linkBad (m : Manager) (i : Nat) : Manager :=
  let ls := m.fab.links
  let before := presentEps ls
  let ends := bothEnds ls i
  let was := ends.filter (fun j => decide ((linkOf ls j).st = .up))
  let hit := ends.filter (fun j => decide ((linkOf ls j).st = .up) || decide ((linkOf ls j).st = .probing))
  let m := was.foldl (fun m j => m.countFault j) m
  let m := hit.foldl (fun m j => m.putState j .down) m
  let m := if hit.isEmpty then m else (m.staleReports i).event 0x180 0
  let m := if !was.isEmpty && ends.any m.flaps then (m.putBoth i .adminDown).event 0x182 0 else m
  ((if hit.isEmpty then m else m.touchGate).lostPresence before 1).openWindow

/-- A GOOD report of an entry in DOWN: both ends return to PROBING, and to UP where fresh reports confirm it. -/
def Manager.linkGood (m : Manager) (i : Nat) : Manager :=
  if (linkOf m.fab.links i).st ≠ .down then m.openWindow
  else (m.putBoth i .probing).openWindow.touchGate.tryUp i

/-- A neighbour report of an attested agent's node is kept, and acts on matches and links (R440, R443). -/
def Manager.takeNeighbour (m : Manager) (die p : Nat) (new : NbrRep) : Manager :=
  let had := m.disc.matches_
  let m := m.onDisc (fun x => { x with nbrs := mapSet x.nbrs die (mapSet (mapGetD x.nbrs die []) p new) })
  let m := m.rematch
  if m.disc.matches_ == had then m.applyReport die p else m.applyReports

/-- NEIGHBOUR: a neighbour report of an attested agent's node (R443, R445, R446). -/
def execNeighbour (hdr : Hdr) (peerNode peerPort : Nat) (peerEp : Bool) (port : Nat) (ep : Bool) (s : State) : Out :=
  let t := s.mgr.dev.ingress dictPlain hdr s.mgr.genOf
  let m := { s.mgr with dev := t.dev }
  if !t.ok then .next { s with mgr := m }
  else match mapGet m.fab.nodes hdr.src with
    | none => .next { s with mgr := m }
    | some n =>
      let p := portNo ep port
      let same := match m.disc.nbr n.die p with
        | some o => o.node == peerNode && o.port == peerPort && o.ep == peerEp
        | none => false
      let m := (m.entry (.neighbour hdr peerNode peerPort peerEp port ep)).takeNeighbour n.die p
        { node := peerNode, port := peerPort, ep := peerEp }
      .next { s with mgr := (if same then m else m.touchGate).pump }

/-! ## Member loss (R257-R260) -/

/-- MEMBER_ACK: a member's agent has taken a MEMBER_LOST. -/
def execMemberAck (hdr : Hdr) (ctx gen nid : Nat) (s : State) : Out :=
  let t := s.mgr.dev.ingress withdrawFrame hdr s.mgr.genOf
  let m := { s.mgr with dev := t.dev }
  if !t.ok then .next { s with mgr := m }
  else
    let m := m.entry (.memberAck hdr ctx gen nid)
    let ls := m.rcv.losses.map (fun l =>
      if l.ctx = ctx ∧ l.gen = gen ∧ l.nid = nid then { l with awaits := l.awaits.filter (fun k => k != hdr.src) } else l)
    .next { s with mgr := { m with rcv := { m.rcv with losses := ls.filter (fun l => !l.awaits.isEmpty) } } }

/-- MEMBER_LOST_RETRY: MEMBER_LOST is repeated by unicast to agents that have not acknowledged. -/
def execMemberLostRetry (s : State) : Out :=
  let m := s.mgr
  if !m.active || !m.leads then .next s
  else .next { s with mgr := m.rcv.losses.foldl (fun m l =>
    l.awaits.foldl (fun m e => m.sendAgent e (.memberLost l.nid l.cause l.ctx l.gen l.resets l.time)) m) m }

/-- A fenced endpoint is readmitted: its agent's count is cleared and its fences released by READY, which its peers get as
well; a readmission is a snapshot change (R252, R274). -/
def Manager.readmitEp (m : Manager) (e : Nat) : Manager :=
  let m := m.setNode e { m.node e with fenced := false, readmit := false, gone := false, resets := 0 }
  ((m.sendReady e).cmdAgent e (.ready e)).openWindow.retryQueue

/-- The links a detour took out of use return to PROBING, and rejoin through the next impression (R263). -/
def Manager.endDetour (m : Manager) (e : Nat) : Manager :=
  match mapGet m.rcv.detoured e with
  | none => m
  | some is =>
    let m := { m with rcv := { m.rcv with detoured := mapDel m.rcv.detoured e }, inst := { m.inst with detour := mapDel m.inst.detour e } }
    let back := is.filter (fun i => decide ((linkOf m.fab.links i).st = .adminDown))
    let m := back.foldl (fun m i => m.putState i .probing) m
    back.foldl (fun m i => m.tryUp i) (if back.isEmpty then m else m.openWindow.touchGate)

/-- REJOIN_TIMEOUT: READY has not come within FR_REJOIN_MS of the first loss; the context is purged (R259). -/
def execRejoinTimeout (ctx : Nat) (s : State) : Out :=
  let m := s.mgr
  match (m.ctx ctx).rejoin with
  | none => .next s
  | some r =>
    if r.lost.isEmpty ∨ m.obj Obj.FR_REJOIN_MS = 0 then .next s
    else .next { s with mgr := (m.entry (.rejoinTimeout ctx)).purgeStart ctx }

/-- KEY_BAR_LIFTED: the key a REJOIN waits for may be issued (R237, R259). -/
def execKeyBarLifted (ctx : Nat) (s : State) : Out :=
  let m := s.mgr
  match (m.ctx ctx).rejoin with
  | none => .next s
  | some r =>
    if !r.barred || !m.keyFree ctx (((m.ctx ctx).gen + 1) % 256) then .next s
    else .next { s with mgr := (m.entry (.keyBarLifted ctx)).rejoinTry ctx }

/-! ## Reports (R244, R254) -/

/-- A LINK_EVENT is taken: the entry it names follows (R245). -/
def Manager.actLink (m : Manager) (nid port : Nat) (ep good : Bool) : Manager :=
  match m.reported nid port ep with
  | none => m.openWindow
  | some i => if good then m.linkGood i else m.linkBad i

/-- An EP_RESET is taken: the endpoint is gone until its READY, and its context's policy is applied (R258). Cause FENCED says that
its agent has fenced it (R274). -/
def Manager.actReset (m : Manager) (nid cause resets time : Nat) : Manager :=
  let n := m.node nid
  let m := m.setNode nid { n with gone := true, resets := resets, fenced := n.fenced || cause == 4 }
  let m := if cause = 4 ∧ !n.fenced then m.event 0x204 (m.epCtx nid) else m
  m.memberLoss nid cause resets time false

/-- A NODE_READY is taken: under REJOIN the endpoint's context waits for every lost member; otherwise READY goes to its peers at
once; a fenced endpoint stays fenced until EP_READMIT (R259, R260, R263, R274). -/
def Manager.actReady (m : Manager) (nid : Nat) : Manager :=
  let m := m.endDetour nid
  let c := m.epCtx nid
  let x := m.ctx c
  let n := m.node nid
  if n.fenced then
    (if n.readmit then m.readmitEp nid else m.setNode nid { n with gone := false })
  else match x.rejoin with
    | some r =>
      if r.lost.contains nid then
        let r' := { r with lost := r.lost.filter (fun k => k != nid), ready := insNat r.ready nid }
        (m.setCtx c { x with rejoin := some r' }).rejoinTry c
      else if r.ready.contains nid then m
      else m.announceReady nid
    | none => m.announceReady nid

/-- A RESET_REQ is taken: the links of the forwarding part go ADMIN_DOWN and the impression that avoids it is computed without a
window; the grant goes out after its commit and drain (R263). -/
def Manager.actResetReq (m : Manager) (nid sw : Nat) : Manager :=
  let ls := m.fab.links
  let mine := (entriesOf ls sw).filter (fun i => decide ((linkOf ls i).st ≠ .adminDown) && decide ((linkOf ls i).st ≠ .absent))
  let m := mine.foldl (fun m i => m.putState i .adminDown) m
  let m := { m with rcv := { m.rcv with detoured := mapUpd m.rcv.detoured nid [] (fun l => mine.foldl insNat l) } }
  let m := if mine.isEmpty then m else m.touchGate
  ({ m with inst := { m.inst with detour := mapSet m.inst.detour nid m.dev.time } }).wantNow

/-- A NODE_LOST is taken: the switch, or the forwarding part, is isolated, and its next stage is full (R264, R309). -/
def Manager.actLost (m : Manager) (src nid : Nat) : Manager :=
  let m := m.eventOf 0x185 0 [nid]
  let m := m.setNode src { m.node src with plateValid := false }
  (m.isolate (nid - 0x20000) .excluded).touchGate.wantNow

/-- What a new report does, an entry of the input stream. Reports of NIDs that are no switch's where a switch is meant do nothing. -/
def Manager.actOn (m : Manager) (i : Instr) : Manager :=
  match i with
  | .linkEvent _ nid port ep good _ _ _ => (m.entry i).actLink nid port ep good
  | .epReset _ nid cause resets _ time _ => (m.entry i).actReset nid cause resets time
  | .nodeReady _ nid _ _ => (m.entry i).actReady nid
  | .resetReq _ nid sw _ _ => if sw < 0x20000 then m else (m.entry i).actResetReq nid (sw - 0x20000)
  | .nodeLost hdr nid _ _ _ => if nid < 0x20000 then m else (m.entry i).actLost hdr.src nid
  | _ => m

/-- The agent, frame type and number of a report. -/
def reportKey : Instr → Option (Nat × Nat × Nat)
  | .linkEvent hdr _ _ _ _ num _ _ => some (hdr.src, 0x21, num)
  | .epReset hdr _ _ _ num _ _ => some (hdr.src, 0x24, num)
  | .nodeLost hdr _ num _ _ => some (hdr.src, 0x27, num)
  | .nodeReady hdr _ num _ => some (hdr.src, 0x36, num)
  | .resetReq hdr _ _ num _ => some (hdr.src, 0x39, num)
  | _ => none

/-- A report is taken from the queue: it is acknowledged, and acted on where it is no repeat (R244). -/
def Manager.takeReport (m : Manager) (i : Instr) : Manager :=
  match reportKey i with
  | none => m
  | some (src, type, num) =>
    let m := m.sendAgent src (.eventAck type num)
    match takeNumber (mapGet m.rcv.reports src) num with
    | none => m
    | some w => (({ m with rcv := { m.rcv with reports := mapSet m.rcv.reports src w } }).bump Obj.FR_EVENTS).actOn i

/-- A report whose entry of the input stream is applied: its number counts as taken, and it is acted on (R288). [DESIGN CHOICE, log 68] -/
def Manager.reportEntry (m : Manager) (i : Instr) : Manager :=
  match reportKey i with
  | none => m
  | some (src, _, num) =>
    let w := mapGet m.rcv.reports src
    let rs := match takeNumber w num with | some w => mapSet m.rcv.reports src w | none => m.rcv.reports
    (({ m with rcv := { m.rcv with reports := rs } }).bump Obj.FR_EVENTS).actOn i

/-- The reports of the queue are taken, oldest first. [DESIGN CHOICE, log 99] -/
def Manager.takeReports (m : Manager) : Manager := m.repQ.foldl Manager.takeReport { m with repQ := [] }

/-- A report reaches the manager: it passes ingress and joins the report queue, which holds 65,536, and is dropped and counted where
that is full (R254). With `wait` it stays there until a later report comes; otherwise the queue is taken. A unit without authority
leaves reports to be repeated (R299). [DESIGN CHOICE, log 99] -/
def Manager.queueReport (m : Manager) (k : FrameKind) (hdr : Hdr) (i : Instr) (wait : Bool) : Manager :=
  let t := m.dev.ingress k hdr m.genOf
  let m := { m with dev := t.dev }
  if !t.ok || !m.active || !m.leads then m
  else if 65536 ≤ m.repQ.length then m.bump Obj.FR_DROPPED
  else
    let m := { m with repQ := m.repQ ++ [i] }
    let m := m.setObj Obj.FR_Q_DEPTH (max (m.obj Obj.FR_Q_DEPTH) m.repQ.length)
    if wait then m else m.takeReports

/-- LINK_EVENT: a port of an agent's node became bad or good (R244, R245). [DEDUCED, log 58] -/
def execLinkEvent (hdr : Hdr) (nid port : Nat) (ep good : Bool) (report time : Nat) (wait : Bool) (s : State) : Out :=
  .next { s with mgr := s.mgr.queueReport withdrawFrame hdr (.linkEvent hdr nid port ep good report time false) wait }

/-- EP_RESET: an endpoint's node has reset (R255, R258). [DEDUCED, log 31] -/
def execEpReset (hdr : Hdr) (nid cause resets report time : Nat) (wait : Bool) (s : State) : Out :=
  .next { s with mgr := s.mgr.queueReport withdrawFrame hdr (.epReset hdr nid cause resets report time false) wait }

/-- NODE_READY: an endpoint's node is ready (R259, R261). -/
def execNodeReady (hdr : Hdr) (nid report : Nat) (wait : Bool) (s : State) : Out :=
  .next { s with mgr := s.mgr.queueReport dictPlain hdr (.nodeReady hdr nid report false) wait }

/-- RESET_REQ: a coupled forwarding endpoint asks to reset (R262, R263). [DEDUCED, log 33] -/
def execResetReq (hdr : Hdr) (nid switch report : Nat) (wait : Bool) (s : State) : Out :=
  .next { s with mgr := s.mgr.queueReport dictPlain hdr (.resetReq hdr nid switch report false) wait }

/-- NODE_LOST: a switch, or a forwarding part, is lost (R264, R309). -/
def execNodeLost (hdr : Hdr) (nid report time : Nat) (wait : Bool) (s : State) : Out :=
  .next { s with mgr := s.mgr.queueReport withdrawFrame hdr (.nodeLost hdr nid report time false) wait }

/-! ## Heartbeats (R423, R424, R267, R335) -/

/-- The manager counts no missed heartbeat of the agent now: it announced a restart less than 150 ms ago, or is parked. -/
def NodeInfo.excused (n : NodeInfo) (now : Nat) : Bool :=
  n.parked || (match n.restarting with | some t => decide (now < t + 150000000) | none => false)

/-- What a finished round says of an agent: answered, missed, or nothing where its collector did not answer. After two
such rounds another collector is named from its leaf set, or none. -/
def Manager.closeRound (m : Manager) (prev : Nat) (nid : Nat) : Manager :=
  let n := m.node nid
  let miss := fun (m : Manager) => m.setNode nid { n with misses := if n.excused m.dev.time then n.misses else n.misses + 1, collMiss := 0 }
  if n.answered = prev then m.setNode nid { n with misses := 0, collMiss := 0 }
  else match n.collector with
    | none => miss m
    | some k =>
      if (m.node k).answered = prev then miss m
      else if n.collMiss + 1 < 2 then m.setNode nid { n with collMiss := n.collMiss + 1 }
      else m.setNode nid { n with collMiss := 0, collector := m.collectorFor nid [k] }

/-- HEARTBEAT_ROUND: the last round is closed and the next HEARTBEAT is multicast to ALL (R423, R424). -/
def execHeartbeatRound (s : State) : Out :=
  let m := s.mgr
  if !m.active || !m.leads then .next s
  else
    let m := match m.dev.net.round with
      | some r => (m.fab.nodes.map (fun (n : Nat × NodeInfo) => n.1)).foldl (fun (m : Manager) (n : Nat) => m.closeRound r n) m
      | none => m
    let r := match m.dev.net.round with | some r => (r + 1) % 2 ^ 32 | none => 0
    let m := m.onDev (fun d => { d with net := { d.net with round := some r } })
    .next { s with mgr := m.emit { dst := nidAll, assoc := 0xE000, claim := some m.claim, msg := .heartbeat r (m.obj Obj.IMP_COMMITTED) none } }

/-- An agent has answered a round: SILENT ends, counting resumes, a stage held for it goes out, and an endpoint that is
HELD is written the key 0x0000 (R234, R267, R335, R517). -/
def Manager.heard (m : Manager) (nid round : Nat) : Manager :=
  match mapGet m.fab.nodes nid with
  | none => m
  | some n =>
    let m := m.setNode nid { n with answered := round, misses := 0, silent := false, parked := false, restarting := none, stageHeld := none }
    let sw := m.switchOf nid
    let m := match n.stageHeld, m.inst.cand with
      | some full, some c => if m.inst.phase = 2 ∧ c.awaits.contains sw then m.sendStage sw full else m
      | _, _ => m
    if (mapGet m.sl.held nid).isSome ∧ m.epCtx nid = 0 then m.cmdAgent nid (.setKey 0 0 1 nid) else m

/-- The endpoints behind the ports of a switch. -/
def behind (ls : Links) (sw : Nat) (map : Ports) : List Nat :=
  (ls.filter (fun e => e.1 / 128 == sw && decide (e.2.peerKind = .endpoint) && portIn map (e.1 % 128))).map (fun e => e.2.peerNid)

/-- HB_REPLY at the manager. [DEDUCED, log 59] -/
def Manager.hbReplied (m : Manager) (hdr : Hdr) (round committed : Nat) (map : Option Ports) : Manager :=
  let t := m.dev.ingress hbReplyFrame hdr m.genOf
  let m := { m with dev := t.dev }
  if !t.ok then m
  else if m.red.standby = some hdr.src then m.onRed (fun r => { r with unheard := 0 })
  else if hdr.assoc ≠ 1 then m
  else
    let m := m.heard hdr.src round
    let m := match mapGet m.fab.nodes hdr.src with
      | some n =>
        let m := m.setNode hdr.src { n with committed := committed }
        if n.kind = 1 then m else m.swReports (m.switchOf hdr.src) committed
      | none => m
    match map with
    | some p => (behind m.fab.links (m.switchOf hdr.src) p).foldl (fun m e => m.heard e round) m
    | none => m

/-- A reply ends what the manager had noted of the silence of its agent or of one it answers for, so that it is an entry of the
input stream. -/
def Manager.hbNews (m : Manager) (nid : Nat) (map : Option Ports) : Bool :=
  (nid :: (match map with | some p => behind m.fab.links (m.switchOf nid) p | none => [])).any (fun k =>
    match mapGet m.fab.nodes k with
    | none => false
    | some n => n.silent || n.parked || n.restarting.isSome || n.stageHeld.isSome)

/-- HB_REPLY at a collector: the ports behind which the endpoint's agent stands. [DEDUCED, log 38] -/
def Agent.hbCollected (a : Agent) (hdr : Hdr) (round : Nat) : Agent :=
  let t := a.take hbReplyFrame hdr none
  let a := t.ag
  if !t.ok then a
  else
    let ports := portMask ((a.peers.filter (fun p => p.2.agent == hdr.src && decide (p.1 < 128))).map (fun p => p.1))
    let had := if a.link.epRound = round then a.link.epMap.getD 0 else 0
    { a with link := { a.link with epRound := round, epMap := some (had ||| ports) } }

/-- HB_REPLY: the manager or a collector takes an answer to a heartbeat (R424). [DEDUCED, log 59] -/
def execHbReply (dev : At) (hdr : Hdr) (round committed : Nat) (map : Option Ports) (s : State) : Out :=
  match dev with
  | none =>
    let m := if s.mgr.hbNews hdr.src map then s.mgr.entry (.hbReply dev hdr round committed map) else s.mgr
    let m := m.hbReplied hdr round committed map
    .next { s with mgr := if m.dev.net.replay then m else m.sendDue }
  | some die => onAgent s die (fun a => a.hbCollected hdr round)

/-- AGENT_HEARTBEAT_MISSED: three heartbeats in a row are unanswered; the agent is SILENT and its time estimate invalid
(R50, R267). -/
def execAgentHeartbeatMissed (nid : Nat) (s : State) : Out :=
  let m := s.mgr
  let n := m.node nid
  if (n.misses < 3 ∧ !m.dev.net.replay) ∨ n.silent then .next s
  else .next { s with mgr := ((m.entry (.agentHeartbeatMissed nid)).setNode nid { n with silent := true, estimate := false }).event 0x183 0 }

/-- SILENT_TIMEOUT: silence has lasted FR_SILENT_MS; the switch is isolated, and a member endpoint meets member loss
(R202, R267). -/
def execSilentTimeout (nid : Nat) (s : State) : Out :=
  let m := s.mgr
  let n := m.node nid
  if !n.silent ∨ m.obj Obj.FR_SILENT_MS = 0 then .next s
  else
    let m := m.entry (.silentTimeout nid)
    let m := if n.kind = 1 then m else (m.isolate (m.switchOf nid) .lost).touchGate.wantNow
    .next { s with mgr := if n.kind = 0 then m else m.memberLoss nid 2 0 m.dev.time true }

/-- TIME_ESTIMATE_EXPIRE: the kept exchange has become more than 1 s old (R50). -/
def execTimeEstimateExpire (nid : Nat) (s : State) : Out :=
  match mapGet s.mgr.fab.nodes nid with
  | none => .next s
  | some n => .next { s with mgr := (s.mgr.entry (.timeEstimateExpire nid)).setNode nid { n with estimate := false } }

/-! ## Hangs (R266-R271) -/

/-- SCRIBE_WATCHDOG: a scribe core is reset; the host requests it held are answered RETRY, and a module fault is counted
(R269, R276). -/
def execScribeWatchdog (core : Nat) (reqs : List Req) (s : State) : Out :=
  let m := s.mgr
  let was := m.host.proxied
  let m := { m with rcv := { m.rcv with scribes := mapUpd m.rcv.scribes core 0 (fun n => n + 1) }
                    host := { m.host with proxied := m.host.proxied.filter (fun p => !reqs.contains p.req) } }
  .next { s with mgr := (reqs.foldl (fun m r =>
    if was.any (fun p => p.req == r) then m.answerProxy r 0x0010 else m.answer r 0x0010) m).moduleFault }

/-- A line that is queued or in a slot. -/
def LineRun.unfinished (l : LineRun) : Bool := match l.phase with | .done _ => false | _ => true

/-- The watchdog's interval for a context in ns; none where it is disabled. -/
def Manager.hangNs (m : Manager) (c : Nat) : Option Nat :=
  let v := m.obj Obj.HANG_TILE_US
  if v = 0 then (if c = 0 then some 50000000 else none) else some (v * 1000)

/-- A hung cell's reset begins: it is RESETTING, no line starts on it, and its outstanding tags go to the discard sink. A
cell that is retiring is not reset (R271). [DEDUCED, log 60] -/
def Manager.startCellReset (m : Manager) (p : Nat) : Manager :=
  let pc := m.eng.cell p
  if pc.st ≠ .enabled then m
  else m.onEng (fun e => { e.setCell p { pc with st := .resetting } with tags := mapFilter e.tags (fun k _ => k / 512 != p) })

/-- HANG_WATCHDOG: no tile step of a context has retired for HANG_TILE_US. Where each of its cells retired steps of other
contexts meanwhile, the context is purged; a cell that retired none of any context is hung and is reset (R270). [DEDUCED, log 60] -/
def execHangWatchdog (ctx : Nat) (s : State) : Out :=
  let m := s.mgr
  match mapGet m.eng.runs ctx, m.hangNs ctx with
  | some run, some ns =>
    let cells := (sortNat ((run.lines.filter LineRun.unfinished).map (fun l => l.cell))).filterMap m.eng.phys
    let recent := fun (p : Nat) (t : Nat → Bool) => (m.eng.cell p).steps.any (fun x => t x.1 && decide (m.dev.time < x.2 + ns))
    if cells.isEmpty || cells.any (fun p => recent p (fun k => k == ctx)) then .next s
    else
      let m := m.entry (.hangWatchdog ctx)
      let attributed := cells.all (fun p => recent p (fun k => k != ctx))
      if attributed && ctx != 0 then .next { s with mgr := (m.event 0x085 ctx).purgeStart ctx }
      else
        let hung := if attributed then cells else cells.filter (fun p => !recent p (fun _ => true))
        .next { s with mgr := hung.foldl (fun m p => m.startCellReset p) m }
  | _, _ => .next s

/-- CELL_RESET_COMPLETE: the cell's SRAM is zeroed; contexts with a line on it are purged, context 0's lines complete
CELL_RESET and a running computation restarts; the reset is counted, and the cell is retired at CELL_RESET_LIMIT, or where a
retirement fell due during the reset (R270-R272). The event names the physical cell. [DESIGN CHOICE, log 93] -/
def execCellResetComplete (cell : Nat) (s : State) : Out :=
  let m := s.mgr
  let pc := m.eng.cell cell
  if pc.st ≠ .resetting then .next s
  else
    let lo := sramAddr cell 0 0
    let m := m.onEng (fun e => { e with mem := memZero e.mem lo (2 ^ 56)
                                        failing := e.failing.filter (fun w => decide (8 * w < lo) || Nat.ble (lo + 2 ^ 56) (8 * w)) })
    let on := (m.eng.linesOn pc.logical).filter (fun x => x.2.2.unfinished)
    let zero := (on.filter (fun x => x.1 == 0)).map (fun x => x.2.2.desc.id)
    let m := (sortNat ((on.filter (fun x => x.1 != 0)).map (fun x => x.1))).foldl (fun m c => m.purgeStart c) m
    let m := zero.foldl (fun m id => m.endLine 0 id 5) m
    let m := if m.rt.comp.isSome then m.dropComp.wantNow.impState else m
    let resets := pc.resets ++ [m.dev.time]
    let m := (m.onEng (fun e => { e.setCell cell { pc with st := .enabled, resets := resets, steps := [], retireDue := false } with
      runs := e.runs.map (fun r => (r.1, { r.2 with recent := mapDel r.2.recent pc.logical, away := mapDel r.2.away pc.logical })) })).eventOf 0x084 0 [cell]
    let w := m.dev.objC Obj.CELL_RESET_WINDOW
    let limit := decide (w ≠ 0) && Nat.ble (max 1 (m.dev.objC Obj.CELL_RESET_LIMIT)) (inWindow resets m.dev.time w).length
    if pc.retireDue || limit then .next { s with mgr := m.markRetiring cell }
    else .next { s with mgr := m }

/-! ## Commands of the recovery objects -/

/-- EP_READMIT: a fenced endpoint is readmitted, at once or when its node reports READY; for another endpoint the write has
no effect (R274, R348). -/
def execEpReadmit (req : Req) (value : Nat) (s : State) : Out :=
  let n := s.mgr.node (s.mgr.obj Obj.EP_SEL)
  .next { s with mgr := s.mgr.cmd (.epReadmit req value) req Obj.EP_READMIT value [1] n.readmit (fun m _ =>
    let e := m.obj Obj.EP_SEL
    let n := m.node e
    if !n.fenced then m
    else if n.gone then m.setNode e { n with readmit := true }
    else m.readmitEp e) }

/-- LK_READMIT: an ADMIN_DOWN link returns to PROBING, and its flap count is cleared (R246, R252). -/
def execLkReadmit (req : Req) (value : Nat) (s : State) : Out :=
  .next { s with mgr := s.mgr.cmd (.lkReadmit req value) req Obj.LK_READMIT value [1] false (fun m _ =>
    let i := m.obj Obj.LK_SEL
    let ends := bothEnds m.fab.links i
    let clear := fun (m : Manager) (j : Nat) =>
      match mapGet m.fab.links j with
      | some l => { m with fab := { m.fab with links := mapSet m.fab.links j { l with flapTimes := [] } } }
      | none => m
    let m := ends.foldl clear m
    if (linkOf m.fab.links i).st ≠ .adminDown then m
    else
      let m := (ends.filter (fun j => decide ((linkOf m.fab.links j).st = .adminDown))).foldl (fun m j => m.putState j .probing) m
      (m.openWindow.touchGate.tryUp i).retryQueue) }

/-- The commit group of the escalation record. -/
def escalationKeys : List Nat :=
  [Obj.RESET_LIMIT, Obj.RESET_WINDOW, Obj.CELL_RESET_LIMIT, Obj.CELL_RESET_WINDOW, Obj.MOD_FAULT_LIMIT, Obj.MOD_FAULT_WINDOW]

/-- RS_COMMIT: the escalation limits are committed and delivered to every agent (R272, R273, R338). -/
def execRsCommit (req : Req) (value : Nat) (s : State) : Out :=
  .next { s with mgr := s.mgr.cmd (.rsCommit req value) req Obj.RS_COMMIT value [1] (s.mgr.obj Obj.RS_COMMIT == 1) (fun m _ =>
    let m := (m.onDev (fun d => d.commitObjs escalationKeys)).deliverAll
    if m.rcv.delivering.isEmpty then m else m.setObj Obj.RS_COMMIT 1) }

end Sys2Proof.Machine
end

