-- ==== Sys2Proof/Machine/Discovery.lean ====
section
/-! DEFINITION. Sys2Proof/Machine/Discovery.lean: the blueprint, HELLO, attestation and the ready gate at a manager (chapter
"From power-on to a ready fabric"). -/

namespace Sys2Proof.Machine

/-! ## The blueprint (R438, R439) -/

/-- A node record: its NID and the record. -/
def parseNode (v : Nat) : Nat × BpNode :=
  (bitsOf v 191 174, { ident := bitsOf v 255 192, fwd := bitsOf v 173 156, kind := bitsOf v 155 154, identKind := bitsOf v 153 152
                       swPorts := bitsOf v 151 144, epPorts := bitsOf v 143 136 })

/-- A link record. -/
def parseLink (v : Nat) : BpLink :=
  { a := bitsOf v 127 110, portA := bitsOf v 109 103, b := bitsOf v 102 85, portB := bitsOf v 84 78, epB := bitOf v 77
    wAB := bitsOf v 63 48, wBA := bitsOf v 47 32, cap := bitsOf v 31 16 }

/-- The records of an image with their byte offsets. -/
def rawNodes (img : List Byte) : List (Nat × Nat) :=
  (upTo (fieldAt img 4 4)).map (fun i => (64 + 32 * i, fieldAt img (64 + 32 * i) 32))
def rawLinks (img : List Byte) : List (Nat × Nat) :=
  let base := 64 + 32 * fieldAt img 4 4
  (upTo (fieldAt img 8 4)).map (fun i => (base + 16 * i, fieldAt img (base + 16 * i) 16))

/-- A failure of the check: its BP_RESULT, and the bytes it lies in. -/
structure BpFail where
  code : Nat
  at_  : Nat
  size : Nat
  deriving DecidableEq, Repr

/-- The first record that a test finds bad. -/
def bpFirst (code size : Nat) (l : List (Nat × Nat)) (bad : Nat → Bool) : Option BpFail :=
  (l.find? (fun r => bad r.2)).map (fun r => { code := code, at_ := r.1, size := size })

/-- Reserved values and fields of a node record and of a link record. -/
def nodeFormBad (v : Nat) : Bool :=
  let n := (parseNode v).2
  n.kind == 3 || n.identKind == 3 || bitsOf v 135 0 != 0 ||
  (if n.kind = 1 then n.swPorts != 0 else n.swPorts == 0 || decide (128 < n.swPorts)) ||
  (if n.kind = 0 then n.epPorts != 0 else n.epPorts == 0 || decide (16 < n.epPorts)) ||
  (n.kind != 2 && n.fwd != 0) || (n.identKind == 0 && n.ident != 0)
def linkFormBad (v : Nat) : Bool := bitsOf v 76 64 != 0 || bitsOf v 15 0 != 0

/-- FORMAT: the header, the length, the records. -/
def bpFormat (img : List Byte) : Option BpFail :=
  let nodes := fieldAt img 4 4
  let links := fieldAt img 8 4
  if fieldAt img 0 1 ≠ 1 then some ⟨1, 0, 1⟩
  else if fieldAt img 1 3 ≠ 0 then some ⟨1, 1, 3⟩
  else if nodes = 0 ∨ 139264 < nodes then some ⟨1, 4, 4⟩
  else if 1048576 < links then some ⟨1, 8, 4⟩
  else if fieldAt img 12 52 ≠ 0 then some ⟨1, 12, 52⟩
  else if img.length ≠ 64 + 32 * nodes + 16 * links then some ⟨1, 0, img.length + 1⟩
  else match bpFirst 1 32 (rawNodes img) nodeFormBad with
    | some f => some f
    | none => bpFirst 1 16 (rawLinks img) linkFormBad

/-- The first record whose key lies below its predecessor's. -/
def descends (code size : Nat) (key : Nat → Nat) : List (Nat × Nat) → Option BpFail
  | a :: b :: rest => if key b.2 < key a.2 then some ⟨code, b.1, size⟩ else descends code size key (b :: rest)
  | _ => none

/-- The peer of a link record is a switch: PORT_B is no endpoint port (R438). -/
def BpLink.toSwitch (l : BpLink) : Bool := !l.epB

/-- The earlier of two failures in the image. -/
def earlier (a b : Option BpFail) : Option BpFail :=
  match a, b with
  | some x, some y => if y.at_ < x.at_ then some y else some x
  | some x, none => some x
  | none, b => b

/-- ORDER: nodes rise by NID, links by (NID_A, PORT_A), and a switch peer's NID lies above NID_A. -/
def bpOrder (img : List Byte) : Option BpFail :=
  match descends 2 32 (fun v => (parseNode v).1) (rawNodes img) with
  | some f => some f
  | none => earlier (descends 2 16 (fun v => (parseLink v).a * 128 + (parseLink v).portA) (rawLinks img))
      (bpFirst 2 16 (rawLinks img) (fun v => let l := parseLink v; l.toSwitch && Nat.ble l.b l.a))

/-- The first record of which a key was given before. -/
def repeats (code size : Nat) (keys : Nat → List Nat) : List Nat → List (Nat × Nat) → Option BpFail
  | _, [] => none
  | seen, r :: rest =>
    if (keys r.2).any seen.contains then some ⟨code, r.1, size⟩ else repeats code size keys (keys r.2 ++ seen) rest

/-- DUPLICATE: a NID, or a port of one node, given twice. -/
def bpDuplicate (img : List Byte) : Option BpFail :=
  let nids := fun (v : Nat) => let n := parseNode v; n.1 :: (if n.2.kind = 2 then [n.2.fwd] else [])
  let ports := fun (v : Nat) => let l := parseLink v; [l.a * 256 + l.portA, l.b * 256 + (if l.epB then 128 else 0) + l.portB]
  match repeats 3 32 nids [] (rawNodes img) with
  | some f => some f
  | none => repeats 3 16 ports [] (rawLinks img)

/-- The record of a switch NID, or of an endpoint NID, among node records. -/
def switchRec (ns : List (Nat × BpNode)) (nid : Nat) : Option BpNode :=
  (ns.find? (fun n => (n.2.kind == 0 && n.1 == nid) || (n.2.kind == 2 && n.2.fwd == nid))).map (fun n => n.2)
def endpointRec (ns : List (Nat × BpNode)) (nid : Nat) : Option BpNode :=
  (ns.find? (fun n => n.2.kind != 0 && n.1 == nid)).map (fun n => n.2)

/-- An NID lies in the range of switches (R25). -/
def isSwitchNid (nid : Nat) : Bool := Nat.ble 0x20000 nid && Nat.ble nid 0x21FFF

/-- RANGE and PORT of node and link records. -/
def bpRange (img : List Byte) : Option BpFail :=
  let ns := (rawNodes img).map (fun r => parseNode r.2)
  let bad := fun (v : Nat) => let n := parseNode v
    if n.2.kind = 0 then !isSwitchNid n.1 else decide (0x1FFFF < n.1) || (n.2.kind == 2 && !isSwitchNid n.2.fwd)
  match bpFirst 4 32 (rawNodes img) bad with
  | some f => some f
  | none => bpFirst 4 16 (rawLinks img) (fun v => let l := parseLink v
      (switchRec ns l.a).isNone || (if l.epB then endpointRec ns l.b else switchRec ns l.b).isNone)
def bpPort (img : List Byte) : Option BpFail :=
  let ns := (rawNodes img).map (fun r => parseNode r.2)
  bpFirst 5 16 (rawLinks img) (fun v =>
    let l := parseLink v
    let a := match switchRec ns l.a with | some n => n.swPorts | none => 0
    let b := if l.epB then (match endpointRec ns l.b with | some n => n.epPorts | none => 0)
             else (match switchRec ns l.b with | some n => n.swPorts | none => 0)
    Nat.ble a l.portA || Nat.ble b l.portB)

/-- LIMIT: more switches or endpoints than a fabric holds (R17). -/
def bpLimit (img : List Byte) : Option BpFail :=
  let ns := (rawNodes img).map (fun r => (parseNode r.2).2)
  if 8192 < (ns.filter (fun n => n.kind != 1)).length ∨ 131072 < (ns.filter (fun n => n.kind != 0)).length then some ⟨6, 4, 4⟩ else none

/-- The first failure of a blueprint's checks that need the image alone. [DEDUCED, log 64] -/
def bpCheck (img : List Byte) : Option BpFail :=
  [bpFormat, bpOrder, bpDuplicate, bpRange, bpPort, bpLimit].findSome? (fun f => f img)

/-- The node and link records of an image. -/
def bpNodesOf (img : List Byte) : SMap BpNode := (rawNodes img).map (fun r => parseNode r.2)
def bpLinksOf (img : List Byte) : List BpLink := (rawLinks img).map (fun r => parseLink r.2)

/-- The matches a blueprint would give, from wave 0 on. -/
def Discovery.under (x : Discovery) (nodes : SMap BpNode) (links : List BpLink) : Discovery :=
  Discovery.matchAll { x with bpNodes := nodes, bpLinks := links, matches_ := [], failed := [] } (nodes.length + 1)

/-- NID_CHANGE: while READY, an attested node would take another NID. -/
def Manager.nidChange (m : Manager) (img : List Byte) : Option BpFail :=
  if m.obj Obj.DS_STATE ≠ 4 then none
  else
    let x := m.disc.under (bpNodesOf img) (bpLinksOf img)
    bpFirst 7 32 (rawNodes img) (fun v => match x.dieOf (parseNode v).1 with
      | some d => m.fab.nodes.any (fun n => n.2.die == d && n.1 != (parseNode v).1)
      | none => false)

/-- A blueprint is in force: matching starts again at wave 0; agents whose NID is unchanged keep their attestation and keys,
the others and the attestations of other NIDs end; entries of the link table take the record's values (R439, R443). [DEDUCED, log 65] -/
def Manager.acceptBp (m : Manager) (img : List Byte) : Manager :=
  let nodes := if img.isEmpty then [] else bpNodesOf img
  let links := if img.isEmpty then [] else bpLinksOf img
  let m := m.onDisc (fun x => { x with bp := true, bpNodes := nodes, bpLinks := links, matches_ := [], failed := [] })
  let m := m.rematch
  let x := m.disc
  let keep := m.fab.nodes.filter (fun n => x.nidOf n.2.die == some n.1)
  let m := { m with fab := { m.fab with nodes := keep } }
  let m := m.onDisc (fun x => { x with atts := mapFilter x.atts (fun d a => match x.nidOf d with
    | some n => a.nid == n || a.nid == nidNone
    | none => a.nid == nidNone) })
  let dressed := m.fab.links.map (fun e => if e.2.st = .absent then (e.1, m.flagged e.1 e.2) else (e.1, m.dress e.1 e.2))
  let changed := dressed != m.fab.links
  let m := { m with fab := { m.fab with links := dressed } }
  let m := ((((m.setObj Obj.BP_RESULT 0).setObj Obj.BP_OFFSET 0xFFFFFFFF).setObj Obj.BP_NODES nodes.length).setObj
    Obj.BP_LINKS links.length).setObj Obj.DS_ATTESTED keep.length
  let m := m.onDev (fun d => d.setBlob Obj.BP_DIGEST (sha256Bytes img))
  let m := if changed then m.openWindow else m
  m.applyReports.touchGate.pump

/-- BP_IMAGE: the write is answered OK and the blueprint is checked; one that fails leaves the previous in force, and
BP_RESULT and BP_OFFSET name the first failure. Either restarts the settle period (R446). Which byte of a field or record BP_OFFSET names is open. [DEDUCED, log 64; DEDUCED, log 65] -/
def execBpImage (req : Req) (image : List Byte) (s : State) : Out :=
  .next { s with mgr := s.mgr.hostWrite (.bpImage req image) req Obj.BP_IMAGE image false (fun m _ =>
    let fail := if image.isEmpty then none else match bpCheck image with
      | some f => some f
      | none => m.nidChange image
    let m := { m.onDev (fun d => d.setBlob Obj.BP_IMAGE image) with failed := m.failed.filter (fun k => k != Obj.BP_IMAGE) }
    match fail with
    | none => m.acceptBp image
    | some f => (((m.onDev Dev.drawn).setObj Obj.BP_RESULT f.code).setObj Obj.BP_OFFSET (f.at_ + m.dev.openNat % max 1 f.size)).touchGate) }

/-! ## HELLO (R437, R441, R444) -/

def helloFrame : FrameKind := { cls := .dict, claim := false, unprotected := true, fromNone := true, hello := true }
def attestReportFrame : FrameKind := { cls := .dict, claim := false, unprotected := true, fromNone := true }

/-- The neighbour records of a HELLO payload. -/
def helloNbrs (p : List Byte) : SMap NbrRep :=
  (upTo (fieldAt p 0x18 2)).foldl (fun (t : SMap NbrRep) i =>
    let v := fieldAt p (0x20 + 16 * i) 16
    mapSet t ((if bitOf v 48 then 128 else 0) + bitsOf v 55 49) { node := bitsOf v 127 64, port := bitsOf v 63 57, ep := bitOf v 56 }) []

/-- A HELLO payload has the length its count gives. -/
def helloOk (p : List Byte) : Bool := Nat.ble (fieldAt p 0x18 2) 144 && p.length == 0x20 + 16 * fieldAt p 0x18 2

/-- The newest HELLO of a die is kept; one of a die that holds a NID says that its agent has reset; one that meets no
attestation in progress lets it be attested again; one that an attestation waits for has it asked again. -/
def Manager.takeHello (m : Manager) (p : List Byte) : Manager :=
  let die := fieldAt p 0 8
  let changed := (m.disc.hello die).payload != p
  let h : HelloRec := { payload := p, at_ := m.dev.time, node := fieldAt p 8 8, kind := fieldAt p 0x10 1
                        join := fieldAt p 0x11 1, flags := fieldAt p 0x12 1, fwVer := fieldAt p 0x14 4 }
  let holds := m.fab.nodes.any (fun n => n.2.die == die)
  let att := mapGet m.disc.atts die
  let again := holds && (match att with | some a => a.stage == 2 | none => true)
  let m := m.onDisc (fun x => { x with
    hellos := mapSet x.hellos die h
    nbrs := mapSet x.nbrs die (helloNbrs p)
    ended := x.ended.filter (fun d => d != die)
    redo := if again then mapSet x.redo die true else x.redo
    atts := if again then mapDel x.atts die else match att with
      | some a => mapSet x.atts die { a with newHello := true }
      | none => x.atts })
  let m := m.rematch.applyReports
  let m := if changed then m.touchGate else m
  match mapGet m.disc.atts die with
  | some a => if a.stage = 0 ∧ a.hello ∧ m.active ∧ m.leads then m.sendAttest die { a with sends := 0 } else m.pump
  | none => m.pump

/-- HELLO: taken under association 0 at the MANAGERS group. [DEDUCED, log 61] -/
def execHello (hdr : Hdr) (payload : List Byte) (s : State) : Out :=
  let t := s.mgr.dev.ingress helloFrame { hdr with lengthOk := hdr.lengthOk && helloOk payload } s.mgr.genOf
  let m := { s.mgr with dev := t.dev }
  if !t.ok then .next { s with mgr := m }
  else .next { s with mgr := (m.entry (.hello hdr payload)).takeHello payload }

/-! ## ATTEST_REPORT (R442, R444) -/

/-- A report fails: the match is withdrawn and the agent is listed. -/
def Manager.failAttest (m : Manager) (die : Nat) (a : Att) : Manager :=
  let m := m.onDisc (fun x => { x with
    atts := mapDel x.atts die
    failed := x.failed ++ [(die, a.nid)]
    matches_ := mapFilter x.matches_ (fun _ k => k.die != die) })
  m.rematch.touchGate.pump

/-- A report has verified: an agent with a NID is offered its key, one without ends its attestation. In CONFIDENTIAL no key is
offered to an agent whose report shows a debug level above 0 (R473). -/
def Manager.passAttest (m : Manager) (die : Nat) (a : Att) (desc : List Byte) (debug : Nat) : Manager :=
  if a.nid = nidNone ∨ (m.confidential ∧ debug ≠ 0) then
    (m.onDisc (fun x => { x with atts := mapDel x.atts die, ended := insNat x.ended die })).touchGate.pump
  else
    let m := m.onDisc (fun x => { x with atts := mapSet x.atts die { a with
      stage := 1, sends := 1, sentAt := m.dev.time, desc := desc, debug := debug } })
    m.offerFirst a.nid

/-- ATTEST_REPORT: signature and chain (`sigOk`), then the request it answers, then the HELLO it binds. `nonce` and `hello`
are the digests the report carries, `debug` the higher of its DEBUG and DEBUG_MAX, `desc` the descriptor of the agent's node as
the manager comes to know it. [DEDUCED, log 63] -/
def execAttestReport (hdr : Hdr) (die : Nat) (sigOk : Bool) (nonce hello : Digest) (desc : List Byte) (debug : Nat) (s : State) : Out :=
  let t := s.mgr.dev.ingress attestReportFrame hdr s.mgr.genOf
  let m := { s.mgr with dev := t.dev }
  match t.ok, mapGet m.disc.atts die with
  | true, some a =>
    if a.stage ≠ 0 ∨ a.hello ∨ !m.active ∨ !m.leads then .next { s with mgr := m }
    else
      let m := m.entry (.attestReport hdr die sigOk nonce hello desc debug)
      if !sigOk ∨ !a.digests.contains nonce then .next { s with mgr := m.failAttest die a }
      else if hello ≠ sha256 (m.disc.hello die).payload then
        if a.newHello then .next { s with mgr := m.sendAttest die { a with sends := 0 } }
        else .next { s with mgr := m.onDisc (fun x => { x with atts := mapSet x.atts die { a with hello := true } }) }
      else .next { s with mgr := m.passAttest die a desc debug }
  | _, _ => .next { s with mgr := m }

/-! ## Repetition (R545) -/

/-- Every ATTEST_REQ without a report is sent again under a new nonce; after 8 sends the attestation ends and the match
stays. -/
def Manager.repeatAtts (m : Manager) : Manager :=
  (m.disc.atts.filter (fun e => e.2.stage == 0 && !e.2.hello)).foldl (fun (m : Manager) (e : Nat × Att) =>
    if e.2.sends < 8 then m.sendAttest e.1 e.2
    else (m.onDisc (fun x => { x with atts := mapDel x.atts e.1, ended := insNat x.ended e.1 })).touchGate) m

/-- A frame of which n copies have gone out is due again: at once, and after 8 sends once a second. -/
def Manager.dueAgain (m : Manager) (sends sentAt : Nat) : Bool := decide (sends < 8) || Nat.ble (sentAt + 1000000000) m.dev.time

/-- Every KEY_OFFER without a KEY_ACCEPT is sent again; one answered BUSY after the grace time (R416). -/
def Manager.repeatOffers (m : Manager) : Manager :=
  let due := fun (o : Offer) => !(m.node o.nid).silent && (match o.busy with
    | some t => Nat.ble (t + m.obj Obj.FN_KEY_GRACE_MS * 1000000) m.dev.time
    | none => m.dueAgain o.sends o.sentAt)
  (m.fab.offers.filter due).foldl (fun m o => m.sendOffer { o with sends := o.sends + 1 }) m

/-- The CLAIM to every switch agent in attestation that has not answered it is sent again. -/
def Manager.repeatClaims (m : Manager) : Manager :=
  (m.disc.atts.filter (fun e => e.2.stage == 2 && !(m.node e.2.nid).silent && m.dueAgain e.2.sends e.2.sentAt)).foldl
    (fun (m : Manager) (e : Nat × Att) =>
      (m.sendClaim e.2.nid).onDisc (fun x => { x with
        atts := mapSet x.atts e.1 { e.2 with sends := e.2.sends + 1, sentAt := m.dev.time } })) m

/-- ATTEST_REPEAT: the 10 ms timer. [DEDUCED, log 66] -/
def execAttestRepeat (s : State) : Out :=
  let m := s.mgr
  if !m.active || !m.leads then .next s
  else .next { s with mgr := m.repeatAtts.repeatOffers.repeatClaims.pump }

/-! ## The ready gate (R446, R448) -/

/-- SETTLE_EXPIRE: the gate is evaluated when no attestation is outstanding. [DEDUCED, log 66] -/
def execSettleExpire (s : State) : Out :=
  let m := s.mgr
  if !m.disc.settle then .next s
  else
    let m := (m.entry .settleExpire).onDisc (fun x => { x with settle := false })
    .next { s with mgr := if m.disc.atts.isEmpty then m.evalGate else m }

/-- READY_TOLERANCE_WRITE: a limit is written, and the gate evaluated at once. A settle period that runs goes on. [DEDUCED, log 47; DEDUCED, log 66] -/
def execReadyToleranceWrite (req : Req) (sub : Nat) (data : List Byte) (s : State) : Out :=
  let key := 0x304000 + sub
  .next { s with mgr := s.mgr.hostWrite (.readyToleranceWrite req sub data) req key data false (fun m _ =>
    let was := m.disc.settle
    let m := (m.setObj key (leNat data)).evalGate
    if m.obj Obj.DS_STATE = 2 then m.onDisc (fun x => { x with settle := was }) else m) }

/-- DS_RESTART: DISCOVERING again; every match is cleared and every agent attested again; nothing is staged until the gate
passes. [DEDUCED, log 66] -/
def execDsRestart (req : Req) (value : Nat) (s : State) : Out :=
  .next { s with mgr := s.mgr.cmd (.dsRestart req value) req Obj.DS_RESTART value [1] false (fun m _ =>
    let m := (m.setObj Obj.DS_STATE 1).setObj Obj.DS_READY_MS 0
    let m := if m.inst.phase = 2 then m.abandon else m
    let m := m.onDisc (fun x => { x with
      matches_ := [], atts := [], ended := [], failed := []
      redo := m.fab.nodes.foldl (fun (t : SMap Bool) n => mapSet t n.2.die false) [] })
    m.rematch.touchGate.pump) }

end Sys2Proof.Machine
end

