-- ==== Sys2Proof/Machine/Cast.lean ====
section
/-! DEFINITION. Sys2Proof/Machine/Cast.lean: firmware broadcast at a manager (chapter "From power-on to a ready fabric"). -/

namespace Sys2Proof.Machine

/-- Changes what the manager holds of a firmware broadcast. -/
def Manager.onCast (m : Manager) (f : FwCast → FwCast) : Manager := { m with cast := f m.cast }

/-- IMAGE_ID and the block count of an image (R450, R451). -/
def imageId (img : List Byte) : Nat := fieldAt img 0x0C 4
def imageBlocks (img : List Byte) : Nat := (img.length + 4095) / 4096

/-- A block of the image being broadcast: to the FIRMWARE group, or as a repair copy to one agent. [DEDUCED, log 67] -/
def Manager.sendBlock (m : Manager) (pass b : Nat) (to_ : Option Nat) : Manager :=
  let img := m.cast.run
  let x : Msg := .bulkData (imageId img) b (imageBlocks img) pass to_.isSome false ((img.drop (4096 * b)).take 4096)
  match to_ with
  | none => m.emit { dst := nidAll, assoc := 0xE004, msg := x }
  | some n => m.sendAgent n x

/-- The agents a broadcast goes to: those of FW_TARGETS that are attested, or every attested one. -/
def Manager.castTargets (m : Manager) : List Nat :=
  let map := m.dev.blob Obj.FW_TARGETS
  (m.fab.nodes.map (fun n => n.1)).filter (fun n => map.isEmpty || bitOf (fieldAt map (n / 8) 1) (n % 8))

/-- BUSY of FW_GO: a broadcast or an activation is in progress (R455). -/
def Manager.casting (m : Manager) : Bool := m.obj Obj.FW_STATE == 1 || m.obj Obj.FW_STATE == 3

/-- FW_IMAGE: an image is held for the next broadcast; a zero length discards it. -/
def execFwImage (req : Req) (image : List Byte) (s : State) : Out :=
  .next { s with mgr := s.mgr.hostWrite (.fwImage req image) req Obj.FW_IMAGE image false (fun m _ =>
    { m.onCast (fun x => { x with image := image }) with failed := m.failed.filter (fun k => k != Obj.FW_IMAGE) }) }

/-- The first pass of a broadcast: every block to the FIRMWARE group, whose key its agents are given (R451). [DEDUCED, log 67] -/
def Manager.startCast (m : Manager) : Manager :=
  let targets := m.castTargets
  let m := m.onCast (fun x => { x with
    run := x.image, targets := targets, agents := [], sent := false, failed := [], batch := [], waiting := [] })
  let m := (((m.setObj Obj.FW_STATE 1).setObj Obj.FW_PASS 1).setObj Obj.FW_COMPLETE 0).setObj Obj.FW_ACTIVE 0
  let m := targets.foldl (fun m n => if (m.node n).groupsHeld.contains 0xE004 then m else m.offerFabric 0xE004 n) m
  (upTo (imageBlocks m.cast.run)).foldl (fun m b => m.sendBlock 1 b none) m

/-- FW_BROADCAST: the image is verified; one for agents is broadcast, one for managers is written to the other
slot of each module of the unit, a standby's not among them, which is marked active (R450, R451, R456). `sigOk` says that its signature verifies under R462. One that reads as failed
is refused (R123). -/
def execFwBroadcast (req : Req) (sigOk : Bool) (s : State) : Out :=
  let m := s.mgr
  if m.failed.contains Obj.FW_IMAGE ∧ !m.casting ∧ m.gateReach req Obj.FW_GO true 1 = 0 ∧ m.gateState req Obj.FW_GO true = 0 then
    .next { s with mgr := m.answer req 0x0011 }
  else .next { s with mgr := s.mgr.cmd (.fwBroadcast req sigOk) req Obj.FW_GO 1 [1, 2, 3] s.mgr.casting (fun m _ =>
    let img := m.cast.image
    let floor := m.dev.floor
    if sigOk && imageOk img 1 floor then m.startCast
    else if sigOk && imageOk img 2 floor then
      (if m.obj Obj.RD_STATE = 2 then m.onDev (fun d => { d with
        fwVers := mapSet d.fwVers (1 - d.fw) (fieldAt img 4 4)
        nextFw := some (1 - d.fw) }) else m).setObj Obj.FW_STATE 4
    else m.setObj Obj.FW_STATE 6) }

/-- PASS_SENT: the last block of a pass has gone out; END_OF_PASS follows. Its BLOCK field is open. [DEDUCED, log 67] -/
def execPassSent (s : State) : Out :=
  let m := s.mgr
  if m.obj Obj.FW_STATE ≠ 1 ∨ m.cast.sent then .next s
  else
    let m := m.entry .passSent
    let img := m.cast.run
    let x : Msg := .bulkData (imageId img) (m.dev.openNat % 2 ^ 16) (imageBlocks img) (m.obj Obj.FW_PASS) false true []
    .next { s with mgr := ((m.onDev Dev.drawn).emit { dst := nidAll, assoc := 0xE004, msg := x }).onCast (fun c => { c with sent := true }) }

/-! ## Reports and passes (R452) -/

/-- What an agent in a broadcast reported last. -/
def FwCast.of (c : FwCast) (n : Nat) : FwAgent := mapGetD c.agents n {}

/-- FW_COMPLETE and FW_ACTIVE. -/
def Manager.tally (m : Manager) : Manager :=
  let n := fun (p : Nat → Bool) => (m.cast.agents.filter (fun (a : Nat × FwAgent) => p a.2.state)).length
  (m.setObj Obj.FW_COMPLETE (n (fun st => st == 1 || st == 5))).setObj Obj.FW_ACTIVE (n (fun st => st == 5))

/-- Two agents may not stand in one batch: switch agents that share an UP link, endpoint agents that share a slice (R454). -/
def Manager.apart (m : Manager) (a b : Nat) : Bool :=
  let x := m.node a
  let y := m.node b
  let sa := m.switchOf a
  let sb := m.switchOf b
  (x.kind != 1 && y.kind != 1 && (m.fab.links.any (fun e => linkUp e.2 && decide (e.2.peerKind = .switch) &&
    ((e.1 / 128 == sa && e.2.peerNid == 0x20000 + sb) || (e.1 / 128 == sb && e.2.peerNid == 0x20000 + sa))))) ||
  (x.kind != 0 && y.kind != 0 && m.epCtx a != 0 && m.epCtx a == m.epCtx b)

/-- The next batch: at most FW_BATCH agents of those waiting. -/
def Manager.pickBatch (m : Manager) : List Nat :=
  m.cast.waiting.foldl (fun (b : List Nat) n =>
    if b.length < max 1 (m.obj Obj.FW_BATCH) ∧ b.all (fun k => !m.apart k n) then b ++ [n] else b) []

/-- ACTIVATE goes to the next batch; with none left the activation is done. -/
def Manager.nextBatch (m : Manager) : Manager :=
  let b := m.pickBatch
  let m := m.onCast (fun c => { c with batch := b, waiting := c.waiting.filter (fun n => !b.contains n) })
  if b.isEmpty then m.setObj Obj.FW_STATE 4 else b.foldl (fun m n => m.cmdAgent n (.activate (imageId m.cast.run))) m

/-- FW_ACTIVATE: the COMPLETE agents are activated in batches. [DEDUCED, log 67] -/
def execFwActivate (req : Req) (s : State) : Out :=
  .next { s with mgr := s.mgr.cmd (.fwActivate req) req Obj.FW_GO 2 [1, 2, 3] s.mgr.casting (fun m _ =>
    let ready := (m.cast.agents.filter (fun (a : Nat × FwAgent) => a.2.state == 1)).map (fun a => a.1)
    ((m.onCast (fun c => { c with waiting := ready, batch := [] })).setObj Obj.FW_STATE 3).nextBatch) }

/-- FW_ABORT: a broadcast or activation in progress ends; agents keep the image they run. -/
def execFwAbort (req : Req) (s : State) : Out :=
  .next { s with mgr := s.mgr.cmd (.fwAbort req) req Obj.FW_GO 3 [1, 2, 3] false (fun m _ =>
    if !m.casting then m
    else ((m.onCast (fun c => { c with batch := [], waiting := [] })).setObj Obj.FW_STATE 5).setObj Obj.FW_PASS 0) }

/-- An agent of the batch has reported: the restart it announces, its new slot, or its failure. [DEDUCED, log 67] -/
def Manager.batchReport (m : Manager) (n state : Nat) : Manager :=
  let x := m.node n
  let m := if state = 4 then m.setNode n { x with restarting := some (x.restarting.getD m.dev.time) }
    else if state = 5 then m.setNode n { x with slot := 1 - x.slot, fwVer := fieldAt m.cast.run 4 4 }
    else m
  if m.obj Obj.FW_STATE ≠ 3 ∨ !m.cast.batch.contains n ∨ state = 4 ∨ state = 1 then m
  else
    let m := m.onCast (fun c => { c with
      batch := c.batch.filter (fun k => k != n)
      failed := if state = 5 then c.failed else insNat c.failed n })
    if m.cast.batch.isEmpty then m.nextBatch else m

/-- BULK_REPORT: what an agent has of the image, or how its activation went. -/
def execBulkReport (hdr : Hdr) (image state pass : Nat) (more : Bool) (missing : List (Nat × Nat)) (s : State) : Out :=
  let t := s.mgr.dev.ingress bulkFrame hdr s.mgr.genOf
  let m := { s.mgr with dev := t.dev }
  if !t.ok ∨ image ≠ imageId m.cast.run ∨ !m.cast.targets.contains hdr.src then .next { s with mgr := m }
  else
    let m := m.entry (.bulkReport hdr image state pass more missing)
    let m := m.onCast (fun c => { c with
      agents := mapSet c.agents hdr.src { state := state, pass := pass, more := more, missing := missing } })
    .next { s with mgr := m.tally.batchReport hdr.src state }

/-- The blocks an agent misses after a pass: all of them where it set MORE or sent no report. -/
def Manager.missed (m : Manager) (pass n : Nat) : List Nat :=
  let a := m.cast.of n
  let all := upTo (imageBlocks m.cast.run)
  if a.more ∨ a.pass ≠ pass then all
  else all.filter (fun b => a.missing.any (fun r => Nat.ble r.1 b && decide (b < r.1 + r.2)))

/-- The next pass: blocks missed by more than FW_MCAST_BP of the targets again to the group, the others to each agent that
misses them. -/
def Manager.nextPass (m : Manager) (open_ : List Nat) : Manager :=
  let pass := m.obj Obj.FW_PASS
  let gaps := open_.map (fun n => (n, m.missed pass n))
  let m := (m.setObj Obj.FW_PASS (pass + 1)).onCast (fun c => { c with sent := false })
  (upTo (imageBlocks m.cast.run)).foldl (fun (m : Manager) b =>
    let who := (gaps.filter (fun g => g.2.contains b)).map (fun g => g.1)
    if who.isEmpty then m
    else if m.obj Obj.FW_MCAST_BP * m.cast.targets.length < who.length * 10000 then m.sendBlock (pass + 1) b none
    else who.foldl (fun m n => m.sendBlock (pass + 1) b (some n)) m) m

/-- PASS_PLAN: 100 ms after a pass. After the last pass, or with every target COMPLETE, the broadcast ends and those that
are not are listed. -/
def execPassPlan (s : State) : Out :=
  let m := s.mgr
  if m.obj Obj.FW_STATE ≠ 1 ∨ !m.cast.sent then .next s
  else
    let m := m.entry .passPlan
    let open_ := m.cast.targets.filter (fun n => (m.cast.of n).state != 1 && (m.cast.of n).state != 5)
    if open_.isEmpty ∨ max 1 (m.obj Obj.FW_PASSES) ≤ m.obj Obj.FW_PASS then
      .next { s with mgr := ((m.onCast (fun c => { c with failed := open_, sent := false })).setObj Obj.FW_STATE 2).setObj Obj.FW_PASS 0 }
    else .next { s with mgr := m.nextPass open_ }

/-- ACTIVATION_BATCH_TIMEOUT: 1 s after a batch began; its silent agents are listed and the next begins. -/
def execActivationBatchTimeout (s : State) : Out :=
  let m := s.mgr
  if m.obj Obj.FW_STATE ≠ 3 ∨ m.cast.batch.isEmpty then .next s
  else
    let m := m.entry .activationBatchTimeout
    .next { s with mgr := (m.onCast (fun c => { c with failed := c.batch.foldl insNat c.failed, batch := [] })).nextBatch }

/-- BT_FRESH: the stack settings saved are discarded for the next start (R432). -/
def execBtFresh (req : Req) (value : Nat) (s : State) : Out :=
  .next { s with mgr := s.mgr.cmd (.btFresh req value) req Obj.BT_FRESH value [1] false (fun m _ => m.setObj Obj.BT_FRESH 1) }

end Sys2Proof.Machine
end

