-- ==== Sys2Proof/Machine/FieldNet.lean ====
section
/-! DEFINITION. Sys2Proof/Machine/FieldNet.lean: keys, time stamps and field ports (chapter "Slarolu field network"). -/

namespace Sys2Proof.Machine

/-! ## KEY_OFFER and KEY_ACCEPT (R415, R416, R442) -/

/-- A KEY_OFFER at a manager module: another unit's manager-manager key, under a signature (R413, R415). -/
def Manager.takeOffer (m : Manager) (hdr : Hdr) (assoc : Nat) (phase : Bool) (wrap peer : Nat) (salts : Salts) (expire : Nat) (key : Key) (sigOk : Bool) : Manager :=
  let t := m.dev.ingress offerFrame hdr m.genOf
  let m := { m with dev := t.dev }
  if !t.ok then m
  else
    let r := m.dev.takeOffer hdr.src assoc phase peer salts expire key (wrap == 1 && sigOk && assoc == 3)
    if r.2 = 0 then { m with dev := r.1.acceptKey hdr.src assoc phase peer 0 }
    else { m with dev := r.1.sendTo hdr.src 3 (.keyAccept assoc (if phase then 1 else 0) r.2) }

/-- KEY_OFFER: a device takes a key (R416). At an agent `ports` are its ports that face the peer of an agent-agent key, and
`peerAs` is that peer's NID on those links (R249). -/
def execKeyOffer (dev : At) (hdr : Hdr) (assoc : Nat) (phase : Bool) (wrap peer : Nat) (salts : Salts) (expire : Nat) (key : Key) (sigOk : Bool)
    (ports : List Nat) (peerAs : Nat) (s : State) : Out :=
  match dev with
  | none => .next { s with mgr := s.mgr.takeOffer hdr assoc phase wrap peer salts expire key sigOk }
  | some die => onAgent s die (fun a => a.keyOffer hdr assoc phase wrap peer salts expire key sigOk ports peerAs)

/-- The key a KEY_OFFER carries. -/
def Offer.keyOf (o : Offer) : Key := match o.msg with | .keyOffer _ _ _ _ _ _ _ k => k | _ => 0

/-- The manager's own salt and sending key after a KEY_ACCEPT of a pairwise key: it moves to the new phase (R416 step 3), and what waited for
it goes out (R417). [DEDUCED, log 57] -/
def Manager.moveTx (m : Manager) (nid : Nat) (o : Offer) : Manager :=
  let t : TxKey := { key := o.keyOf, phase := o.phase, salt := o.saltRx, expire := m.obj Obj.FN_REKEY_FRAMES, since := m.dev.time }
  let had := (mapGet m.dev.net.tx (peerKey nid o.key)).isSome
  let m := m.onDev (fun d => ({ d with net := { d.net with tx := mapSet d.net.tx (peerKey nid o.key) t } }).unhold (peerKey nid o.key))
  if had then m.bump Obj.FC_REKEYS else m

/-- A group's new key has been accepted by every holder it was offered to: the manager moves to its phase. [DEDUCED, log 57] -/
def Manager.moveGroup (m : Manager) (o : Offer) : Manager :=
  let pk := peerKey nidAll o.key
  let t := mapGetD m.dev.net.tx pk {}
  if m.fab.offers.any (fun x => x.key == o.key) ∨ t.phase = o.phase then m
  else
    let r := m.drawSalt (groupSalts o.key o.phase)
    let new : TxKey := { key := o.keyOf, phase := o.phase, salt := r.2, expire := m.obj Obj.FN_REKEY_FRAMES, since := m.dev.time }
    (r.1.onDev (fun d => ({ d with net := { d.net with tx := mapSet d.net.tx pk new } }).unhold pk)).bump Obj.FC_REKEYS

/-- A key is accepted: its offer ends; the key of a new agent completes the attestation's second stage (R442). -/
def Manager.accepted (m : Manager) (nid : Nat) (o : Offer) : Manager :=
  let m := { m with fab := { m.fab with offers := m.fab.offers.filter (fun x => x != o) } }
  if isGroupAssoc o.key then
    let n := m.node nid
    (m.setNode nid { n with groupsHeld := insNat n.groupsHeld o.key }).moveGroup o
  else if o.key = 2 then m
  else
    let m := m.moveTx nid o
    if o.key ≠ 1 then m
    else match m.disc.atts.find? (fun x => x.2.nid == nid && x.2.stage == 1) with
      | some (die, a) => m.keyed die nid a
      | none => m

/-- The manager holds every agent-agent key it has offered: a KEY_ACCEPT under association 2 is verified under the one whose
offer it answers. [DESIGN CHOICE, log 7; DEDUCED, log 57] -/
def Manager.pairSlot (m : Manager) (hdr : Hdr) : Manager :=
  if hdr.assoc ≠ 2 then m
  else
    let key := ((m.fab.offers.find? (fun o => o.nid == hdr.src && o.key == 2 && o.phase == hdr.phase && o.keyOf == hdr.key)).map Offer.keyOf)
    let slot := slotKey hdr.src 2 hdr.phase
    match key with
    | some k => m.onDev (fun d => { d with net := { d.net with keys := mapSet d.net.keys slot k, windows := mapDel d.net.windows slot } })
    | none => m

/-- KEY_ACCEPT: OK ends the offer; BUSY has it offered again after the grace time; after SIGNATURE it is repeated as any
offer without a key taken (R416, R545). [DEDUCED, log 57] -/
def execKeyAccept (hdr : Hdr) (assoc : Nat) (phase : Bool) (status : Nat) (s : State) : Out :=
  let m := s.mgr.pairSlot hdr
  let t := m.dev.ingress dictPlain hdr m.genOf
  let m := { m with dev := t.dev }
  if !t.ok then .next { s with mgr := m }
  else
    let mine := fun (o : Offer) => o.nid == hdr.src && o.key == assoc && o.phase == phase && (assoc != 2 || status != 0 || o.keyOf == hdr.key)
    match m.fab.offers.find? mine with
    | none => .next { s with mgr := m }
    | some o =>
      let m := m.entry (.keyAccept hdr assoc phase status)
      if status = 0 then .next { s with mgr := m.accepted hdr.src o }
      else if status = 1 then
        .next { s with mgr := { m with fab := { m.fab with offers := m.fab.offers.map (fun x =>
          if x = o then { x with busy := some m.dev.time } else x) } } }
      else .next { s with mgr := m }

/-- KEY_GRACE_EXPIRE: FN_KEY_GRACE_MS after the first frame under a new phase the old key is erased (R416 step 4). [DEDUCED, log 57] -/
def execKeyGraceExpire (dev : At) (src assoc : Nat) (phase : Bool) (s : State) : Out :=
  match dev with
  | none => .next { s with mgr := s.mgr.onDev (fun d => d.endGrace src assoc phase) }
  | some die => onAgent s die (fun a => a.onDev (fun d => d.endGrace src assoc phase))

/-! ## Renewal (R417) -/

/-- A new key of an association the manager sends under, where none is on offer: a group's key is offered to its members,
a pairwise one to its holder inside their association. -/
def Manager.renew (m : Manager) (peer assoc : Nat) : Manager :=
  if m.fab.offers.any (fun o => o.key == assoc && (isGroupAssoc assoc || o.nid == peer)) then m
  else if isGroupAssoc assoc then
    let r := m.drawGroupKey assoc false
    (m.groupMembers assoc).foldl (fun m e => m.offerGroupKey assoc r.2.2 r.2.1 e) r.1
  else m.offerOwnKey peer assoc assoc

/-- REKEY_TIMER: FN_REKEY_S has passed since a key took effect. The manager renews it; an agent asks for a new one in its
next TIMED_REPLY. [DEDUCED, log 57] -/
def execRekeyTimer (dev : At) (peer assoc : Nat) (s : State) : Out :=
  match dev with
  | none =>
    let m := s.mgr
    if m.obj Obj.FN_REKEY_S = 0 || !m.leads || (mapGet m.dev.net.tx (peerKey peer assoc)).isNone then .next s
    else .next { s with mgr := m.renew peer assoc }
  | some die => onAgent s die (fun a => a.onDev (fun d => d.askRekey peer assoc))

/-- The keys whose counter has reached EXPIRE are renewed by the active unit (R417). -/
def Manager.renewAsked (m : Manager) : Manager :=
  if !m.active then m
  else (m.dev.net.tx.filter (fun t => t.2.asked)).foldl (fun m t => m.renew (t.1 / 65536) (t.1 % 65536)) m

/-! ## TIMED (R424, R425, R408) -/

/-- TIMED_SEND: an agent's slot of FN_TIME_MS falls due. An endpoint agent is told its collector; a collector that has left
its leaf set is replaced. A renewal that a counter has made due starts with it. [DESIGN CHOICE, log 101] -/
def execTimedSend (nid : Nat) (s : State) : Out :=
  let m := s.mgr
  match mapGet m.fab.nodes nid with
  | none => .next s
  | some n =>
    if !m.leads then .next s
    else
      let keep := match n.collector with | some k => (m.leafAgents nid).contains k | none => false
      let coll := if n.kind ≠ 1 then none else if keep then n.collector else m.collectorFor nid []
      let port := if m.dev.portUp n.homePort then n.homePort else m.homePort nid
      let m := (m.setNode nid { n with collector := coll, homePort := port }).setHome nid port
      let m := m.onDev (fun d => d.send { dst := nid, assoc := 1, claim := some m.claim
                                          msg := .timed m.dev.time (m.portMac port) (coll.getD 0x3FFFF) })
      .next { s with mgr := m.renewAsked }

/-- An agent asks for new keys: its own association's and those it shares with its peers are renewed. -/
def Manager.renewFor (m : Manager) (nid : Nat) : Manager :=
  let m := m.renew nid 1
  let pairs := (m.disc.pairs.map (fun p => (p.1 / 2 ^ 18, p.1 % 2 ^ 18))).filter (fun p => p.1 == nid || p.2 == nid)
  pairs.foldl (fun m p =>
    if m.fab.offers.any (fun o => o.key == 2 && ((o.nid == p.1 && o.peer == p.2) || (o.nid == p.2 && o.peer == p.1))) then m
    else m.offerPair p.1 p.2 true) m

/-- TIMED_REPLY: a time exchange, the agent's WITHDRAW count, and its flags (R49, R249, R325, R335, R417). Exchanges are those the
module has had itself, by its own time (R9): an entry of the leader's adds none. [DESIGN CHOICE, log 104] -/
def execTimedReply (hdr : Hdr) (t1 t2 t3 wdrSent : Nat) (rekey restarting plateValid : Bool) (s : State) : Out :=
  let t := s.mgr.dev.ingress hbReplyFrame hdr s.mgr.genOf
  let m := { s.mgr with dev := t.dev }
  match t.ok, mapGet m.fab.nodes hdr.src with
  | true, some n =>
    let m := m.entry (.timedReply hdr t1 t2 t3 wdrSent rekey restarting plateValid)
    let more := match n.wdrSent with | some w => (wdrSent + 2 ^ 32 - w) % 2 ^ 32 | none => 0
    let ex : Exchange := { t1 := t1, t2 := t2, t3 := t3, t4 := m.dev.time }
    let told := m.dev.net.replay
    let n : NodeInfo := { n with
      exchanges := if told then n.exchanges else (n.exchanges ++ [ex]).drop ((n.exchanges.length + 1) - 16)
      estimate := n.estimate || !told
      wdrSent := some wdrSent
      plateValid := plateValid
      restarting := if restarting then some (n.restarting.getD m.dev.time) else n.restarting
      rekey := rekey }
    let m := (m.setNode hdr.src n).bumpBy Obj.FR_WITHDRAWS more
    .next { s with mgr := if rekey && m.active && m.leads then m.renewFor hdr.src else m }
  | _, _ => .next { s with mgr := m }

/-! ## Field ports (R407, R408) -/

/-- FIELD_PORT_CHANGE: a field port of an agent takes a state (its FP_STATE word); where the agent thereby transmits on
another port it replies at once, so that the network relearns its address. In SENTINEL, in reset and without its reference
an agent's ports stay off (R516, R521). -/
def execFieldPortChange (die port state : Nat) (s : State) : Out :=
  onAgent s die (fun a =>
    a.withPorts (if !a.hears || a.link.refLost then a.dev.net.ports else mapSet a.dev.net.ports port (portWord state)))

/-- MANAGER_PORT_DOWN: a field port of the manager goes down; the agents homed on it are given new home ports (R408). -/
def execManagerPortDown (port : Nat) (s : State) : Out :=
  let m := s.mgr.onDev (fun d => { d with net := { d.net with ports := mapSet d.net.ports port 0 } })
  let m := { m with fab := { m.fab with nodes := m.fab.nodes.map (fun (n : Nat × NodeInfo) =>
    if n.2.homePort = port then (n.1, { n.2 with homePort := m.homePort n.1 }) else n) } }
  .next { s with mgr := m.onDev (fun d => { d with net := { d.net with homes := m.fab.nodes.map (fun n => (n.1, n.2.homePort)) } }) }

end Sys2Proof.Machine
end

