-- ==== Sys2Proof/Machine/MgrView.lean ====
section
/-! DEFINITION. Sys2Proof/Machine/MgrView.lean: the values a manager's dictionary derives when an object is read: views of
contexts, links, plates, cells, lists and the NWM-2400 profile. -/

namespace Sys2Proof.Machine

/-! ## Codes -/

/-- The value of a state as the tables number it (Table: Context states, R33, Table: Switch install status). -/
def IsSt.code : IsSt → Nat
  | .current => 0 | .staged => 1 | .stageFailed => 2 | .commitPending => 3 | .excluded => 4 | .lost => 5 | .absent => 6
def CellSt.code : CellSt → Nat
  | .enabled => 0 | .spare => 1 | .retired => 2 | .resetting => 3 | .retiring => 4

/-- A truth value as a BOOL object's byte. -/
def boolByte (b : Bool) : List Byte := [if b then 1 else 0]

/-! ## Switches, installs, the archive -/

/-- Object 0x3410: the switch SW_SEL names. -/
def Manager.viewSw (m : Manager) (sub : Nat) : Option (List Byte) :=
  let x := mapGetD m.rt.sw (m.obj Obj.SW_SEL) {}
  match sub with
  | 2 => some (leBytes 2 x.nhEmpty)
  | 3 => some (leBytes 2 x.need)
  | 4 => some (leBytes 2 x.cover)
  | 5 => some (leBytes 2 x.exc)
  | 6 => some (leBytes 4 x.ecmp)
  | 7 => some (leBytes 2 (min x.ratio 65535))
  | 8 => some (leBytes 1 (min x.reseeds 255))
  | 9 => some (boolByte x.hot)
  | _ => none

/-- Object 0x3510: the install status of the switch SW_SEL names. -/
def Manager.viewIs (m : Manager) (sub : Nat) : Option (List Byte) :=
  let x := m.swInst (m.obj Obj.SW_SEL)
  match sub with
  | 1 => some (leBytes 1 x.st.code)
  | 2 => some (leBytes 4 x.committed)
  | 3 => some (if x.hasDigest then leBytes 32 x.digest.toNat else [])
  | 4 => some (leBytes 2 x.last)
  | 5 => some (leBytes 1 (min x.attempts 255))
  | 6 => some (leBytes 4 x.bytes)
  | 7 => some (boolByte (x.readmit || m.red.readmits.contains (m.obj Obj.SW_SEL)))
  | _ => none

/-- The plate as a canonical image whose HASH_SEED is zero and whose PLATE_DIGEST is that of the true plate (R210). -/
def Plate.imageNoSeed (p : Plate) : List Byte :=
  { p with header := p.header - p.seed * 2 ^ 704 }.image.take 224 ++ leBytes 32 p.digest.toNat ++ p.image.drop 256

/-- Object 0x3530: the impression IA_SEL names. -/
def Manager.viewIa (m : Manager) (sub : Nat) : Option (List Byte) :=
  let x := m.inst.archive.find? (fun a => a.imp.number == m.obj Obj.IA_SEL)
  let here := match x with | some a => a.available | none => false
  match sub with
  | 3 => some (leBytes 1 (if here then 0 else if x.isSome then 1 else 2))
  | 4 => some (match x with | some a => if a.available then leBytes 32 a.imp.digest.toNat else [] | none => [])
  | 5 => some (leBytes 8 (match x with | some a => a.time | none => 0))
  | 6 => some (match x with
    | some a => if !a.available then [] else match mapGet a.imp.plates (m.obj Obj.SW_SEL) with
        | some p => p.imageNoSeed
        | none => []
    | none => [])
  | _ => none

/-! ## Contexts -/

/-- The partition key of a context that has one; 0x0000 in FREE and QUARANTINE. -/
def Manager.ctxKeyNow (m : Manager) (c : Nat) : Nat :=
  let x := m.ctx c
  if x.st = .free ∨ x.st = .quarantine then 0 else pKey c x.gen

/-- How many contexts other than 0 stand in a state. -/
def Manager.countCtx (m : Manager) (p : CtxSt → Bool) : Nat := (m.sl.ctxs.filter (fun e => decide (e.1 ≠ 0) && p e.2.st)).length

/-- Object 0x3820: a context. [DEDUCED, log 70] -/
def Manager.viewCx (m : Manager) (c sub : Nat) : Option (List Byte) :=
  let x := m.ctx c
  match sub with
  | 0x01 => some (leBytes 1 x.st.code)
  | 0x02 => some (leBytes 1 x.gen)
  | 0x03 => some (leBytes 2 (m.ctxKeyNow c))
  | 0x04 => some (leBytes 4 (m.membersOf c).length)
  | 0x05 => some (if x.st = .free then [] else leBytes 16384 (bitmapOf (m.membersOf c)))
  | 0x06 => some (boolByte x.sealed_)
  | 0x07 => some (leBytes 4 x.sealLinks)
  | 0x08 => some (leBytes 1 x.loss)
  | 0x09 => some (leBytes 4 (x.sramKib * 256 + x.cells.length))
  | 0x0A => some (leBytes 4 x.dramMib)
  | 0x0B => some (leBytes 4 (if x.syncN = 0 then 0 else x.syncLo * 65536 + x.syncN))
  | 0x0C => some (leBytes 2 (if x.mboxN = 0 then 0 else x.mboxLo * 256 + x.mboxN))
  | 0x0D => some (leBytes 1 x.vf)
  | 0x0E => some (leBytes 1 (if x.st = .draining then 1 else if x.st = .purging then 2 else 0))
  | 0x0F => some (leBytes 1 x.result)
  | 0x10 => some (leBytes 1 (min x.diam 255))
  | 0x11 => some (leBytes 8 x.tag)
  | _ => none

/-! ## What a tenant sees of links (R238) -/

/-- The bin of a link's LOAD. -/
def loadBin (l : Nat) : Nat := min 3 (l / 16384)

/-- The ports through which a switch's committed plate serves the members of a context: the ports of the block entries of
their blocks, and of the context's tree entries. -/
def servePorts (p : Plate) (c : Nat) (blocks : List Nat) : Ports :=
  let bs := blocks.foldl (fun (a : Ports) b => a ||| BitVec.ofNat 128 (p.at_ 1 b)) 0
  p.trees.foldl (fun (a : Ports) t => if bitOf t 231 && bitsOf t 255 244 == c then a ||| BitVec.ofNat 128 t else a) bs

/-- Switches reached from a set over such ports, within a number of hops. -/
def Manager.serveReach (m : Manager) (c : Nat) (blocks : List Nat) : Nat → List Nat → List Nat
  | 0, seen => seen
  | fuel + 1, seen =>
    let next := seen.foldl (fun acc s =>
      let ports := servePorts (mapGetD m.inst.committed.plates s {}) c blocks
      (portsOf ports).foldl (fun acc p =>
        let l := linkOf m.rt.pSnap (s * 128 + p)
        if l.peerKind = .switch then insNat acc (l.peerNid % 8192) else acc) acc) seen
    if next.length = seen.length then seen else m.serveReach c blocks fuel next

/-- The links a context's routes use, by link index, rising. -/
def Manager.usedLinks (m : Manager) (c : Nat) : List Nat :=
  let mem := m.membersOf c
  let blocks := sortNat (mem.map blockOf)
  let start := sortNat (mem.flatMap (leafSet m.rt.pSnap))
  (m.serveReach c blocks 8192 start).flatMap (fun s =>
    (portsOf (servePorts (mapGetD m.inst.committed.plates s {}) c blocks)).filterMap (fun p =>
      if (mapGet m.rt.pSnap (s * 128 + p)).isSome then some (s * 128 + p) else none))

/-- TV_LINKS of a context. [DEDUCED, log 70] -/
def Manager.tvLinks (m : Manager) (c : Nat) : List Byte :=
  (m.usedLinks c).flatMap (fun i =>
    leBytes 8 ((0x20000 + i / 128) * 2 ^ 46 + i % 128 * 2 ^ 39 + loadBin (linkOf m.fab.links i).load))

/-! ## The time map (R49-R51) -/

/-- The kept exchange: the one of least residual, the newest among equals. [DEDUCED, log 71] -/
def keptExchange (l : List Exchange) : Option Exchange :=
  let r := fun (e : Exchange) => (e.t4 - e.t1) - (e.t3 - e.t2)
  l.foldl (fun (b : Option Exchange) e => match b with
    | none => some e
    | some k => if r e ≤ r k then some e else b) none

/-- The offset of an exchange, rounded toward minus infinity. [DEDUCED, log 71] -/
def Exchange.offset (e : Exchange) : Int := (((e.t2 : Int) - e.t1) + ((e.t3 : Int) - e.t4)).fdiv 2

/-- The bound of an exchange at a time, rounded upward. [DEDUCED, log 71] -/
def Exchange.boundAt (e : Exchange) (now : Nat) : Nat := ((e.t4 - e.t1) - (e.t3 - e.t2) + 1) / 2 + 4 + (now - e.t4 + 9999) / 10000

/-- Object 0x3020: the estimate of the agent TM_NID names. [DESIGN CHOICE, log 104] -/
def Manager.viewTm (m : Manager) (sub : Nat) : Option (List Byte) :=
  let n := m.node (m.obj Obj.TM_NID)
  let k := keptExchange n.exchanges
  match sub with
  | 2 => some (leBytes 8 (match k with | some e => (e.offset % 2 ^ 64).toNat | none => 0))
  | 3 => some (leBytes 4 (match k with
      | some e => if n.estimate then min (e.boundAt m.dev.time) 0xFFFFFFFE else 0xFFFFFFFF
      | none => 0xFFFFFFFF))
  | 4 => some (leBytes 4 (match k with | some e => min ((m.dev.time - e.t4) / 1000) 0xFFFFFFFF | none => 0))
  | 5 => some (leBytes 1 n.exchanges.length)
  | _ => none

/-! ## Comparison lists (R445), endpoints, links -/

/-- A comparison list as it is read: its first 65,536 entries. [DEDUCED, log 61] -/
def cmpBytes (l : List Nat) : List Byte := (l.take 65536).flatMap (leBytes 32)

/-- Object 0x3030. -/
def Manager.viewCl (m : Manager) (sub : Nat) : Option (List Byte) :=
  match sub with
  | 1 => some (cmpBytes (m.missNodes ++ m.missLinks))
  | 2 => some (cmpBytes m.extras)
  | 3 => some (cmpBytes m.miswired)
  | 4 => some (cmpBytes m.wrongKind)
  | 5 => some (leBytes 4 m.missNodes.length)
  | 6 => some (leBytes 4 m.missLinks.length)
  | 7 => some (leBytes 4 m.extras.length)
  | 8 => some (leBytes 4 m.miswired.length)
  | 9 => some (leBytes 4 m.wrongKind.length)
  | _ => none

/-- EP_STATE of an endpoint: the first that applies of FENCED, HELD, SILENT, GONE, NOT_PRESENT. -/
def Manager.epState (m : Manager) (e : Nat) : Nat :=
  let n := m.node e
  if n.fenced then 2 else if (mapGet m.sl.held e).isSome then 4 else if n.silent then 5 else if n.gone then 1
  else if present m.fab.links e then 0 else 3

/-- Objects 0x5120 and 0x5130. -/
def Manager.viewEp (m : Manager) (sub : Nat) : Option (List Byte) :=
  let n := m.node (m.obj Obj.EP_SEL)
  match sub with
  | 2 => some (leBytes 1 (m.epState (m.obj Obj.EP_SEL)))
  | 3 => some (leBytes 1 (min n.resets 255))
  | 4 => some (leBytes 1 n.lastCause)
  | 5 => some (boolByte n.readmit)
  | _ => none
def Manager.viewLk (m : Manager) (sub : Nat) : Option (List Byte) :=
  let l := linkOf m.fab.links (m.obj Obj.LK_SEL)
  match sub with
  | 2 => some (leBytes 1 l.st.code)
  | 3 => some (leBytes 1 (min (inWindow l.flapTimes m.dev.time (m.obj Obj.FR_FLAP_WINDOW_S)).length 255))
  | 4 => some [0]
  | _ => none

/-! ## The engine -/

/-- CELL_STATE of a physical cell. -/
def Manager.cellWord (m : Manager) (p : Nat) : Nat :=
  let c := m.eng.cell p
  let w := m.dev.objC Obj.CELL_RESET_WINDOW
  let resets := if w = 0 then c.resets else inWindow c.resets m.dev.time w
  c.logical * 2 ^ 24 + min resets.length 255 * 2 ^ 16 + min (inWindow c.retries m.dev.time 3600).length 255 * 2 ^ 8 + c.st.code

/-- The state of a manager's power domain: a retired cell is OFF, a spare cell no higher than IDLE (R507). -/
def Manager.domainSt (m : Manager) (d : Nat) : Nat :=
  let st := mapGetD m.dev.domains d 0
  if 68 ≤ d then st
  else match (m.eng.cell d).st with
    | .retired => 3
    | .spare => max 1 st
    | _ => st

/-! ## The recorder's views (R492) -/

/-- Codes marked T: fabric records. -/
def fabricCodes : List Nat := [0x106, 0x109, 0x180, 0x181, 0x182, 0x185]

/-- A record shows in the context view of a context. -/
def Manager.ctxShows (m : Manager) (c : Nat) (r : EvRec) : Bool :=
  if c = 0 then r.ctx == 0
  else r.ctx == c || (if m.confidential then r.code == 0x186 else fabricCodes.contains r.code)

/-- A record in hidden form. -/
def EvRec.hidden (r : EvRec) : EvRec := { r with code := 2, payload := List.replicate r.payload.length 0 }

/-- A record as the window and EV_FIRST show it: hidden at level NONE where it concerns a context other than 0. -/
def Manager.windowForm (m : Manager) (r : EvRec) : EvRec := if m.obj Obj.SC_DEBUG = 0 ∧ r.ctx ≠ 0 then r.hidden else r

/-! ## All derived values of a manager -/

/-- Derived values outside the ranges above. [DEDUCED, log 46; DEDUCED, log 58] -/
def Manager.viewMisc (m : Manager) (c key : Nat) : Option (List Byte) :=
  let x := m.ctx c
  if key = Obj.EV_FIRST then some ((shown m.dev.log.first (fun _ => true)).flatMap (fun r => (m.windowForm r).bytes))
  else if key = Obj.DV_HEALTH then some (leBytes 4 (m.dev.health.toNat + (if m.faultsNow.isEmpty then 0 else 4)))
  else if key = Obj.PW_DOMAINS then some ((upTo 96).map (fun d => BitVec.ofNat 8 (m.domainSt d)))
  else if key = Obj.PW_STATE then some (leBytes 1 (min 2 (mapGetD m.dev.domains 95 0)))
  else if key = Obj.SC_EXPIRE then
    some (leBytes 4 (match m.sec.until_ with | some t => (t - m.dev.time + 999999999) / 1000000000 | none => 0))
  else if key = Obj.DS_STATE then some (leBytes 1 (if m.obj Obj.RD_STATE = 2 ∨ m.obj Obj.RD_STATE = 5 then m.obj key else 0))
  else if key = Obj.FW_GO then
    some (leBytes 1 (if m.obj Obj.FW_STATE = 1 then 1 else if m.obj Obj.FW_STATE = 3 then 2 else 0))
  else if key = Obj.FW_FAILED then some (m.cast.failed.flatMap (leBytes 4))
  else if key = Obj.CV_GO then some (boolByte m.sl.placing.isSome)
  else if key = Obj.PK_ROTATE then some (boolByte m.sec.sweep)
  else if key = Obj.CX_FREE then some (leBytes 2 (4095 - m.countCtx (fun st => st != .free)))
  else if key = Obj.CX_ACTIVE then some (leBytes 2 (m.countCtx (fun st => st == .active || st == .draining)))
  else if key = Obj.HL_VF_BOUND then some (leBytes 2 (m.sl.ctxs.filter (fun e => e.2.vf != 0)).length)
  else if key = Obj.CX_STATE_MAP then some ((upTo 4096).map (fun k => ctxByte (m.ctx k)))
  else if key = Obj.SY_FREE then some (leBytes 2 (7168 - (m.sl.ctxs.foldl (fun a e => if e.1 = 0 then a else a + e.2.syncN) 0)))
  else if key = Obj.MBX_RANGE then some (leBytes 2 (if x.mboxN = 0 then 0 else x.mboxLo * 256 + x.mboxN))
  else if key = Obj.TS_SUBSCRIBE then some (if x.subscribe = 0 then [] else leBytes 128 x.subscribe.toNat)
  else if key = Obj.ENG_PHYS_MAP then some (m.eng.cells.map (fun k => BitVec.ofNat 8 k.logical))
  else if key = Obj.LP_DIGEST then some (match mapGet m.eng.digests c with | some d => leBytes 32 d.toNat | none => [])
  else if key = Obj.TV_LINKS then some (m.tvLinks c)
  else if key = Obj.TV_IMP then some (leBytes 4 m.inst.committed.number)
  else if key = Obj.TR_SLOT then some (leBytes 1 (m.red.slot.getD 0xFF))
  else if key = Obj.MOD_FAULTS then some (leBytes 1 (min m.faultsNow.length 255))
  else if key = Obj.AT_CERTS then some m.dev.certificate
  else none

/-- The value of an object a manager derives, when it is one of them; `c` is the context reached. -/
def Manager.view (m : Manager) (c key : Nat) : Option (List Byte) :=
  let idx := key / 256
  let sub := key % 256
  let own : Option (List Byte) :=
    if idx = 0x3410 then m.viewSw sub
    else if idx = 0x3510 then m.viewIs sub
    else if idx = 0x3530 then m.viewIa sub
    else if idx = 0x3820 then m.viewCx c sub
    else if idx = 0x3020 then m.viewTm sub
    else if idx = 0x3030 then m.viewCl sub
    else if idx = 0x5120 then m.viewEp sub
    else if idx = 0x5130 then m.viewLk sub
    else if idx = 0x3C20 ∧ sub ≠ 0 then some (leBytes 4 (m.cellWord (sub - 1)))
    else m.viewMisc c key
  match own with
  | some v => some v
  | none => m.dev.view key

/-! ## The NWM-2400 compatibility profile (R368-R370) -/

/-- Rounds a quotient upward. -/
def ceilDiv (a b : Nat) : Nat := (a + b - 1) / b

/-- The value of a profile object, converted from the native one. [DEDUCED, log 45] -/
def Manager.profile (m : Manager) (key : Nat) : List Byte :=
  let byteOf := fun (k : Nat) => leNat (m.dev.readStored ⟨0, 0, 0, .u8, .ro, 0, 0, 8, 0, 0, .below, 0, 0, false, false⟩ k)
  if key = Obj.P_VENDOR then leBytes 4 (byteOf Obj.ID_VENDOR)
  else if key = Obj.P_PRODUCT then leBytes 4 (byteOf Obj.ID_PRODUCT)
  else if key = Obj.P_REV then leBytes 4 (byteOf Obj.ID_HW_REV)
  else if key = Obj.P_FW then leBytes 4 m.dev.fwVer
  else if key = Obj.P_SW_SEL then leBytes 2 (m.obj Obj.SW_SEL)
  else if key = Obj.P_SW_ROUTED then boolByte (decide ((m.swInst (m.obj Obj.SW_SEL)).st = .current))
  else if key = Obj.P_LINK_SEL then leBytes 4 (m.obj Obj.LK_SEL)
  else if key = Obj.P_LINK_UP then boolByte (decide ((linkOf m.fab.links (m.obj Obj.LK_SEL)).st = .up))
  else if key = Obj.P_LINK_COST then leBytes 2 (linkOf m.fab.links (m.obj Obj.LK_SEL)).weight
  else if key = Obj.P_ROUTE_EPOCH then leBytes 4 (m.obj Obj.IMP_COMMITTED)
  else if key = Obj.P_ROUTE_ALGO then leBytes 1 (m.obj Obj.RT_METRIC + 1)
  else if key = Obj.P_RECOMPUTE then leBytes 1 (m.obj Obj.IMP_FULL)
  else if key = Obj.P_PART_SEL then leBytes 2 (m.obj Obj.LP_SEL_CTX)
  else if key = Obj.P_PART_MEMBERS then
    let set_ := m.dev.blob Obj.CV_SET
    ((upTo (8 * set_.length)).filter (fun e => (set_.getD (e / 8) 0).getLsbD (e % 8))).flatMap (leBytes 4)
  else if key = Obj.P_PART_CREATE then boolByte m.sl.placing.isSome
  else if key = Obj.P_PART_DELETE then leBytes 1 (match (m.ctx (m.obj Obj.LP_SEL_CTX)).st with | .draining => 1 | .purging => 2 | _ => 0)
  else if key = Obj.P_PART_STATE then leBytes 1 (match (m.ctx (m.obj Obj.LP_SEL_CTX)).st with
    | .free => 0 | .quarantine => 0 | .purging => 2 | _ => 1)
  else if key = Obj.P_PART_RESULT then leBytes 1 (m.obj Obj.CV_RESULT)
  else if key = Obj.P_FAULT_HOLDOFF_MS then leBytes 2 (min 65535 (ceilDiv (m.obj Obj.FR_WINDOW_US) 1000))
  else if key = Obj.P_FLAP_LIMIT then leBytes 1 (m.obj Obj.FR_FLAP_LIMIT)
  else if key = Obj.P_HA_ROLE then leBytes 1 (m.obj Obj.RD_ROLE)
  else if key = Obj.P_HA_STATE then leBytes 1 (match m.obj Obj.RD_STATE with | 2 => 0 | 3 => 1 | 4 => 1 | _ => 2)
  else if key = Obj.P_HA_SWITCHOVER then leBytes 1 (m.obj Obj.RD_HANDOVER)
  else leBytes 1 (m.obj key)

end Sys2Proof.Machine
end

