-- ==== Sys2Proof/Machine/ModuleOps.lean ====
section
/-! DEFINITION. Sys2Proof/Machine/ModuleOps.lean: the reset and the start of a manager module, and commands of a module's own
ranges (chapters "From power-on to a ready fabric" and "Connector, balls and electrical characteristics"). -/

namespace Sys2Proof.Machine

/-! ## Commands of a module's own ranges -/

/-- A WRITE of a command object of the identity to recorder ranges or of redundancy: it acts at this module, whether its unit
is active or not, and is no entry of the input stream (R361). [DEDUCED, log 88] -/
def Manager.ownCmd (m : Manager) (r : Req) (key v : Nat) (listed : List Nat) (busy : Bool) (eff : Manager → Nat → Manager) : Manager :=
  let reach := m.gateReach r key true v
  if reach ≠ 0 then m.answer r reach
  else
    let st := m.gateState r key true
    if st ≠ 0 then m.answer r st
    else if !listed.contains v then m.unlisted r key
    else if busy then m.answer r 0x0008
    else (eff m ((m.reachCtx r.fn).getD 0)).answer r 0

/-! ## Reset (R530, R537, R470) -/

/-- Objects that module NVM or the host side keeps through a reset. -/
def keptObjs : List Nat :=
  [Obj.RD_HIGHEST, Obj.RD_HIGHEST_NID, Obj.SC_MODE, Obj.SC_FUSES, Obj.ENG_RETIRED, Obj.ENG_CELLS, Obj.ENG_SPARES,
   Obj.FN_ETHERTYPE, Obj.FN_VID, Obj.FN_PCP_MAP, Obj.FN_MAC_BASE, Obj.BT_FRESH, Obj.PK_EPOCH, Obj.HL_RATE, Obj.HL_WIDTH, Obj.HL_IDE]

/-- The field values of a device that take effect at its reset (R429). -/
def storedObjs : List Nat := [Obj.FN_ETHERTYPE, Obj.FN_VID, Obj.FN_PCP_MAP, Obj.FN_MAC_BASE]

/-- The entries of a table for some keys. -/
def mapKeep (m : SMap Nat) (keys : List Nat) : SMap Nat := mapFilter m (fun k _ => keys.contains k)

/-- The engine after a reset: a retired cell stays retired (R57), the others run again with nothing loaded. -/
def Engine.afterReset (e : Engine) : Engine :=
  { cells := e.cells.map (fun c => match c.st with
      | .retired => { logical := 0xFF, st := .retired }
      | .spare => { logical := 0xFE, st := .spare }
      | _ => { logical := c.logical, st := .enabled }) }

/-- DV_HEALTH as a reset leaves it: what the cells and the first area say. -/
def Manager.healthNow (m : Manager) : BitVec 32 :=
  (if m.obj Obj.ENG_CELLS < 64 then 1#32 else 0) ||| (if m.obj Obj.ENG_CELLS < 48 then 2#32 else 0) |||
  (if m.dev.log.pending ≤ m.dev.log.first.length then 0x20#32 else 0)

/-- The host side keeps its registers, slots, descriptors and mailboxes through a reset of the field side; the barrier is down
(R395, R530). Mailboxes take any alive counter next (R385). -/
def HostSide.afterReset (h : HostSide) : HostSide :=
  { h with
    barrier := false
    lanes := 32
    syncs := []
    held := []
    proxied := []
    mailboxes := h.mailboxes.map (fun b => (b.1, { b.2 with alive := none })) }

/-- The barrier goes down; LINK is raised where it was up (R391, R395). -/
def Manager.dropBarrier (m : Manager) : Manager :=
  if m.host.barrier then ({ m with host := { m.host with barrier := false } }).raiseInt 0 7 else m

/-- The field side of a module resets: what NVM holds stays, everything else takes its reset value; the straps stay as read at the
start, and with them the NID (R26, R529). [DESIGN CHOICE, log 73] -/
def Manager.resetModule (m : Manager) (cause : Nat) : Manager :=
  let m := m.dropBarrier
  let d := m.dev
  let objs := mapKeep d.objs keptObjs
  let dev : Dev := { key := d.key, free := d.free, objs := objs, time := d.time, out := d.out, log := d.log.afterReset
                     fw := d.fw, nextFw := d.nextFw, fwVers := d.fwVers, floor := floorOf (d.obj Obj.SC_FUSES), resets := d.resets + 1, since := d.time
                     net := { stored := mapKeep objs storedObjs, nid := 0x3FF00 + m.pwr.straps.1 % 16 } }
  let n : Manager :=
    { dev := dev.setObj Obj.DV_RESET_CAUSE cause
      eng := m.eng.afterReset
      host := m.host.afterReset
      sec := { owner := m.sec.owner, rotated := m.sec.rotated, salts := m.sec.salts }
      pwr := { opened := m.pwr.opened, off := m.pwr.off, tripped := m.pwr.tripped, portsHeld := m.pwr.portsHeld, straps := m.pwr.straps } }
  let n := n.setObj Obj.SP_IDE_STATE (m.obj Obj.SP_IDE_STATE)
  n.onDev (fun d => { d with health := n.healthNow })

/-! ## Start (Table: Module start) -/

/-- The module leaves service as it starts. -/
def Manager.outAtStart (m : Manager) : Manager :=
  { (m.setObj Obj.RD_STATE 8) with red := { m.red with outOfService := true } }

/-- Step 2: the firmware slot that runs; where neither verifies, the module is out of service with its ports off (R431). -/
def Manager.bootSlot (m : Manager) (i : StartIn) : Manager :=
  let slot := m.dev.nextFw.getD m.dev.fw
  let run := if i.slotOk then slot else 1 - slot
  let m := m.onDev (fun d => { d with fw := run, nextFw := if i.slotOk then none else some slot })
  let m := m.setObj Obj.BT_SLOT run
  if i.slotOk then m
  else if i.otherOk then (m.setObj Obj.BT_FALLBACK 1).event 0x303 0
  else let m := m.outAtStart
       { m with pwr := { m.pwr with noBoot := true } }

/-- Step 3: the stacks train, from saved settings where those hold and have not been discarded (R432). -/
def Manager.trainStacks (m : Manager) (i : StartIn) : Manager :=
  let saved := if m.obj Obj.BT_FRESH = 1 then 0 else i.saved % 16
  let m := ((m.setObj Obj.BT_STACK_SAVED saved).setObj Obj.BT_STACK_MS i.trainMs).setObj Obj.BT_FRESH 0
  if i.stacksOk then m else m.outAtStart

/-- Step 4: the interleave key is drawn (R168) and the page keys are derived (R460). -/
def Manager.stackKeys (m : Manager) : Manager :=
  let k := m.dev.openNat % 2 ^ 128
  ((m.onDev Dev.drawn).onStk (fun x => { x with key := k })).derivePageKeys

/-- The triad slot the straps give, and the peers. The leader at boot is the lowest slot; a module that joins a running triad
resynchronises from its leader, and one whose firmware digests differ stays out of service (R287, R290, R303). -/
def Manager.joinTriad (m : Manager) (i : StartIn) : Manager :=
  let slot := m.pwr.straps.2
  if 3 ≤ slot then m.setObj Obj.RD_STATE 1
  else
    let peers := i.peers.filter (fun p => decide (p.1 < 3) && p.1 != slot)
    let m := m.onRed (fun r => { r with slot := some slot, trio := peers })
    if !i.joins && !peers.isEmpty then (m.onDev Dev.eventOpen).outAtStart
    else
      let slots := insNat (peers.map (fun p => p.1)) slot
      match i.running with
      | some k =>
        let m := ((m.setObj Obj.RD_STATE 6).setObj Obj.TR_RESYNC 1).setObj Obj.TR_LEADER k
        let others := peers.map (fun p => p.1)
        (m.setObj Obj.TR_MEMBERS (bitmapOf others)).onRed (fun r => { r with peersIn := others, resync := some k })
      | none =>
        let m := ((m.setObj Obj.RD_STATE 1).setObj Obj.TR_LEADER (slots.headD slot)).setObj Obj.TR_MEMBERS (bitmapOf slots)
        m.onRed (fun r => { r with peersIn := slots.filter (fun k => k != slot), found := i.highest })

/-- Step 5: the field ports train; while the reference is lost they stay stopped (R521). -/
def Manager.trainPorts (m : Manager) (i : StartIn) : Manager :=
  let ports := if m.pwr.portsHeld then [] else trained i.ports
  m.onDev (fun d => { d with net := { d.net with ports := ports } })

/-- The module starts: it ends listening (step 6), resynchronising or out of service. -/
def Manager.startModule (m : Manager) (i : StartIn) : Manager :=
  let m := (m.bootSlot i)
  if m.pwr.noBoot then m
  else
    let m := m.trainStacks i
    if m.red.outOfService then m else (m.stackKeys.joinTriad i).trainPorts i

/-- MODULE_START: the 54 V input enters its range; local time starts, the straps are read (R529) and the module runs its start
sequence. One whose hot-swap stage does not conduct does not start (R528). [DESIGN CHOICE, log 11; DESIGN CHOICE, log 73] -/
def execModuleStart (start : StartIn) (s : State) : Out :=
  let m := s.mgr
  if m.pwr.opened ∨ m.pwr.tripped then .next s
  else
    let m := ({ m with pwr := { m.pwr with straps := (start.pos, start.slot) } } : Manager).resetModule 0
    let m := { m with pwr := { m.pwr with off := false, portsHeld := false } }
    let m := m.onDev (fun d => { d with time := 0, since := 0 })
    .next { s with mgr := m.startModule start }

/-- DV_RESET: 0x5A resets the module; at one that is active or taking over it is answered STATE (R364). -/
def execDvReset (req : Req) (value : Nat) (start : StartIn) (s : State) : Out :=
  let m := s.mgr
  let st := m.obj Obj.RD_STATE
  let reach := m.gateReach req Obj.DV_RESET true value
  let state := m.gateState req Obj.DV_RESET true
  if reach ≠ 0 then .next { s with mgr := m.answer req reach }
  else if state ≠ 0 ∨ st = 2 ∨ st = 5 then .next { s with mgr := m.answer req 0x0009 }
  else if value ≠ 0x5A then .next { s with mgr := m.answer req 0x0007 }
  else .next { s with mgr := ((m.answer req 0).resetModule 2).startModule start }

end Sys2Proof.Machine
end

