-- ==== Sys2Proof/Machine/TelOps.lean ====
section
/-! DEFINITION. Sys2Proof/Machine/TelOps.lean: telemetry at a manager: the rings, the view of a context, the records the manager
makes, and agents' periods (chapter "Event recorder", section "Telemetry"). -/

namespace Sys2Proof.Machine

/-! ## The rings (R503) -/

/-- Bytes a stored record takes as TS_READ returns it (R504). -/
def TlStored.size (x : TlStored) : Nat := 32 + 8 * x.r.words.length

/-- The space of the eight groups' rings, TL_RING_MIB together: no rule divides it among the groups. -/
def ringShares (dev : Nat) : List Nat :=
  let r := (upTo 7).foldl (fun (p : List Nat × Nat) g =>
    let v := Config.ident dev (Obj.TL_RING_MIB * 1024 + g) % (p.2 + 1)
    (p.1 ++ [v], p.2 - v)) ([], 4096 * 2 ^ 20)
  r.1 ++ [r.2]

/-- The space of a group's ring. [DEDUCED, log 74] -/
def Manager.ringBytes (m : Manager) (g : Nat) : Nat := (ringShares m.dev.key).getD g 0

/-- Drops the oldest records until the rest fits: what is kept, and what is dropped. -/
def ringTrim (cap total : Nat) : List TlStored → List TlStored × List TlStored
  | [] => ([], [])
  | x :: rest =>
    if total ≤ cap then (x :: rest, [])
    else
      let t := ringTrim cap (total - x.size) rest
      (t.1, x :: t.2)

/-- A record is stored with its stamps; in a full ring the oldest are overwritten (R503). [DEDUCED, log 74] -/
def Manager.storeTel (m : Manager) (time : Nat) (r : TlRec) : Manager :=
  let ring := mapGetD m.tl.rings r.group [] ++ [{ seq := m.tl.next, took := m.dev.time, time := time, r := r }]
  let t := ringTrim (m.ringBytes r.group) (ring.foldl (fun n x => n + x.size) 0) ring
  let gone := t.2.map (fun x => { x with r := { x.r with words := [] } })
  ({ m with tl := { m.tl with next := (m.tl.next + 1) % 2 ^ 48, rings := mapSet m.tl.rings r.group t.1, gone := m.tl.gone ++ gone } }).bumpBy
    Obj.TL_LOST t.2.length

/-- Every stored record, in sequence order. -/
def MgrTel.all (t : MgrTel) : SMap TlStored := t.rings.foldl (fun a g => g.2.foldl (fun (a : SMap TlStored) x => mapSet a x.seq x) a) []

/-! ## The view of a context (R500, R504) -/

/-- The groups a context other than 0 may subscribe to. -/
def tenantGroups : List Nat := [0, 3, 4, 5, 7]

/-- The subscriptions of a context as TS_SUBSCRIBE writes them: bits it may not set read 0 (R500). -/
def maskSubscribe (c : Nat) (data : List Byte) : BitVec 1024 :=
  let v : BitVec 1024 := BitVec.ofNat 1024 (leNat data)
  if c = 0 then v else tenantGroups.foldl (fun a g => if v.getLsbD g then a ||| (1#1024 <<< g) else a) 0

/-- The link index of a group 0 record. -/
def telLink (r : TlRec) : Nat := (r.nid - 0x20000) * 128 + r.first

/-- A record shows to a context whose used links and members are given (Table: Tenant view). -/
def Manager.tsShows (m : Manager) (c : Nat) (used mem : List Nat) (r : TlRec) : Bool :=
  (m.ctx c).subscribe.getLsbD r.group &&
  (c == 0 ||
   (if r.group = 0 then used.contains (telLink r)
    else if r.group = 3 ∨ r.group = 7 then r.ctx == c
    else if r.group = 4 ∨ r.group = 5 then r.ctx == c && mem.contains r.nid
    else false))

/-- A record as TS_READ returns it: prefix, record header and words; a tenant sees bins in group 0 (R238, R504). -/
def TlStored.bytes (x : TlStored) (c : Nat) : List Byte :=
  let words := if c ≠ 0 ∧ x.r.group = 0 then x.r.words.map loadBin else x.r.words
  leBytes 8 x.seq ++ leBytes 8 x.took ++ leBytes 8 x.time ++
  leBytes 8 (x.r.group * 2 ^ 54 + x.r.ctx * 2 ^ 42 + x.r.nid * 2 ^ 24 + x.r.first * 2 ^ 14 + words.length) ++ words.flatMap (leBytes 8)

/-- Records from the first on, whole, up to a number of bytes. -/
def fillTel : Nat → List TlStored → List TlStored
  | _, [] => []
  | room, x :: rest => if x.size ≤ room then x :: fillTel (room - x.size) rest else []

/-- The last of the one-second instants of a context's own phase. The phase is open. [DESIGN CHOICE, log 98] -/
def Manager.phaseInstant (m : Manager) (c : Nat) : Nat :=
  let phase := Config.ident m.dev.key (Obj.TS_READ * 4096 + c) % 1000000000
  m.dev.time - (m.dev.time + (1000000000 - phase)) % 1000000000

/-- In CONFIDENTIAL mode a tenant's telemetry is delivered at the instants of its phase (R239). -/
def Manager.tsDelivered (m : Manager) (fn c : Nat) (x : TlStored) : Bool := !m.confidential || fn == 0 || Nat.ble x.took (m.phaseInstant c)

/-- A read of TS_READ through a function for a context: the cursor passes the last record returned, and overwritten records
before it count as lost (R504). -/
def Manager.tsRead (m : Manager) (fn c : Nat) : Manager × List Byte :=
  let ck := fnKey (ctxKey Obj.TS_CURSOR c) fn
  let cur := m.obj ck
  let used := if c = 0 then [] else m.usedLinks c
  let mem := if c = 0 then [] else m.membersOf c
  let list := ((m.tl.all.map (fun e => e.2)).filter (fun x => Nat.ble cur x.seq && m.tsShows c used mem x.r && m.tsDelivered fn c x))
  let out := fillTel (max 256 (m.obj (ctxKey Obj.TS_MAX c))) list
  let last : Nat := match out.getLast? with | some x => x.seq + 1 | none => cur
  let lost := (m.tl.gone.filter (fun x => Nat.ble cur x.seq && decide (x.seq < last) && m.tsShows c used mem x.r)).length
  ((m.bumpBy (ctxKey Obj.TS_LOST c) lost).setObj ck last, out.flatMap (fun x => x.bytes c))

/-! ## Records of agents and of the manager (R501-R503) -/

/-- The NID of a record that no rule gives one. -/
def Manager.ownNid (m : Manager) (g : Nat) : Nat := Config.ident m.dev.key (Obj.TL_FRAMES * 1024 + g) % 2 ^ 18

/-- The last value stored of a count of a switch, with the agent's time. -/
def MgrTel.lastOf (t : MgrTel) (g nid k : Nat) : Option (Nat × Nat) :=
  ((mapGetD t.rings g []).filter (fun x => x.r.nid == nid && Nat.ble x.r.first k && decide (k < x.r.first + x.r.words.length))).getLast?.map
    (fun x => (x.r.words.getD (k - x.r.first) 0, x.time))

/-- The change of a cumulative count since the value stored last, and the time it took in ns (R501). -/
def MgrTel.delta (t : MgrTel) (g nid k v time : Nat) : Option (Nat × Nat) :=
  (t.lastOf g nid k).map (fun p => ((v + 2 ^ 64 - p.1) % 2 ^ 64, time - p.2))

/-- A table of measures with those of a record put in: `at_` is the key of its first value, `f` makes the measure of a change
and the time it took. -/
def MgrTel.put (x : MgrTel) (time : Nat) (r : TlRec) (at_ : Nat) (f : Nat → Nat → Nat) (t : SMap Nat) : SMap Nat :=
  r.words.zipIdx.foldl (fun (t : SMap Nat) w =>
    match x.delta r.group r.nid (r.first + w.2) w.1 time with
    | some d => mapSet t (at_ + w.2) (f d.1 d.2)
    | none => t) t

/-- What the records of groups 1 and 2 say of the last period: bytes by port and the period's length, Mb/s by destination block
(R156, R162). [DEDUCED, log 74] -/
def Manager.measure (m : Manager) (time : Nat) (r : TlRec) : Manager :=
  let sw := r.nid % 8192
  let bytes : Nat → Nat → Nat := fun v _ => v
  let rate : Nat → Nat → Nat := fun v ns => v * 8000 / max 1 ns
  let ns := fun (_ v : Nat) => v
  if r.group = 1 then { m with rt := { m.rt with
    tx := m.tl.put time r (sw * 128 + r.first) bytes m.rt.tx
    txNs := m.tl.put time { r with words := r.words.take 1 } sw ns m.rt.txNs } }
  else if r.group = 2 then { m with rt := { m.rt with rx := m.tl.put time r (sw * 512 + r.first) rate m.rt.rx } }
  else m

def telFrame : FrameKind := { cls := .telemetry, claim := false }

/-- TELEMETRY: an agent's frame: its records are measured and stored (R501-R503). -/
def execTelemetry (hdr : Hdr) (time period : Nat) (last : Bool) (recs : List TlRec) (s : State) : Out :=
  let t := s.mgr.dev.ingress telFrame hdr s.mgr.genOf
  let m : Manager := { s.mgr with dev := t.dev }
  if !t.ok then .next { s with mgr := m }
  else
    let m := (m.entry (.telemetry hdr time period last recs)).bump Obj.TL_FRAMES
    .next { s with mgr := recs.foldl (fun m r => (m.measure time r).storeTel time r) m }

/-- The contexts of which a period's engine record is made: those with a run, or whose counters advanced. -/
def Manager.periodCtxs (m : Manager) : List Nat :=
  let known := m.eng.runs.map (fun r => r.1) ++ m.red.runs ++ m.tl.carry.map (fun c => c.1) ++ m.tl.base.map (fun c => c.1)
  (sortNat known).filter (fun c => (mapGet m.eng.runs c).isSome || m.red.runs.contains c || m.engineCounts c != (0, 0, 0))

/-- The manager's records of group 0: the load of each UP link of the committed impression, a record each (R503). -/
def Manager.loadRecords (m : Manager) : List TlRec :=
  (m.rt.pSnap.filter (fun e => linkUp e.2)).map (fun e =>
    { group := 0, ctx := 0, nid := 0x20000 + e.1 / 128, first := e.1 % 128, words := [(linkOf m.fab.links e.1).load] })

/-- The manager's record of group 3 of a context: the engine's counts of the period; the next period counts from here (R503). -/
def Manager.storeEngine (m : Manager) (c : Nat) : Manager :=
  let k := m.engineCounts c
  let m := m.storeTel 0 { group := 3, ctx := c, nid := m.ownNid 3, first := 0, words := [k.1, k.2.1, k.2.2] }
  let now := (m.obj (ctxKey Obj.LP_TILES c), m.obj (ctxKey Obj.LP_SPILL c), m.obj (ctxKey Obj.LP_RETRY c))
  { m with tl := { m.tl with carry := mapDel m.tl.carry c, base := mapSet m.tl.base c now } }

/-- TELEMETRY_MANAGER_PERIOD: the manager adds the loads of the committed impression's UP links, a record each, and the
engine's counts of each context with a run (R503). -/
def execTelemetryManagerPeriod (s : State) : Out :=
  let m := s.mgr.entry .telemetryManagerPeriod
  let m := m.loadRecords.foldl (fun m r => m.storeTel 0 r) m
  .next { s with mgr := m.periodCtxs.foldl Manager.storeEngine m }

/-- A MARK of a context is stored at the sequence number the manager has reached (R503). -/
def Manager.markTel (m : Manager) (c v : Nat) : Manager :=
  m.storeTel 0 { group := 7, ctx := c, nid := m.ownNid 7, first := 0, words := [v] }

/-! ## Subsampling (R505) -/

/-- The agents' period takes a value: TL_FACTOR follows, and every agent is told (R338). [DEDUCED, log 74] -/
def Manager.setPeriod (m : Manager) (p : Nat) : Manager :=
  if p = m.tl.present then m
  else
    let m := ({ m with tl := { m.tl with present := p } }).setObj Obj.TL_FACTOR (p / max 1 (m.obj Obj.TL_PERIOD_MS))
    (m.fab.nodes.map (fun n => n.1)).foldl (fun m n => m.deliver n [(Obj.AP_TL_PERIOD_MS, p)]) m

/-- SUBSAMPLE_WINDOW: a 1 s window of the manager ends. `full`: the TELEMETRY ingress queue stood above 75 % of its depth. [DEDUCED, log 74] -/
def execSubsampleWindow (full : Bool) (s : State) : Out :=
  let m := s.mgr
  if !m.active || !m.leads then .next s
  else
    let drops := mapGetD m.dev.net.dropClass 5 0
    let loss := full || (!m.dev.net.replay && drops != m.tl.drops)
    let m := m.entry (.subsampleWindow loss)
    let calm := if loss then 0 else m.tl.calm + 1
    let relax := Nat.ble (max 1 (m.obj Obj.TL_RELAX)) calm
    let m := { m with tl := { m.tl with drops := drops, calm := if relax then 0 else calm } }
    let low := m.obj Obj.TL_PERIOD_MS
    .next { s with mgr :=
      if loss then m.setPeriod (max m.tl.present (min (2 * m.tl.present) (m.obj Obj.TL_PERIOD_MAX_MS)))
      else if relax then m.setPeriod (max low (m.tl.present / 2)) else m }

end Sys2Proof.Machine
end

