-- ==== Sys2Proof/Machine/SecOps.lean ====
section
/-! DEFINITION. Sys2Proof/Machine/SecOps.lean: modes, debug levels, tokens, rotations and reports of a manager module (chapter
"Security, attestation and debug"). -/

namespace Sys2Proof.Machine

/-- Changes what the RTP keeps. -/
def Manager.onSec (m : Manager) (f : Security → Security) : Manager := { m with sec := f m.sec }

/-- RD_STATE is ACTIVE or TAKING_OVER. -/
def Manager.managing (m : Manager) : Bool := m.obj Obj.RD_STATE == 2 || m.obj Obj.RD_STATE == 5

/-! ## Nonces (R467) -/

/-- A read of SC_NONCE: a new nonce, which voids the one before. [DESIGN CHOICE, log 7] -/
def Manager.drawNonce (m : Manager) : Manager × List Byte :=
  let v := leBytes 32 m.dev.openNat
  ((m.onDev Dev.drawn).onSec (fun x => { x with nonce := some (v, m.dev.time) }), v)

/-- The nonce a token may carry, while it is valid: at most 300 s. -/
def Manager.nonceNow (m : Manager) : Option (List Byte) :=
  match m.sec.nonce with
  | some (v, t) => if m.dev.time < t + 300 * 1000000000 then some v else none
  | none => none

/-! ## Page-key rotation (R479, R480) -/

/-- A rotation starts: a salt is drawn, the key of the next epoch is derived into the slot not in use, and writes use that slot
from now on (steps 1 and 2); while a sweep runs, or no salt can be drawn, it waits. -/
def Manager.rotate (m : Manager) : Manager :=
  if m.sec.sweep || m.sec.noRng then m.onSec (fun x => { x with due := true })
  else
    let salt := m.dev.openNat % 2 ^ 256
    let m := ((m.onDev Dev.drawn).setObj Obj.PK_EPOCH ((m.obj Obj.PK_EPOCH + 1) % 2 ^ 32)).onSec (fun x =>
      { x with sweep := true, rotated := m.dev.time, due := false, salts := [salt, x.salts.getD 0 0] })
    let key := m.pageKey salt (m.obj Obj.PK_EPOCH)
    m.onStk (fun k => { k with
      slots := if k.slot = 0 then [k.slots.getD 0 none, some key] else [some key, k.slots.getD 1 none]
      slot := 1 - k.slot, turned := [] })

/-- The sweeps have ended: every page has the bit of the slot in use, and the other slot is erased (step 5). -/
def Manager.sweepEnd (m : Manager) : Manager :=
  (m.onSec (fun x => { x with sweep := false })).onStk (fun k => { k with
    slots := if k.slot = 0 then [k.slots.getD 0 none, none] else [none, k.slots.getD 1 none]
    base := k.slot, turned := [] })

/-! ## Debug levels (R464, R470) -/

/-- The level is raised until a time; none: with no end. -/
def Manager.raiseLevel (m : Manager) (l : Nat) (end_ : Option Nat) : Manager :=
  let m := (m.setObj Obj.SC_DEBUG l).setObj Obj.SC_DEBUG_MAX (max l (m.obj Obj.SC_DEBUG_MAX))
  (m.onSec (fun x => { x with until_ := end_ })).event 0x301 0

/-- The level returns to NONE; from INVASIVE the module resets, since its memory may have been altered. -/
def Manager.lowerLevel (m : Manager) (start : StartIn) : Manager :=
  let was := m.obj Obj.SC_DEBUG
  let m := (m.setObj Obj.SC_DEBUG 0).onSec (fun x => { x with until_ := none })
  if was = 2 then (m.resetModule 4).startModule start else m

/-! ## Modes (R464, R470, R473) -/

/-- Every cell's SRAM is erased. -/
def Manager.eraseSram (m : Manager) : Manager :=
  m.onEng (fun e => { e with failing := [], mem := e.mem.filter (fun c => decide (c.1 < 2 ^ 63)) })

/-- No context other than 0 is outside FREE. -/
def Manager.allFree (m : Manager) : Bool := m.sl.ctxs.all (fun e => e.1 == 0 || decide (e.2.st = .free))

/-- Every key offered to an agent is revoked: the manager's association with it ends, the groups it belongs to are given new
keys, and its node is absent until it resets (R473). [DEDUCED, log 76] -/
def Manager.expel (m : Manager) (nid : Nat) : Manager :=
  let n := m.node nid
  let groups := [0xE000, 0xE001, 0xE002, 0xE004] ++ n.groupsHeld
  let held := groups.filter (fun g => (m.groupMembers g).contains nid && (mapGet m.dev.net.tx (peerKey nidAll g)).isSome)
  let m := { m with fab := { m.fab with nodes := mapDel m.fab.nodes nid, offers := m.fab.offers.filter (fun o => o.nid != nid && o.peer != nid) } }
  let m := m.onDev (fun d => { d with net := { d.net with
    keys := mapFilter d.net.keys (fun k _ => k / 2 / 65536 != nid)
    windows := mapFilter d.net.windows (fun k _ => k / 2 / 65536 != nid)
    tx := mapFilter d.net.tx (fun k _ => k / 65536 != nid) } })
  let m := (m.onDisc (fun x => { x with ended := insNat x.ended n.die })).setObj Obj.DS_ATTESTED m.fab.nodes.length
  let m := (sortNat held).foldl (fun m g => m.renew nidAll g) m
  m.openWindow

/-- A mode is entered with every tenant context FREE (R470): cell SRAM is erased and a rotation starts; on entry to CONFIDENTIAL
context 0's lines end first, and a running computation starts again without a window. [DEDUCED, log 76] -/
def Manager.enterMode (m : Manager) (mode : Nat) (start : StartIn) : Manager :=
  let m := (m.setObj Obj.SC_MODE mode).event 0x300 0
  let m := if mode = 2 then m.endAllLines 0 5 else m
  let m := m.eraseSram
  let m := if mode = 2 ∧ m.rt.comp.isSome then m.dropComp.wantNow.impState else m
  let m := m.rotate
  let m := if mode = 2 then (m.fab.nodes.filter (fun n => n.2.debug != 0)).foldl (fun m n => m.expel n.1) m else m
  m.lowerLevel start

/-- An owner is installed: the digest of the modulus is fused into the next slot, and the module resets. -/
def Manager.provision (m : Manager) (start : StartIn) : Manager :=
  let used := bitsOf (m.obj Obj.SC_FUSES) 31 28
  let rest := m.obj Obj.SC_FUSES % 2 ^ 26
  let owner := sha256 (m.dev.blob Obj.SC_OWNER)
  let m := (m.setObj Obj.SC_FUSES ((used + 1) * 2 ^ 28 + used * 2 ^ 26 + rest)).setObj Obj.SC_MODE 1
  let m := (m.onSec (fun x => { x with owner := some owner })).event 0x300 0
  (m.resetModule 4).startModule start

/-- The owner is revoked: salts, saved settings, both recorder areas and everything module NVM kept under its key go, and the module
resets. -/
def Manager.decommission (m : Manager) (start : StartIn) : Manager :=
  let m := ((m.setObj Obj.SC_MODE 0).setObj Obj.BT_FRESH 1).onSec (fun x => { x with owner := none, salts := [0, 0] })
  let m := m.event 0x300 0
  let m := m.onDev (fun d => { d with log := { d.log with first := [], ring := [] } })
  (m.resetModule 4).startModule start

/-! ## Owner tokens (R466, R468) -/

/-- Bytes of a token. -/
def tokenForm (t : List Byte) : Bool :=
  let kind := fieldAt t 1 1
  let level := fieldAt t 2 1
  let dur := fieldAt t 4 4
  t.length == 512 && fieldAt t 0 1 == 1 && Nat.ble 1 kind && Nat.ble kind 5 && fieldAt t 3 1 == 0 && fieldAt t 0x50 48 == 0 &&
  (if kind = 1 then level == 1 || level == 2 else if kind = 5 then level == 2 else level == 0) &&
  (if kind = 1 ∨ kind = 5 then Nat.ble 1 dur && Nat.ble dur 86400 else dur == 0)

/-- The digest a token's OWNER_HASH is compared with. -/
def Manager.ownerHash (m : Manager) : Nat := match m.sec.owner with | some d => d.toNat | none => 0

/-- The attested agent on a die. -/
def Manager.nidOfDie (m : Manager) (die : Nat) : Option Nat := (m.fab.nodes.find? (fun n => n.2.die == die)).map (fun n => n.1)

/-- ID_DIE_ID of the module. [DESIGN CHOICE, log 5] -/
def Manager.dieId (m : Manager) : Nat := Config.ident m.dev.key Obj.ID_DIE_ID % 2 ^ 64

/-- The first check of a token that fails, or 0; `sigOk` says that the signature verifies. -/
def Manager.checkToken (m : Manager) (sigOk : Bool) : Nat :=
  let t := m.dev.blob Obj.SC_TOKEN
  let kind := fieldAt t 1 1
  let die := fieldAt t 8 8
  let mode := m.obj Obj.SC_MODE
  let modeOk := if kind = 1 ∨ kind = 2 then mode == 1 else if kind = 3 then mode == 2 else if kind = 4 then mode == 1 || mode == 2
                else mode != 2
  let stateOk := if kind = 1 then m.obj Obj.SC_DEBUG == 0 && !(fieldAt t 2 1 == 2 && m.managing)
                 else if kind = 4 then !m.managing else if kind = 5 then true else m.allFree
  if !tokenForm t then 1
  else if (if kind = 5 then (m.nidOfDie die).isNone else die != m.dieId) then 2
  else if fieldAt t 0x30 32 ≠ m.ownerHash then 3
  else if !(sigOk && m.sec.owner.isSome) then 4
  else if m.nonceNow ≠ some ((t.drop 0x10).take 32) then 5
  else if !modeOk then 6
  else if !stateOk then 7
  else 0

/-- A grant goes to an agent: a write of SC_GRANT of the manager's own (R472). -/
def Manager.grantAgent (m : Manager) (die dur : Nat) : Manager :=
  match m.nidOfDie die with
  | none => m
  | some nid =>
    let m := { m with rcv := { m.rcv with delivering := mapUpd m.rcv.delivering nid 0 (fun n => n + 1) } }
    m.cmdAgent nid (.scGrant 0 die dur (m.node nid).committed)

/-- SC_APPLY: the token is checked, and one that passes consumes its nonce and takes effect. -/
def Manager.applyToken (m : Manager) (sigOk : Bool) (start : StartIn) : Manager :=
  let code := m.checkToken sigOk
  let m := m.setObj Obj.SC_RESULT code
  if code ≠ 0 then m
  else
    let t := m.dev.blob Obj.SC_TOKEN
    let m := m.onSec (fun x => { x with nonce := none })
    let kind := fieldAt t 1 1
    if kind = 1 then m.raiseLevel (fieldAt t 2 1) (some (m.dev.time + fieldAt t 4 4 * 1000000000))
    else if kind = 2 then m.enterMode 2 start
    else if kind = 3 then m.enterMode 1 start
    else if kind = 4 then m.decommission start
    else m.grantAgent (fieldAt t 8 8) (fieldAt t 4 4)

/-! ## The attestation report (R474-R476) -/

/-- The record of a context in the report. -/
def Manager.attestRecord (m : Manager) (c : Nat) : List Byte :=
  let x := m.ctx c
  let eps := m.membersOf c
  leBytes 2 c ++ leBytes 1 x.gen ++ leBytes 1 ((if x.sealed_ then 16 else 0) + x.st.code) ++ leBytes 4 eps.length ++
  leBytes 32 (sha256 (leBytes 16384 (bitmapOf eps))).toNat

/-- The contexts outside FREE, rising. -/
def Manager.liveCtxs (m : Manager) : List Nat := sortNat (0 :: (m.sl.ctxs.filter (fun e => decide (e.2.st ≠ .free))).map (fun e => e.1))

/-- The agent-version records: 16 at most, the last counting every further version. -/
def Manager.versionRecords (m : Manager) : List Byte :=
  let count := m.fab.nodes.foldl (fun (t : SMap Nat) n => mapUpd t n.2.fwVer 0 (fun k => k + 1)) []
  let head := count.take 15
  let tail := count.drop 15
  let more : SMap Nat := match tail with
    | [] => []
    | v :: rest => [(v.1, rest.foldl (fun n x => n + x.2) v.2)]
  (head ++ more).flatMap (fun v => leBytes 8 (v.1 * 2 ^ 32 + v.2))

/-- The report for a context as its function asks for it (`all`: through the physical function): the snapshot's bytes and the
signature. `nonce` is AT_NONCE. [DESIGN CHOICE, log 77] -/
def Manager.report (m : Manager) (all : Bool) (c : Nat) (nonce : List Byte) : List Byte :=
  let every := m.liveCtxs.flatMap m.attestRecord
  let impDigest := if m.obj Obj.IMP_COMMITTED = 0 then 0 else m.inst.committed.digest.toNat
  let own := fun (n : Nat) => m.dev.partDigest n m.dev.fwVer
  let body : ReportBody :=
    { part := 1, die := m.dieId, nonce := nonce, time := m.dev.time, fuses := m.obj Obj.SC_FUSES, owner := m.ownerHash
      state := leBytes 1 (m.obj Obj.SC_MODE) ++ leBytes 1 (m.obj Obj.SC_DEBUG) ++ leBytes 1 (m.obj Obj.SC_DEBUG_MAX) ++
        leBytes 1 (min 2 (mapGetD m.dev.domains 95 0))
      parts := m.dev.partDigest 0 0 ++ m.dev.partDigest 1 0 ++ own 2 ++ own 3 ++ own 4
      claim := m.obj Obj.RD_CLAIM, imp := m.obj Obj.IMP_COMMITTED, imgDig := impDigest, mapDig := (sha256 every).toNat
      vers := m.versionRecords, ctxs := if all then every else m.attestRecord c }
  body.bytes m.dev.openNat

/-- A report is produced for a context. Where AT_NONCE has not been written its place in the report is open. -/
def Manager.makeReport (m : Manager) (fn c : Nat) : Manager :=
  let k := ctxKey Obj.AT_NONCE c
  let own := m.dev.blob k
  let nonce := if own.isEmpty then leBytes 32 m.dev.openNat else own
  let m := if own.isEmpty then m.onDev Dev.drawn else m
  let rep := m.report (fn == 0) c nonce
  let m := (m.onDev Dev.drawn).onDev (fun d => d.setBlob (ctxKey Obj.AT_REPORT c) rep)
  (m.setObj (ctxKey Obj.AT_GO c) 2).bump (ctxKey Obj.AT_SIGNED c)

end Sys2Proof.Machine
end

