-- ==== Sys2Proof/Machine/HostReq.lean ====
section
/-! DEFINITION. Sys2Proof/Machine/HostReq.lean: dictionary requests from the host: slots, domain descriptors, proxied requests and
their replies (chapters "Host attachment, barrier and sync objects" and "The object dictionary"). -/

namespace Sys2Proof.Machine

/-! ## Accesses refused (R376, R373) -/

/-- An access the bridge or the sync island refuses is counted. -/
def Manager.badAccess (m : Manager) : Manager := m.bump Obj.HS_BAD_ACCESS

/-- The bridge sends nothing but heartbeats: CONFIDENTIAL mode without a secure link IDE stream. -/
def Manager.ideBlock (m : Manager) : Bool := m.confidential && m.obj Obj.HL_IDE == 0

/-- A function that serves a context: the physical one, or a bound virtual one. -/
def Manager.bound (m : Manager) (fn : Nat) : Bool := (m.fnCtx fn).isSome

/-- An answer of the barrier's own, at no fixed instant. -/
def Manager.reply (m : Manager) (r : Req) (result : Nat) : Manager :=
  let m := m.performed r
  { m with host := { m.host with answers := m.host.answers ++ [⟨r, result, []⟩] } }

/-! ## Requests (R340, R379, R396) -/

/-- The tag of a descriptor's request. [DESIGN CHOICE, log 49] -/
def descTag (i : Nat) : Nat := 0x10000 + i

/-- The request of a slot. -/
def Manager.slotReq (m : Manager) (fn slot : Nat) : HostReq :=
  let d := mapGetD (m.fnSt fn).slots slot {}
  let len := bitsOf d.len 8 0
  { req := ⟨fn, slot⟩, nid := bitsOf d.req 17 0, key := bitsOf d.addr 23 0, write := bitOf d.req 31, len := len
    data := (d.data ++ List.replicate 256 0).take (min len 256) }

/-- The request of a descriptor; a WRITE's data come from the host's memory. [DESIGN CHOICE, log 49] -/
def Manager.descReq (m : Manager) (fn i : Nat) (data : List Byte) : HostReq :=
  let d := mapGetD (m.fnSt fn).ring i 0
  let len := if bitOf d 309 && Nat.ble (bitsOf d 447 416) 0x10000000 then bitsOf d 447 416 else 0
  { req := ⟨fn, descTag i⟩, nid := bitsOf d 351 334, key := bitsOf d 333 310, write := bitOf d 309, len := len
    data := (data ++ List.replicate len 0).take len }

/-- How many bytes a READ's requester takes (R381, R397). -/
def Manager.roomFor (m : Manager) (r : Req) : Nat :=
  if r.tag < 0x10000 then 256 else bitsOf (mapGetD (m.fnSt r.fn).ring (r.tag - 0x10000) 0) 447 416

/-- Check 7 at the bridge: a slot's WRITE above 256 bytes, a descriptor above 256 MiB. -/
def HostReq.tooLong (h : HostReq) : Bool :=
  if h.req.tag < 0x10000 then h.write && decide (256 < h.len) else decide (0x10000000 < h.len)

/-! ## Proxied requests (R357-R361) -/

/-- Proxied requests of a function that are outstanding. -/
def Manager.outstanding (m : Manager) (fn : Nat) : Nat := (m.host.proxied.filter (fun p => p.req.fn == fn)).length

/-- The limit of a function's outstanding proxied requests. -/
def Manager.proxyLimit (m : Manager) (fn : Nat) : Nat := if fn = 0 then m.obj Obj.DX_PF_MAX else m.obj Obj.DX_VF_MAX

/-- Check 5 for a proxied request (R465): a clear of an agent's first area in CONFIDENTIAL mode, the all-context view of its
events at level NONE. -/
def Manager.proxyForbidden (m : Manager) (h : HostReq) : Bool :=
  (h.key == Obj.EV_CLEAR && h.write && m.confidential && Nat.ble 2 (leNat h.data)) ||
  (h.key == Obj.ER_READ && !h.write && h.req.fn == 0 && m.obj Obj.SC_DEBUG == 0)

/-- The first check the manager makes of a proxied request that fails, or 0. -/
def Manager.proxyResult (m : Manager) (h : HostReq) : Nat :=
  let fn := h.req.fn
  let c := (m.fnCtx fn).getD 0
  if (mapGet m.fab.nodes h.nid).isNone then 0x000B
  else if fn ≠ 0 ∧ !(m.membersOf c).contains h.nid then 0x0006
  else if m.proxyForbidden h then 0x000A
  else if fn ≠ 0 ∧ (m.ctx c).st ≠ .active then 0x0009
  else if m.inTakeover then 0x0010
  else if h.write && !m.active then 0x0009
  else if m.proxyLimit fn ≤ m.outstanding fn then 0x000F
  else 0

/-- The request is outstanding and goes out, at once or when the agent's restart ends; a WRITE is the leader's to send. -/
def Manager.sendProxy (m : Manager) (i : Instr) (h : HostReq) : Manager :=
  let c := (m.fnCtx h.req.fn).getD 0
  let gen := if c = 0 then 0 else (m.ctx c).gen
  if h.write && !m.leads then m.toLeader h.req i
  else
    let num := m.host.proxyNum + 1
    let p : Proxied :=
      { req := h.req, num := num, nid := h.nid, index := h.key / 256, sub := h.key % 256, write := h.write, ctx := c, gen := gen
        unsent := if m.restarts h.nid then some h.data else none }
    let m := { m with host := { m.host with proxyNum := num, proxied := m.host.proxied ++ [p] } }
    if m.restarts h.nid then m else m.sendReq p h.data

/-- An NID that names an endpoint or a switch. -/
def proxyNid (nid : Nat) : Bool := decide (nid < 0x22000)

/-- A proxied request: answered by the manager, or sent. [DEDUCED, log 48] -/
def Manager.proxy (m : Manager) (i : Instr) (h : HostReq) : Manager :=
  if !proxyNid h.nid then m.answer h.req 0x000B
  else
    let res := m.proxyResult h
    if res ≠ 0 then m.answerProxy h.req res else m.sendProxy i h

/-- The bridge answers a request that it may not send; one for an endpoint or a switch counts as a proxied request answered (R363). -/
def Manager.turnAway (m : Manager) (h : HostReq) (result : Nat) : Manager :=
  if proxyNid h.nid then ((m.bump Obj.DX_PROXIED).bump Obj.DX_ERRORS).reply h.req result else m.reply h.req result

/-- A request is accepted at the barrier (R373, R375, R380, R381); the bridge itself answers one that it may not send. A local one
waits for its turn among its function's requests, and is then the row of its object (R342). -/
def Manager.accept (m : Manager) (i : Instr) (h : HostReq) : Manager :=
  if m.ideBlock then m.turnAway h 0x000A
  else if !m.bound h.req.fn then m.turnAway h 0x0006
  else if h.tooLong then m.turnAway h 0x0005
  else if h.nid = m.dev.net.nid then
    let h := { h with mode := m.obj Obj.SC_MODE, level := m.obj Obj.SC_DEBUG }
    { m with host := { m.host with accepted := m.host.accepted ++ [h] } }
  else m.proxy i h

/-- A request is issued: it crosses the barrier, or stays pending while that is down (R395); under the IDE block it does not wait
(R373). -/
def Manager.issue (m : Manager) (i : Instr) (h : HostReq) : Manager :=
  if m.host.barrier || m.ideBlock then m.accept i h else { m with host := { m.host with waiting := m.host.waiting ++ [(h.req, h.data)] } }

/-! ## Slots -/

/-- Changes a slot. -/
def Manager.onSlot (m : Manager) (fn slot : Nat) (f : DictSlot → DictSlot) : Manager :=
  let x := m.fnSt fn
  m.setFn fn { x with slots := mapSet x.slots slot (f (mapGetD x.slots slot {})) }

/-- DW_GO: 1 is written to GO of a slot; `irq` is DW_CTL [1] of the write. -/
def execDwGo (fn slot : Nat) (irq : Bool) (s : State) : Out :=
  let m := s.mgr
  if m.host.perst then .next s
  else if (fn ≠ 0 ∧ 256 ≤ slot) ∨ (mapGetD (m.fnSt fn).slots slot {}).go then .next { s with mgr := m.badAccess }
  else
    let m := m.onSlot fn slot (fun d => { d with go := true, irq := irq })
    .next { s with mgr := m.issue (.dwGo fn slot irq) (m.slotReq fn slot) }

/-- The first answer on its way to a requester. -/
def Manager.takeAnswer (m : Manager) (r : Req) : Option (Answer × Manager) :=
  match m.host.answers.find? (fun a => a.req == r) with
  | none => none
  | some a => some (a, { m with host := { m.host with answers := m.host.answers.erase a } })

/-- TRANSFER is raised at a function that serves a context. -/
def Manager.transferred (m : Manager) (fn : Nat) (irq : Bool) : Manager := if irq && m.bound fn then m.raiseInt fn 5 else m

/-- A slot takes its answer: a value of more than 256 bytes reads as LENGTH with DW_RLEN 0. -/
def DictSlot.fill (d : DictSlot) (a : Answer) : DictSlot :=
  let long := decide (256 < a.data.length)
  let data := if long then [] else a.data
  { d with go := false, result := if long then 0x0005 else a.result, rlen := data.length, data := data ++ d.data.drop data.length }

/-- DICT_REPLY_HOST: a DICT_REPLY reaches the host side; one for a slot with GO clear is discarded. -/
def execDictReplyHost (fn slot : Nat) (s : State) : Out :=
  let m := s.mgr
  if !m.host.barrier then .next s
  else match m.takeAnswer ⟨fn, slot⟩ with
    | none => .next s
    | some (a, m) =>
      let d := mapGetD (m.fnSt fn).slots slot {}
      if !d.go then .next { s with mgr := m }
      else .next { s with mgr := (m.onSlot fn slot (fun d => d.fill a)).transferred fn d.irq }

/-! ## Domain descriptors (R396, R397) -/

/-- DQ_TAIL: the descriptors it covers are issued; one that would leave more than 255 outstanding is ignored and counted. `bufs`
holds, by ring index, the bytes at the host addresses of WRITEs. -/
def execDqTail (fn v : Nat) (bufs : SMap (List Byte)) (s : State) : Out :=
  let m := s.mgr
  let f := m.fnSt fn
  let v := v % 2 ^ 32
  if m.host.perst then .next s
  else if 255 < (v + 2 ^ 32 - f.dqHead) % 2 ^ 32 then .next { s with mgr := m.badAccess }
  else
    let new := if (v + 2 ^ 32 - f.dqHead) % 2 ^ 32 < (f.dqTail + 2 ^ 32 - f.dqHead) % 2 ^ 32 then [] else ringSpan f.dqTail v
    let m := m.setFn fn { f with dqTail := v }
    .next { s with mgr := new.foldl (fun (m : Manager) i => m.issue (.dqTail fn v bufs) (m.descReq fn i (mapGetD bufs i []))) m }

/-- The outcome of a descriptor: its result, its XFER_LEN, and what is written to the host's memory. -/
def descOutcome (d : Nat) (a : Answer) : Nat × Nat × List Byte :=
  let len := bitsOf d 447 416
  if bitOf d 309 then (a.result, if a.result = 0 then len else 0, [])
  else if a.result ≠ 0 then (a.result, 0, [])
  else if len < a.data.length then (0x0005, a.data.length, [])
  else (0, a.data.length, a.data)

/-- DESCRIPTOR_COMPLETE: the descriptor at the head of a function's ring completes: its data are written, then STATUS, XFER_LEN
and DONE. [DESIGN CHOICE, log 49] -/
def execDescriptorComplete (fn : Nat) (s : State) : Out :=
  let m := s.mgr
  let f := m.fnSt fn
  let i := f.dqHead % 256
  if !m.host.barrier ∨ f.dqHead = f.dqTail then .next s
  else match m.takeAnswer ⟨fn, descTag i⟩ with
    | none => .next s
    | some (a, m) =>
      let d := mapGetD f.ring i 0
      let o := descOutcome d a
      let m := m.setFn fn { f with ring := mapSet f.ring i (descDone d o.1 o.2.1), dqHead := (f.dqHead + 1) % 2 ^ 32 }
      let m := if o.2.2.isEmpty then m else { m with host := { m.host with dma := m.host.dma ++ [(bitsOf d 511 448, o.2.2)] } }
      .next { s with mgr := m.transferred fn (bitOf d 308) }

/-! ## Replies of agents (R358, R360) -/

def dictReplyFrame : FrameKind := { cls := .dict, claim := false }

/-- A delivered value is answered; RS_COMMIT reads 0 when every one is (R338, R354). -/
def Manager.delivered (m : Manager) (nid : Nat) : Manager :=
  let n := mapGetD m.rcv.delivering nid 0
  let left := if n ≤ 1 then mapDel m.rcv.delivering nid else mapSet m.rcv.delivering nid (n - 1)
  let m := { m with rcv := { m.rcv with delivering := left } }
  if left.isEmpty then m.setObj Obj.RS_COMMIT 0 else m

/-- A proxied request ends with an answer. -/
def Manager.endProxy (m : Manager) (p : Proxied) (result : Nat) (data : List Byte) : Manager :=
  ({ m with host := { m.host with proxied := m.host.proxied.filter (fun q => q.num != p.num) } }).drainCmds.answerProxy p.req result data

/-- DICT_REPLY: an agent answers a request, or a value the manager delivered (tag 0). A reply of a stale generation is dropped
and its request answered PURGED; one to a request no longer outstanding is discarded. -/
def execDictReply (hdr : Hdr) (tag result : Nat) (data : List Byte) (s : State) : Out :=
  let t := s.mgr.dev.ingress dictReplyFrame hdr s.mgr.genOf
  let stale := decide (t.dev.obj Obj.FC_DROP_GEN ≠ s.mgr.dev.obj Obj.FC_DROP_GEN)
  let m : Manager := { s.mgr with dev := t.dev }
  let mine := m.host.proxied.find? (fun p => p.num == tag && p.nid == hdr.src)
  if !t.ok then
    match mine with
    | some p => .next { s with mgr := if stale then m.endProxy p 0x000E [] else m }
    | none => .next { s with mgr := m }
  else if tag = 0 then .next { s with mgr := (m.entry (.dictReply hdr tag result data))|>.delivered hdr.src |>.drainCmds }
  else match mine with
    | none => .next { s with mgr := m }
    | some p => .next { s with mgr := m.endProxy p result data }

/-- PROXY_TIMEOUT: DX_PROXY_US has passed since a proxied request went out. -/
def execProxyTimeout (num : Nat) (s : State) : Out :=
  match s.mgr.host.proxied.find? (fun p => p.num == num) with
  | none => .next s
  | some p => .next { s with mgr := s.mgr.endProxy p 0x000C [] }

end Sys2Proof.Machine
end

