-- ==== Sys2Proof/Machine/HostSync.lean ====
section
/-! DEFINITION. Sys2Proof/Machine/HostSync.lean: host mailboxes, check-value units, doorbells, interrupts and sync objects as the
host reaches them (chapter "Host attachment, barrier and sync objects"). -/

namespace Sys2Proof.Machine

/-! ## Mailboxes (R382-R385) -/

/-- A mailbox, and a change of it. -/
def Manager.mbox (m : Manager) (b : Nat) : Mailbox := mapGetD m.host.mailboxes b {}
def Manager.onMbox (m : Manager) (b : Nat) (f : Mailbox → Mailbox) : Manager :=
  { m with host := { m.host with mailboxes := mapSet m.host.mailboxes b (f (m.mbox b)) } }

/-- The context in which a mailbox is handled: its owner's; one that no context owns is handled in context 0. -/
def Manager.mboxCtx (m : Manager) (b : Nat) : Nat := (m.mboxOwner b).getD 0

/-- A function may post to a mailbox. -/
def Manager.mayPost (m : Manager) (fn b : Nat) : Bool := fn == 0 || (m.bound fn && m.mboxOwner b == m.fnCtx fn)

/-- The code, length and payload of the message a mailbox holds. -/
def Mailbox.msgCode (x : Mailbox) : Nat := bitsOf x.hdr 23 16
def Mailbox.msgLen (x : Mailbox) : Nat := bitsOf x.hdr 5 0
def Mailbox.payload (x : Mailbox) : List Byte := (x.data ++ List.replicate 56 0).take (min 56 x.msgLen)

/-- The length suits the code (Table: Host mailbox codes). -/
def mboxLenOk (code len : Nat) : Bool :=
  if code = 0 then len == 0 else if code = 1 then Nat.ble len 56 else if code = 2 then Nat.ble 1 len && Nat.ble len 56 else len == 8

/-- The check value of a message under a polynomial code; `open_` stands in under a reserved one. -/
def Mailbox.checkOf (x : Mailbox) (code open_ : Nat) : Nat :=
  if code < 4 then crcOf code (leBytes 4 x.hdr ++ x.payload) else open_

/-- The return code of a posted message (Table: Mailbox return codes). [DEDUCED, log 52] -/
def Mailbox.verdict (x : Mailbox) (crc open_ : Nat) : Nat :=
  if x.checkOf crc open_ ≠ x.chk then 1
  else if (match x.alive with | some k => decide (bitsOf x.hdr 31 24 ≠ (k + 1) % 256) | none => false) then 2
  else if Nat.ble 57 x.msgLen then 4
  else if Nat.ble 4 x.msgCode then 3
  else if !mboxLenOk x.msgCode x.msgLen then 4
  else 0

/-- MB_POST reaches the mailbox island: a message that fails a check is answered, one that passes awaits firmware. -/
def Manager.post (m : Manager) (b : Nat) : Manager :=
  let c := m.mboxCtx b
  let crc := m.obj (ctxKey Obj.MBX_CRC c)
  let v := (m.mbox b).verdict crc (m.dev.openNat % 2 ^ 32)
  let m := if crc < 4 then m else m.onDev Dev.drawn
  if v = 0 then m.onMbox b (fun x => { x with waits := false, posted := true })
  else (m.onMbox b (fun x => { x with waits := false, acks := [none, some v] })).bump (ctxKey Obj.MBX_REJECT c)

/-- Messages held back are posted, where the bridge may send frames (R373, R395). -/
def Manager.postHeld (m : Manager) : Manager :=
  if !m.host.barrier || m.ideBlock then m else (m.host.mailboxes.filter (fun b => b.2.waits)).foldl (fun m b => m.post b.1) m

/-- HOST_MAILBOX_GO: GO is written: TAKEN and DONE clear, and MB_POST is sent, at once or when the barrier comes up. While a
message waits its registers and GO take no write (R328, R384). [DEDUCED, log 52] -/
def execHostMailboxGo (fn box : Nat) (s : State) : Out :=
  let m := s.mgr
  if m.host.perst ∨ m.ideBlock ∨ 64 ≤ box then .next s
  else if !m.mayPost fn box then .next { s with mgr := m.badAccess }
  else if (m.mbox box).go then .next s
  else
    let m := m.onMbox box (fun x => { x with go := true, taken := false, done := false, waits := !m.host.barrier })
    .next { s with mgr := if m.host.barrier then m.post box else m }

/-- Manager firmware runs. -/
def Manager.fwRuns (m : Manager) : Bool := !m.pwr.asleep && !m.pwr.off && !m.pwr.noBoot

/-- Manager firmware takes the message of a mailbox, when it has the code, and answers OK. -/
def Manager.takeMsg (m : Manager) (box code : Nat) (eff : Manager → Nat → List Byte → Manager) : Manager :=
  let x := m.mbox box
  if !x.posted || x.msgCode != code || !m.fwRuns then m
  else
    let c := m.mboxCtx box
    let m := m.onMbox box (fun x => { x with posted := false, alive := some (bitsOf x.hdr 31 24), acks := [none, some 0] })
    eff (m.bump (ctxKey Obj.MBX_DONE c)) c x.payload

/-- MB_DOORBELL: no effect beyond DONE. -/
def execMbDoorbell (box : Nat) (s : State) : Out := .next { s with mgr := s.mgr.takeMsg box 0 (fun m _ _ => m) }

/-- PING: DONE with OK shows that firmware takes messages. -/
def execPing (box : Nat) (s : State) : Out := .next { s with mgr := s.mgr.takeMsg box 1 (fun m _ _ => m) }

/-- A payload filled with zeros to a multiple of 8 bytes, as a record holds it (R483). -/
def padded (bs : List Byte) : List Byte := bs ++ List.replicate ((8 - bs.length % 8) % 8) 0

/-- HOST_LOG: LOG records HOST_LOG with the owning context and the payload. [DEDUCED, log 56] -/
def execHostLog (box : Nat) (s : State) : Out := .next { s with mgr := s.mgr.takeMsg box 2 (fun m c p => m.eventWith 0x380 c (padded p)) }

/-- MARK: the payload becomes a marker of the owning context's telemetry (R503). -/
def execMark (box : Nat) (s : State) : Out := .next { s with mgr := s.mgr.takeMsg box 3 (fun m c p => m.markTel c (leNat p)) }

/-- MB_ACK_HOST: an MB_ACK frame reaches the host side: TAKEN first, then DONE with its code, which raises MAILBOX. -/
def execMbAckHost (box : Nat) (s : State) : Out :=
  let m := s.mgr
  if !m.host.barrier then .next s
  else match (m.mbox box).acks with
    | [] => .next s
    | none :: rest => .next { s with mgr := m.onMbox box (fun x => { x with taken := true, acks := rest }) }
    | some code :: rest =>
      let m := m.onMbox box (fun x => { x with go := false, done := true, code := code, echo := bitsOf x.hdr 31 24, acks := rest })
      .next { s with mgr := m.raiseCtx (m.mboxCtx box) 6 }

/-! ## Doorbells (R388) -/

/-- A function may set and clear a doorbell bit; manager firmware may set and clear any. -/
def Manager.mayRing (m : Manager) (fn bit : Nat) : Bool := fn == fwFn || m.mayPost fn (bit / 4)

/-- The doorbell bits that a write of a quadword names. -/
def quadBits (q v : Nat) : List Nat := ((upTo 64).filter (fun i => bitOf v i)).map (fun i => 64 * q + i)

/-- A write of a quadword of DB_SET or DB_CLEAR; one that names a bit the function does not own is counted. -/
def Manager.ring (m : Manager) (fn q v : Nat) (f : Manager → Nat → Manager) : Manager :=
  let bits := quadBits q v
  let m := if bits.all (fun b => m.mayRing fn b) then m else m.badAccess
  (bits.filter (fun b => m.mayRing fn b)).foldl f m

/-- The host's writes of doorbells reach nothing: the endpoint is in reset, or the bridge sends no DOORBELL frame (R373). [DEDUCED, log 56] -/
def Manager.bellsHeld (m : Manager) (fn : Nat) : Bool := fn != fwFn && (m.host.perst || m.ideBlock)

/-- DB_SET: sets every bit written as 1; each that goes from 0 to 1 raises DOORBELL at its owner's function. [DEDUCED, log 56] -/
def execDbSet (fn q v : Nat) (s : State) : Out :=
  if s.mgr.bellsHeld fn ∨ 4 ≤ q then .next s else .next { s with mgr := s.mgr.ring fn q v Manager.dbSet }

/-- DB_CLEAR: clears every bit written as 1. -/
def execDbClear (fn q v : Nat) (s : State) : Out :=
  if s.mgr.bellsHeld fn ∨ 4 ≤ q then .next s else .next { s with mgr := s.mgr.ring fn q v Manager.dbClear }

/-! ## Interrupts (R390) -/

/-- INT_STATUS_CLEAR: cause bits written as 1 are cleared. -/
def execIntStatusClear (fn v : Nat) (s : State) : Out :=
  let m := s.mgr
  if m.host.perst ∨ !m.bound fn then .next s
  else
    let f := m.fnSt fn
    .next { s with mgr := m.setFn fn { f with intStatus := f.intStatus - (f.intStatus &&& v) } }

/-- INT_MASK_WRITE: clearing the mask of a set cause sends its message. -/
def execIntMaskWrite (fn v : Nat) (s : State) : Out :=
  let m := s.mgr
  if m.host.perst ∨ !m.bound fn then .next s
  else
    let f := m.fnSt fn
    let v := v % 256
    let send := (upTo 8).filter (fun i => bitOf f.intMask i && !bitOf v i && bitOf f.intStatus i)
    .next { s with mgr := send.foldl (fun m i => m.msi fn i) (m.setFn fn { f with intMask := v }) }

/-! ## CRC feed windows (R386, R387) -/

/-- The bytes of a feed, lowest first, enter a window. Under a reserved code the accumulator is open. -/
def Manager.feed (m : Manager) (fn k n v : Nat) : Manager :=
  if m.host.perst || fn != 0 || Nat.ble 4 k then m
  else
    let w := mapGetD m.host.feeds k {}
    let acc := if w.code < 4 then (leBytes n v).foldl (crcFeed w.code) w.acc else m.dev.openNat % 2 ^ 32
    let m := if w.code < 4 then m else m.onDev Dev.drawn
    { m with host := { m.host with feeds := mapSet m.host.feeds k { w with acc := acc } } }

/-- CF_CTL: a polynomial is selected and the computation restarts at its initial value. -/
def execCfCtl (fn k v : Nat) (s : State) : Out :=
  let m := s.mgr
  if m.host.perst ∨ fn ≠ 0 ∨ 4 ≤ k then .next s
  else
    let code := v % 256
    let acc := if code < 4 then crcInit code else m.dev.openNat % 2 ^ 32
    let m := if code < 4 then m else m.onDev Dev.drawn
    .next { s with mgr := { m with host := { m.host with feeds := mapSet m.host.feeds k { code := code, acc := acc } } } }

/-- CF_FEED8, CF_FEED16, CF_FEED32: one, two or four bytes are fed. [DEDUCED, log 52] -/
def execCfFeed8 (fn k v : Nat) (s : State) : Out := .next { s with mgr := s.mgr.feed fn k 1 v }
def execCfFeed16 (fn k v : Nat) (s : State) : Out := .next { s with mgr := s.mgr.feed fn k 2 v }
def execCfFeed32 (fn k v : Nat) (s : State) : Out := .next { s with mgr := s.mgr.feed fn k 4 v }

/-! ## Sync objects (R398-R402) -/

/-- A function reaches a sync object. -/
def Manager.reachesSync (m : Manager) (fn n : Nat) : Bool := fn == 0 || fn == fwFn || (m.bound fn && m.syncOwner n == m.fnCtx fn)

/-- A write of a sync-object register: discarded while the barrier is down, ignored under the IDE block, counted when the
function does not own the object (R373, R376, R395). [DEDUCED, log 54] -/
def Manager.syncWrite (m : Manager) (fn n : Nat) (f : Manager → Manager) : Manager :=
  if Nat.ble 8192 n || (fn != fwFn && (m.host.perst || !m.host.barrier || m.ideBlock)) then m
  else if !m.reachesSync fn n then m.badAccess
  else f (m.bump Obj.SY_OPS)

/-- A value a register read returns. -/
def Manager.returns (m : Manager) (v : Nat) : Manager := { m with host := { m.host with readBack := m.host.readBack ++ [v] } }

/-- A read of a sync-object register, which returns all ones while the barrier is down and zero where the function does not
reach the object. -/
def Manager.syncRead (m : Manager) (fn n : Nat) (f : Manager → Manager) : Manager :=
  if Nat.ble 8192 n || (fn != fwFn && m.host.perst) then m
  else if fn != fwFn && !m.host.barrier then m.returns 0xFFFFFFFF
  else if fn != fwFn && m.ideBlock then m.returns 0
  else if !m.reachesSync fn n then (m.badAccess).returns 0
  else f (m.bump Obj.SY_OPS)

/-- The requester ID of a function at this endpoint. -/
def Manager.ridOf (m : Manager) (fn : Nat) : Nat := requesterId m.host.rid fn

/-- SO_CFG: the object is reset to the initial state of its KIND. -/
def execSoCfg (fn n v : Nat) (s : State) : Out :=
  .next { s with mgr := s.mgr.syncWrite fn n (fun m => m.setSync n (syncInit (v % 2 ^ 32))) }

/-- SO_VALUE_WRITE: sets a COUNTER's value or a SEMAPHORE's count. [DEDUCED, log 54] -/
def execSoValueWrite (fn n v : Nat) (s : State) : Out :=
  .next { s with mgr := s.mgr.syncWrite fn n (fun m =>
    match syncKind (m.sync n).cfg with
    | .counter => m.syncPut n (v % 2 ^ 64)
    | .semaphore => m.syncPut n (v % 2 ^ 32)
    | _ => m) }

/-- SO_OP_COUNTER: adds to a COUNTER, modulo 2^64. -/
def execSoOpCounter (fn n v : Nat) (s : State) : Out :=
  .next { s with mgr := s.mgr.syncWrite fn n (fun m => if syncKind (m.sync n).cfg = .counter then m.syncPut n (((m.sync n).value + v) % 2 ^ 64) else m) }

/-- SO_OP_SEMAPHORE: adds the low 32 bits to a SEMAPHORE's count, saturating. -/
def execSoOpSemaphore (fn n v : Nat) (s : State) : Out :=
  .next { s with mgr := s.mgr.syncWrite fn n (fun m => if syncKind (m.sync n).cfg = .semaphore then m.syncPut n (min ((m.sync n).value + v % 2 ^ 32) 0xFFFFFFFF) else m) }

/-- The lock after its release by a requester, which only the holder may do. -/
def releaseLock (rid : Nat) (o : SyncObj) : SyncObj :=
  if bitOf o.cfg 2 then
    match o.tickets with
    | [] => o
    | t :: _ => if t.rid = rid then advanceTicket o else o
  else if o.holder = some rid then { o with holder := none } else o

/-- SO_OP_LOCK_RELEASE: the holder releases a LOCK, or the served ticket ends and SO_SERVING passes void tickets. -/
def execSoOpLockRelease (fn n : Nat) (s : State) : Out :=
  .next { s with mgr := s.mgr.syncWrite fn n (fun m =>
    let o := m.sync n
    if syncKind o.cfg ≠ .lock then m else
    let o' := releaseLock (m.ridOf fn) o
    let m := m.setSync n o'
    if lockFires o o' then m.fire n else m) }

/-- SO_OP_EVENT_SET, SO_OP_EVENT_CLEAR: an EVENT is set or cleared. -/
def execSoOpEventSet (fn n : Nat) (s : State) : Out :=
  .next { s with mgr := s.mgr.syncWrite fn n (fun m => if syncKind (m.sync n).cfg = .event then m.syncPut n 1 else m) }
def execSoOpEventClear (fn n : Nat) (s : State) : Out :=
  .next { s with mgr := s.mgr.syncWrite fn n (fun m => if syncKind (m.sync n).cfg = .event then m.syncPut n 0 else m) }

/-- SO_TARGET_WRITE: the threshold of a COUNTER. [DEDUCED, log 54] -/
def execSoTargetWrite (fn n v : Nat) (s : State) : Out :=
  .next { s with mgr := s.mgr.syncWrite fn n (fun m => if syncKind (m.sync n).cfg = .counter then m.setSync n { m.sync n with target := v % 2 ^ 64 } else m) }

/-- A read of the ACQ register of an object, which its kind tells apart (Table: Sync object registers). A free plain lock is acquired
and 0 returned, else its holder; in ticket mode all ones. A SEMAPHORE that has any count gives one and returns 1, else 0. On a
COUNTER or EVENT the register reads 0. -/
def Manager.acq (m : Manager) (fn n : Nat) : Manager :=
  let o := m.sync n
  match syncKind o.cfg with
  | .lock =>
    if bitOf o.cfg 2 then m.returns 0xFFFFFFFF
    else match o.holder with
      | none => (m.setSync n { o with holder := some (m.ridOf fn) }).returns 0
      | some h => m.returns (0x10000 + h)
  | .semaphore => if 0 < o.value then (m.setSync n { o with value := o.value - 1 }).returns 1 else m.returns 0
  | _ => m.returns 0

/-- LOCK_ACQ: the register as it is read on a LOCK. -/
def execLockAcq (fn n : Nat) (s : State) : Out := .next { s with mgr := s.mgr.syncRead fn n (fun m => m.acq fn n) }

/-- SEM_ACQ: the register as it is read on a SEMAPHORE. -/
def execSemAcq (fn n : Nat) (s : State) : Out := .next { s with mgr := s.mgr.syncRead fn n (fun m => m.acq fn n) }

/-- LOCK_TICKET: issues the next ticket; all ones with 64 outstanding, and in plain mode. What it returns on an object of
another kind is open. [DEDUCED, log 54] -/
def execLockTicket (fn n : Nat) (s : State) : Out :=
  .next { s with mgr := s.mgr.syncRead fn n (fun m =>
    let o := m.sync n
    if syncKind o.cfg ≠ .lock then (m.onDev Dev.drawn).returns (m.dev.openNat % 2 ^ 32)
    else if !bitOf o.cfg 2 ∨ 64 ≤ o.tickets.length then m.returns 0xFFFFFFFF
    else (m.setSync n { o with tickets := o.tickets ++ [{ num := o.next, rid := m.ridOf fn }], next := (o.next + 1) % 65536 }).returns o.next) }

end Sys2Proof.Machine
end

