-- ==== Sys2Proof/Machine/HostBar.lean ====
section
/-! DEFINITION. Sys2Proof/Machine/HostBar.lean: register writes without a row of their own, the barrier, and resets of the host side
(chapter "Host attachment, barrier and sync objects"; R520, R530). -/

namespace Sys2Proof.Machine

/-! ## Register maps (R376, R377) -/

/-- The n bits of a number from a position on, replaced. -/
def putBits (d pos n v : Nat) : Nat := d - bitsOf d (pos + n - 1) pos * 2 ^ pos + v % 2 ^ n * 2 ^ pos

/-- Bytes written at an offset of a byte list, which is filled with zeros as far as it needs. -/
def putBytes (bs : List Byte) (off : Nat) (new : List Byte) : List Byte :=
  let all := bs ++ List.replicate (off + new.length - bs.length) 0
  all.take off ++ new ++ all.drop (off + new.length)

/-- An aligned access of 1, 2, 4 or 8 bytes. -/
def aligned (off w : Nat) : Bool := [1, 2, 4, 8].contains w && off % w == 0

/-- The width a table of (offset, width) gives the register at an offset; 0: reserved. -/
def widthAt (t : List (Nat × Nat)) (off : Nat) : Nat :=
  match t.find? (fun e => Nat.ble e.1 off && decide (off < e.1 + e.2)) with
  | some e => e.2
  | none => 0

/-- An access has the register's own width and alignment. -/
def fits (t : List (Nat × Nat)) (off w : Nat) : Bool := t.any (fun e => e.1 == off && e.2 == w)

/-- Registers by region (R379, R382, R387, R388, R398, Tables: Host-side registers, Event-recorder window, and BAR2 of R396). -/
def slotRegs : List (Nat × Nat) := [(0x00, 4), (0x04, 4), (0x08, 4), (0x0C, 4), (0x10, 4), (0x14, 4), (0x18, 8)]
def mboxRegs : List (Nat × Nat) := (upTo 18).map (fun i => (4 * i, 4))
def dbRegs : List (Nat × Nat) := [0x00, 0x40, 0x80].flatMap (fun b => (upTo 4).map (fun i => (b + 8 * i, 8)))
def feedRegs : List (Nat × Nat) := [(0x00, 4), (0x08, 1), (0x0C, 2), (0x10, 4), (0x18, 4)]
def hsRegs : List (Nat × Nat) := [(0x00, 4), (0x04, 4), (0x08, 8), (0x10, 8), (0x20, 4), (0x24, 4)]
def syncRegs : List (Nat × Nat) := [(0x00, 4), (0x08, 8), (0x10, 8), (0x18, 8), (0x20, 4), (0x24, 4), (0x28, 4)]
def ewRegs : List (Nat × Nat) := [(0x00, 8), (0x08, 4), (0x10, 8), (0x18, 4), (0x20, 4), (0x24, 4)]
def dqRegs : List (Nat × Nat) := [(0x4000, 4), (0x4004, 4)]

/-- What a write to a register that changes nothing here leaves: another width is counted. -/
def Manager.widthOnly (m : Manager) (t : List (Nat × Nat)) (off w : Nat) : Manager :=
  if widthAt t off = 0 ∨ fits t off w then m else m.badAccess

/-! ## Register writes -/

/-- A register of a slot takes a value; DW_CTL without GO sets IRQ alone. -/
def DictSlot.put (d : DictSlot) (off v : Nat) : DictSlot :=
  if off = 0x00 then (if bitOf v 0 then d else { d with irq := bitOf v 1 })
  else if off = 0x04 then { d with req := v % 2 ^ 32 }
  else if off = 0x08 then { d with addr := v % 2 ^ 32 }
  else if off = 0x0C then { d with len := v % 2 ^ 32 }
  else if off = 0x18 then { d with tag := v % 2 ^ 64 }
  else d

/-- A write to the dictionary window: none has effect while GO is set (R381). -/
def Manager.writeSlot (m : Manager) (fn off w v : Nat) : Manager :=
  let slot := off / 512
  let o := off % 512
  if fn ≠ 0 ∧ 256 ≤ slot then m.badAccess
  else if (mapGetD (m.fnSt fn).slots slot {}).go then m.badAccess
  else if Nat.ble 0x100 o then
    if aligned o w then m.onSlot fn slot (fun d => { d with data := putBytes d.data (o - 0x100) (leBytes w v) }) else m.badAccess
  else if fits slotRegs o w then m.onSlot fn slot (fun d => d.put o v)
  else m.widthOnly slotRegs o w

/-- A write to the mailbox region: a message that waits keeps its registers (R328). -/
def Manager.writeMbox (m : Manager) (fn off w v : Nat) : Manager :=
  let b := off / 0x80
  let o := off % 0x80
  if !m.mayPost fn b then m.badAccess
  else if !fits mboxRegs o w then m.widthOnly mboxRegs o w
  else if m.ideBlock || (m.mbox b).go then m
  else if o = 0x00 then m.onMbox b (fun x => { x with hdr := v % 2 ^ 32 })
  else if o < 0x3C then m.onMbox b (fun x => { x with data := putBytes x.data (o - 4) (leBytes 4 v) })
  else if o = 0x3C then m.onMbox b (fun x => { x with chk := v % 2 ^ 32 })
  else m

/-- One word of the MSI-X table; unmasking a vector that is pending sends its message (R390). -/
def Manager.writeMsix (m : Manager) (fn i v : Nat) : Manager :=
  let f := m.fnSt fn
  let vec := i / 4
  let m := m.setFn fn { f with msix := mapSet f.msix i (v % 2 ^ 32) }
  if i % 4 = 3 ∧ v % 2 = 0 ∧ f.pba.contains vec then
    let m := m.setFn fn { m.fnSt fn with pba := f.pba.filter (fun p => p != vec) }
    { m with host := { m.host with msis := m.host.msis ++ [(m.fnSt fn).msiOf fn vec] } }
  else m

/-- A write to the MSI-X table, by words or pairs of words. -/
def Manager.writeMsixAt (m : Manager) (fn off w v : Nat) : Manager :=
  let size := if fn = 0 then 2048 * 16 else 8 * 16
  if size ≤ off then m
  else if w = 4 ∧ off % 4 = 0 then m.writeMsix fn (off / 4) v
  else if w = 8 ∧ off % 8 = 0 then (m.writeMsix fn (off / 4) v).writeMsix fn (off / 4 + 1) (v / 2 ^ 32)
  else m.badAccess

/-- A write to the descriptor ring of BAR2. -/
def Manager.writeRing (m : Manager) (fn off w v : Nat) : Manager :=
  if !aligned off w then m.badAccess
  else
    let f := m.fnSt fn
    let i := off / 64
    m.setFn fn { f with ring := mapSet f.ring i (putBits (mapGetD f.ring i 0) (8 * (off % 64)) (8 * w) v) }

/-- A write to a region of BAR0 whose registers have rows or are read only: its width and its owner are checked. -/
def Manager.writeChecked (m : Manager) (fn off w : Nat) : Manager :=
  if off < 0x102000 then m
  else if off < 0x102100 then m.widthOnly dbRegs (off - 0x102000) w
  else if 0x103000 ≤ off ∧ off < 0x103100 ∧ fn = 0 then m.widthOnly feedRegs (off % 0x40) w
  else if 0x104000 ≤ off ∧ off < 0x104100 then m.widthOnly hsRegs (off - 0x104000) w
  else if 0x200000 ≤ off ∧ off < 0x280000 then
    if m.reachesSync fn ((off - 0x200000) / 64) then m.widthOnly syncRegs (off % 64) w else m.badAccess
  else if 0x2000000 ≤ off ∧ off < 0x2000100 ∧ fn = 0 then m.widthOnly ewRegs (off - 0x2000000) w
  else m

/-- Regions whose registers belong to contexts: an access through a function that owns none of them is counted (R376). -/
def ownedRegion (off : Nat) : Bool := (Nat.ble 0x100000 off && decide (off < 0x102100)) || (Nat.ble 0x200000 off && decide (off < 0x280000))

/-- An offset falls in a BAR of a function: BAR0 of 64 MiB or 4 MiB, BAR2 of 64 KiB (R376, R396). -/
def barHolds (fn bar off : Nat) : Bool :=
  if bar = 0 then decide (off < (if fn = 0 then 0x4000000 else 0x400000)) else bar == 2 && decide (off < 0x10000)

/-- A write to BAR0. Through an unbound virtual function only its slots take writes (R375). -/
def Manager.writeBar0 (m : Manager) (fn off w v : Nat) : Manager :=
  if off < 0x100000 then m.writeSlot fn off w v
  else if !m.bound fn then (if ownedRegion off then m.badAccess else m)
  else if 0x380000 ≤ off ∧ off < 0x388000 then m.writeMsixAt fn (off - 0x380000) w v
  else if off < 0x102000 then m.writeMbox fn (off - 0x100000) w v
  else m.writeChecked fn off w

/-- REGISTER_WRITE: a write to a register without a row: those of slots, mailboxes, descriptors and the MSI-X table take it; to
every other register it is ignored, and counted where its width or its owner is wrong. One outside the function's BARs completes as
Unsupported Request (R372). [PRESUMED, log 53] -/
def execRegisterWrite (fn bar off width value : Nat) (s : State) : Out :=
  let m := s.mgr
  if m.host.perst ∨ !barHolds fn bar off then .next s
  else if bar = 0 then .next { s with mgr := m.writeBar0 fn off width value }
  else if off < 0x4000 then .next { s with mgr := m.writeRing fn off width value }
  else .next { s with mgr := m.widthOnly dqRegs off width }

/-! ## The barrier (R392, R394, R395) -/

/-- BARRIER_DOWN: no link heartbeat has come for 100 µs. -/
def execBarrierDown (s : State) : Out :=
  let m := s.mgr
  if !m.host.barrier then .next s
  else .next { s with mgr := ({ m with host := { m.host with barrier := false } }).raiseInt 0 7 }

/-- A request of a slot or descriptor that is unanswered. [DEDUCED, log 55] -/
def Manager.isOpen (m : Manager) (r : Req) : Bool :=
  let f := m.fnSt r.fn
  !m.host.answers.any (fun a => a.req == r) &&
  (if r.tag < 0x10000 then (mapGetD f.slots r.tag {}).go else (ringSpan f.dqHead f.dqTail).contains (r.tag - 0x10000))

/-- A request that was accepted and has no reply completes with RETRY. -/
def Manager.retry (m : Manager) (r : Req) : Manager :=
  if !m.isOpen r || m.host.waiting.any (fun w => w.1 == r) then m
  else match m.host.proxied.find? (fun p => p.req == r) with
    | some p => m.endProxy p 0x0010 []
    | none => m.reply r 0x0010

/-- BARRIER_UP: the barrier comes up; `accepted` are the pending requests the field side says it accepted. Those never
accepted are sent again, and so are mailbox posts. [DEDUCED, log 51] -/
def execBarrierUp (accepted : List Req) (s : State) : Out :=
  let m := s.mgr
  if m.host.barrier ∨ m.host.perst ∨ m.pwr.off ∨ m.pwr.asleep then .next s
  else
    let m := ({ m with host := { m.host with barrier := true } }).raiseInt 0 7
    let m := accepted.foldl (fun m r => m.retry r) m
    let again := m.host.waiting
    let m := { m with host := { m.host with waiting := [] } }
    let m := again.foldl (fun (m : Manager) w =>
      m.accept (.barrierUp accepted) (if w.1.tag < 0x10000 then m.slotReq w.1.fn w.1.tag else m.descReq w.1.fn (w.1.tag - 0x10000) w.2)) m
    .next { s with mgr := m.postHeld }

/-- Frames are replayed, as they fail their check or go missing, or are discarded, as they are of a reserved type: each is counted
(R392, R394). [DEDUCED, log 118] -/
def Manager.badFrames (m : Manager) (n : Nat) : Manager := m.bumpBy Obj.HS_BARRIER_ERR n

/-- LANE_FAILURE: the barrier retrains at 16 or 8 lanes, and the frames in flight, so many, are replayed. Frames that fail their check
or are of a reserved type while no lane is removed come with the lanes in use. -/
def execLaneFailure (lanes frames : Nat) (s : State) : Out :=
  let m := s.mgr
  if lanes = m.host.lanes then .next { s with mgr := m.badFrames frames }
  else if (lanes ≠ 16 ∧ lanes ≠ 8) ∨ m.host.lanes ≤ lanes then .next s
  else
    let m := { m with host := { m.host with lanes := lanes } }
    .next { s with mgr := (m.setObj Obj.HL_LANES lanes).badFrames frames }

/-- FW_HEARTBEAT: HS_FW_HB advances and HS_TIME is written; FW_STALL ends. [DEDUCED, log 55] -/
def execFwHeartbeat (s : State) : Out :=
  let m := s.mgr
  if !m.host.barrier ∨ !m.fwRuns then .next s
  else
    let was := m.host.fwStall
    let m := { m with host := { m.host with fwHb := (m.host.fwHb + 1) % 2 ^ 64, fwTime := m.dev.time, fwStall := false } }
    .next { s with mgr := if was then m.raiseInt 0 7 else m }

/-- FW_STALL: HS_FW_HB has not advanced for 1 ms. [DEDUCED, log 55] -/
def execFwStall (s : State) : Out :=
  let m := s.mgr
  if m.host.fwStall ∨ m.host.perst then .next s
  else .next { s with mgr := ({ m with host := { m.host with fwStall := true } }).raiseInt 0 7 }

/-! ## Resets (R375, R520, R530) -/

/-- FLR: a bound virtual function is reset as step 7 of a purge resets it, and its context is not purged. [DEDUCED, log 56] -/
def execFlr (fn : Nat) (s : State) : Out :=
  let m := s.mgr
  match m.fnCtx fn with
  | none => .next s
  | some c =>
    if c = 0 then .next s else .next { s with mgr := (m.resetFn fn 0x000E).clearBells c }

/-- PERST: the endpoint and the host-side bridge reset; the field side keeps what it holds, and a message it has taken. [DEDUCED, log 56] -/
def execPerst (s : State) : Out :=
  let m := s.mgr
  let boxes := m.host.mailboxes.map (fun b => (b.1,
    if b.2.posted then { b.2 with go := false, taken := false, done := false, waits := false, acks := [] }
    else ({ alive := b.2.alive } : Mailbox)))
  let m := { m with host := { m.host with
    perst := true
    barrier := false
    fns := []
    numVfs := 0
    fwStall := false
    fwHb := 0
    fwTime := 0
    doorbells := 0
    feeds := []
    mailboxes := boxes
    answers := []
    accepted := []
    late := []
    waiting := []
    held := []
    proxied := []
    ewView := 0
    ewReady := false } }
  .next { s with mgr := ((m.setObj Obj.HL_RATE 0).setObj Obj.HL_WIDTH 0).setObj Obj.HL_IDE 0 }

/-- The link trains at this rate and width (R371). -/
def trains (rate width : Nat) : Bool := Nat.ble 1 rate && Nat.ble rate 7 && [1, 4, 8, 16].contains width

/-- A PCI Express error is logged: LINK is raised at the physical function (Table: Interrupt causes). No row brings one. [DEDUCED, log 118] -/
def Manager.aerLogged (m : Manager) : Manager := m.raiseInt 0 7

/-- PERST_DEASSERTION: the host side leaves reset; the link trains at a rate and width, host software sets NumVFs and the bus
gives the requester ID. WAKE# is released. [DEDUCED, log 56] -/
def execPerstDeassertion (rate width numVfs rid : Nat) (s : State) : Out :=
  let m := s.mgr
  if !m.host.perst ∨ !trains rate width then .next s
  else
    let m := { m with host := { m.host with perst := false, numVfs := min numVfs 255, rid := rid }, pwr := { m.pwr with wake := false } }
    .next { s with mgr := (m.setObj Obj.HL_RATE rate).setObj Obj.HL_WIDTH width }

end Sys2Proof.Machine
end

