-- ==== Sys2Proof/Machine/MgrDict.lean ====
section
/-! DEFINITION. Sys2Proof/Machine/MgrDict.lean: local requests to a manager's dictionary, and the NWM-2400 profile (chapter "The
object dictionary"). -/

namespace Sys2Proof.Machine

/-! ## The checks of a local request (R341) -/

/-- Objects other than command objects whose WRITE is a command of its own. -/
def rowObjs : List Nat :=
  [Obj.LP_IMAGE, Obj.CV_CANCEL, Obj.BP_IMAGE, Obj.FW_IMAGE, Obj.RY_MISS_NODE, Obj.RY_MISS_LINK, Obj.RY_EXTRA, Obj.RY_MISWIRED,
   Obj.RY_WRONG_KIND, Obj.TS_SUBSCRIBE, Obj.SC_SPDM, Obj.SC_DEBUG_REQ, Obj.PWB_ENGINE, Obj.PWB_TABLE, Obj.PWB_STACKS,
   Obj.PWB_CONTROL, Obj.PWB_FIELD, Obj.PWB_TRIAD, Obj.PWB_HOSTPATH, Obj.PWB_RTP]

/-- Objects whose READ is a command of its own. -/
def rowReads : List Nat := [Obj.SC_NONCE, Obj.ER_READ, Obj.TS_READ]

/-- A value a command object's Meaning lists (R348). -/
def cmdLists (key v : Nat) : Bool :=
  if key = Obj.DV_RESET then v == 0x5A
  else if key = Obj.SC_FUSES_SET then fusesListed v
  else if key = Obj.EV_CLEAR ∨ key = Obj.FW_GO then Nat.ble 1 v && Nat.ble v 3
  else if key = Obj.LP_RUN ∨ key = Obj.CX_RELEASE then v == 1 || v == 2
  else v == 1

/-- An address of the profile (R352). -/
def inProfile (key : Nat) : Bool := Nat.ble 0x200000 key && decide (key < 0x300000)

/-- The native object a profile object is a view of, where it is one object (Table: Profile mapping). -/
def nativeKey (key : Nat) : Nat :=
  if key = Obj.P_SW_SEL then Obj.SW_SEL
  else if key = Obj.P_LINK_SEL then Obj.LK_SEL
  else if key = Obj.P_ROUTE_ALGO then Obj.RT_METRIC
  else if key = Obj.P_RECOMPUTE then Obj.IMP_FULL
  else if key = Obj.P_PART_SEL then Obj.LP_SEL_CTX
  else if key = Obj.P_PART_MEMBERS then Obj.CV_SET
  else if key = Obj.P_PART_CREATE then Obj.CV_GO
  else if key = Obj.P_PART_DELETE then Obj.CX_RELEASE
  else if key = Obj.P_FAULT_HOLDOFF_MS then Obj.FR_WINDOW_US
  else if key = Obj.P_FLAP_LIMIT then Obj.FR_FLAP_LIMIT
  else if key = Obj.P_HA_ROLE then Obj.RD_ROLE
  else if key = Obj.P_HA_SWITCHOVER then Obj.RD_HANDOVER
  else key

/-- The NIDs a list of U32 names. -/
def nidList : List Byte → List Nat
  | a :: b :: c :: d :: rest => leNat [a, b, c, d] :: nidList rest
  | _ => []

/-- The value a WRITE gives the native object, or none where it has none there (R369). [DEDUCED, log 45] -/
def profileValue (key : Nat) (data : List Byte) : Option (List Byte) :=
  let v := leNat data
  if key = Obj.P_ROUTE_ALGO then (if v = 1 then some [0] else if v = 2 then some [1] else none)
  else if key = Obj.P_FAULT_HOLDOFF_MS then some (leBytes 4 (v * 1000))
  else if key = Obj.P_PART_SEL then (if v = 0 then none else some data)
  else if key = Obj.P_PART_MEMBERS then
    let l := nidList data
    if l.any (fun e => Nat.ble 131072 e) then none else some (if l.isEmpty then [] else leBytes 16384 (bitmapOf l))
  else some data

/-- Checks 7 and 10 for what the object table's columns do not tell: the length of AT_NONCE and of a list of U32, a value no
command lists, and the native checks of a profile value. [DEDUCED, log 45] -/
def extraBad (key : Nat) (data : List Byte) : Nat :=
  match objRow key with
  | none => 0
  | some row =>
    if key = Obj.AT_NONCE ∧ data.length ≠ 32 then 0x0005
    else if key = Obj.P_PART_MEMBERS ∧ data.length % 4 ≠ 0 then 0x0005
    else if row.acc = .cmd then (if cmdLists key (leNat data) ∨ row.perCtx then 0 else 0x0007)
    else if inProfile key then
      match profileValue key data with
      | none => 0x0007
      | some d =>
        match objRow (nativeKey key) with
        | some n => if valueBad false n (nativeKey key) d then 0x0007 else 0
        | none => 0
    else 0

/-- The first check of a local WRITE that fails, or 0. -/
def Manager.writeResult (m : Manager) (r : Req) (key : Nat) (data : List Byte) : Nat :=
  let extra := extraBad key data
  let state := if extra = 0x0005 then 0x0005 else m.gateState r (nativeKey key) true
  let res := dictResult false key true data (m.gateReach r key true (leNat data)) 0 state 0
  if res ≠ 0 then res else extra

/-- Check 5 for a READ of the all-context view of telemetry, at level NONE (R465). -/
def Manager.viewForbidden (m : Manager) (r : Req) (key : Nat) : Bool :=
  key == Obj.TS_READ && r.fn == 0 && m.obj Obj.LP_SEL_CTX == 0 && (m.acceptedUnder r).2 == 0

/-- The first check of a local READ that fails, or 0; an object that holds no valid value is found after them (R123). -/
def Manager.readResult (m : Manager) (r : Req) (key : Nat) : Nat :=
  let reach := m.gateReach r key false 0
  let mode := if m.viewForbidden r key then 0x000A else 0
  let res := dictResult false key false [] reach mode (m.gateState r key false) 0
  if res ≠ 0 then res else if m.failed.contains key then 0x0011 else 0

/-! ## Reading -/

/-- The copy of an object that a function reaches for a context (R349, R495, R504). -/
def reachKey (fn c key : Nat) : Nat :=
  match objRow key with
  | none => key
  | some r =>
    let k := if r.perCtx then ctxKey key c else key
    if key = Obj.ER_CURSOR ∨ key = Obj.TS_CURSOR then fnKey k fn else k

/-- A masked object reads zero, or empty, through the physical function in CONFIDENTIAL mode (R350). -/
def Manager.masked (m : Manager) (fn c : Nat) (r : ObjRow) : Bool := r.masked && m.confidential && fn == 0 && c != 0

/-- Values a page-key sweep decides: how far it has come, and how long requests waited for it. -/
def sweepKeys : List Nat := [Obj.PK_SWEEP_PCT, Obj.PK_WAIT_MAX_NS]

/-- PK_SWEEP_PCT and PK_WAIT_MAX_NS: nothing before the first sweep. -/
def Manager.sweepValue (m : Manager) (key : Nat) : Nat :=
  if key = Obj.PK_SWEEP_PCT then (if m.sec.sweep then m.dev.openNat % 101 else 0)
  else if m.sec.sweep ∨ m.obj Obj.PK_ROTATIONS ≠ 0 then m.dev.openNat % 2 ^ 32 else 0

/-- The bytes a READ returns. [DEDUCED, log 47] -/
def Manager.readBytes (m : Manager) (fn c key : Nat) (r : ObjRow) : List Byte :=
  if m.masked fn c r then (if fixedSize r then leBytes r.len 0 else [])
  else if inProfile key then m.profile key
  else if sweepKeys.contains key then leBytes r.len (m.sweepValue key)
  else if m.confidential && (key == Obj.RY_MISWIRED || key == Obj.RY_WRONG_KIND) then leBytes r.len 0
  else if key = Obj.ER_PENDING then
    let cur := m.obj (fnKey (ctxKey Obj.ER_CURSOR c) fn)
    leBytes r.len ((shown m.dev.log.ring (m.ctxShows c)).filter (fun x => Nat.ble cur x.seq)).length
  else
    match m.view c key with
    | some v => v
    | none => m.dev.readStored r (reachKey fn c key)

/-- A READ, that passed its checks, of an object whose READ is no command of its own: it is answered with its bytes
(R341, R346, R350). -/
def Manager.readPlain (m : Manager) (req : Req) (key : Nat) (r : ObjRow) : Manager :=
  let bytes := m.readBytes req.fn ((m.reachCtx req.fn).getD 0) key r
  let m := m.onDev (fun d => if sweepKeys.contains key then d.drawn else d.afterRead key)
  m.answer req 0 bytes

/-! ## Writing -/

/-- The agents' present period follows a new base period: a base it stood at takes it along, else it stays within the new
bounds (R505). -/
def Manager.rebase (m : Manager) (old : Nat) : Manager :=
  let base := m.obj Obj.TL_PERIOD_MS
  let m := m.setObj Obj.TL_PERIOD_MAX_MS (max base (m.obj Obj.TL_PERIOD_MAX_MS))
  let p := if m.tl.present = old then base else max base (min m.tl.present (m.obj Obj.TL_PERIOD_MAX_MS))
  ({ m with tl := { m.tl with present := p } }).setObj Obj.TL_FACTOR (p / max 1 base)

/-- WD_REQ: WIDE is queued for the context, or its trees end (R153). -/
def Manager.wantTrees (m : Manager) (c n : Nat) : Manager :=
  let k := ctxKey Obj.WD_STATUS c
  if n = 0 then
    (({ m with rt := { m.rt with wide := m.rt.wide.filter (fun x => x != c), trees := m.rt.trees.filter (fun t => t.ctx != c) } }).setObj k 0).setObj (ctxKey Obj.WD_MIN_CAP c) 0
  else ({ m with rt := { m.rt with wide := insNat m.rt.wide c } }).setObj k 1

/-- RD_PEER names another peer: the active unit replicates to it, and a spare that has heard an active unit begins to stand by
(R280, R294). -/
def Manager.newPeer (m : Manager) : Manager :=
  if m.dev.net.replay then m
  else if m.active then (if m.leads then m.followPeer else m)
  else if m.obj Obj.RD_STATE = 4 ∧ m.obj Obj.RD_PEER ≠ 0 ∧ m.obj Obj.RD_HIGHEST_NID ≠ 0 then m.startResync (m.obj Obj.RD_HIGHEST_NID) 6
  else m

/-- What follows from the new value of an object. -/
def Manager.afterWrite (m : Manager) (c key old : Nat) : Manager :=
  let was := m.tl.present
  let m :=
    if key = Obj.TL_PERIOD_MS ∨ key = Obj.TL_PERIOD_MAX_MS then m.rebase old
    else if key = Obj.CX_QUAR_US then m.setObj key (max (m.obj key) (2 * m.obj Obj.IMP_DRAIN_US))
    else if key = Obj.WD_REQ then m.wantTrees c (m.obj (ctxKey key c))
    else if key = Obj.RD_PEER then m.newPeer
    else m
  if (apSources.contains key || m.tl.present != was) && m.active && m.leads then m.deliverAll else m

/-- P_LINK_COST: the weight of the selected link, a change of the snapshot (R252); the port's adjustment is cleared (R160). -/
def Manager.setCost (m : Manager) (v : Nat) : Manager :=
  let i := m.obj Obj.LK_SEL
  { m with
    fab := { m.fab with links := setLink m.fab.links i { linkOf m.fab.links i with weight := v } }
    rt := { m.rt with adj := mapDel m.rt.adj i } }.openWindow

/-- A WRITE that passed its checks takes effect whole; the object holds a valid value again (R123, R342, R347, R353). -/
def Manager.writeObj (m : Manager) (fn c key : Nat) (data : List Byte) : Manager :=
  let m := { m with failed := m.failed.filter (fun k => k != key) }
  if key = Obj.P_LINK_COST then m.setCost (leNat data)
  else if key = Obj.RL_RATE ∨ key = Obj.RL_BURST then m.onDev (fun d => d.stageRate key (leNat data))
  else
    let d := if inProfile key then (profileValue key data).getD data else data
    let key := nativeKey key
    match objRow key with
    | none => m
    | some r =>
      let old := m.obj Obj.TL_PERIOD_MS
      (m.onDev (fun x => x.writeStored r (reachKey fn c key) d)).afterWrite c key old

/-- An object of the ranges that each module keeps for itself (R361). The record of commit group 3 is none: its staged values
are entries of the input stream (R355). -/
def ownKey (key : Nat) : Bool :=
  let i := key / 256 % 65536
  i != 0x1410 && ((Nat.ble 0x1000 i && Nat.ble i 0x14FF) || (Nat.ble 0x5000 i && Nat.ble i 0x50FF))

/-- A WRITE of an object that each module keeps for itself: it acts at this module, whether its unit is active or not, and at the
leader of the active unit it is an entry of the input stream too. Of such an entry the redundancy record alone changes another
module, a follower of the same triad (R288, R304, R361). -/
def Manager.writeOwn (m : Manager) (req : Req) (c key : Nat) (data : List Byte) : Manager :=
  if m.dev.net.replay then
    (if m.red.slot.isSome ∧ m.obj Obj.RD_STATE = 2 ∧ nativeKey key / 4096 = 0x500 then m.writeObj req.fn c key data else m)
  else ((m.entry (.dictWrite req key data)).writeObj req.fn c key data).answerWrite req 0

/-- A WRITE of an object without a row of its own, that passed its checks, takes effect whole (R342); an object that every
module holds alike is written as an entry of the input stream. -/
def Manager.writePlain (m : Manager) (req : Req) (key : Nat) (data : List Byte) : Manager :=
  let c := (m.reachCtx req.fn).getD 0
  if ownKey (nativeKey key) then m.writeOwn req c key data
  else if !m.leads then m.toLeader req (.dictWrite req key data)
  else ((m.entry (.dictWrite req key data)).writeObj req.fn c key data).answerWrite req 0

/-- An entry of the input stream that is a WRITE of an object without a row of its own (R288, R341). -/
def applyWrite (req : Req) (key : Nat) (data : List Byte) (s : State) : Out :=
  let m := s.mgr
  let res := m.writeResult req key data
  if res ≠ 0 then .next { s with mgr := m.answer req res } else .next { s with mgr := m.writePlain req key data }

/-! ## Commands of the profile (R368-R370) -/

/-- Table: Carve record at its defaults, but for CV_SET, with CV_FIT EXACT. -/
def Manager.stagePart (m : Manager) : Manager :=
  (carveKeys.filter (fun k => k != Obj.CV_SET)).foldl (fun m k => m.setObj k (objDefault false k)) m

/-- P_PART_CREATE: stages the members with EXACT and every other field at its default, and writes CV_GO; P_PART_SEL reads the
context assigned once the carve has completed (R370). [DEDUCED, log 45] -/
def execPPartCreate (req : Req) (value : Nat) (s : State) : Out :=
  let m := s.mgr
  if m.gateReach req Obj.P_PART_CREATE true value = 0 ∧ m.gateState req Obj.CV_GO true = 0 ∧ m.obj Obj.DS_STATE ≠ 4 then
    .next { s with mgr := m.answer req 0x0009 }
  else .next { s with mgr := s.mgr.cmd (.pPartCreate req value) req Obj.P_PART_CREATE value [1] s.mgr.sl.placing.isSome (fun m _ =>
    let m := m.stagePart.goCarve
    { m with sl := { m.sl with profile := if m.obj Obj.CV_CTX = 0 then none else some (m.obj Obj.CV_CTX) } }) }

/-- P_PART_DELETE: 1 writes 2 to CX_RELEASE of the selected context (R231, R368). -/
def execPPartDelete (req : Req) (value : Nat) (s : State) : Out :=
  let m := s.mgr
  if m.gateReach req Obj.P_PART_DELETE true value = 0 ∧ m.obj Obj.LP_SEL_CTX = 0 then .next { s with mgr := m.answer req 0x0009 }
  else .next { s with mgr := s.mgr.cmd (.pPartDelete req value) req Obj.P_PART_DELETE value [1] false (fun m _ =>
    m.purgeStart (m.obj Obj.LP_SEL_CTX)) }

/-- P_RECOMPUTE: writes IMP_FULL (R253, R368, R447). -/
def execPRecompute (req : Req) (value : Nat) (s : State) : Out :=
  let m := s.mgr
  if m.gateReach req Obj.P_RECOMPUTE true value = 0 ∧ m.gateState req Obj.IMP_FULL true = 0 ∧ m.obj Obj.DS_STATE ≠ 4 then
    .next { s with mgr := m.answer req 0x0009 }
  else .next { s with mgr := s.mgr.cmd (.pRecompute req value) req Obj.P_RECOMPUTE value [1] (s.mgr.obj Obj.IMP_FULL == 1) (fun m _ =>
    (m.setObj Obj.IMP_FULL 1).wantNow) }

end Sys2Proof.Machine
end

