-- ==== Sys2Proof/Machine/Recorder.lean ====
section
/-! DEFINITION. Sys2Proof/Machine/Recorder.lean: commands of the event recorder and of the views of events and telemetry (chapter
"Event recorder"). -/

namespace Sys2Proof.Machine

/-! ## Summaries and rates (R490, R491) -/

/-- The summaries of a code's episode at the manager; each raises EVENT where its context is served. -/
def Manager.summaries (m : Manager) (code : Nat) : Manager :=
  let r := m.dev.endEpisode code
  r.2.foldl (fun (m : Manager) e => m.afterRecord (m.dev.writeSummary code e) e.ctx) { m with dev := r.1 }

/-- BUCKET_FULL: a bucket is full again after a suppression, and the episode's summaries are written. -/
def execBucketFull (at_ : At) (code : Nat) (s : State) : Out :=
  match at_ with
  | none => .next { s with mgr := if s.mgr.dev.bucketFull code then s.mgr.summaries code else s.mgr }
  | some die => onAgent s die (fun a => if a.dev.bucketFull code then a.onDev (fun d => d.summaries code) else a)

/-- RL_COMMIT: group 3 is committed: each changed bucket is full at its new burst, and the episodes that this ends are
summarised. -/
def execRlCommit (req : Req) (value : Nat) (s : State) : Out :=
  .next { s with mgr := s.mgr.cmd (.rlCommit req value) req Obj.RL_COMMIT value [1] false (fun m _ =>
    let codes := m.dev.commitCodes
    codes.foldl (fun m k => m.summaries k) (m.onDev Dev.commitRates)) }

/-! ## Clearing (R496) -/

/-- Areas are cleared; CLEARED is recorded. -/
def Manager.clearAreas (m : Manager) (which : Nat) : Manager := m.afterRecord (m.dev.clearLog which) 0

/-- EV_CLEAR_CIRCULATING, EV_CLEAR_FIRST, EV_CLEAR_BOTH: EV_CLEAR is written 1, 2 or 3. -/
def execEvClearCirculating (req : Req) (s : State) : Out :=
  .next { s with mgr := s.mgr.ownCmd req Obj.EV_CLEAR 1 [1, 2, 3] false (fun m _ => m.clearAreas 1) }
def execEvClearFirst (req : Req) (s : State) : Out :=
  .next { s with mgr := s.mgr.ownCmd req Obj.EV_CLEAR 2 [1, 2, 3] false (fun m _ => m.clearAreas 2) }
def execEvClearBoth (req : Req) (s : State) : Out :=
  .next { s with mgr := s.mgr.ownCmd req Obj.EV_CLEAR 3 [1, 2, 3] false (fun m _ => m.clearAreas 3) }

/-! ## The window (R493) -/

/-- EW_VIEW: another segment of the ring is selected; READY clears until it has been streamed. Only the physical function has
the window. -/
def execEwView (fn v : Nat) (s : State) : Out :=
  let m := s.mgr
  if fn ≠ 0 ∨ m.host.perst then .next s
  else .next { s with mgr := { m with host := { m.host with ewView := v % 16, ewReady := false } } }

/-- SEGMENT_STREAMED: the selected segment has crossed the barrier. -/
def execSegmentStreamed (s : State) : Out :=
  let m := s.mgr
  if !m.host.barrier ∨ m.ideBlock then .next s
  else .next { s with mgr := { m with host := { m.host with ewReady := true } } }

/-! ## Reading the views (R495, R504) -/

/-- A READ that changes what it reads: one whose value the requester has no room for is answered LENGTH there, and has no
effect (R341, R381, R397). -/
def Manager.answerView (m : Manager) (r : Req) (out : Manager × List Byte) : Manager :=
  if m.roomFor r < out.2.length then m.answer r 0 out.2 else out.1.answer r 0 out.2

/-- ER_READ: records of the view of the context reached, from the function's cursor on. [DEDUCED, log 50; DEDUCED, log 72] -/
def execErRead (req : Req) (s : State) : Out :=
  let m := s.mgr
  let res := m.readResult req Obj.ER_READ
  if res ≠ 0 then .next { s with mgr := m.answer req res }
  else
    let c := (m.reachCtx req.fn).getD 0
    let out := m.dev.erRead (fnKey (ctxKey Obj.ER_CURSOR c) req.fn) (ctxKey Obj.ER_LOST c) (ctxKey Obj.ER_MAX c) (m.ctxShows c)
    .next { s with mgr := m.answerView req ({ m with dev := out.1 }, out.2) }

/-- TS_READ: subscribed telemetry records of the context reached, from the function's cursor on. [DEDUCED, log 50; DEDUCED, log 72; DEDUCED, log 74] -/
def execTsRead (req : Req) (s : State) : Out :=
  let m := s.mgr
  let res := m.readResult req Obj.TS_READ
  if res ≠ 0 then .next { s with mgr := m.answer req res }
  else .next { s with mgr := m.answerView req (m.tsRead req.fn ((m.reachCtx req.fn).getD 0)) }

/-- TS_SUBSCRIBE: the subscriptions of the context reached; bits it may not set are ignored (R500). -/
def execTsSubscribe (req : Req) (data : List Byte) (s : State) : Out :=
  .next { s with mgr := s.mgr.hostWrite (.tsSubscribe req data) req Obj.TS_SUBSCRIBE data false (fun m c =>
    m.setCtx c { m.ctx c with subscribe := maskSubscribe c data }) }

/-! ## Records of agents (R497) -/

/-- Severity and context of a record as its bytes carry them (R483). -/
def recSeverity (bs : List Byte) : Nat := bitsOf (fieldAt bs 0 8) 15 13
def recContext (bs : List Byte) : Nat := bitsOf (fieldAt bs (bs.length - 8) 4) 31 20

/-- The payload of AGENT_RECORD: the NID, the agent's head word and TIME, its tail word and its payload. -/
def agentPayload (nid : Nat) (bs : List Byte) : List Byte :=
  leBytes 4 nid ++ leBytes 4 0 ++ bs.take 16 ++ bs.drop (bs.length - 8) ++ (bs.drop 16).take (bs.length - 24)

/-- EVENT: an agent's record is recorded as AGENT_RECORD, with its severity and context. -/
def execEvent (hdr : Hdr) (bytes : List Byte) (s : State) : Out :=
  let t := s.mgr.dev.ingress telFrame hdr s.mgr.genOf
  let m : Manager := { s.mgr with dev := t.dev }
  if !t.ok then .next { s with mgr := m }
  else
    let c := recContext bytes
    .next { s with mgr := m.afterRecord (m.dev.record (recSeverity bytes) 0x3F0 c (agentPayload hdr.src bytes)) c }

end Sys2Proof.Machine
end

