-- ==== Sys2Proof/Machine/Security.lean ====
section
/-! DEFINITION. Sys2Proof/Machine/Security.lean: commands of modes, debug levels, tokens, reports, page keys and the host link's
IDE (chapter "Security, attestation and debug"). -/

namespace Sys2Proof.Machine

/-! ## Nonces and tokens (R459, R467, R468) -/

/-- SC_NONCE: a read draws a new nonce; while no random value is issued it waits. [DEDUCED, log 50] -/
def execScNonce (req : Req) (s : State) : Out :=
  let m := s.mgr
  let res := m.readResult req Obj.SC_NONCE
  if res ≠ 0 then .next { s with mgr := m.answer req res }
  else if m.rngOut then .next { s with mgr := m.onSec (fun x => { x with waits := x.waits ++ [req] }) }
  else .next { s with mgr := m.answerView req m.drawNonce }

/-- NONCE_EXPIRE: the valid nonce is 300 s old. -/
def execNonceExpire (s : State) : Out := .next { s with mgr := s.mgr.onSec (fun x => { x with nonce := none }) }

/-- SC_APPLY: 1 checks SC_TOKEN and applies its transition; `sigOk` says that its signature verifies under the owner key. [DEDUCED, log 76] -/
def execScApply (req : Req) (value : Nat) (sigOk : Bool) (start : StartIn) (s : State) : Out :=
  .next { s with mgr := s.mgr.ownCmd req Obj.SC_APPLY value [1] false (fun m _ => (m.onDev (fun d => d.wakeDomain 95)).applyToken sigOk start) }

/-! ## Owners, levels and fuses (R462, R470) -/

/-- What check 8 finds of SC_PROVISION: the unit manages the fabric, the owner slots are used, or there is no owner. -/
def Manager.provisionState (m : Manager) (r : Req) : Nat :=
  let st := m.gateState r Obj.SC_PROVISION true
  if st ≠ 0 then st
  else if m.managing ∨ bitsOf (m.obj Obj.SC_FUSES) 31 28 = 4 ∨ (m.dev.blob Obj.SC_OWNER).length ≠ 384 then 0x0009 else 0

/-- SC_PROVISION: 1 fuses the owner's digest, and the module resets into PROVISIONED. -/
def execScProvision (req : Req) (value : Nat) (start : StartIn) (s : State) : Out :=
  let m := s.mgr
  let reach := m.gateReach req Obj.SC_PROVISION true value
  let st := m.provisionState req
  if reach ≠ 0 then .next { s with mgr := m.answer req reach }
  else if st ≠ 0 then .next { s with mgr := m.answer req st }
  else if value ≠ 1 then .next { s with mgr := m.answer req 0x0007 }
  else .next { s with mgr := (m.answer req 0).provision start }

/-- The level that SC_DEBUG_REQ asks for: only NONE is raised, and any level is lowered to NONE. -/
def Manager.askLevel (m : Manager) (l : Nat) (start : StartIn) : Manager :=
  let now := m.obj Obj.SC_DEBUG
  let m := m.setObj Obj.SC_DEBUG_REQ l
  if now = 0 ∧ l ≠ 0 then m.raiseLevel l none
  else if now ≠ 0 ∧ l = 0 then (m.lowerLevel start).event 0x301 0
  else m

/-- SC_DEBUG_REQ: in OPEN mode the level is set or lowered; INVASIVE is refused to a unit that manages the fabric. [DEDUCED, log 76] -/
def execScDebugReq (req : Req) (value : Nat) (start : StartIn) (s : State) : Out :=
  let m := s.mgr
  let st := m.gateState req Obj.SC_DEBUG_REQ true
  let refuse := decide (value = 2) && m.obj Obj.SC_DEBUG == 0 && m.managing
  let res := dictResult false Obj.SC_DEBUG_REQ true (leBytes 1 value) (m.gateReach req Obj.SC_DEBUG_REQ true value) 0
    (if st ≠ 0 then st else if refuse then 0x0009 else 0) 0
  if res ≠ 0 ∨ 2 < value then .next { s with mgr := m.answer req (if res ≠ 0 then res else 0x0007) }
  else .next { s with mgr := (m.answer req 0).askLevel value start }

/-- DEBUG_DURATION_END: a token's or grant's duration ends, and the level of the module or of the agent returns to NONE. [DEDUCED, log 76] -/
def execDebugDurationEnd (dev : At) (start : StartIn) (s : State) : Out :=
  match dev with
  | none =>
    let m := s.mgr
    if m.obj Obj.SC_DEBUG = 0 ∨ m.sec.until_.isNone then .next s
    else .next { s with mgr := (m.lowerLevel start).event 0x301 0 }
  | some die => onAgent s die (fun a =>
    if a.link.grant.isNone then a else ({ a with link := { a.link with grant := none } }).setObj Obj.SC_DEBUG 0)

/-- SC_FUSES_SET: the rollback floor is raised or signing-key slots are revoked. -/
def execScFusesSet (req : Req) (value : Nat) (s : State) : Out :=
  .next { s with mgr := s.mgr.ownCmd req Obj.SC_FUSES_SET value (if fusesListed value then [value] else []) false (fun m _ => m.onDev (fun d => d.burn value)) }

/-! ## Reports (R474-R476) -/

/-- AT_GO: 1 takes a snapshot and signs a report for the context reached. [DESIGN CHOICE, log 77] -/
def execAtGo (req : Req) (value : Nat) (s : State) : Out :=
  .next { s with mgr := s.mgr.ownCmd req Obj.AT_GO value [1] false (fun m c => m.makeReport req.fn c) }

/-! ## Page keys (R479, R480) -/

/-- PK_ROTATE: 1 starts a rotation; BUSY while a sweep runs. [DEDUCED, log 75] -/
def execPkRotate (req : Req) (value : Nat) (s : State) : Out :=
  .next { s with mgr := s.mgr.ownCmd req Obj.PK_ROTATE value [1] s.mgr.sec.sweep (fun m _ => m.rotate) }

/-- PK_PERIOD: PK_PERIOD_H hours have passed since the last rotation began. [DEDUCED, log 75] -/
def execPkPeriod (s : State) : Out :=
  let m := s.mgr
  if m.obj Obj.PK_PERIOD_H = 0 then .next s
  else if m.pwr.asleep then .next { s with mgr := m.onSec (fun x => { x with due := true }) }
  else .next { s with mgr := m.rotate }

/-- A rotation that waited starts. -/
def Manager.rotateDue (m : Manager) : Manager := if m.sec.due then m.rotate else m

/-- ROTATION_COMPLETE: all four sweeps end: the old slot is erased, and PK_ROTATIONS advances. [DEDUCED, log 75] -/
def execRotationComplete (s : State) : Out :=
  let m := s.mgr
  if !m.sec.sweep ∨ m.pwr.asleep then .next s
  else .next { s with mgr := (m.sweepEnd.bump Obj.PK_ROTATIONS).rotateDue }

/-! ## The entropy source (R459) -/

/-- ENTROPY_HEALTH_FAIL: no random value is issued from here on; RNG_FAILED is recorded and a module fault counted. [DEDUCED, log 75] -/
def execEntropyHealthFail (s : State) : Out :=
  let m := s.mgr
  if m.sec.noRng then .next s
  else .next { s with mgr := ((m.onSec (fun x => { x with noRng := true })).event 0x302 0).moduleFault }

/-- Re-seeds that waited for a value are drawn, at the leader of the active unit (R163, R459). -/
def Manager.reseedOwed (m : Manager) : Manager :=
  if !m.active || !m.leads then m
  else ((m.rt.sw.filter (fun e => e.2.owed)).map (fun e => e.1)).foldl (fun m k => m.reseed k) m

/-- ENTROPY_HEALTH_PASS: random values are issued again: reads of SC_NONCE that waited are answered, a rotation and re-seeds that
waited start, and attestations go on. [DEDUCED, log 75] -/
def execEntropyHealthPass (s : State) : Out :=
  let m := s.mgr
  if !m.sec.noRng then .next s
  else
    let reqs := m.sec.waits
    let m := m.onSec (fun x => { x with noRng := false, waits := [] })
    let m := reqs.foldl (fun (m : Manager) r => m.answerView r m.drawNonce) m
    .next { s with mgr := m.rotateDue.reseedOwed.pump }

/-! ## IDE (R373, R481) -/

/-- SC_SPDM: an SPDM request is answered by the RTP with `resp`; it leaves the IDE stream in state `ide`, when it changes it. [DESIGN CHOICE, log 77] -/
def execScSpdm (req : Req) (data resp : List Byte) (ide : Option Nat) (s : State) : Out :=
  let m := s.mgr
  let res := m.writeResult req Obj.SC_SPDM data
  if res ≠ 0 then .next { s with mgr := m.answer req res }
  else
    let m := m.onDev (fun d => d.setBlob Obj.SC_SPDM resp)
    let m := match ide with
      | some k => (m.setObj Obj.SP_IDE_STATE (k % 4)).setObj Obj.HL_IDE (if k % 4 = 2 then 1 else 0)
      | none => m
    .next { s with mgr := m.postHeld.answer req 0 }

/-- IDE_STREAM_INSECURE: the link's IDE stream leaves the secure state. [DESIGN CHOICE, log 77] -/
def execIdeStreamInsecure (s : State) : Out :=
  let m := s.mgr
  if m.obj Obj.HL_IDE = 0 then .next s
  else .next { s with mgr := (m.setObj Obj.HL_IDE 0).setObj Obj.SP_IDE_STATE 3 }

end Sys2Proof.Machine
end

