-- ==== Sys2Proof/Machine/Power.lean ====
section
/-! DEFINITION. Sys2Proof/Machine/Power.lean: power domains, SENTINEL, the sentinel island, the hot-swap stage and the reset pin
(chapters "Power states and clocks" and "Connector, balls and electrical characteristics"). -/

namespace Sys2Proof.Machine

/-! ## Power domains (R507-R513) -/

/-- A line of a cell is queued or running. -/
def Manager.cellBusy (m : Manager) (cell : Nat) : Bool :=
  m.eng.runs.any (fun r => r.2.lines.any (fun l => l.cell == cell && (match l.phase with | .done _ => false | _ => true)))

/-- The states below ACTIVE that a manager's domain may take now (Table: Manager power domains). `quiet`: its port detects no
signal, or no presence. A domain with work takes none. [DESIGN CHOICE, log 78] -/
def Manager.permits (m : Manager) (d : Nat) (quiet : Bool) : List Nat :=
  if d ≤ 67 then (if (m.eng.cell d).st = .retired ∨ (m.eng.cell d).st = .spare ∨ m.cellBusy d then [] else [1, 2])
  else if d ≤ 71 then [1, 2]
  else if d ≤ 75 then (if m.sec.sweep || m.eng.stk.next.isSome then [] else [1, 2])
  else if d ≤ 78 then (if [76, 77, 78].any (fun k => k != d && m.dev.domain k == 0) then [1] else [])
  else if d ≤ 80 then [1]
  else if d ≤ 88 then (if quiet then [2] else [])
  else if d = 89 then [1]
  else if d ≤ 91 then (if quiet then [2] else [])
  else if d ≤ 94 then [1]
  else if d = 95 then (if m.obj Obj.SC_DEBUG = 2 then [1] else [1, 2])
  else []

/-- The states below ACTIVE that an agent's domain may take now (Table: Agent power domains). -/
def Agent.permits (a : Agent) (d : Nat) (quiet : Bool) : List Nat :=
  if d ≤ 1 then (if quiet then [2] else [])
  else if d ≤ 3 then [1]
  else if d = 4 then (if a.node.linkDown.isSome then [2] else [])
  else if d ≤ 6 then []
  else if d ≤ 11 then [1]
  else []

/-- DOMAIN_STATE_ENTRY: a domain has had no work for ten times an exit latency and enters the deepest permitted state. [DESIGN CHOICE, log 78] -/
def execDomainStateEntry (dev : At) (domain : Nat) (quiet : Bool) (s : State) : Out :=
  match dev with
  | none =>
    let m := s.mgr
    if m.pwr.asleep ∨ m.pwr.off then .next s
    else .next { s with mgr := m.onDev (fun d => d.rest domain (m.permits domain quiet)) }
  | some die => onAgent s die (fun a => if a.hears then a.onDev (fun d => d.rest domain (a.permits domain quiet)) else a)

/-- WORK_ARRIVAL: work arrives at a domain below ACTIVE, which begins to wake. [DESIGN CHOICE, log 78] -/
def execWorkArrival (dev : At) (domain : Nat) (s : State) : Out :=
  match dev with
  | none => .next { s with mgr := if s.mgr.pwr.asleep then s.mgr else s.mgr.onDev (fun d => d.wakeDomain domain) }
  | some die => onAgent s die (fun a => if a.hears then a.onDev (fun d => d.wakeDomain domain) else a)

/-- DOMAIN_WAKE_COMPLETE: a domain's exit latency ends, and it resumes where it stopped. [DESIGN CHOICE, log 78] -/
def execDomainWakeComplete (dev : At) (domain : Nat) (s : State) : Out :=
  match dev with
  | none => .next { s with mgr := s.mgr.onDev (fun d => d.awake domain) }
  | some die => onAgent s die (fun a => a.onDev (fun d => d.awake domain))

/-- PWR_WAKE_BUDGET: a class budget is written; domains deeper than it permits wake at once. -/
def execPwrWakeBudget (req : Req) (sub : Nat) (data : List Byte) (s : State) : Out :=
  let m := s.mgr
  let key := 0x130000 + sub
  let res := m.writeResult req key data
  if res ≠ 0 then .next { s with mgr := m.answer req res }
  else .next { s with mgr := ((m.writeObj req.fn 0 key data).onDev Dev.wakeDeeper).answer req 0 }

/-! ## SENTINEL of a manager module (R514, R515, R518) -/

/-- The wake budgets of a manager. -/
def budgets : List Nat :=
  [Obj.PWB_ENGINE, Obj.PWB_TABLE, Obj.PWB_STACKS, Obj.PWB_CONTROL, Obj.PWB_FIELD, Obj.PWB_TRIAD, Obj.PWB_HOSTPATH, Obj.PWB_RTP]

/-- The conditions of R514, whose 600 ms the command tells. -/
def Manager.maySleep (m : Manager) : Bool :=
  budgets.all (fun k => Nat.ble 60000 (m.obj k)) && (m.obj Obj.RD_STATE == 4 || m.obj Obj.RD_STATE == 8) &&
  !m.sec.sweep && m.eng.stk.next.isNone && m.obj Obj.FW_STATE != 1

/-- States of the domains in SENTINEL. -/
def sleepDomains : SMap Nat := (upTo 96).map (fun d => (d, if d ≤ 67 then 3 else if d ≤ 78 then 2 else 3))

/-- Every line that is not done ends. -/
def Manager.endEveryLine (m : Manager) (status : Nat) : Manager :=
  (m.eng.runs.map (fun r => r.1)).foldl (fun m c => m.endAllLines c status) m

/-- The module enters SENTINEL: the cells, field, triad and host-path domains and the RTP go off, and cell SRAM is lost;
the level lowers to NONE, the nonce is void and a sweep pauses (R470, R480). A module whose memory may have been altered by
INVASIVE access starts again at its exit. -/
def Manager.sleep (m : Manager) (thermal : Bool) : Manager :=
  let altered := m.obj Obj.SC_DEBUG == 2
  let m := ((m.endEveryLine 5).eraseSram).dropBarrier
  let n := m.obj Obj.PW_SENTINELS
  let m := if altered then (m.resetModule 4).setObj Obj.PW_SENTINELS n else { m with host := m.host.afterReset }
  let m := (m.setObj Obj.SC_DEBUG 0).onSec (fun x => { x with nonce := none, until_ := none })
  let m := m.bump Obj.PW_SENTINELS
  let m := m.onDev (fun d => { d with domains := sleepDomains, waking := [], net := { d.net with ports := [] } })
  { m with pwr := { m.pwr with asleep := true, thermal := thermal, restart := altered, wake := false } }

/-- SENTINEL_ENTRY_MANAGER: the conditions have held for 600 ms. In a triad the entry is an entry of the input stream, made by
the leader and applied by the other two. [DEDUCED, log 79] -/
def execSentinelEntryManager (s : State) : Out :=
  let m := s.mgr
  if m.pwr.asleep ∨ m.pwr.off then .next s
  else if m.dev.net.replay then .next { s with mgr := m.sleep false }
  else if !m.maySleep || !m.leads then .next s
  else
    let m := if m.red.slot.isSome then
      m.pushEntry { kind := .input m.dev.key m.dev.free, input := some .sentinelEntryManager } else m
    .next { s with mgr := m.sleep false }

/-- The exit from SENTINEL: the cause is latched, every domain is powered, cell SRAM reads zero, a rotation that was due
starts, and the field ports train. The barrier comes up with BARRIER_UP. WAKE# is driven while PERST# is asserted (R520). -/
def Manager.wakeUp (m : Manager) (cause : Nat) (start : StartIn) : Manager :=
  let again := m.pwr.restart
  let m := { m with pwr := { m.pwr with asleep := false, thermal := false, restart := false, wake := m.host.perst } }
  let m := m.onDev (fun d => { d with domains := [], waking := [] })
  let m := if again then m.startModule start else (m.derivePageKeys.trainPorts start).rotateDue
  m.setObj Obj.PW_WAKE_CAUSE cause

/-- A wake source ends SENTINEL; after a thermal entry only the temperature does (R519). -/
def Manager.wakeBy (m : Manager) (cause : Nat) (start : StartIn) : Manager :=
  if !m.pwr.asleep || (m.pwr.thermal && cause != 6) then m else m.wakeUp cause start

/-- SENTINEL_EXIT_MANAGER: the barrier's receive light (2), a field port's signal (3), a triad port's presence (4) or the
deassertion of PERST# (5) wakes the module. [DEDUCED, log 79] -/
def execSentinelExitManager (cause : Nat) (start : StartIn) (s : State) : Out :=
  if [2, 3, 4, 5].contains cause then .next { s with mgr := s.mgr.wakeBy cause start } else .next s

/-! ## SENTINEL of an agent (R516) -/

/-- The conditions of R516, whose 600 ms the command tells. -/
def Agent.maySleep (a : Agent) : Bool :=
  [Obj.PWB_ENGINE, Obj.PWB_TABLE, Obj.PWB_STACKS].all (fun k => Nat.ble 60000 (a.obj k)) &&
  a.node.linkDown.isSome && a.obj Obj.WF_FENCE == 0 && a.store.asm.isNone && a.store.pend.isNone

/-- The agent enters SENTINEL: node and field domains off, ports silent, fences released, what the control island holds kept;
its debug level returns to NONE (R470). -/
def Agent.sleep (a : Agent) (thermal : Bool) : Agent :=
  let a := (a.releaseFences 255).setObj Obj.SC_DEBUG 0
  let a := a.bump Obj.PW_SENTINELS
  let a := { a with link := { a.link with asleep := true, thermal := thermal, grant := none } }
  a.onDev (fun d => { d with domains := (upTo 12).map (fun i => (i, if i ≤ 6 then 3 else 2)), waking := []
                             net := { d.net with ports := [] } })

/-- SENTINEL_ENTRY_AGENT: the conditions have held for 600 ms. [DEDUCED, log 79] -/
def execSentinelEntryAgent (die : Nat) (s : State) : Out :=
  onAgent s die (fun a => if a.hears && a.maySleep then a.sleep false else a)

/-- The exit from SENTINEL: the control island restarts with its state retained (R332). -/
def Agent.wakeBy (a : Agent) (cause : Nat) : Agent :=
  if !a.link.asleep || (a.link.thermal && cause != 6) then a
  else
    let a := { a with link := { a.link with asleep := false, thermal := false } }
    let a := (a.onDev (fun d => { d with domains := [], waking := [] })).setObj Obj.PW_WAKE_CAUSE cause
    a.stopCores a.dev.fw false false

/-- SENTINEL_EXIT_AGENT: a field port's signal (3), a watch input (7), the node port's presence (8) or a START on the sideband
(9) wakes the agent. [DEDUCED, log 79] -/
def execSentinelExitAgent (die cause : Nat) (s : State) : Out :=
  onAgent s die (fun a => if [3, 7, 8, 9].contains cause then a.wakeBy cause else a)

/-- PW_WAKE_AT: local time reaches PW_WAKE_AT, and the manager module or the agent leaves SENTINEL. [DEDUCED, log 79] -/
def execPwWakeAt (dev : At) (start : StartIn) (s : State) : Out :=
  match dev with
  | none => .next { s with mgr := if s.mgr.obj Obj.PW_WAKE_AT = 0 then s.mgr else s.mgr.wakeBy 1 start }
  | some die => onAgent s die (fun a => if a.obj Obj.PW_WAKE_AT = 0 then a else a.wakeBy 1)

/-- AGENT_PARKED: the manager counts no missed heartbeat of the agent, and holds its stages, until its first HB_REPLY (R517). -/
def execAgentParked (nid : Nat) (s : State) : Out :=
  let m := s.mgr
  match mapGet m.fab.nodes nid with
  | none => .next s
  | some _ =>
    let m := m.entry (.agentParked nid)
    .next { s with mgr := m.setNode nid { m.node nid with parked := true } }

/-! ## The sentinel island's comparators (R519, R521) -/

/-- The module is unpowered: its hot-swap stage does not conduct. -/
def Manager.powerOff (m : Manager) : Manager :=
  let m := m.dropBarrier
  let m := m.onDev (fun d => { d with net := { d.net with ports := [] } })
  { m with pwr := { m.pwr with off := true, asleep := false, thermal := false } }

/-- SUPPLY_WARNING: the 54 V input is below 42.0 V. -/
def execSupplyWarning (s : State) : Out :=
  let m := s.mgr
  if m.pwr.off then .next s
  else .next { s with mgr := (m.onDev (fun d => { d with health := d.health ||| 0x10 })).event 0x306 0 }

/-- UNDERVOLTAGE: the 54 V input is at `mv`, below 38.0 V: the stage turns off. Below 20 V an overcurrent is forgotten (R528). [DEDUCED, log 80] -/
def execUndervoltage (mv : Nat) (s : State) : Out :=
  if 38000 ≤ mv then .next s
  else
    let m := s.mgr.powerOff
    .next { s with mgr := if mv < 20000 then { m with pwr := { m.pwr with tripped := false } } else m }

/-- OVERVOLTAGE: the 54 V input is above 63.0 V: the stage turns off. -/
def execOvervoltage (s : State) : Out := .next { s with mgr := s.mgr.powerOff }

/-- AGENT_UNDERVOLTAGE: a supply of the agent is below its threshold: the agent is held in reset until AGENT_START. [DEDUCED, log 80] -/
def execAgentUndervoltage (die : Nat) (s : State) : Out :=
  onAgent s die (fun a => ({ a with link := { a.link with lowSupply := true } } : Agent).reset 0)

/-- DV_HEALTH [3] is set and TEMP_WARNING recorded. -/
def Dev.hot (d : Dev) : Dev := { d with health := d.health ||| 8 }

/-- TEMP_WARNING: the die is above 100 °C. -/
def execTempWarning (dev : At) (s : State) : Out :=
  match dev with
  | none => .next { s with mgr := if s.mgr.pwr.off then s.mgr else (s.mgr.onDev Dev.hot).event 0x305 0 }
  | some die => onAgent s die (fun a => if a.link.held then a else (a.onDev Dev.hot).event 0x305 0)

/-- TEMP_CRITICAL: the die is above 115 °C: the part enters SENTINEL at once; a manager counts a module fault (R276). -/
def execTempCritical (dev : At) (s : State) : Out :=
  match dev with
  | none =>
    let m := s.mgr
    if m.pwr.off then .next s
    else if m.pwr.asleep then .next { s with mgr := { m with pwr := { m.pwr with thermal := true } } }
    else .next { s with mgr := m.moduleFault.sleep true }
  | some die => onAgent s die (fun a =>
    if a.link.held then a
    else if a.link.asleep then { a with link := { a.link with thermal := true } }
    else a.sleep true)

/-- The temperature warning ends. -/
def Dev.cool (d : Dev) : Dev := { d with health := d.health &&& ~~~8#32 }

/-- TEMP_RECOVERED: after a thermal entry the die is below 90 °C, and the part wakes. [DEDUCED, log 79] -/
def execTempRecovered (dev : At) (start : StartIn) (s : State) : Out :=
  match dev with
  | none => .next { s with mgr := if s.mgr.pwr.asleep && s.mgr.pwr.thermal then (s.mgr.wakeBy 6 start).onDev Dev.cool else s.mgr }
  | some die => onAgent s die (fun a => if a.link.asleep && a.link.thermal then (a.wakeBy 6).onDev Dev.cool else a)

/-- REFERENCE_LOST: local time goes on from the on-die oscillator; the field ports, and a manager's triad ports, stop. At a
manager every estimate is invalid and a module fault is counted. [DEDUCED, log 80] -/
def execReferenceLost (dev : At) (s : State) : Out :=
  match dev with
  | none =>
    let m := s.mgr
    if m.pwr.off ∨ m.pwr.portsHeld then .next s
    else
      let m := (m.setObj Obj.PW_REF_LOST 1).onDev (fun d => { d with net := { d.net with ports := [] } })
      let m := { m with pwr := { m.pwr with portsHeld := true }
                        fab := { m.fab with nodes := m.fab.nodes.map (fun (n : Nat × NodeInfo) => (n.1, { n.2 with estimate := false })) } }
      .next { s with mgr := m.moduleFault }
  | some die => onAgent s die (fun a =>
    if a.link.held then a
    else
      let a := { a with link := { a.link with refLost := true } }
      (a.setObj Obj.PW_REF_LOST 1).onDev (fun d => { d with net := { d.net with ports := [] } }))

/-- REFERENCE_RESTORED: edges arrive again, and the ports that stopped resume, in the states they train to. [DESIGN CHOICE, log 11] -/
def execReferenceRestored (dev : At) (ports : SMap Nat) (s : State) : Out :=
  match dev with
  | none =>
    let m := s.mgr
    if !m.pwr.portsHeld then .next s
    else
      let on := if m.pwr.off || m.pwr.asleep || m.pwr.noBoot then [] else trained ports
      let m := { m with pwr := { m.pwr with portsHeld := false } }
      .next { s with mgr := m.onDev (fun d => { d with net := { d.net with ports := on } }) }
  | some die => onAgent s die (fun a =>
    if !a.link.refLost then a
    else
      ({ a with link := { a.link with refLost := false } }).withPorts (if a.hears then trained ports else []))

/-- SIGNAL_DETECT: a field port's signal detect changes: a part in SENTINEL wakes, else the port's domain does. [DESIGN CHOICE, log 11] -/
def execSignalDetect (dev : At) (port : Nat) (start : StartIn) (s : State) : Out :=
  match dev with
  | none =>
    let m := s.mgr
    if m.pwr.asleep then .next { s with mgr := m.wakeBy 3 start }
    else if 8 ≤ port then .next s
    else .next { s with mgr := m.onDev (fun d => d.wakeDomain (81 + port)) }
  | some die => onAgent s die (fun a =>
    if a.link.asleep then a.wakeBy 3 else if 2 ≤ port then a else a.onDev (fun d => d.wakeDomain port))

/-- TRIAD_PRESENCE_GAIN: a peer appears at triad port A (0) or B (1): a module in SENTINEL wakes, else the port's domain does. -/
def execTriadPresenceGain (port : Nat) (start : StartIn) (s : State) : Out :=
  let m := s.mgr
  if m.pwr.asleep then .next { s with mgr := m.wakeBy 4 start }
  else if 2 ≤ port then .next s
  else .next { s with mgr := m.onDev (fun d => d.wakeDomain (90 + port)) }

/-! ## The hot-swap stage and the reset pin (R528, R530, R531) -/

/-- HS_EN_CLOSE: HS_EN is joined to 54V_RTN: the stage conducts, and forgets an overcurrent; the module is in reset until its
start (MODULE_START). [DEDUCED, log 80] -/
def execHsEnClose (s : State) : Out :=
  let m := s.mgr
  if !m.pwr.opened then .next s
  else
    let m := { m with pwr := { m.pwr with opened := false, tripped := false, off := false } }
    let m := m.resetModule 0
    .next { s with mgr := { m with pwr := { m.pwr with inReset := true } } }

/-- HS_EN_OPEN: the stage turns off. [DEDUCED, log 80] -/
def execHsEnOpen (s : State) : Out :=
  let m := s.mgr.powerOff
  .next { s with mgr := { m with pwr := { m.pwr with opened := true } } }

/-- OVERCURRENT: a current above 12 A has lasted 2 ms once the stage conducts: it turns off and stays off. -/
def execOvercurrent (s : State) : Out :=
  if s.mgr.pwr.off then .next s
  else
    let m := s.mgr.powerOff
    .next { s with mgr := { m with pwr := { m.pwr with tripped := true } } }

/-- MRST: MRST# resets the field side; the host link stays up with BARRIER_UP clear. A module in reset since power came stays in that
reset, whose cause is the higher (R537). [DEDUCED, log 80] -/
def execMrst (start : StartIn) (s : State) : Out :=
  let m := s.mgr
  if m.pwr.off ∨ m.pwr.inReset then .next s else .next { s with mgr := (m.resetModule 1).startModule start }

/-- FAULT# is driven low: the field side is in reset, RD_STATE is OUT_OF_SERVICE, or the stage has turned off by overcurrent
(R531). [DEDUCED, log 80] -/
def Manager.faultPin (m : Manager) : Bool := m.pwr.tripped || (!m.pwr.off && (m.pwr.inReset || m.obj Obj.RD_STATE == 8))

/-- WAKE# is driven low: a wake source is latched and PERST# is asserted (R520). [DEDUCED, log 80] -/
def Manager.wakePin (m : Manager) : Bool := m.pwr.wake && m.host.perst

end Sys2Proof.Machine
end

