-- ==== Sys2Proof/Machine/LineEngine.lean ====
section
/-! DEFINITION. Sys2Proof/Machine/LineEngine.lean: the commands of the line engine and of its arrays (chapters "The line
engine" and "Tile formats and semiring arithmetic"). -/

namespace Sys2Proof.Machine

/-! ## One stage on one tile -/

/-- What a stage comes to: the line goes on, waits, or ends with a status. -/
inductive StageOut where
  | go (m : Manager) (l : LineRun)
  | wait
  | finish (m : Manager) (status : Nat)

/-- A tile of free elements: what an operation delivers whose result R88 and R12 leave unpredictable. [DEDUCED, log 13; DESIGN CHOICE, log 83] -/
def openTile (d : Dev) (fmt : Nat) : Tile :=
  { fmt := fmt, elems := (upTo 4096).map (fun n => Config.freeNat d.key (d.free + n) % 2 ^ elemBits fmt) }

/-- The same for the 64 port bitmaps of CANON. -/
def openBitmaps (d : Dev) : Tile := { fmt := 8, elems := (upTo 64).map (fun n => Config.freeNat d.key (d.free + n) % 2 ^ 128) }

/-- The semiring suits the formats and, for CLOSE, defines a closure (R103); K is 1-64 where it is read (R88). [DEDUCED, log 13] -/
def burinSuits (l : LineDesc) (op : Nat) : Bool :=
  let f := (l.fmtIn, l.fmtAcc)
  (match l.semiring with
   | 1 => f == (0, 0) | 2 => f == (1, 1) | 3 => f == (2, 2) | 4 => f == (3, 3)
   | 5 => f == (4, 5) && op != 2 | 6 => f == (6, 7) && op != 2 | 7 => f == (0, 0) | _ => false) &&
  (decide (2 ≤ op) || (decide (1 ≤ l.k) && decide (l.k ≤ 64)))

/-- Applies an upset that strikes the element a step delivers; and whether the residues will show it. [DESIGN CHOICE, log 15] -/
def strike (u : Option Upset) (shows : Bool) (t : Tile) : Tile × Bool :=
  match u with
  | none => (t, false)
  | some u =>
    match u.product with
    | some _ => (t, false)
    | none =>
      let v := tileAt t (u.row % 64) (u.col % 64)
      let w := (v ^^^ u.mask) % 2 ^ elemBits t.fmt
      ({ t with elems := t.elems.set (64 * (u.row % 64) + u.col % 64) w }, shows && upsetShows t.fmt v w)

/-- An upset's effect on a ⊗ result, and whether the lane's check of that product shows it (R113, R115). -/
def strikeProduct (u : Option Upset) (i j k v : Nat) : Nat :=
  match u with
  | some { row := r, col := c, product := some n, mask := x } => if r = i ∧ c = j ∧ n = k then v ^^^ x else v
  | _ => v

/-- Whether an upset of a product is shown: by its lane's check of a MAC, a MUL or a pass of CLOSE (R113, R115), or in BOOL, whose
products have no check, by the rows' parity where the result differs (R114). `res` is the result under an assignment of
products, `at_` the product of an inner index. -/
def productShows (u : Option Upset) (l : LineDesc) (op : Nat) (res : (Nat → Nat → Nat → Nat → Nat) → Tile) (at_ : Nat → Nat → Nat → Nat) : Bool :=
  match u with
  | some { row := r, col := c, product := some n, mask := x } =>
    decide (r < 64) && decide (c < 64) && decide (n < (if op = 2 then 64 else l.k)) &&
    (if l.semiring = 4 then rowsDiffer (res (fun i j k v => strikeProduct u i j k v)) (res (fun _ _ _ v => v))
     else upsetShows l.fmtAcc (at_ r c n) (at_ r c n ^^^ x))
  | _ => false

/-- An upset that changes bits of an element of a format. -/
def upsetWithin (u : Upset) (fmt : Nat) : Upset := { u with mask := u.mask % 2 ^ elemBits fmt }

/-- Burin (R71, R98-R104). MAC and EWISE accumulate into C; CLOSE closes the tile that the stage before produced, which after
Ground is C where the line names it or FILL sets it. A stream's FORMAT and a tile's format are not compared with FMT_IN and
FMT_ACC: the operation acts on the patterns as they are read. [DEDUCED, log 13; DESIGN CHOICE, log 92; DESIGN CHOICE, log 105] -/
def burinStage (m : Manager) (l : LineRun) (op prev : Nat) (u : Option Upset) : StageOut :=
  let d := l.desc
  let u := u.map (fun x => upsetWithin x d.fmtAcc)
  let a := if l.stage = 0 ∨ prev / 32 = 1 ∨ prev / 32 = 4 then l.a else l.cur
  if decide (4 ≤ op) || !burinSuits d op then
    .go m.drawTile { l with acc := openTile m.dev d.fmtAcc, cur := openTile m.dev d.fmtAcc }
  else
    let zero := tileFill d.fmtAcc (plusIdentity d.semiring d.fmtAcc)
    let acc := if l.acc.elems.isEmpty then zero else l.acc
    let fromC := decide (prev / 32 = 1) && (d.strC != 4095 || prev == 0x22)
    let base := if op = 1 then zero else if op = 2 ∧ !fromC ∧ !l.cur.elems.isEmpty then { l.cur with fmt := d.fmtAcc } else acc
    let res := fun (up : Nat → Nat → Nat → Nat → Nat) =>
      if op ≤ 1 then tileOf d.fmtAcc (fun i j => macAt d.semiring d.k a l.b (tileAt base i j) i j up m.dev.key m.dev.free)
      else if op = 2 then closeTile d.semiring up base
      else tileOf d.fmtAcc (fun i j => ewiseAt d.semiring (tileAt a i j) (tileAt acc i j))
    let product := fun (i j n : Nat) =>
      if op = 2 then (let c := closeUpTo d.semiring n (fun _ _ _ v => v) base; semTimes d.semiring (tileAt c i n) (tileAt c n j))
      else semTimes d.semiring (tileAt a i n) (tileAt l.b n j)
    let p := decide (op ≤ 2) && productShows u d op res product
    let s := strike u (d.semiring != 6) (res (fun i j k v => strikeProduct u i j k v))
    let m := if d.semiring = 6 then m.drawTile else m
    .go m { l with acc := s.1, cur := s.1, bad := l.bad || p || s.2 }

/-- A reduction's input is of a format its ⊕ acts on: the accumulator's, or for IMAC and FMAC the operand's too (R88, R98,
R103). [DEDUCED, log 13] -/
def redSuits (sem fmt : Nat) : Bool :=
  match sem with
  | 1 => fmt == 0 | 2 => fmt == 1 | 3 => fmt == 2 | 4 => fmt == 3 | 5 => fmt == 5 || fmt == 4 | 6 => fmt == 7 || fmt == 6
  | 7 => fmt == 0 | _ => false

/-- Hatch (R105-R107). -/
def hatchStage (m : Manager) (l : LineRun) (op : Nat) (u : Option Upset) : StageOut :=
  let d := l.desc
  let t := l.cur
  let done := fun (r : Tile) =>
    let s := strike u (!(decide (op ≤ 1) && d.semiring == 6)) r
    StageOut.go (if op ≤ 1 ∧ d.semiring = 6 then m.drawTile else m) { l with cur := s.1, bad := l.bad || s.2 }
  if (decide (op ≤ 1) && !redSuits d.semiring t.fmt) || decide (6 ≤ op) then
    .go m.drawTile { l with cur := openTile m.dev t.fmt }
  else if op = 0 then
    done (tileOf t.fmt (fun i j => if j = 0 then redOf d.semiring t.fmt (rowOf t i) m.dev.key (m.dev.free + 200 * i)
      else plusIdentity d.semiring t.fmt))
  else if op = 1 then
    done (tileOf t.fmt (fun i j => if i = 0 then redOf d.semiring t.fmt (colOf t j) m.dev.key (m.dev.free + 200 * j)
      else plusIdentity d.semiring t.fmt))
  else if op ≤ 3 then done (tileOf 4 (fun i j => if j = 0 then argOf t.fmt (op == 2) (rowOf t i) else 0))
  else done (cmpTile d.semiring d.imm (op == 5) t l.c)

/-- The ⊕ identity has room in an element of a format; where it has none the format does not suit (R88, R97). [DEDUCED, log 13] -/
def identityFits (sem fmt : Nat) : Bool := decide (plusIdentity sem fmt < 2 ^ elemBits fmt)

/-- Bite (R71), under a mask. AND and ANDNOT act on B1 alone, and MASK_OUT and MASK_IN on elements that hold the ⊕ identity of
SEMIRING: any other tile is a format that does not suit. [DEDUCED, log 13; DESIGN CHOICE, log 92] -/
def biteStage (m : Manager) (l : LineRun) (op : Nat) (mask : Tile) (u : Option Upset) : StageOut :=
  let t := l.cur
  let idt := plusIdentity l.desc.semiring t.fmt
  if (decide (2 ≤ op) && t.fmt != 3) || decide (4 ≤ op) || (decide (op ≤ 1) && !identityFits l.desc.semiring t.fmt) then
    .go m.drawTile { l with cur := openTile m.dev t.fmt }
  else
    let r := tileOf t.fmt (fun i j =>
      let v := tileAt t i j
      let k := tileAt mask i j
      if op = 0 then (if k = 1 then idt else v)
      else if op = 1 then (if k = 0 then idt else v)
      else if op = 2 then (if v = 1 ∧ k = 1 then 1 else 0)
      else (if v = 1 ∧ k = 0 then 1 else 0))
    let s := strike u true r
    .go m { l with cur := s.1, bad := l.bad || s.2 }

/-! ## Reading and writing tiles -/

/-- The first word of bytes of memory that fails its code (R123): of cell SRAM by the words known to fail, of the link table by
its entries. -/
def firstFailing (m : Manager) (space addr size : Nat) : Option Nat :=
  match m.eng.failing.find? (fun w => Nat.ble (addr / 8) w && decide (w < (addr + size + 7) / 8)) with
  | some w => some (8 * w)
  | none =>
    if space = 3 ∧ linkBase ≤ addr ∧ addr < annexBase then
      ((upTo (size / 32)).find? (fun i => (linkOf m.fab.links ((addr - linkBase) / 32 + i)).failing)).map (fun i => addr + 32 * i)
    else none

/-- The tile a reference holds. -/
def readTile (m : Manager) (fmt : Nat) (r : TileRef) : Tile := tileFromBytes fmt (m.refBytes r)

/-- Writes bytes at a reference; a word written has a fresh code (R123). -/
def writeTile (m : Manager) (r : TileRef) (bs : List Byte) : Manager :=
  let m := if r.space = 3 then m.tableStore r.addr (bs.take r.size)
    else if r.space = 2 then m.stackWrite r.addr (bs.take r.size)
    else m.onEng (fun e => { e with mem := memWriteN e.mem r.addr (bs.take r.size) })
  m.onEng (fun e => { e with
    failing := e.failing.filter (fun w => decide (w < r.addr / 8) || Nat.ble ((r.addr + r.size + 7) / 8) w) })

/-- The references that a stage reads, by register (0 A, 1 B, 2 C, 3 the mask): one per stream it names. -/
def loadRefs (p : Program) (l : LineRun) (stage : Nat) : List (Nat × StreamDesc × Nat) :=
  let d := l.desc
  let all := usesOf d 8
  let before := usesOf d l.stage
  let pick := fun (reg id per used : Nat) => (p.stream id).map (fun s => (reg, s, l.tile * per + used))
  let gathered := (stagesOf d).contains 0x80
  if stage = 0x80 then
    [pick 0 d.strA all.1 before.1, pick 1 d.strB all.2.1 before.2.1].filterMap (fun x => x)
  else if stage / 32 = 1 then
    [(if gathered then none else pick 0 d.strA all.1 before.1), pick 1 d.strB all.2.1 before.2.1,
     (if stage = 0x22 then none else pick 2 d.strC all.2.2.1 before.2.2.1)].filterMap (fun x => x)
  else if stage / 32 = 5 then [pick 3 d.strM all.2.2.2 before.2.2.2].filterMap (fun x => x)
  else []

/-- Transposes a tile. -/
def transpose (t : Tile) : Tile := tileOf t.fmt (fun i j => tileAt t j i)

/-- Ground and GATHER with their tiles read: they stand in the registers, with fresh residues (R111). GATHER ends the line with
BOUNDS on a column index of 64 or above. [DESIGN CHOICE, log 105] -/
def finishLoad (m : Manager) (p : Program) (l : LineRun) (stage : Nat) : StageOut :=
  let d := l.desc
  let tile := fun (reg : Nat) => mapGet l.got reg
  let l := { l with got := [] }
  if stage = 0x80 then
    let recs := gatherRecs ((tile 0).getD {}) ((tile 1).getD {})
    if recs.any (fun r => decide (64 ≤ r.2.1)) then .finish m 4
    else
      let g := if identityFits d.semiring d.fmtIn then gatherTile d.semiring d.fmtIn recs else openTile m.dev d.fmtIn
      .go (if identityFits d.semiring d.fmtIn then m else m.drawTile) { l with a := g, cur := g }
  else
    let a := match tile 0 with
      | some t => if stage = 0x21 then transpose t else t
      | none => l.a
    let b := (tile 1).getD l.b
    let l := { l with a := a, b := b }
    if stage = 0x22 then
      let f := tileFill d.fmtAcc (d.imm % 2 ^ 32)
      .go m { l with c := f, acc := f, cur := f }
    else match tile 2 with
      | some t => .go m { l with c := t, acc := t, cur := if (p.stream d.strA).isSome then a else t }
      | none => .go m { l with cur := if (p.stream d.strA).isSome then a else b }

/-- A stage that reads streams, once their tiles are there. -/
def finishStage (m : Manager) (p : Program) (l : LineRun) (stage : Nat) (u : Option Upset) : StageOut :=
  if stage / 32 = 5 then biteStage m { l with got := [], upset := none } (stage % 32) ((mapGet l.got 3).getD {}) u
  else finishLoad m p l stage

/-- The lowest free tags of a physical cell (R84). -/
def freeTags (e : Engine) (phys n : Nat) : List Nat :=
  ((upTo 512).filter (fun t => (mapGet e.tags (phys * 512 + t)).isNone)).take n

/-- Requests go out under the lowest free tags of the line's cell; none where tags are short (R84). Also the tags taken. Those to
the stacks are counted on their channels (R169). -/
def Manager.takeTags (m : Manager) (cell : Nat) (reqs : List MemTag) : Option (Manager × List Nat) :=
  match m.eng.phys cell with
  | none => none
  | some ph =>
    let tags := (freeTags m.eng ph reqs.length).map (fun t => ph * 512 + t)
    if tags.length < reqs.length then none
    else
      let m := m.countPages ((reqs.filter (fun r => r.space == 2)).flatMap (fun r => pagesFrom r.addr r.size))
      some (m.onEng (fun e => { e with tags := (tags.zip reqs).foldl (fun ts x => mapSet ts x.1 x.2) e.tags }), tags)

/-- A reference needs a memory request: it lies outside the cell's SRAM, or its tile has been spilled to the stacks (R82). -/
def isFar (run : Run) (r : TileRef) : Bool := r.space != 0 || (mapGetD run.away r.cell []).contains r.addr

/-- The request for a reference. -/
def requestFor (c gen line : Nat) (run : Run) (reg fmt : Nat) (store : Bool) (r : TileRef) : MemTag :=
  { ctx := c, gen := gen, line := line, addr := r.addr, size := r.size, reg := reg, fmt := fmt, store := store
    space := if !store && (mapGetD run.away r.cell []).contains r.addr then 2 else r.space }

/-- UNCORRECTABLE names the array (0 cell SRAM, 1 table memory, 2 the memory stacks) and the address (R123). [DESIGN CHOICE, log 93] -/
def Manager.badWord (m : Manager) (array addr ctx : Nat) : Manager :=
  (m.bump (if array = 0 then Obj.AR_SRAM_UNCORR else if array = 1 then Obj.AR_TABLE_UNCORR else Obj.AR_STACK_UNCORR)).eventOf 0x083 ctx [array, addr]

/-- The list words that references need (R65): those of cell SRAM are read as the stage resolves its references; the others
are asked for under tags first, and the stage is granted again once they have come (R84). A word that fails its code ends the
line with UNCORRECTABLE (R71, R123). None: every word is at hand. -/
def Manager.askWords (m : Manager) (c : Nat) (run : Run) (p : Program) (l : LineRun) (refs : List (Nat × StreamDesc × Nat)) : Option StageOut :=
  let words := (refs.filter (fun r => r.2.1.mode != 0 && (mapGet l.words r.1).isNone)).filterMap (fun r =>
    (m.listWord c run p l.cell r.2.1 r.2.2).map (fun w => (r.1, w)))
  let far := words.filter (fun w => w.2.space != 0)
  match (words.filter (fun w => w.2.space == 0)).filterMap (fun w => firstFailing m 0 w.2.addr w.2.size) with
  | a :: _ => some (.finish (m.badWord 0 a c) 3)
  | [] =>
    if far.isEmpty then none
    else match m.takeTags l.cell (far.map (fun w =>
        { requestFor c (m.ctx c).gen l.desc.id run w.1 0 false w.2 with word := true })) with
      | none => some .wait
      | some r => some (.go r.1 { l with phase := .waitMem, tags := r.2, failed := false })

/-- A stage that reads streams: tiles in cell SRAM are read at its grant (R86); the others are asked for under tags, and the line
waits for their replies, or for tags where they are short (R84). A spilled tile of the cell is that of the grant too: its
reply only delivers it. A reference outside the quota ends the line with BOUNDS, a failing word with UNCORRECTABLE. -/
def loadStage (m : Manager) (c : Nat) (run : Run) (p : Program) (l : LineRun) (stage : Nat) (u : Option Upset) : StageOut :=
  let u := u.or l.upset
  let want := loadRefs p l stage
  if want.any (fun r => r.2.1.mode != 0 && (m.listWord c run p l.cell r.2.1 r.2.2).isNone) then .finish m 4
  else match m.askWords c run p { l with upset := u } want with
  | some out => out
  | none =>
    let refs := want.map (fun r => (r.1, r.2.1.format, m.resolve c run p l r.1 r.2.1 r.2.2))
    if refs.any (fun r => r.2.2.isNone) then .finish m 4
    else
      let found := refs.filterMap (fun r => r.2.2.map (fun x => (r.1, (if r.1 = 3 then 3 else r.2.1), x)))
      let here := found.filter (fun r => r.2.2.space == 0)
      let far := found.filter (fun r => isFar run r.2.2)
      match here.filterMap (fun r => (firstFailing m r.2.2.space r.2.2.addr r.2.2.size).map (fun a => (isFar run r.2.2, a))) with
      | a :: _ => .finish (m.badWord (if a.1 then 2 else 0) a.2 c) 3
      | [] =>
        let l := { l with got := here.foldl (fun g r => mapSet g r.1 (readTile m r.2.1 r.2.2)) [], words := [] }
        if far.isEmpty then finishStage m p l stage u
        else match m.takeTags l.cell (far.map (fun r => requestFor c (m.ctx c).gen l.desc.id run r.1 r.2.1 false r.2.2)) with
          | none => .wait
          | some r => .go r.1 { l with phase := .waitMem, tags := r.2, failed := false, upset := u }

/-- Bytes of one reference of the output: a whole tile, or half of CANON's 64 bitmaps (R104). -/
def outPieces (t : Tile) : List (List Byte) :=
  if t.fmt = 8 then [(tileToBytes t).take 512, (tileToBytes t).drop 512] else [tileToBytes t]

/-- The next n references of O, those that O still has: piece n under register 4 + n. -/
def storeRefs (p : Program) (l : LineRun) (n : Nat) : List (Nat × StreamDesc × Nat) :=
  match p.stream l.desc.strO with
  | none => []
  | some s => (upTo (min n (streamCount s - l.posO))).map (fun i => (4 + i, s, l.posO + i))

/-- Where they lie. -/
def nextRefs (m : Manager) (c : Nat) (run : Run) (p : Program) (l : LineRun) (n : Nat) : List (Option TileRef) :=
  (storeRefs p l n).map (fun r => m.resolve c run p l r.1 r.2.1 r.2.2)

/-- Pull STORE and STORE_RIT, and SCATTER's writes: each piece goes to the next reference of O; the flag says that O had one
for each (R74). Where O has one reference left for CANON's two half tiles, the first is written and the second finds O
exhausted. [DESIGN CHOICE, log 92] -/
def storePieces (m : Manager) (l : LineRun) : List (Option TileRef) → List (List Byte) → Manager × LineRun × Bool
  | _, [] => (m, l, true)
  | some r :: refs, b :: rest => storePieces (writeTile m r b) { l with posO := l.posO + 1 } refs rest
  | _, _ :: _ => (m, l, false)

/-- Stores the pieces, those outside the cell's SRAM under tags; the line does not wait for the replies of its stores, and waits
where tags are short (R84). `k` goes on with whether O had a reference for each piece. -/
def storeStage (m : Manager) (c : Nat) (run : Run) (p : Program) (l : LineRun) (pieces : List (List Byte))
    (k : Manager → LineRun → Bool → StageOut) : StageOut :=
  let want := storeRefs p l pieces.length
  match m.askWords c run p l (want.takeWhile (fun r => r.2.1.mode == 0 || (m.listWord c run p l.cell r.2.1 r.2.2).isSome)) with
  | some out => out
  | none =>
    let refs := nextRefs m c run p l pieces.length
    let far := (refs.takeWhile (fun r => r.isSome)).filterMap (fun r => r.filter (fun x => x.space != 0))
    let put := fun (m : Manager) => let r := storePieces m { l with words := [] } refs pieces; k r.1 r.2.1 r.2.2
    match m.takeTags l.cell (far.map (fun r => requestFor c (m.ctx c).gen l.desc.id run 0 0 true r)) with
    | none => if far.isEmpty then put m else .wait
    | some t => put t.1

/-- A list of bytes cut into pieces of a length, at most `fuel` of them. -/
def cutPieces (size : Nat) : Nat → List Byte → List (List Byte)
  | 0, _ => []
  | fuel + 1, bs => if bs.length ≤ size then [bs] else bs.take size :: cutPieces size fuel (bs.drop size)

/-- SCATTER (R71): the records of the tile, row by row, fill successive references of O, each with what its tile has room for;
what O has no references for is not written, since the operation has no errors. [DESIGN CHOICE, log 92] -/
def scatterStage (m : Manager) (c : Nat) (run : Run) (p : Program) (l : LineRun) : StageOut :=
  match p.stream l.desc.strO with
  | none => .go m l
  | some s =>
    let bs := (scatterRecs l.desc.semiring l.cur).flatMap (leBytes 8)
    storeStage m c run p l (cutPieces (tileBytes s.format) 4096 bs) (fun m l _ => .go m l)

/-- The candidate that EMIT's frames are of: that of the computation or the installation in progress, else the next number with no
plates. -/
def Manager.emitted (m : Manager) : Nat × SMap Plate :=
  match m.rt.comp, m.inst.cand with
  | some c, _ => (c.number, c.plates)
  | none, some c => (c.imp.number, c.imp.plates)
  | none, none => (nextImp (m.obj Obj.IMP_COMMITTED), [])

/-- The install frame EMIT makes of a tile for an agent (R189): a stage header of the candidate's number, and fragment `frag` of
`count`; the header record in fragment 0, open where the candidate has no plate of the agent; and the tile's 16-byte entries
as records of the block section, of which fragment n gives the next places. -/
def Manager.emitFrame (m : Manager) (dst frag count : Nat) (t : Tile) : List Byte :=
  let c := m.emitted
  let bs := tileToBytes t
  let es := (upTo (min 512 (bs.length / 16))).map (fun i => fieldAt bs (16 * i) 16)
  let head := ((c.2.find? (fun e => m.agentOf e.1 == dst)).map (fun e => e.2.header)).getD (m.dev.openNat % 2 ^ 2048)
  leBytes 16 (c.1 * 2 ^ 96 + m.obj Obj.IMP_COMMITTED * 2 ^ 64 + frag * 2 ^ 48 + count * 2 ^ 32) ++
    (if frag = 0 then StageRec.bytes { sec := 0, mode := 0, first := 0, count := 1, entries := [head] } else []) ++
    (runRecs 1 (frag * es.length % 512) es).flatMap StageRec.bytes

/-- Pull EMIT: the frame goes to the agent that the reference names, or by 0x3FFFF to a multicast group, which the manual says the
plate stream names and not where: an open one. A reference is issued REPEAT + 1 times, each a fragment. Egress is never full
in the model (log 9). A reference of another space, or another context than 0, sends nothing (R60, R71). [DESIGN CHOICE, log 92] -/
def emitStage (m : Manager) (c : Nat) (run : Run) (p : Program) (l : LineRun) : StageOut :=
  match nextRefs m c run p l 1 with
  | some r :: _ =>
    let l' := { l with posO := l.posO + 1 }
    if c ≠ 0 ∨ r.space ≠ 5 then .go m l'
    else
      let n := match p.stream l.desc.strO with | some s => s.again + 1 | none => 1
      let msg := Msg.stage (m.emitFrame r.addr (l.posO % n) n l.cur)
      let m' := m.onDev Dev.drawn
      let m' := if r.addr = nidAll then m'.sendCmd nidAll (0xE000 + m'.dev.openNat % 0x1000) 0 0 msg else m'.cmdAgent r.addr msg
      .go (m'.onDev Dev.drawn) l'
  | _ => .finish m 4

/-- Pull (R71, R74). [DESIGN CHOICE, log 105] -/
def pullStage (m : Manager) (c : Nat) (run : Run) (p : Program) (l : LineRun) (op : Nat) : StageOut :=
  if op = 2 then emitStage m c run p l
  else if 3 ≤ op then .go m { l with posO := l.posO + 1 }
  else storeStage m c run p l (outPieces l.cur) (fun m l all => if all then .go m l else .finish m 4)

/-- A residue mismatch at Proof (Table: Residue mismatch handling): the first abandons the tile and recomputes it, the
second retires the cell. -/
def mismatch (m : Manager) (l : LineRun) : StageOut :=
  let m := m.bump Obj.AR_MISMATCH
  if l.retry then
    match m.eng.phys l.cell with
    | some ph => .go (m.markRetiring ph) { l with phase := .stopped, out := false, buffer := [], hashed := [], tags := [] }
    | none => .go m l
  else .go m { l with retry := true, bad := false, stage := 0, acc := l.pre, posO := l.preO, cur := {}, got := [], words := [] }

/-- A retry that passed is counted (R117 step 4), and the cell's retries of the last hour may warn, naming the cell (R120). -/
def retryPassed (m : Manager) (c : Nat) (l : LineRun) : Manager :=
  let m := (m.bump (ctxKey Obj.LP_RETRY c)).bump Obj.AR_RETRY_OK
  match m.eng.phys l.cell with
  | none => m
  | some ph =>
    let pc := m.eng.cell ph
    let times := inWindow pc.retries m.dev.time 3600 ++ [m.dev.time]
    let limit := m.obj Obj.AR_RETRY_WARN
    let warnedLately := match pc.warned with
      | some t => decide (m.dev.time < t + 3600 * 1000000000)
      | none => false
    let warn := decide (limit ≠ 0) && Nat.ble limit times.length && !warnedLately
    let m := m.onEng (fun e => e.setCell ph { pc with retries := times, warned := if warn then some m.dev.time else pc.warned })
    if warn then m.eventOf 0x081 0 [ph] else m

/-- No later stage of the line is a Proof: the tile passes here (R117). -/
def lastProof (l : LineRun) : Bool := !((stagesOf l.desc).drop (l.stage + 1)).any (fun s => s / 32 == 6)

/-- What waits in the input buffer of a cell's digest unit (R73). -/
def Engine.digestRoom (e : Engine) (cell : Nat) : Nat := 16384 - ((e.linesOn cell).map (fun x => x.2.2.buffer.length)).foldl (· + ·) 0

/-- Proof (R71, R73, R117): CHECK, then CANON and DIGEST as the operation says. CANON of a tile that is not B1 is a format that
does not suit (R88). A tile that is recomputed is not added to the
digest a second time. -/
def proofStage (m : Manager) (c : Nat) (l : LineRun) (op : Nat) : StageOut :=
  if l.bad then mismatch m l
  else
    let canon := op == 1 || op == 3
    let suits := !canon || l.cur.fmt == 3
    let t := if !suits then openBitmaps m.dev else if canon then canonTile (l.desc.imm % 256) l.cur else l.cur
    let m := if suits then m else m.drawTile
    let bytes := tileToBytes t
    let feeds := (op == 2 || op == 3) && !l.fed.contains l.stage
    if feeds && decide (m.eng.digestRoom l.cell < bytes.length) then .wait
    else
      let last := lastProof l
      let m := if l.retry ∧ last then retryPassed m c l else m
      let l := { l with cur := t, retry := l.retry && !last, pre := if last then {} else l.pre }
      if 4 ≤ op then .go m.drawTile { l with cur := openTile m.dev t.fmt }
      else if feeds then .go m { l with digest := true, fed := l.stage :: l.fed, buffer := l.buffer ++ bytes }
      else .go m l

/-- The next stage of a line on its current tile. A stage 0 that is neither Ground nor Stipple is executed as it stands (R68
leaves open what such a program error does). [DEDUCED, log 13; DESIGN CHOICE, log 92] -/
def runStage (m : Manager) (c : Nat) (run : Run) (p : Program) (l : LineRun) (stage : Nat) (u : Option Upset) : StageOut :=
  let st := stage / 32
  let op := stage % 32
  let prev := if l.stage = 0 then 0 else (stagesOf l.desc).getD (l.stage - 1) 0
  if st = 1 then
    if op ≤ 2 then loadStage m c run p l stage u else .go m.drawTile { l with cur := openTile m.dev l.desc.fmtIn }
  else if st = 4 then
    if op = 0 then loadStage m c run p l stage u
    else if op = 1 then scatterStage m c run p l
    else .go m.drawTile { l with cur := openTile m.dev l.desc.fmtIn }
  else if st = 2 then burinStage m l op prev u
  else if st = 3 then hatchStage m l op u
  else if st = 5 then
    if (p.stream l.desc.strM).isSome then loadStage m c run p l stage u
    else .go m.drawTile { l with cur := openTile m.dev l.cur.fmt }
  else if st = 6 then proofStage m c l op
  else pullStage m c run p l op

/-! ## Tile steps -/

/-- Counts a tile step retired on a cell, and when (R270). -/
def Manager.countStep (m : Manager) (c cell : Nat) : Manager :=
  let m := (m.bump Obj.ENG_TILES).bump (ctxKey Obj.LP_TILES c)
  match m.eng.phys cell with
  | some p => m.onEng (fun e => e.setCell p { e.cell p with steps := mapSet (e.cell p).steps c m.dev.time })
  | none => m

/-- A tile of a cell's SRAM. -/
structure HeldTile where
  cell : Nat
  key  : Nat
  size : Nat

/-- The tiles of cell SRAM among references. -/
def heldTiles (refs : List TileRef) : List HeldTile := (refs.filter (fun r => decide (r.space ≤ 1))).map (fun r => ⟨r.cell, r.addr, r.size⟩)

/-- One tile of a run's working set is used: it comes first, and what is beyond the quota is spilled (R82). Also the tiles
spilled. -/
def Run.useTile (quota : Nat) (a : Run × List HeldTile) (t : HeldTile) : Run × List HeldTile :=
  let r := touch (mapGetD a.1.recent t.cell []) t.key t.size quota
  let away := ((mapGetD a.1.away t.cell []).filter (fun k => k != t.key)) ++ r.2.map (fun e => e.1)
  ({ a.1 with recent := mapSet a.1.recent t.cell r.1, away := mapSet a.1.away t.cell away },
   a.2 ++ r.2.map (fun e => ⟨t.cell, e.1, e.2⟩))

/-- Tiles are used: those beyond the quota are spilled, each written to the stacks under a tag of the cell that held it (R82,
R84); one event for a run. None where tags are short, and the station waits. [DEDUCED, log 17] -/
def Manager.touchTiles (m : Manager) (c line : Nat) (tiles : List HeldTile) : Option Manager :=
  match mapGet m.eng.runs c with
  | none => some m
  | some r =>
    let res := tiles.foldl (Run.useTile (1024 * m.sramQuota c)) (r, [])
    let first := !res.2.isEmpty && !r.spilled
    let run := { res.1 with spilled := r.spilled || first }
    let sent := res.2.foldl (fun (a : Option Manager) t => a.bind (fun m =>
      (m.takeTags t.cell [({ ctx := c, gen := (m.ctx c).gen, line := line, space := 2, addr := t.key, size := t.size, store := true } : MemTag)]).map
        (fun x => x.1))) (some m)
    sent.map (fun m =>
      let m := (m.onEng (fun e => { e with runs := mapSet e.runs c run })).bumpBy (ctxKey Obj.LP_SPILL c) res.2.length
      if first then m.event 0x082 c else m)

/-- A line's pre-step copy goes (R117, R118). -/
def Manager.dropCopy (m : Manager) (c : Nat) (l : LineRun) : Manager :=
  match mapGet m.eng.runs c with
  | none => m
  | some r => m.onEng (fun e => { e with runs := mapSet e.runs c (r.dropCopy l) })

/-- The line has finished the stage it was at: the next stage, or the next tile, or its end (R73, R74). -/
def Manager.advanceLine (m : Manager) (c : Nat) (p : Program) (l : LineRun) : Manager :=
  let m := m.countStep c l.cell
  let m := if l.pre.elems.isEmpty then m.dropCopy c l else m
  if l.stage + 1 < (stagesOf l.desc).length then m.setLine c { l with stage := l.stage + 1 }
  else
    let l := { l with stage := 0, tile := l.tile + 1, retry := false, bad := false, fed := [] }
    if l.tile < tilesOf p l.desc then m.setLine c l
    else if l.digest && !l.buffer.isEmpty then m.setLine c { l with phase := .draining }
    else (m.setLine c l).endLine c l.desc.id 0

/-- Station grants at a tile boundary: whether the sequencer gives the station to this line now (R76); a retry that is due
comes before a preemption (R80). -/
def granted (e : Engine) (share cell station : Nat) (r : Run) (l : LineRun) : Bool :=
  let wants := (e.linesOn cell).filter (fun x => decide (x.2.2.phase = .running) && !x.2.2.out &&
    (stagesOf x.2.2.desc).getD x.2.2.stage 0 / 32 == station)
  let has := fun (p : Nat) => wants.any (fun x => linePriority x.2.1 x.2.2 == p)
  let due := decide (share ≠ 0) && Nat.ble (share - 1) (mapGetD e.shares (cell * 8 + station) 0)
  let p := linePriority r l
  if p = 2 then l.retry || !wants.any (fun x => x.2.2.retry)
  else if has 2 then l.retry
  else if p = 0 then !(has 1) || due
  else !(has 0 && due)

/-- The grant is counted toward BACKGROUND's share. -/
def countGrant (e : Engine) (cell station prio : Nat) : Engine :=
  { e with shares := if prio = 0 then mapDel e.shares (cell * 8 + station)
                     else mapUpd e.shares (cell * 8 + station) 0 (fun n => n + 1) }

/-- The tiles of cell SRAM that a stage used: those it read or wrote, and at the start of a tile the pre-step copy (R82, R118). -/
def stageTiles (m : Manager) (c : Nat) (run : Run) (p : Program) (l : LineRun) (stage : Nat) (l' : LineRun) : List HeldTile :=
  let read := (loadRefs p l stage).filterMap (fun r => m.resolve c run p l r.1 r.2.1 r.2.2)
  let wrote := (nextRefs m c run p l (l'.posO - l.posO)).filterMap (fun r => r)
  (if l.stage = 0 ∧ !l.pre.elems.isEmpty then [⟨l.cell, copyKey l, tileBytes l.pre.fmt⟩] else []) ++ heldTiles read ++ heldTiles wrote

/-- A line waits for list words. -/
def Manager.asksWords (m : Manager) (l : LineRun) : Bool :=
  decide (l.phase = .waitMem) && l.tags.any (fun n => match mapGet m.eng.tags n with | some t => t.word | none => false)

/-- Ground asks ahead for the spilled tiles among the next PREFETCH references of each stream it reads, while tags are free
(R82). -/
def Manager.fetchAhead (m : Manager) (c : Nat) (p : Program) (l : LineRun) (stage : Nat) : Manager :=
  match mapGet m.eng.runs c with
  | none => m
  | some run =>
    let next := (if stage / 32 = 1 then loadRefs p l stage else []).flatMap (fun r => (upTo r.2.1.prefetch).filterMap (fun i =>
      let n := r.2.2 + 1 + i
      let near := r.2.1.mode == 0 || (match m.listWord c run p l.cell r.2.1 n with | some w => w.space == 0 | none => false)
      if n < streamCount r.2.1 ∧ near = true then m.resolve c run p { l with words := [] } r.1 r.2.1 n else none))
    next.foldl (fun m x =>
      if !(mapGetD run.away x.cell []).contains x.addr || m.eng.tags.any (fun t => t.2.ahead && t.2.ctx == c && t.2.addr == x.addr) then m
      else match m.takeTags l.cell [{ requestFor c (m.ctx c).gen l.desc.id run 0 0 false x with ahead := true }] with
        | some r => r.1
        | none => m) m

/-- A tile fetched ahead has come: it is in cell SRAM again (R82), unless what it would spill finds no tags. -/
def Manager.cameBack (m : Manager) (t : MemTag) : Manager :=
  match mapGet m.eng.runs t.ctx with
  | none => m
  | some run =>
    match run.away.find? (fun e => e.2.contains t.addr) with
    | some e => (m.touchTiles t.ctx t.line [⟨e.1, t.addr, t.size⟩]).getD m
    | none => m

/-- A line at a Proof whose tile has failed twice, on a cell whose reset came first (R271). -/
def Manager.failsInReset (m : Manager) (l : LineRun) (stage : Nat) : Bool :=
  decide (stage / 32 = 6) && l.bad && l.retry && decide (l.phase = .running) &&
  (match m.eng.phys l.cell with | some p => decide ((m.eng.cell p).st = .resetting) | none => false)

/-- One tile step of a line (R71-R74, R76, R117). -/
def tileStep (m : Manager) (c line : Nat) (u : Option Upset) (corrected : Nat) (failing : List Nat) : Manager :=
  let m := (m.bumpBy Obj.AR_SRAM_CORR corrected).onEng (fun e => { e with failing := failing.foldl insNat e.failing })
  match mapGet m.eng.runs c, mapGet m.eng.programs c with
  | some run, some p =>
    match run.line line with
    | none => m
    | some l =>
      let stage := (stagesOf l.desc).getD l.stage 0
      if m.failsInReset l stage then (m.bump Obj.AR_MISMATCH).markRetiring ((m.eng.phys l.cell).getD 0)
      else if l.phase ≠ .running ∨ l.out ∨ !m.eng.cellRuns l.cell ∨ (stagesOf l.desc).isEmpty then m
      else if !granted m.eng (m.obj Obj.ENG_BG_SHARE) l.cell (stage / 32) run l then m
      else
        let m := m.onEng (fun e => countGrant e l.cell (stage / 32) (linePriority run l))
        let l := if l.stage = 0 ∧ !l.retry then { l with pre := l.acc, preO := l.posO } else l
        match runStage m c run p l stage u with
        | .wait => m
        | .finish m status => (m.countStep c l.cell).endLine c line status
        | .go m' l' =>
          match m'.touchTiles c line (if m'.asksWords l' then [] else stageTiles m c run p l stage l') with
          | none => m
          | some m' =>
            let m' := m'.fetchAhead c p l stage
            if l'.phase = .running ∧ l'.stage = l.stage ∧ (l'.retry = l.retry ∨ stage / 32 = 6 ∧ !l'.retry) then m'.advanceLine c p l'
            else (if l'.phase = .waitMem then m' else m'.countStep c l.cell).setLine c l'
  | _, _ => m

/-! ## Arrays (R121-R123) -/

/-- The module resynchronises from its peers where it is one of a triad. -/
def Manager.wantResync (m : Manager) : Manager :=
  if m.red.slot.isSome then { (m.setObj Obj.TR_RESYNC 1) with red := { m.red with resync := some (m.obj Obj.TR_LEADER) } } else m

/-- The sample of a telemetry ring that holds a word is discarded: which of its samples that is, the word decides (R123). -/
def Manager.loseSample (m : Manager) (group : Nat) : Manager :=
  let ring := mapGetD m.tl.rings group []
  if ring.isEmpty then m
  else { m with tl := { m.tl with rings := mapSet m.tl.rings group (ring.eraseIdx (m.dev.openNat % ring.length)) } }

/-- The bits of a record's stored word that no longer agree with its code: some mask that is not 0. -/
def damageMask (d : Dev) : Nat := 1 + d.openNat % (2 ^ 32 - 1)

/-- An address that a word of what it holds may have, where the read names none: within the switch's blocks of a route image or
alternate table, the link's entry, the context's record, or the rest of table memory (R173, R212). -/
def wordAddr (w : ArrayWord) (n : Nat) : Nat :=
  match w with
  | .routeImage s => n / 512 % 4 * 0x4000000 + 8192 * s + n % 256 * 32
  | .linkTable i => linkBase + 32 * i
  | .context c => ctxBase + 17408 * c + n % 544 * 32
  | .dictStore | .recorder true _ => ctxEnd + n % ((2 ^ 29 - ctxEnd) / 32) * 32
  | _ => n % 2 ^ 64

/-- The consequence of an uncorrectable word, by what it holds (Table: Uncorrectable words). Its address is that of the word
where the read names one, and open within what it holds otherwise. [DEDUCED, log 91] -/
def Manager.uncorrectable (m : Manager) (w : ArrayWord) (addr : Option Nat := none) : Manager :=
  let a := addr.getD (wordAddr w m.dev.openNat)
  let m := m.onDev Dev.drawn
  match w with
  | .routeImage s =>
      let m := m.badWord 1 a 0
      { m with rt := { m.rt with wholeFor := insNat m.rt.wholeFor s } }
  | .linkTable i =>
      let m := m.badWord 1 a 0
      let m := { m with fab := { m.fab with links := mapUpd m.fab.links i {} (fun l => { l with failing := true }) } }
      m.sendAgent (m.agentOf (i / 128)) (.dictReq 0 0 0 (Obj.WF_BAD) [] false)
  | .context c =>
      let m := m.badWord 1 a c
      if c = 0 then m.moduleFault.wantResync else m.purgeStart c
  | .dictStore => ((m.badWord 1 a 0).moduleFault).wantResync
  | .recorder first seq =>
      let hit := fun (r : EvRec) => if r.seq = seq then { r with damaged := damageMask m.dev } else r
      (m.badWord (if first then 1 else 2) a 0).onDev (fun d =>
        { d with log := if first then { d.log with first := d.log.first.map hit } else { d.log with ring := d.log.ring.map hit } })
  | .dram c line => ((m.badWord 2 a c).endLine c line 3).drainCheck c
  | .archive imp =>
      let m := m.badWord 2 a 0
      { m with inst := { m.inst with archive := m.inst.archive.map (fun k =>
          if !newer k.imp.number imp then { k with available := false } else k) } }
  | .telemetry g => ((m.badWord 2 a 0).loseSample g).bump Obj.TL_LOST
  | .blueprint => { (m.badWord 2 a 0) with failed := insNat m.failed Obj.BP_IMAGE }
  | .firmware => { (m.badWord 2 a 0) with failed := insNat m.failed Obj.FW_IMAGE }
  | .plateStore _ => m

/-- Whether a word lies in table memory; else in the memory stacks. -/
def inTable (w : ArrayWord) : Bool :=
  match w with
  | .routeImage _ | .linkTable _ | .context _ | .dictStore | .recorder true _ => true
  | _ => false

/-- A read of a word of table memory or the stacks: good, corrected (counted, and written back unless it has changed), or
uncorrectable. The corrected data are what the model's arrays hold. -/
def Manager.wordRead (m : Manager) (w : ArrayWord) (found : WordFound) : Manager :=
  match found with
  | .good => m
  | .corrected => m.bump (if inTable w then Obj.AR_TABLE_CORR else Obj.AR_STACK_CORR)
  | .uncorrectable => m.uncorrectable w

/-- The read a tag stands for found a word corrected, or one that fails its code: the counters and the consequences are those of
the array it lies in (R121, R123). The word is the one known to fail, and else one of those read; it goes on failing until
it is written. -/
def Manager.tagRead (m : Manager) (t : MemTag) (bad : Bool) (found : WordFound) : Manager :=
  if bad then
    let a := (firstFailing m t.space t.addr t.size).getD (8 * ((t.addr + m.dev.openNat % max t.size 1) / 8))
    let m := m.onDev Dev.drawn
    if t.space ≤ 2 then (m.onEng (fun e => { e with failing := insNat e.failing (a / 8) })).badWord (if t.space = 2 then 2 else 0) a t.ctx
    else m.uncorrectable (tableWordAt a) (some a)
  else match found with
    | .corrected => m.bump (if t.space = 1 then Obj.AR_SRAM_CORR else if t.space = 2 then Obj.AR_STACK_CORR else Obj.AR_TABLE_CORR)
    | _ => m

/-- A line's last outstanding load has come: its stage ends with the tiles read, or with UNCORRECTABLE (R118). -/
def Manager.lineLoaded (m : Manager) (c : Nat) (p : Program) (l : LineRun) : Manager :=
  if l.failed then (m.setLine c l).endLine c l.desc.id 3
  else
    let l := { l with phase := .running }
    match finishStage m p l ((stagesOf l.desc).getD l.stage 0) l.upset with
    | .wait => m.setLine c l
    | .finish m st => (m.setLine c l).endLine c l.desc.id st
    | .go m l => m.advanceLine c p l

/-- The last list word of a stage has come: the stage goes on at its next grant, or the line ends with UNCORRECTABLE. -/
def Manager.wordsCame (m : Manager) (c : Nat) (l : LineRun) : Manager :=
  if l.failed then (m.setLine c l).endLine c l.desc.id 3 else m.setLine c { l with phase := .running }

/-- What a reply brings a line that waits for it: a list word, or the tile of a register that its grant has not read (R86). -/
def Manager.deliverTag (m : Manager) (t : MemTag) (n : Nat) (bad : Bool) (l : LineRun) : LineRun :=
  let l := { l with tags := l.tags.filter (fun x => x != n), failed := l.failed || bad }
  let r : TileRef := ⟨t.space, t.addr, t.size, 64⟩
  if t.word then { l with words := mapSet l.words t.reg (leNat (m.refBytes r)) }
  else if (mapGet l.got t.reg).isSome then l
  else { l with got := mapSet l.got t.reg (readTile m t.fmt r) }

/-- A memory reply for a tag: the tag is free again; a stale generation goes to the discard sink, and so does the reply of a
store or for a line that waits no longer; a tile fetched ahead is back in its cell; a load's tile or list word is read, and
with the last of its stage the line goes on (R84, R85). -/
def Manager.tagReply (m : Manager) (cell tag : Nat) (found : WordFound) : Manager :=
  match mapGet m.eng.tags (cell * 512 + tag) with
  | none => m
  | some t =>
    let m := m.onEng (fun e => { e with tags := mapDel e.tags (cell * 512 + tag) })
    let bad := decide (found = .uncorrectable) || (!t.store && (firstFailing m t.space t.addr t.size).isSome)
    let m := m.tagRead t bad found
    if (m.ctx t.ctx).gen ≠ t.gen ∨ t.store then m
    else if t.ahead then (if bad then m else m.cameBack t)
    else match mapGet m.eng.runs t.ctx, mapGet m.eng.programs t.ctx with
      | some run, some p =>
        match run.line t.line with
        | none => m
        | some l =>
          if l.phase ≠ .waitMem ∨ !l.tags.contains (cell * 512 + tag) then m
          else
            let l := m.deliverTag t (cell * 512 + tag) bad l
            if !l.tags.isEmpty then m.setLine t.ctx l
            else if t.word then m.wordsCame t.ctx l
            else m.lineLoaded t.ctx p l
      | _, _ => m

/-! ## Starting lines (R75, R78) -/

/-- Whether a line may start: its AFTER line has completed with OK, earlier lines of its program on the cell have started,
and its wait condition holds. [DESIGN CHOICE, log 19] -/
def Manager.lineReady (m : Manager) (run : Run) (l : LineRun) : Bool :=
  decide (l.phase = .queued) && m.eng.cellRuns l.cell &&
  (l.desc.after == 0xFFFF || (match run.line l.desc.after with | some a => decide (a.phase = .done 0) | none => true)) &&
  ((run.lines.takeWhile (fun k => k.desc.id != l.desc.id)).all (fun k => k.cell != l.cell || decide (k.phase ≠ .queued))) &&
  m.syncWaitHolds l.desc.waitObj l.desc.waitMode l.desc.waitValue

/-- Frees a slot for a REPAIR line: the lowest-priority line in a slot of the cell is suspended (R78). -/
def Manager.freeSlotFor (m : Manager) (cell prio : Nat) : Manager × Bool :=
  if m.eng.slotsTaken cell < 4 then (m, true)
  else if prio ≠ 2 then (m, false)
  else m.preempt cell

/-- LINE_START: a line takes a slot of its cell; one whose shortest input has no tiles completes at once (R74, R75). [DESIGN CHOICE, log 19; DESIGN CHOICE, log 83] -/
def execLineStart (ctx line : Nat) (s : State) : Out :=
  let m := s.mgr
  match mapGet m.eng.runs ctx, mapGet m.eng.programs ctx with
  | some run, some p =>
    match run.line line with
    | none => .next s
    | some l =>
      if !m.lineReady run l then .next s
      else
        let r := m.freeSlotFor l.cell (linePriority run l)
        if !r.2 then .next s
        else
          let m := r.1.syncWaitTake l.desc.waitObj l.desc.waitMode
          let m := if tilesOf p l.desc = 0 then m.endLine ctx line 0 else m.setLine ctx { l with phase := .running }
          .next { s with mgr := m.drainCheck ctx }
  | _, _ => .next s

/-- TILE_STEP; at the boundary it ends with, a REPAIR line that waits for a slot gets one (R78, R80). [DEDUCED, log 16] -/
def execTileStep (ctx line : Nat) (upset : Option Upset) (corrected : Nat) (failing : List Nat) (s : State) : Out :=
  let at_ := ((mapGet s.mgr.eng.runs ctx).bind (fun r => r.line line)).map (fun l => l.cell)
  let m := tileStep s.mgr ctx line upset corrected failing
  .next { s with mgr := (match at_ with | some cell => m.settleOwed cell | none => m).drainCheck ctx }

/-- DIGEST_DRAIN: the digest unit drains bytes of a line; a line that waits for it completes with the last (R73). -/
def execDigestDrain (ctx line bytes : Nat) (s : State) : Out :=
  let m := s.mgr
  match mapGet m.eng.runs ctx with
  | none => .next s
  | some run =>
    match run.line line with
    | none => .next s
    | some l =>
      let l := { l with buffer := l.buffer.drop bytes, hashed := l.hashed ++ l.buffer.take bytes }
      let m := m.setLine ctx l
      let m := if l.phase = .draining ∧ l.buffer.isEmpty then m.endLine ctx line 0 else m
      .next { s with mgr := m.drainCheck ctx }

/-- MEMORY_REPLY. [DEDUCED, log 16] -/
def execMemoryReply (what : ReplyFor) (found : WordFound) (s : State) : Out :=
  match what with
  | .tag cell t =>
    let c := ((mapGet s.mgr.eng.tags (cell * 512 + t)).map (fun x => x.ctx)).getD 0
    .next { s with mgr := (s.mgr.tagReply cell t found).drainCheck c }
  | .word (.plateStore die) => onAgent s die (fun a => if found = .uncorrectable then a.invalidate else a)
  | .word w => .next { s with mgr := s.mgr.wordRead w found }

/-- TABLE_PATROL: the patrol reads a word of table memory (R121). [DEDUCED, log 16] -/
def execTablePatrol (word : ArrayWord) (found : WordFound) (s : State) : Out :=
  .next (if inTable word then { s with mgr := s.mgr.wordRead word found } else s)

/-- STACK_PATROL: the patrol reads a page of the memory stacks (R121). [DEDUCED, log 16] -/
def execStackPatrol (word : ArrayWord) (found : WordFound) (s : State) : Out :=
  .next (if inTable word then s else { s with mgr := s.mgr.wordRead word found })

/-! ## Retirement (R54-R56) -/

/-- The lines queued on a logical cell. -/
def Engine.queuedOn (e : Engine) (cell : Nat) : Nat := ((e.linesOn cell).filter (fun x => decide (x.2.2.phase = .queued))).length

/-- Where a line of a withdrawn number is queued: the enabled cell of its program with the fewest queued lines, the lowest
number among equals (R55). A program with no other enabled cell keeps its lines where they are. [DEDUCED, log 91] -/
def Engine.fewestQueued (e : Engine) (run : Run) (gone : Nat) : Nat :=
  match sortNat (run.cells.filter (fun c => c != gone && e.cellRuns c)) with
  | [] => gone
  | c :: rest => rest.foldl (fun b x => if e.queuedOn x < e.queuedOn b then x else b) c

/-- A line of a retired cell on its replacement: a held line is queued again; a stopped one with RESTART set is queued from
its first tile (R54). -/
def requeue (dest : Nat) (l : LineRun) : LineRun :=
  match l.phase with
  | .held => { l with phase := .queued, cell := dest }
  | .stopped => if l.desc.restart then { desc := l.desc, cell := dest } else { l with cell := dest }
  | _ => l

/-- The lines of a retired cell are queued again, one after the other, by context and in the order of the program: on the
spare that took the number, or on the cells R55 names. -/
def Manager.requeueAll (m : Manager) (gone : Nat) (to_ : Option Nat) : Manager :=
  let ls := m.eng.runs.flatMap (fun r => (r.2.lines.filter (fun k => k.cell == gone)).map (fun k => (r.1, k.desc.id)))
  ls.foldl (fun m x =>
    match mapGet m.eng.runs x.1 with
    | none => m
    | some run => match run.line x.2 with
      | none => m
      | some l => m.setLine x.1 (requeue (to_.getD (m.eng.fewestQueued run gone)) l)) m

/-- The engine has fallen below 48 cells: host programs, a hook among them, complete ENGINE_DEGRADED, and it is a module fault
(R56). [DEDUCED, log 91] -/
def Manager.checkDegraded (m : Manager) : Manager :=
  if 48 ≤ m.obj Obj.ENG_CELLS ∨ m.eng.degraded then m
  else
    let m := (m.onEng (fun e => { e with degraded := true })).event 0x086 0
    let m := m.onDev (fun d => { d with health := d.health ||| 2 })
    let host := m.eng.runs.map (fun r => r.1)
    (host.foldl (fun m c => (m.endAllLines c 7).drainCheck c) m).moduleFault

/-- Steps 3 to 5 of Table: Cell retirement, for a cell marked RETIRING. The retirement event names the physical cell and reports
whether the logical number was withdrawn, and how many cells remain (R52, R54, R55). [DESIGN CHOICE, log 93; DESIGN CHOICE, log 105] -/
def Manager.remap (m : Manager) (p : Nat) : Manager :=
  let pc := m.eng.cell p
  if pc.st ≠ .retiring then m
  else
    let l := pc.logical
    let spare := (upTo 68).find? (fun q => decide ((m.eng.cell q).st = .spare))
    let m := m.onEng (fun e => e.setCell p { pc with logical := 0xFF, st := .retired })
    let m := m.bump Obj.ENG_RETIRED
    let m := match spare with
      | some q => (m.onEng (fun e => e.setCell q { logical := l, st := .enabled })).setObj Obj.ENG_SPARES (m.obj Obj.ENG_SPARES - 1)
      | none => (m.setObj Obj.ENG_CELLS (m.obj Obj.ENG_CELLS - 1)).onDev (fun d => { d with health := d.health ||| 1 })
    let dest := spare.map (fun _ => l)
    let lost := m.eng.runs.flatMap (fun r => (r.2.lines.filter (fun k =>
      k.cell == l && decide (k.phase = .stopped) && !k.desc.restart)).map (fun k => (r.1, k.desc.id)))
    let m := m.onEng (fun e => { e with runs := e.runs.map (fun r => (r.1, { r.2 with recent := mapDel r.2.recent l, away := mapDel r.2.away l })) })
    let m := m.requeueAll l dest
    let m := lost.foldl (fun m x => (m.endLine x.1 x.2 2).drainCheck x.1) m
    (m.eventOf 0x080 0 [p, if spare.isSome then 0 else 1, m.obj Obj.ENG_CELLS]).checkDegraded

/-- CELL_REMAP. -/
def execCellRemap (cell : Nat) (s : State) : Out := .next { s with mgr := s.mgr.remap cell }

/-! ## Line programs of the host (R87-R91) -/

/-- LP_IMAGE_WRITE: BUSY during a run; zero length unloads the program (R91). The image is kept until LP_LOAD. -/
def execLpImageWrite (req : Req) (image : List Byte) (s : State) : Out :=
  let m := s.mgr
  let c := (m.reachCtx req.fn).getD 0
  .next { s with mgr := m.hostWrite (.lpImageWrite req image) req Obj.LP_IMAGE image (mapGet m.eng.runs c).isSome (fun m c =>
    let m := m.onDev (fun d => d.setBlob (ctxKey Obj.LP_IMAGE c) image)
    if image.isEmpty then m.onEng (fun e => { e with programs := mapDel e.programs c }) else m) }

/-- LP_LOAD: the checks of Table: Load results in order; a refused image leaves the program loaded earlier (R87). -/
def execLpLoad (req : Req) (value : Nat) (s : State) : Out :=
  .next { s with mgr := s.mgr.cmd (.lpLoad req value) req Obj.LP_LOAD value [1] false (fun m c =>
    let img := m.dev.blob (ctxKey Obj.LP_IMAGE c)
    let r := m.loadResult c img
    let m := ((m.setObj (ctxKey Obj.LP_RESULT c) r.1).setObj (ctxKey Obj.LP_SHORT c) r.2).setObj (ctxKey Obj.LP_LOAD c) 2
    if r.1 = 0 then m.onEng (fun e => { e with programs := mapSet e.programs c (parseProgram img) }) else m) }

/-- LP_RUN_START: no effect while a run is in progress, in a context that is not ACTIVE, or with no program (R89, R231);
with fewer than 48 cells the run completes ENGINE_DEGRADED (R56). -/
def execLpRunStart (req : Req) (s : State) : Out :=
  .next { s with mgr := s.mgr.cmd (.lpRunStart req) req Obj.LP_RUN 1 [1, 2] false (fun m c =>
    if (mapGet m.eng.runs c).isSome ∨ (m.ctx c).st ≠ .active then m
    else if m.obj Obj.ENG_CELLS < 48 then (m.startRun c false).endAllLines c 7
    else m.startRun c false) }

/-- LP_RUN_STOP: every line stops at its tile boundary with STOPPED; no effect while no run is in progress (R89). -/
def execLpRunStop (req : Req) (s : State) : Out :=
  .next { s with mgr := s.mgr.cmd (.lpRunStop req) req Obj.LP_RUN 2 [1, 2] false (fun m c => (m.endAllLines c 6).drainCheck c) }

end Sys2Proof.Machine
end

