-- ==== Sys2Proof/Machine/Route.lean ====
section
/-! DEFINITION. Sys2Proof/Machine/Route.lean: the commands of route computation (chapter "Computing routes"). -/

namespace Sys2Proof.Machine

/-- COALESCING_WINDOW_CLOSE: the window closes and the snapshot is taken (R35, R252); an older one that waits is dropped
(R128). -/
def execCoalescingWindowClose (s : State) : Out :=
  let m := s.mgr
  if !m.rt.window then .next s
  else
    let m := (m.entry .coalescingWindowClose).takeSnapshot
    .next { s with mgr := ({ m with rt := { m.rt with window := false, closed := some m.dev.time } }).retryQueue }

/-! ## Computations -/

/-- The inputs of a computation over a snapshot, and those of the committed impression. -/
def Manager.routeIn (m : Manager) (ls : Links) (adj : SMap Nat) : RouteIn :=
  { ls := ls, adj := adj, lex := m.obj Obj.RT_METRIC == 1, lfa := m.obj Obj.RT_LFA == 1, sw := switchesOf ls }
def Manager.committedIn (m : Manager) : RouteIn :=
  { ls := m.rt.pSnap, adj := m.rt.pAdj, lex := m.rt.pLex, lfa := false, sw := switchesOf m.rt.pSnap }

/-- The switches of an impression: those of the snapshot whose agents are attested and that are not isolated (R183, R188). -/
def Manager.impSwitches (m : Manager) (sw : List Nat) : List Nat := sw.filter (fun s => m.hasAgent s && !m.isolated s)

/-- Draws the hash seeds of switches that appear for the first time (R161); in a triad the leader draws and delivers them
(R150). [DESIGN CHOICE, log 7] -/
def Manager.drawSeeds (m : Manager) (sw : List Nat) : Manager :=
  sw.foldl (fun m s =>
    if (mapGetD m.rt.sw s {}).seed.isSome then m
    else if !m.leads then m
    else
      let v := m.dev.openNat % 2 ^ 64
      let m := (m.onDev Dev.drawn).putEntry { kind := .seed s v }
      { m with rt := { m.rt with sw := mapUpd m.rt.sw s {} (fun x => { x with seed := some v }) } }) m

/-- A switch of a candidate has no seed yet. -/
def Manager.unseeded (m : Manager) (ls : Links) : Bool :=
  (m.impSwitches (switchesOf ls)).any (fun s => (mapGetD m.rt.sw s {}).seed.isNone)

/-- Each tree of the committed impression that uses a link not UP in the snapshot is told to its context, and WIDE is queued for it
(R155); no tree that uses such a link is in the computation's plates. -/
def Manager.dropTrees (m : Manager) (ls : Links) : Manager :=
  let cut := fun (t : Tree) => t.links.any (fun i => !linkUp (linkOf ls i))
  let lost := m.rt.built.filter cut
  let m := { m with rt := { m.rt with
    trees := m.rt.trees.filter (fun t => !cut t), wide := (lost ++ m.rt.trees.filter cut).foldl (fun w t => insNat w t.ctx) m.rt.wide } }
  lost.foldl (fun m t => (m.setObj (ctxKey Obj.WD_STATUS t.ctx) 1).eventWith 0x105 t.ctx (leBytes 8 t.num)) m

/-- A computation over a snapshot waits: at a unit that does not manage, while a leader change, a completion or the first three steps
of adoption go on (R298, R299), while no random value is to be had for a seed that must be drawn (R459), and at a follower until the leader has delivered that seed (R150). -/
def Manager.compWaits (m : Manager) (ls : Links) : Bool :=
  !m.active || m.red.gaining || (m.unseeded ls && (if m.leads then m.rngOut else true))

/-- RB_CLEAR, where it is pending, clears every adjustment for the computation that starts (R160). -/
def Manager.clearAdj (m : Manager) : Manager :=
  if m.obj Obj.RB_CLEAR = 1 then ({ m with rt := { m.rt with adj := [] } }).setObj Obj.RB_CLEAR 0 else m

/-- One event lists the entries raised to weight 1, up to 64: their number and the link indices (R131). [DESIGN CHOICE, log 93] -/
def Manager.zeroEvent (m : Manager) (l : List Nat) : Manager :=
  if l.isEmpty then m else m.eventWith 0x100 0 (leBytes 8 l.length ++ (l.take 64).flatMap (leBytes 3))

/-- The computation that steps 1 to 6 of a snapshot give, with the plates they form and step 7 still to run. -/
def Manager.compOf (m : Manager) (r : RouteIn) (out : Routed) : Comp :=
  let number := nextImp (m.obj Obj.IMP_COMMITTED)
  let sw := m.impSwitches r.sw
  let plates := sw.map (fun k =>
    (k, plateOf r.ls out.entries m.rt.trees number ((mapGetD m.rt.sw k {}).seed.getD 0) k (mapGetD out.entries k ⟨[], [], []⟩)))
  { snap := r.ls, start := m.dev.time, entry := m.rt.snapSeq, closed := m.rt.closed, number := number, plates := plates, adj := r.adj, lex := r.lex
    trees := m.rt.trees, excMax := plates.foldl (fun a p => max a p.2.excs.length) 0
    stats := sw.map (fun k => (k, statsOf (mapGetD out.entries k ⟨[], [], []⟩)))
    hook := m.obj Obj.RT_HOOK == 1 && m.obj Obj.RT_HOOK_US != 0, ran := false }

/-- The computation stands; its REPAIR lines have taken and given back the slots of steps 1 to 6, and step 7 starts at the leader
(R147, R289): at once, or after the run of context 0 that is in progress. Without it the computation's own lines hold their
slots to its end (R78, R127). [DESIGN CHOICE, log 106] -/
def Manager.runHook (m : Manager) (c : Comp) : Manager :=
  let hooks := c.hook && m.leads && (mapGet m.eng.programs 0).isSome
  let m := ({ m with rt := { m.rt with comp := some { c with owes := hooks } } }).stockStart
  if hooks then m.stockEnd.hookDue else m

/-- COMPUTATION_START: steps 1 to 6 over the newest waiting snapshot, then the hook where it runs (R127, R128). [DEDUCED, log 18; DEDUCED, log 91] -/
def execComputationStart (s : State) : Out :=
  let m := s.mgr
  match m.rt.waiting, m.rt.comp with
  | some ls, none =>
    if m.compWaits ls then .next s
    else
      let m := ({ m with rt := { m.rt with waiting := none } }).clearAdj
      let r := m.routeIn ls m.rt.adj
      let out := routeAll r m.epCtx
      let m := ((m.setObj Obj.RT_ZERO_CYC out.zeroCyc.length).setObj Obj.RT_LEX_OVF out.lexOvf).zeroEvent out.zeroCyc
      let m := m.dropTrees ls
      if 4096 < out.excs then .next { s with mgr := (m.eventOf 0x101 0 [out.excs]).impState }
      else
        let m := out.split.foldl (fun m c => m.eventOf 0x102 c [c]) m
        let m := (m.storeDist out.main).drawSeeds (m.impSwitches r.sw)
        let c := m.compOf r out
        .next { s with mgr := ((m.storePlates c.number c.plates).runHook c).impState }
  | _, _ => .next s

/-- The hook is over without a trace: every entry stands as steps 4 to 6 gave it, and an event is recorded (R148). -/
def Manager.undoHook (m : Manager) (c : Comp) : Manager :=
  let m := (m.storePlates c.number c.plates).event 0x103 0
  { m with rt := { m.rt with comp := some { c with ran := false, owes := false } } }

/-- HOOK_TIMEOUT: the hook has not completed OK within RT_HOOK_US; it is stopped, where it has started and not ended, and its entries
are restored (R148). [DEDUCED, log 18] -/
def execHookTimeout (s : State) : Out :=
  let m := s.mgr
  match m.rt.comp with
  | some c =>
    if c.owes then .next { s with mgr := m.undoHook c }
    else if !c.ran || c.ended.any (fun st => st % 16 == 0) then .next s
    else .next { s with mgr := (if c.ended.isNone then m.endAllLines 0 6 else m).undoHook c }
  | none => .next s

/-- What step 7 left of the plates, where it has ended: at a follower what the leader delivered for the number (R147, R150); none
while it is awaited. A hook that did not complete OK leaves no trace (R148). -/
def Manager.hookLeft (m : Manager) (c : Comp) : Option (SMap Plate) :=
  if c.owes then none
  else if c.ran then c.ended.map (fun st =>
    if st % 16 = 0 then c.plates.map (fun p => (p.1, sideEntries m.eng.mem c.number p.1 p.2)) else c.plates)
  else if c.hook && !m.leads then
    match m.rt.hookIn with
    | some h => if h.1 = c.number then some h.2 else none
    | none => none
  else some c.plates

/-- The objects and counts a computation leaves (R143, R147, R172). -/
def Manager.compStats (m : Manager) (c : Comp) (cut : Nat) : Manager :=
  let m := ((m.setObj Obj.RT_HOOK_CUT cut).setObj Obj.RT_LAST_IMP c.number).setObj Obj.RT_LAST_US ((m.dev.time - c.start) / 1000)
  let m := m.setObj Obj.RT_EXC_MAX c.excMax
  { m with rt := { m.rt with sw := c.stats.foldl (fun w e => mapUpd w e.1 {} (fun x => { x with
      nhEmpty := e.2.getD 0 0, need := e.2.getD 1 0, cover := e.2.getD 2 0, exc := e.2.getD 3 0 })) m.rt.sw } }

/-- Step 8 of a computation, once step 7 has ended: the hook's results are ANDed in, the leader of a triad delivers them, and plates, digests and
the candidate are formed, without the switches isolated meanwhile (R183) (R147, R149, R289). -/
def Manager.completeComp (m : Manager) : Manager :=
  match m.rt.comp with
  | none => m
  | some c =>
    match m.hookLeft c with
    | none => m
    | some left =>
      let m := if c.ran && c.ended.any (fun st => st % 16 != 0) then m.event 0x103 0 else m
      let done := (c.plates.filter (fun p => !m.isolated p.1)).map (fun p => (p.1, hookCut (mapGetD left p.1 p.2) p.2))
      let m := if c.hook then m.putEntry { kind := .hook c.number (done.map (fun p => (p.1, p.2.1))) } else m
      let plates := done.map (fun p => (p.1, renumber p.2.1 c.number p.2.1.seed))
      let m := (m.storePlates c.number plates).compStats c (done.foldl (fun a p => a + p.2.2) 0)
      let m := ({ m with rt := { m.rt with hookIn := none } }).dropComp.stockSteps
      let imp : Impression := { number := c.number, digest := impDigest c.number plates, plates := plates }
      m.newCandidate { imp := imp, entry := c.entry, snap := c.snap, awaits := [], adj := c.adj, lex := c.lex, trees := c.trees, closed := c.closed }

/-! ## Background lines -/

/-- The homing of every block of a snapshot. -/
def homingAll (ls : Links) : SMap (List Nat) :=
  let eps := (presentEps ls).map (fun e => (e, leafSet ls e))
  (sortNat (eps.map (fun e => blockOf e.1))).map (fun b => (b, homingOf (eps.filter (fun e => blockOf e.1 == b))))

/-- A block's entry of the committed plate of a switch needs cover: it is neither local nor unreachable (R143, R152). -/
def Manager.needsCover (m : Manager) (s b : Nat) : Bool :=
  (mapGet m.inst.committed.plates s).any (fun p => !p.localBit b && !p.unreachBit b)

/-- PCOUNT_COMPLETE: SW_ECMP of every switch, over the snapshot of the committed impression and what it was computed under (R151,
R152). -/
def execPcountComplete (s : State) : Out :=
  let m := s.mgr
  match m.rt.pcount with
  | none => .next s
  | some n =>
    if n ≠ m.obj Obj.IMP_COMMITTED then .next { s with mgr := { m with rt := { m.rt with pcount := none } } }
    else
      let r := m.committedIn
      let r := { r with raised := r.zeroCycles }
      let counts := r.pathCounts (homingAll m.rt.pSnap) m.needsCover
      let sw := counts.foldl (fun w e => mapUpd w e.1 {} (fun x => { x with ecmp := e.2.1 * 65536 + e.2.2 })) m.rt.sw
      .next { s with mgr := { m.stockSteps with rt := { m.rt with pcount := none, sw := sw } } }

/-- Tree entries a switch may still take besides those of other contexts. -/
def treeRoom (trees : List Tree) (c sw : Nat) : Nat := 64 - (trees.filter (fun t => t.ctx != c && (mapGet t.at_ sw).isSome)).length

/-- WIDE_COMPLETE: the trees of a context and its WD_STATUS (R153, R154). [DESIGN CHOICE, log 20] -/
def execWideComplete (ctx : Nat) (s : State) : Out :=
  let m := s.mgr
  if !m.rt.wide.contains ctx then .next s
  else
    let x := m.ctx ctx
    let ls := m.fab.links
    let members := (m.membersOf ctx).filter (present ls)
    let out := wideFor ls (switchesOf ls) (fun k => descCap (m.node (m.agentOf k)).desc 3) (treeRoom m.rt.trees ctx) ctx x.gen
      (m.obj (ctxKey Obj.WD_REQ ctx)) (sortNat (members.flatMap (leafSet ls))) members
    let trees := m.rt.trees.filter (fun t => t.ctx < ctx) ++ out.trees ++ m.rt.trees.filter (fun t => ctx < t.ctx)
    let m := { m with rt := { m.rt with wide := m.rt.wide.filter (fun k => k != ctx), trees := trees } }
    let cap := match out.trees with
      | [] => 0
      | t :: rest => rest.foldl (fun a t => min a t.cap) t.cap
    .next { s with mgr := ((m.setObj (ctxKey Obj.WD_STATUS ctx) out.status).setObj (ctxKey Obj.WD_MIN_CAP ctx) cap).stockSteps }

/-! ## Load and rebalancing -/

/-- LOAD_PERIOD: a background LOAD run starts (R156). -/
def execLoadPeriod (s : State) : Out :=
  if s.mgr.obj Obj.LD_PERIOD_MS = 0 then .next s
  else
    let m := s.mgr.entry .loadPeriod
    .next { s with mgr := { m with rt := { m.rt with load := true } } }

/-- LD_RUN: LOAD runs once (R156). -/
def execLdRun (req : Req) (value : Nat) (s : State) : Out :=
  .next { s with mgr := s.mgr.cmd (.ldRun req value) req Obj.LD_RUN value [1] (s.mgr.obj Obj.LD_RUN == 1) (fun m _ =>
    ({ m with rt := { m.rt with load := true } }).setObj Obj.LD_RUN 1) }

/-- The 8-byte records of a context's LD_DECL: source block, destination block, Mb/s. -/
def declRecs (bs : List Byte) : List (Nat × Nat × Nat) :=
  (upTo (bs.length / 8)).map (fun i =>
    let v := fieldAt bs (8 * i) 8
    (bitsOf v 63 55, bitsOf v 54 46, bitsOf v 31 0))

/-- The declarations of every context that hold (R158), and per context how many are ignored. -/
def Manager.declared (m : Manager) : List (Nat × Nat × Nat) × List (Nat × Nat) :=
  let one := fun (c : Nat) =>
    let eps := if c = 0 then (presentEps m.fab.links).filter (fun e => m.epCtx e == 0) else (m.ctx c).eps.filter (present m.fab.links)
    let has := fun (b : Nat) => eps.any (fun e => blockOf e == b)
    let recs := declRecs (m.dev.blob (ctxKey Obj.LD_DECL c))
    (recs.filter (fun r => has r.1 && has r.2.1), (recs.filter (fun r => !(has r.1 && has r.2.1))).length)
  let cs := insNat (m.sl.ctxs.map (fun e => e.1)) 0
  let all := cs.map (fun c => (c, one c))
  (all.flatMap (fun e => e.2.1), all.map (fun e => (e.1, e.2.2)))

/-- The traffic from block a to block b in Mb/s, measured or declared as LD_SOURCE says. A switch's ingress toward b counts
in equal parts for each block it is in the homing of. -/
def Manager.traffic (m : Manager) (homing : SMap (List Nat)) (decl : List (Nat × Nat × Nat)) (a b : Nat) : Nat :=
  let d := (decl.filter (fun r => r.1 == a && r.2.1 == b)).map (fun r => r.2.2)
  let sum := d.foldl (fun x y => x + y) 0
  let homed := fun (s : Nat) => (homing.filter (fun h => h.2.contains s)).length
  let measured := (mapGetD homing a []).foldl (fun t s => t + mapGetD m.rt.rx (s * 512 + b) 0 / max 1 (homed s)) 0
  match m.obj Obj.LD_SOURCE with
  | 0 => measured
  | 1 => if d.isEmpty then measured else sum
  | _ => sum

/-- LOAD over next-hop sets, in the arithmetic of LD_ARITH; `n` tells the runs of one REBAL apart (R157). -/
def Manager.loads (m : Manager) (n : Nat) (nh : Nat → Nat → Ports) : SMap Nat :=
  let ls := m.fab.links
  let homing := homingAll ls
  let k := if m.obj Obj.LD_ARITH = 1 then fmacLoads m.dev.key (m.dev.free + n * 2 ^ 128) else imacLoads
  loadsOf k ls (switchesOf ls) homing nh (m.traffic homing m.declared.1)

/-- The greatest load. -/
def loadMax (l : SMap Nat) : Nat := l.foldl (fun a e => max a e.2) 0

/-- LOAD_COMPLETE: the LOAD field of every entry, LD_MAX, and the declarations ignored (R157, R158). -/
def execLoadComplete (s : State) : Out :=
  let m := s.mgr
  if !m.rt.load then .next s
  else
    let l := m.loads 0 (fun k b => BitVec.ofNat 128 ((mapGetD m.inst.committed.plates k {}).at_ 1 b))
    let m := if m.obj Obj.LD_ARITH = 1 then m.drawTile else m
    let m := m.declared.2.foldl (fun m e => m.setObj (ctxKey Obj.LD_DECL_BAD e.1) (min e.2 65535)) m
    let links := m.fab.links.map (fun e => (e.1, { e.2 with load := mapGetD l e.1 0 }))
    let m := { m with fab := { m.fab with links := links }, rt := { m.rt with load := false } }
    let m := (m.setObj Obj.LD_MAX (loadMax l)).stockSteps
    .next { s with mgr := if m.obj Obj.LD_RUN = 1 then m.setObj Obj.LD_RUN 2 else m }

/-- REBAL's rounds (R159): the best adjustments found. [DESIGN CHOICE, log 20] -/
def Manager.rebalRounds (m : Manager) : Nat → SMap Nat → SMap Nat → SMap Nat → Nat → SMap Nat
  | 0, _, _, best, _ => best
  | fuel + 1, adj, load, best, bestMax =>
    let target := m.obj Obj.RB_TARGET
    let step := m.obj Obj.RB_STEP
    let links := m.fab.links.filter (fun e => linkUp e.2 && decide (e.2.peerKind = .switch))
    let adj := links.foldl (fun a e =>
      let v := mapGetD a e.1 0
      let ld := mapGetD load e.1 0
      let w := if target < ld then min (v + step) (m.obj Obj.RB_ADJ_MAX) else if ld < target / 2 then v - step else v
      if w = 0 then mapDel a e.1 else mapSet a e.1 w) adj
    let r := m.routeIn m.fab.links adj
    let r := { r with raised := r.zeroCycles }
    let homing := homingAll r.ls
    let p : Pass := { pass := 0, sem := r.sem, d := r.dist 0, homing := homing, excs := [] }
    let nhs := r.sw.map (fun k => (k, homing.map (fun h => (h.1, r.nh p k h.2))))
    let l := m.loads fuel (fun k b => mapGetD (mapGetD nhs k []) b 0)
    let mx := loadMax l
    let best' := if mx < bestMax then adj else best
    if mx ≤ target then best' else m.rebalRounds fuel adj l best' (min mx bestMax)

/-- The adjustments that REBAL keeps, which take effect in a computation without a window (R160). -/
def Manager.takeAdj (m : Manager) (adj : SMap Nat) : Manager := ({ m with rt := { m.rt with adj := adj, rebal := false } }).wantNow

/-- REBAL_COMPLETE: the leader computes the adjustments and delivers them (R150, R159, R289). -/
def execRebalComplete (s : State) : Out :=
  let m := s.mgr
  if !m.rt.rebal || !m.active || !m.leads then .next s
  else
    let load := (m.fab.links.filter (fun e => e.2.load != 0)).map (fun e => (e.1, e.2.load))
    let best := m.rebalRounds (min 8 (m.obj Obj.RB_ROUNDS)) m.rt.adj load m.rt.adj (m.obj Obj.LD_MAX)
    let m := (if m.obj Obj.LD_ARITH = 1 then m.drawTile else m).stockSteps
    .next { s with mgr := (m.putEntry { kind := .adjust best }).takeAdj best }

/-- RB_CLEAR: re-seed counts and hot marks are cleared; the adjustments are for the next computation, until which it reads pending
(R160, R172). -/
def execRbClear (req : Req) (value : Nat) (s : State) : Out :=
  .next { s with mgr := s.mgr.cmd (.rbClear req value) req Obj.RB_CLEAR value [1] (s.mgr.obj Obj.RB_CLEAR == 1) (fun m _ =>
    ({ m with rt := { m.rt with sw := m.rt.sw.map (fun (e : Nat × SwitchRt) => (e.1, { e.2 with reseeds := 0, hot := false, below := none })) } }).setObj Obj.RB_CLEAR 1) }

/-- The equal-cost groups of a switch: the sets of two or more ports its committed plate uses as next-hop sets (R162). -/
def groupsOf (p : Plate) : List Ports :=
  let sets := (p.blocks.map (fun v => BitVec.ofNat 128 v)) ++
    ((p.excs.filter (fun v => !bitOf v 237 && !bitOf v 236)).map (fun v => BitVec.ofNat 128 (v % 2 ^ 128)))
  sets.foldl (fun l g => if twoPorts g && !l.contains g then l ++ [g] else l) []

/-- The ratio of a switch over its measured groups, in units of 1/256; 0 when none is measured (R162). The window is the agent's
telemetry period. -/
def Manager.ratioOf (m : Manager) (k : Nat) : Nat :=
  (groupsOf (mapGetD m.inst.committed.plates k {})).foldl (fun a g =>
    let ps := portsOf g
    let tx := ps.map (fun p => mapGetD m.rt.tx (k * 128 + p) 0)
    let sum := natSum tx
    let cap := natSum (ps.map (fun p => (linkOf m.fab.links (k * 128 + p)).capacity))
    if sum = 0 ∨ sum * 8 * 65536 < m.obj Obj.RB_MIN_LOAD * cap * mapGetD m.rt.txNs k 0 then a
    else max a (min 65535 (tx.foldl max 0 * 256 * ps.length / sum))) 0

/-- Table: Response to persistent imbalance, for a switch whose windows have reached RB_WINDOWS. -/
def Manager.imbalance (m : Manager) (k : Nat) : Manager :=
  let x := mapGetD m.rt.sw k {}
  let late := match x.seedAt with
    | some t => decide (m.dev.time < t + m.obj Obj.RB_SEED_MIN_S * 1000000000)
    | none => false
  let m :=
    if late || x.hot then m
    else if x.reseeds = m.obj Obj.RB_SEED_LIMIT then
      ({ m with rt := { m.rt with sw := mapSet m.rt.sw k { x with hot := true } } }).event 0x104 0
    else if m.obj Obj.RB_SEED_LIMIT = 0 then m
    else m.reseed k
  if m.obj Obj.RB_ROUNDS = 0 then m else { m with rt := { m.rt with rebal := true } }

/-- IMBALANCE_WINDOW: each switch's ratio is measured, and a persistent imbalance is acted on (R162-R164). -/
def execImbalanceWindow (s : State) : Out :=
  let m := s.mgr
  if !m.active || !m.leads then .next s
  else
    let m := m.entry .imbalanceWindow
    let limit := m.obj Obj.REBAL_RATIO
    .next { s with mgr := (m.inst.committed.plates.map (fun e => e.1)).foldl (fun m k =>
      let x := mapGetD m.rt.sw k {}
      let r := m.ratioOf k
      let above := decide (limit ≠ 0) && Nat.ble limit r
      let n := if above then x.hotFor + 1 else 0
      let act := above && Nat.ble (max 1 (m.obj Obj.RB_WINDOWS)) n
      let x := { x with ratio := r, hotFor := if act then 0 else n, below := if above then none else some (x.below.getD m.dev.time) }
      let m := { m with rt := { m.rt with sw := mapSet m.rt.sw k x } }
      if act then m.imbalance k else m) m }

/-- HOT_CLEAR: a switch's ratio has stayed below threshold for RB_HOT_CLEAR_S (R164). -/
def execHotClear (switch : Nat) (s : State) : Out :=
  let x := mapGetD s.mgr.rt.sw switch {}
  let m := s.mgr.entry (.hotClear switch)
  if s.mgr.obj Obj.RB_HOT_CLEAR_S = 0 ∨ x.below.isNone then .next s
  else .next { s with mgr := { m with rt := { m.rt with sw := mapSet m.rt.sw switch { x with reseeds := 0, hot := false } } } }

/-! ## Interleave (R168-R171) -/

/-- A redraw starts: a new key is drawn into the second slot and the sweep begins at group 0. [DESIGN CHOICE, log 7] -/
def Manager.startRedraw (m : Manager) : Manager :=
  let v := m.dev.openNat % 2 ^ 128
  let m := ((m.onDev Dev.drawn).setObj Obj.IL_SWEEP 0).setObj Obj.IL_REDRAW 1
  m.onStk (fun k => { k with next := some v, start := some m.dev.time, above := 0, asked := false })

/-- A redraw may start: no sweep is in progress, IL_MIN_S has passed since the last start, and a key can be drawn (R169, R459). -/
def Manager.mayRedraw (m : Manager) : Bool :=
  !m.rngOut && m.eng.stk.next.isNone && (match m.eng.stk.start with
    | some t => Nat.ble (t + max 1 (m.obj Obj.IL_MIN_S) * 1000000000) m.dev.time
    | none => true)

/-- The ratio of the busiest channel's requests to the mean over the 64 channels, in units of 1/256. -/
def chanRatio (l : List Nat) : Nat := if natSum l = 0 then 0 else l.foldl max 0 * 64 * 256 / natSum l

/-- INTERLEAVE_WINDOW: a 10 ms window of the channels' request counts ends (R169). `other` counts, by channel, the requests that the
module's traffic besides the lines made. [DESIGN CHOICE, log 95] -/
def execInterleaveWindow (other : SMap Nat) (s : State) : Out :=
  let m := s.mgr
  let ratio := chanRatio ((upTo 64).map (fun c => mapGetD m.eng.stk.chan c 0 + mapGetD other c 0))
  let above := decide (m.obj Obj.IL_RATIO ≠ 0) && Nat.ble (m.obj Obj.IL_RATIO) ratio
  let n := if above then m.eng.stk.above + 1 else 0
  let m := (m.setObj Obj.IL_IMBAL (min ratio 65535)).onStk (fun k => { k with above := n, chan := [] })
  if (m.eng.stk.asked || (above && Nat.ble (max 1 (m.obj Obj.IL_WINDOWS)) n)) && m.mayRedraw then .next { s with mgr := m.startRedraw }
  else .next { s with mgr := m }

/-- IL_REDRAW: a redraw is requested; a write during a sweep has no effect. Within IL_MIN_S of the last start the request
waits. -/
def execIlRedraw (req : Req) (value : Nat) (s : State) : Out :=
  .next { s with mgr := s.mgr.cmd (.ilRedraw req value) req Obj.IL_REDRAW value [1] false (fun m _ =>
    if m.eng.stk.next.isSome then m else if m.mayRedraw then m.startRedraw else m.onStk (fun k => { k with asked := true })) }

/-- GROUP_MOVE: the group at the sweep pointer has been written under the new key, its pages as they are and with their key-epoch
bits, and the pointer passes it: requests to it use the new key from here on, those before used the old (R170, R171). After the last
group the old key is erased. -/
def execGroupMove (s : State) : Out :=
  let m := s.mgr
  match m.eng.stk.next with
  | none => .next s
  | some v =>
    let n := m.obj Obj.IL_SWEEP + 1
    if n < 524288 then .next { s with mgr := m.setObj Obj.IL_SWEEP n }
    else
      let m := ((m.setObj Obj.IL_SWEEP 0).setObj Obj.IL_REDRAW 0).bump Obj.IL_REDRAWS
      .next { s with mgr := m.onStk (fun k => { k with key := v, next := none }) }

end Sys2Proof.Machine
end

