-- ==== Sys2Proof/Machine/Inputs.lean ====
section
/-! DEFINITION. Sys2Proof/Machine/Inputs.lean: the inputs that become entries of the ordered input stream, each acting at a
module that applies the entry as its command does (R288, R294). -/

namespace Sys2Proof.Machine

/-- An input of the stream acts as its command does; other commands are no inputs. -/
def applyInput (i : Instr) (s : State) : Out :=
  match i with
  | .lpImageWrite req image => execLpImageWrite req image s
  | .lpLoad req value => execLpLoad req value s
  | .ldRun req value => execLdRun req value s
  | .rbClear req value => execRbClear req value s
  | .hotClear switch => execHotClear switch s
  | .ilRedraw req value => execIlRedraw req value s
  | .stageAck hdr imp status detail digest => execStageAck hdr imp status detail digest s
  | .stageAttemptTimeout switch => execStageAttemptTimeout switch s
  | .commitAck hdr imp status detail field => execCommitAck hdr imp status detail field s
  | .isolateAck hdr nid status => execIsolateAck hdr nid status s
  | .isolateTimeout switch => execIsolateTimeout switch s
  | .impFull req value => execImpFull req value s
  | .isReadmit req value => execIsReadmit req value s
  | .iaRestore req value => execIaRestore req value s
  | .cvGo req value => execCvGo req value s
  | .cvCancel req tag => execCvCancel req tag s
  | .waitExpired tag => execWaitExpired tag s
  | .keyAck hdr ctx gen role status => execKeyAck hdr ctx gen role status s
  | .setKeyTimeout ctx => execSetKeyTimeout ctx s
  | .carveComplete ctx => execCarveComplete ctx s
  | .cxReleaseDrain req => execCxReleaseDrain req s
  | .cxReleasePurge req => execCxReleasePurge req s
  | .drainTimeout ctx => execDrainTimeout ctx s
  | .purgeTagsReturned ctx => execPurgeTagsReturned ctx s
  | .revokeTimeout ctx => execRevokeTimeout ctx s
  | .vfReset ctx => execVfReset ctx s
  | .purgeComplete ctx => execPurgeComplete ctx s
  | .quarantineExpire ctx => execQuarantineExpire ctx s
  | .dramPageZeroed mib => execDramPageZeroed mib s
  | .keyBarLifted ctx => execKeyBarLifted ctx s
  | .neighbour hdr peerNode peerPort peerEp port ep => execNeighbour hdr peerNode peerPort peerEp port ep s
  | .memberAck hdr ctx gen nid => execMemberAck hdr ctx gen nid s
  | .rejoinTimeout ctx => execRejoinTimeout ctx s
  | .hbReply dev hdr round committed map => execHbReply dev hdr round committed map s
  | .agentHeartbeatMissed nid => execAgentHeartbeatMissed nid s
  | .silentTimeout nid => execSilentTimeout nid s
  | .timeEstimateExpire nid => execTimeEstimateExpire nid s
  | .hangWatchdog ctx => execHangWatchdog ctx s
  | .epReadmit req value => execEpReadmit req value s
  | .lkReadmit req value => execLkReadmit req value s
  | .rsCommit req value => execRsCommit req value s
  | .dictReply hdr tag result data => execDictReply hdr tag result data s
  | .pPartCreate req value => execPPartCreate req value s
  | .pPartDelete req value => execPPartDelete req value s
  | .pRecompute req value => execPRecompute req value s
  | .keyAccept hdr assoc phase status => execKeyAccept hdr assoc phase status s
  | .timedReply hdr t1 t2 t3 wdrSent rekey restarting plateValid => execTimedReply hdr t1 t2 t3 wdrSent rekey restarting plateValid s
  | .btFresh req value => execBtFresh req value s
  | .hello hdr payload => execHello hdr payload s
  | .attestReport hdr die sigOk nonce hello desc debug => execAttestReport hdr die sigOk nonce hello desc debug s
  | .bpImage req image => execBpImage req image s
  | .readyToleranceWrite req sub data => execReadyToleranceWrite req sub data s
  | .dsRestart req value => execDsRestart req value s
  | .fwImage req image => execFwImage req image s
  | .fwBroadcast req sigOk => execFwBroadcast req sigOk s
  | .fwActivate req => execFwActivate req s
  | .fwAbort req => execFwAbort req s
  | .bulkReport hdr image state pass more missing => execBulkReport hdr image state pass more missing s
  | .rlCommit req value => execRlCommit req value s
  | .telemetry hdr time period last recs => execTelemetry hdr time period last recs s
  | .subsampleWindow full => execSubsampleWindow full s
  | .tsSubscribe req data => execTsSubscribe req data s
  | .agentParked nid => execAgentParked nid s
  | .coalescingWindowClose => execCoalescingWindowClose s
  | .loadPeriod => execLoadPeriod s
  | .imbalanceWindow => execImbalanceWindow s
  | .commitTimeout => execCommitTimeout s
  | .oldSideRelease => execOldSideRelease s
  | .settleExpire => execSettleExpire s
  | .passPlan => execPassPlan s
  | .activationBatchTimeout => execActivationBatchTimeout s
  | .telemetryManagerPeriod => execTelemetryManagerPeriod s
  | .sentinelEntryManager => execSentinelEntryManager s
  | .passSent => execPassSent s
  | .linkEvent _ _ _ _ _ _ _ _ | .epReset _ _ _ _ _ _ _ | .nodeReady _ _ _ _ | .resetReq _ _ _ _ _ | .nodeLost _ _ _ _ _ =>
    .next { s with mgr := s.mgr.reportEntry i }
  | .dictWrite req key data => .next { s with mgr := s.mgr.writePlain req key data }
  | _ => .next s

end Sys2Proof.Machine
end

