-- ==== Sys2Proof/Machine/Redundancy.lean ====
section
/-! DEFINITION. Sys2Proof/Machine/Redundancy.lean: units and claims, the triad, replication and takeover at a manager module
(chapter "Triads, standby and claim numbers"). -/

namespace Sys2Proof.Machine

/-- A frame to another unit's module, under the manager-manager association. -/
def Manager.toPeer (m : Manager) (nid : Nat) (x : Msg) : Manager := m.onDev (fun d => d.sendTo nid 3 x)

/-- A message to a peer over the triad ports. -/
def Manager.triadSend (m : Manager) (x : TriadMsg) : Manager := m.onRed (fun r => { r with triadOut := r.triadOut ++ [x] })

/-! ## Entries acknowledged (R288, R295) -/

/-! ## Peers in service and a triad that cannot agree (R292, R293) -/

/-- A peer of the triad is in service and synchronised. -/
def Manager.addPeer (m : Manager) (k : Nat) : Manager :=
  (m.onRed (fun r => { r with peersIn := insNat r.peersIn k, misses := mapDel r.misses k })).setObj Obj.TR_MEMBERS
    (m.obj Obj.TR_MEMBERS ||| 2 ^ k)

/-- A module of the triad is out of service. -/
def Manager.dropPeer (m : Manager) (k : Nat) : Manager :=
  (m.onRed (fun r => { r with peersIn := r.peersIn.filter (fun j => j != k), digests := mapDel r.digests k, misses := mapDel r.misses k })).notMember k

/-- With RD_YIELD set and a standby in step, a triad that can no longer agree yields (R293). -/
def Manager.yieldIf (m : Manager) : Manager := if m.obj Obj.RD_YIELD = 1 then m.yieldTo 4 else m

/-- A triad reduced to one module yields where it can (R293); otherwise the candidate waits, or RD_SOLO lets it commit. -/
def Manager.alone (m : Manager) : Manager :=
  if m.red.slot.isSome ∧ m.red.peersIn.isEmpty ∧ m.active ∧ m.leads then m.yieldIf.tryCommit else m

/-- INPUT_STREAM_ACK at the leader: a follower holds the entries up to a number. One that has caught up is in service again
(R292). -/
def Manager.entryHeld (m : Manager) (slot seq : Nat) : Manager :=
  let m := m.onRed (fun r => { r with acked := mapSet r.acked slot (max seq (mapGetD r.acked slot 0)) })
  let back := !m.red.peersIn.contains slot && decide (m.red.nextSeq ≤ seq + 1) && decide (slot < 3) && decide (some slot ≠ m.red.slot)
  (if back then m.addPeer slot else m).release

/-- REPL_ACK: the standby holds the entries up to a number; one that has caught up is in step (R295), and a lone module of a triad
then yields to it (R293). [DEDUCED, log 69] -/
def execReplAck (hdr : Hdr) (seq : Nat) (s : State) : Out :=
  let t := s.mgr.dev.ingress stageFrame hdr s.mgr.genOf
  let m : Manager := { s.mgr with dev := t.dev }
  if !t.ok ∨ m.red.standby ≠ some hdr.src then .next { s with mgr := m }
  else
    let m := m.onRed (fun r => { r with
      acked := mapSet r.acked hdr.src (max seq (mapGetD r.acked hdr.src 0))
      inSync := r.inSync || decide (r.nextSeq ≤ seq + 1) })
    .next { s with mgr := m.lag.release.alone }

/-- REPL_TIMEOUT: RD_REPL_US passes without the acknowledgement of an entry; the standby is waited for no further. -/
def execReplTimeout (seq : Nat) (s : State) : Out :=
  let m := s.mgr
  match m.red.standby with
  | none => .next s
  | some nid =>
    if !m.red.inSync ∨ seq ≤ mapGetD m.red.acked nid 0 ∨ m.red.nextSeq ≤ seq then .next s
    else .next { s with mgr := (m.onRed (fun r => { r with inSync := false })).release }

/-! ## Claims (R281, R285) -/

/-- The switches whose agents are attested. -/
def Manager.agentSwitches (m : Manager) : List Nat :=
  sortNat ((m.fab.nodes.filter (fun n => n.2.kind != 1)).map (fun n => m.switchOf n.1))

/-- The unit claims: the number is kept before it is used, and CLAIM is multicast (R281, R285). -/
def Manager.claimAs (m : Manager) (cause n prev prevNid : Nat) : Manager :=
  let m := (((m.setObj Obj.RD_CLAIM n).setObj Obj.RD_HIGHEST n).setObj Obj.RD_HIGHEST_NID m.dev.net.nid).setObj Obj.RD_HANDOVER 0
  let await := m.agentSwitches.filter (fun k => !m.isolated k)
  let m := m.onRed (fun r => { r with
    prev := (prev, prevNid, cause), reports := [], claimTry := await.map (fun k => (k, 1)), resync := none, heard := false })
  let m := m.event 0x280 0
  m.emit { dst := nidAll, assoc := 0xE000, claim := some n, msg := .claim prev prevNid cause (m.obj Obj.IMP_COMMITTED) }

/-- A unit claims at boot, one more than the greatest claim found in its modules' NVM or heard while listening. Discovery begins
(R281, R298). -/
def Manager.claimBoot (m : Manager) : Manager :=
  let top := max m.red.found (m.obj Obj.RD_HIGHEST)
  let m := ((m.setObj Obj.RD_STATE 2).claimAs 0 (top + 1) 0 0).followPeer
  let m := (m.setObj Obj.DS_STATE 1).onDisc (fun x => { x with claimed := m.dev.time })
  ((m.onRed (fun r => { r with gain := .none })).putEntry { kind := .claim (m.obj Obj.RD_CLAIM) m.dev.net.nid }).touchGate.pump

/-- What the leader or the failed unit alone held is lost: runs end with CELL_RESET, cell SRAM and DRAM read as never written,
sync objects and mailboxes are reset (R300). [DESIGN CHOICE, log 12] -/
def Manager.lostWithLeader (m : Manager) : Manager :=
  let m := m.red.runs.foldl (fun m c =>
    ((m.setObj (ctxKey Obj.LP_STATUS c) (0xFFFF * 65536 + 5)).setObj (ctxKey Obj.LP_RUN c) 2).raiseCtx c 0) m
  let m := m.onRed (fun r => { r with runs := [] })
  { m with host := { m.host with syncs := [], mailboxes := [] }
           eng := { m.eng with mem := m.eng.mem.filter (fun c => decide (c.1 < 2 ^ 60)), runs := [], tags := [] } }

/-- The interrupted install of N is completed at the switches that are one behind: N is staged and committed to them alone
(R297). -/
def Manager.complete (m : Manager) (n : Nat) (behind : List Nat) : Manager :=
  if behind.isEmpty then m
  else
    let m := m.onRed (fun r => { r with gain := .completing n })
    let m := { m with inst := { m.inst with
      cand := some { imp := m.impOf n, snap := m.rt.pSnap, awaits := behind, only := behind }
      sw := behind.foldl (fun w k => mapUpd w k {} (fun x => { x with attempts := 0 })) m.inst.sw } }
    behind.foldl (fun m k => m.sendStage k false) (m.phase 2)

/-- The committed impression is N: a later commit decision that no agent has flipped to is undone. -/
def Manager.settleOn (m : Manager) (n : Nat) : Manager :=
  if m.obj Obj.IMP_COMMITTED = n then m
  else
    let imp := m.impOf n
    let keep := m.inst.archive.filter (fun a => !newer a.imp.number n)
    let m := { m with inst := { m.inst with committed := imp, archive := keep } }
    (((m.setObj Obj.IMP_COMMITTED n).setObj Obj.IA_DEPTH keep.length).onDev (fun d => d.setBlob Obj.IMP_DIGEST (leBytes 32 imp.digest.toNat))).moveComp

/-- The newest COMMITTED reported. -/
def newestOf : List Nat → Nat
  | [] => 0
  | v :: rest => rest.foldl (fun b w => if newer w b then w else b) v

/-- The candidate that a disqualified leader had staged is staged again under the new claim; where an install is to be completed
first, or its number no longer follows the committed one, a computation gives another (R199, R291). -/
def Manager.stageAgain (m : Manager) (kept : Option Cand) (behind : List Nat) : Manager :=
  match kept with
  | none => m
  | some c => if behind.isEmpty ∧ c.imp.number = nextImp (m.obj Obj.IMP_COMMITTED) then m.newCandidate c else m.wantNow

/-- Step 4 of gaining authority, at the leader and, by its entry, at every module that follows it: what was the former leader's alone
is lost, and the interrupted install is completed, or the agents' state adopted; the window opens (R296-R300). -/
def Manager.settleGain (m : Manager) (cause : Nat) (kept : Option Cand) : Manager :=
  let vals := m.red.reports.map (fun r => r.2.committed)
  let n := newestOf vals
  let held := match m.red.interrupted with
    | some d => if newer d.1 (m.obj Obj.IMP_COMMITTED) then d.1 else m.obj Obj.IMP_COMMITTED
    | none => m.obj Obj.IMP_COMMITTED
  let m := m.lostWithLeader
  let m := if cause = 2 then m else
    (m.sl.ctxs.filter (fun c => decide (c.2.st ≠ .free))).foldl (fun (m : Manager) (c : Nat × Ctx) => (m.event 0x205 c.1).raiseCtx c.1 1)
      (m.setObj Obj.FW_STATE 5)
  let m := m.deliverAll
  if vals.isEmpty then m.openWindow
  else if newer n held then (m.event 0x285 0).adopt.openWindow
  else
    let m := m.settleOn n
    let behind := (m.red.reports.filter (fun r => nextImp r.2.committed == n)).map (fun r => r.1)
    (m.complete n behind).openWindow.stageAgain kept behind

/-- The agents' CLAIM_ACKs are in: the unit is active, its leader tells the other modules, and step 4 follows (R296, R297, R298). -/
def Manager.gainDone (m : Manager) : Manager :=
  match m.red.gain with
  | .collecting cause =>
    let kept := if m.red.restage then m.inst.cand else none
    let m := m.abandon.onRed (fun r => { r with gain := .none, restage := false })
    let m := if cause = 2 then m else
      ((m.setObj Obj.RD_STATE 2).bump Obj.RD_TAKEOVERS).setObj Obj.RD_LAST_GAP_US ((m.dev.time - m.red.gapFrom) / 1000)
    let m := m.followPeer.putEntry { kind := .claim (m.obj Obj.RD_CLAIM) m.dev.net.nid }
    let m := m.putEntry { kind := .gained cause (m.red.reports.map (fun r => (r.1, r.2.committed))) (m.red.claimTry.map (fun k => k.1)) kept.isSome }
    m.settleGain cause kept
  | _ => m

/-- The leader has gained authority, as its entry tells: the module knows what it knows, and does as it does. -/
def Manager.gained (m : Manager) (cause : Nat) (committed : SMap Nat) (waits : List Nat) (again : Bool) : Manager :=
  let kept := if again then m.inst.cand else none
  let m := m.abandon.onRed (fun r => { r with
    gain := .none, reports := committed.map (fun e => (e.1, { committed := e.2, staged := e.2, stagedOk := false })), claimTry := waits.map (fun k => (k, 1)) })
  m.settleGain cause kept

/-- A unit takes over: it claims one more than the highest claim it has seen (Table: Takeover, steps 1 and 2). [DEDUCED, log 69] -/
def Manager.takeOver (m : Manager) (cause : Nat) : Manager :=
  let m := (m.setObj Obj.RD_STATE 5).wakeEngine
  let m := m.claimAs cause (m.obj Obj.RD_HIGHEST + 1) (m.obj Obj.RD_HIGHEST) (m.obj Obj.RD_HIGHEST_NID)
  let m := m.onRed (fun r => { r with gain := .collecting cause })
  if m.red.claimTry.isEmpty then m.gainDone else m

/-- BOOT_LISTEN_EXPIRE: the unit stands by where an active unit was heard, claims where it may, and is spare otherwise. A
follower of a triad waits for its leader's claim. -/
def execBootListenExpire (s : State) : Out :=
  let m := s.mgr
  if m.obj Obj.RD_STATE ≠ 1 then .next s
  else
    let m := m.setObj Obj.BT_BOOT_MS ((m.dev.time - m.dev.since) / 1000000)
    if m.red.heard then
      if m.obj Obj.RD_PEER = 0 then .next { s with mgr := m.setObj Obj.RD_STATE 4 }
      else .next { s with mgr := m.startResync (m.obj Obj.RD_HIGHEST_NID) 6 }
    else if m.red.slot.isSome ∧ !m.leads then .next { s with mgr := m }
    else if m.obj Obj.RD_ROLE = 0 then .next { s with mgr := m.claimBoot }
    else .next { s with mgr := m.setObj Obj.RD_STATE 4 }

/-- A spare whose RD_PEER names a peer begins to stand by for an active unit that it hears (R280, R281). -/
def Manager.standBy (m : Manager) (src : Nat) : Manager :=
  if m.obj Obj.RD_STATE = 4 ∧ m.obj Obj.RD_PEER ≠ 0 ∧ m.leads then m.startResync src 6 else m

/-- CLAIM_MANAGER: a CLAIM of the module's own triad names its new leader, and that a standby takes over; one of another unit, when its pair is higher,
ends this unit's authority (R281, R282, R290, R302). A standby stays so through a leader change of the unit it follows, tells the
new leader what it has applied, and follows a unit that has taken over by resynchronising. -/
def execClaimManager (hdr : Hdr) (_prev _prevNid cause _imp : Nat) (s : State) : Out :=
  let t := s.mgr.dev.ingress commitCmd hdr s.mgr.genOf
  let m : Manager := { s.mgr with dev := t.dev }
  let c := hdr.claim.getD 0
  if !t.ok then .next { s with mgr := m }
  else match m.red.trio.find? (fun x => x.2 == hdr.src) with
    | some p =>
      let m := (m.seeClaim c hdr.src).followMate p.1 c
      .next { s with mgr := if m.obj Obj.RD_STATE = 1 then m.setObj Obj.RD_STATE 2 else if m.obj Obj.RD_STATE = 3 then m.setObj Obj.RD_STATE 5 else m }
    | none =>
      let st := m.obj Obj.RD_STATE
      let rose := pairHigher c hdr.src (m.obj Obj.RD_HIGHEST) (m.obj Obj.RD_HIGHEST_NID)
      let m := (m.meetPair c hdr.src).onRed (fun r => { r with heard := r.heard || st == 1, gapFrom := m.dev.time })
      if st = 3 ∧ cause ≠ 2 ∧ rose then
        .next { s with mgr := if m.obj Obj.RD_PEER = 0 then m.setObj Obj.RD_STATE 4 else m.startResync (m.copiesFrom hdr.src) 6 }
      else if st = 3 ∧ rose ∧ m.leads then .next { s with mgr := m.toPeer hdr.src (.replAck m.red.applied) }
      else .next { s with mgr := m.standBy hdr.src }

/-- A switch whose agent has been attested anew and forwards on the side that the next candidate's number names waits, isolated, for
a candidate of the other parity (R298 step 5, R547). -/
def Manager.rejoins (m : Manager) (sw committed : Nat) : Manager :=
  let n := m.obj Obj.IMP_COMMITTED
  if n ≠ 0 ∧ committed ≠ n ∧ committed % 2 = nextImp n % 2 ∧ (m.node (m.agentOf sw)).plateValid = true then
    ((m.isolate sw .excluded).onRed (fun r => { r with readmits := insNat r.readmits sw })).joinLater
  else m

/-- A CLAIM_ACK that comes after the unit has gone on: its switch joins the completion, or is isolated and readmitted as one
that adoption isolates. -/
def Manager.lateReport (m : Manager) (sw committed : Nat) : Manager :=
  let n := m.obj Obj.IMP_COMMITTED
  if committed = n then m
  else if nextImp committed = n ∧ m.inst.phase = 0 ∧ m.inst.cand.isNone then m.complete n [sw]
  else ((m.isolate sw .excluded).onRed (fun r => { r with readmits := insNat r.readmits sw })).wantNow

/-- CLAIM_ACK: what a switch agent holds (R286). It ends the agent's attestation (R442); a unit that gains authority goes on
once every switch agent has answered. [DEDUCED, log 69] -/
def execClaimAck (hdr : Hdr) (committed staged : Nat) (stagedOk : Bool) (s : State) : Out :=
  let t := s.mgr.dev.ingress commitFrame hdr s.mgr.genOf
  let m : Manager := { s.mgr with dev := t.dev }
  match t.ok, mapGet m.fab.nodes hdr.src with
  | true, some node =>
    let m := m.entry (.claimAck hdr committed staged stagedOk)
    let sw := m.switchOf hdr.src
    let awaited := (mapGet m.red.claimTry sw).isSome
    let m := m.onRed (fun r => { r with
      reports := mapSet r.reports sw { committed := committed, staged := staged, stagedOk := stagedOk }
      claimTry := mapDel r.claimTry sw })
    let m := (m.swReports sw committed).setNode hdr.src { node with committed := committed }
    let m := match m.disc.atts.find? (fun x => x.2.nid == hdr.src && x.2.stage == 2) with
      | some a => m.equip a.1 hdr.src
      | none => m
    match m.red.gain with
    | .collecting _ => .next { s with mgr := if m.red.claimTry.isEmpty then m.gainDone else m }
    | _ => .next { s with mgr := if awaited then m.lateReport sw committed else m.rejoins sw committed }
  | _, _ => .next { s with mgr := m }

/-- CLAIM_RETRY: IMP_COMMIT_RETRY_US after the CLAIM it goes by unicast to the switch agents that have not answered; step 3
of the takeover is over (R296). -/
def execClaimRetry (s : State) : Out :=
  let m := s.mgr
  if m.red.claimTry.isEmpty ∨ !m.leads then .next s
  else
    let m := m.red.claimTry.foldl (fun (m : Manager) (k : Nat × Nat) => m.sendClaim (m.agentOf k.1)) m
    let m := m.onRed (fun r => { r with claimTry := r.claimTry.map (fun k => (k.1, k.2 + 1)) })
    .next { s with mgr := m.gainDone }

/-- Switches whose agents sent no CLAIM_ACK are lost and isolated (R296). -/
def Manager.silentAgents (m : Manager) (lost : List Nat) : Manager := (lost.foldl (fun m k => m.isolate k .lost) m).wantNow

/-- CLAIM_TIMEOUT: switch agents silent for IMP_COMMIT_US are lost and isolated (R296, R202). -/
def execClaimTimeout (s : State) : Out :=
  let m := s.mgr
  if m.red.claimTry.isEmpty ∨ !m.leads then .next s
  else
    let lost := m.red.claimTry.map (fun k => k.1)
    let m := (m.onRed (fun r => { r with claimTry := [] })).gainDone
    .next { s with mgr := (m.putEntry { kind := .silent lost }).silentAgents lost }

/-! ## Applying entries (R288, R294) -/

/-- An input that acts on the recorder's own settings: the staged rates and their commit (R355). -/
def setsRecorder : Instr → Bool
  | .rlCommit _ _ => true
  | .dictWrite _ key _ => key / 256 % 65536 == 0x1410
  | _ => false

/-- An input acts at this module as it did at the leader: with the leader's draws, and with nothing sent, answered, signalled or
recorded. Times are of this module's own clock (R9). [DESIGN CHOICE, log 68] -/
def replayInput (s : State) (act : State → Out) (device draws : Nat) (logs : Bool := false) : State :=
  let own := s.mgr.dev
  let host := s.mgr.host
  let m := { s.mgr with dev := { own with key := device, free := draws, net := { own.net with replay := true } } }
  match act { s with mgr := m } with
  | .next t =>
    let d := t.mgr.dev
    let d : Dev := { d with key := own.key, free := own.free, out := own.out, log := if logs then d.log else own.log, net := { d.net with replay := false } }
    let h : HostSide := { t.mgr.host with answers := host.answers, accepted := host.accepted, held := host.held, msis := host.msis }
    { s with mgr := ({ t.mgr with dev := if logs then d else d.setObj Obj.EV_WRITTEN (own.obj Obj.EV_WRITTEN), host := h } : Manager).sendDue }
  | _ => s

/-- A commit decision as the leader delivers it: its impression becomes the committed one, with the inputs of this module's own
computation of it where it made one; what the leader sent and recorded for it is not sent or recorded again. [DESIGN CHOICE, log 106] -/
def Manager.decided (m : Manager) (imp : Nat) (digest : Digest) (plates : SMap Plate) (full : Bool) : Manager :=
  let m := m.onRed (fun r => { r with interrupted := some (imp, digest) })
  if m.obj Obj.IMP_COMMITTED = imp then m
  else
    let out := m.dev.out
    let log := m.dev.log
    let written := m.obj Obj.EV_WRITTEN
    let it : Impression := { number := imp, digest := digest, plates := plates }
    let own := (m.inst.cand.filter (fun c => c.imp == it)).getD { imp := it, snap := m.fab.links }
    let m := m.putCommitted { own with full := full }
    (m.onDev (fun d => { d with out := out, log := log })).setObj Obj.EV_WRITTEN written

/-- One entry is applied. [DESIGN CHOICE, log 68] -/
def applyEntry (s : State) (n : Nat) (e : StreamEntry) : State :=
  let m := s.mgr.onRed (fun r => { r with applied := n, nextSeq := n + 1, entries := mapDel r.entries n })
  let m := if m.red.slot.isSome then m.setObj Obj.TR_SEQ n else m
  let s := { s with mgr := m }
  match e.kind, e.input with
  | .input _ _, some (.lpRunStart req) =>
    { s with mgr := m.onRed (fun r => { r with runs := insNat r.runs ((m.reachCtx req.fn).getD 0) }) }
  | .input device draws, some (.claimAck hdr c st ok) => replayInput s (execClaimAck hdr c st ok) device draws
  | .input device draws, some i => replayInput s (applyInput i) device draws (setsRecorder i)
  | .input _ _, none => s
  | .seed sw v, _ =>
    { s with mgr := { m with rt := { m.rt with sw := mapUpd m.rt.sw sw {} (fun x => x.seedFrom v) } } }
  | .adjust adj, _ => { s with mgr := m.takeAdj adj }
  | .centre c, _ => { s with mgr := m.placed c }
  | .granted n c, _ =>
    { s with mgr := match m.sl.queue.find? (fun q => q.num == n) with | some q => m.grantQueued q c | none => m }
  | .hook n plates, _ => { s with mgr := { m with rt := { m.rt with hookIn := some (n, plates) } } }
  | .runEnd c st, _ =>
    let m := m.onRed (fun r => { r with runs := r.runs.filter (fun k => k != c) })
    { s with mgr := (m.setObj (ctxKey Obj.LP_STATUS c) st).setObj (ctxKey Obj.LP_RUN c) 2 }
  | .decision imp digest plates full, _ => { s with mgr := m.decided imp digest plates full }
  | .claim c nid, _ =>
    if m.red.trio.any (fun t => t.2 == nid) then
      let m := (m.seeClaim c nid).setObj Obj.RD_CLAIM c
      { s with mgr := if [1, 3, 5].contains (m.obj Obj.RD_STATE) then m.setObj Obj.RD_STATE 2 else m }
    else { s with mgr := m.meetPair c nid }
  | .gained cause committed waits again, _ => replayInput s (fun t => .next { t with mgr := t.mgr.gained cause committed waits again }) m.dev.key m.dev.free
  | .silent l, _ =>
    replayInput s (fun t => .next { t with mgr := (t.mgr.onRed (fun r => { r with claimTry := [] })).silentAgents l }) m.dev.key m.dev.free

/-- Entries held are applied strictly in sequence order, as far as none is missing. -/
def applyHeld : Nat → State → State
  | 0, s => s
  | fuel + 1, s =>
    match mapGet s.mgr.red.entries (s.mgr.red.applied + 1) with
    | none => s
    | some e => applyHeld fuel (applyEntry s (s.mgr.red.applied + 1) e)

/-- An entry arrives: it is held, and applied when its turn comes and no copy is in progress. -/
def takeEntry (s : State) (seq : Nat) (kind : EntryKind) (input : Instr) : State :=
  let m := s.mgr
  let e : StreamEntry := { kind := kind, input := match kind with | .input _ _ => some input | _ => none }
  let m := if seq ≤ m.red.applied then m else m.onRed (fun r => { r with entries := mapSet r.entries seq e })
  let s := { s with mgr := m }
  if m.red.resync.isSome then s else applyHeld (m.red.entries.length + 1) s

/-- Entries that the module lacks are asked of its peers (R288). -/
def Manager.fetch (m : Manager) (seq : Nat) : Manager :=
  if m.red.resync.isNone ∧ m.red.applied < seq then m.triadSend (.fetch (m.red.applied + 1)) else m

/-- The leader to be has applied every entry that either follower holds, as far as it knows: it claims with CAUSE LEADER_CHANGE
and completes what was interrupted (R290). -/
def gathered (s : State) : State :=
  let m := s.mgr
  match m.red.gather with
  | some (old, some last) =>
    if m.red.applied < last then s
    else
      let m := m.onRed (fun r => { r with gather := none })
      let was := mapGetD m.red.trio old m.dev.net.nid
      let m := m.claimAs 2 (m.obj Obj.RD_CLAIM + 1) (m.obj Obj.RD_CLAIM) was
      let m := m.onRed (fun r => { r with gain := .collecting 2, entries := [], acked := [] })
      { s with mgr := if m.red.claimTry.isEmpty then m.gainDone else m }
  | _ => s

/-- INPUT_STREAM_ENTRY: a follower takes an entry, acknowledges it, applies entries in sequence order and asks for those it lacks;
the leader to be goes on once it has them all. [DESIGN CHOICE, log 68] -/
def execInputStreamEntry (seq : Nat) (kind : EntryKind) (input : Instr) (s : State) : Out :=
  if s.mgr.red.slot.isNone ∨ s.mgr.leads then .next s
  else
    let t := takeEntry s seq kind input
    .next (gathered { t with mgr := (t.mgr.triadSend (.ack seq)).fetch seq })

/-- INPUT_STREAM_ACK: at the leader, the entries up to a number are held by a follower; at the module that is to lead it tells the
last entry that the other follower holds (R288, R290). -/
def execInputStreamAck (slot seq : Nat) (s : State) : Out :=
  let m := s.mgr
  match m.red.slot, m.red.gather with
  | none, _ => .next s
  | some _, some (old, _) =>
    if m.red.peersIn.contains slot then .next (gathered { s with mgr := m.onRed (fun r => { r with gather := some (old, some seq) }) })
    else .next s
  | some _, none => .next { s with mgr := if m.leads then m.entryHeld slot seq else m }

/-- The standby's heartbeat or entry shows that entries are missing: it is no longer in step and resynchronises (R295). -/
def Manager.outOfStep (m : Manager) (src : Nat) : Manager := (m.startResync src 7).onRed (fun r => { r with lagAt := none })

/-- A standby that has copied the active unit's state is in step again once it has applied every entry it knows of (R295). -/
def Manager.caughtUp (m : Manager) : Manager :=
  if (m.obj Obj.RD_STATE = 6 ∨ m.obj Obj.RD_STATE = 7) ∧ m.red.resync.isNone ∧ m.red.latest ≤ m.red.applied then m.setObj Obj.RD_STATE 3 else m

/-- A YIELD that came before its last entry is acted on once that entry is applied (R301). -/
def Manager.yielded (m : Manager) : Manager :=
  match m.red.yieldAfter with
  | some (n, cause) =>
    if m.red.applied < n then m else (m.onRed (fun r => { r with yieldAfter := none })).takeOver (if cause = 4 then 4 else 3)
  | none => m

/-- The leader of a standby triad passes the entries of the active unit to its followers, also to one that resynchronises (R292, R294). -/
def Manager.passOn (m : Manager) (seq : Nat) (e : StreamEntry) : Manager :=
  if m.red.slot.isSome ∧ m.leads then m.triadSend (.entry seq e) else m

/-- REPL: a standby takes an entry and acknowledges what it has applied; where entries before it are missing it is no longer in step
and resynchronises. A spare that receives replication begins to stand by in the same way (R280, R294, R295). [DESIGN CHOICE, log 68] -/
def execRepl (hdr : Hdr) (seq : Nat) (kind : EntryKind) (input : Instr) (s : State) : Out :=
  let t := s.mgr.dev.ingress stageFrame hdr s.mgr.genOf
  let m : Manager := { s.mgr with dev := t.dev }
  let st := m.obj Obj.RD_STATE
  if !t.ok ∨ !m.leads ∨ (st ≠ 3 ∧ st ≠ 4 ∧ st ≠ 6 ∧ st ≠ 7) then .next { s with mgr := m }
  else
    let m := (if st = 4 then m.startResync hdr.src 6 else m).onRed (fun r => { r with latest := max r.latest seq })
    let u := takeEntry { s with mgr := m } seq kind input
    let m := u.mgr.passOn seq { kind := kind, input := match kind with | .input _ _ => some input | _ => none }
    if m.red.resync.isSome then .next { u with mgr := m }
    else if m.red.applied < seq then .next { u with mgr := m.outOfStep hdr.src }
    else .next { u with mgr := (m.caughtUp.toPeer hdr.src (.replAck m.red.applied)).yielded }

/-! ## Handing over (R301, R293) -/

/-- RD_HANDOVER: no effect at a unit that is not active or whose standby is not in step. [DEDUCED, log 69] -/
def execRdHandover (req : Req) (value : Nat) (s : State) : Out :=
  .next { s with mgr := s.mgr.cmd (.rdHandover req value) req Obj.RD_HANDOVER value [1] (s.mgr.obj Obj.RD_HANDOVER == 1) (fun m _ => m.yieldTo 3) }

/-- P_HA_SWITCHOVER: writes RD_HANDOVER (R301, R368). -/
def execPHaSwitchover (req : Req) (value : Nat) (s : State) : Out :=
  let m := s.mgr
  if m.gateReach req Obj.P_HA_SWITCHOVER true value = 0 ∧ m.gateState req Obj.P_HA_SWITCHOVER true ≠ 0 ∧ m.gateState req Obj.RD_HANDOVER true = 0 then
    .next { s with mgr := m.answer req (if value = 1 then 0 else 0x0007) }
  else .next { s with mgr := s.mgr.cmd (.pHaSwitchover req value) req Obj.P_HA_SWITCHOVER value [1] (s.mgr.obj Obj.RD_HANDOVER == 1) (fun m _ => m.yieldTo 3) }

/-- YIELD: the standby claims with CAUSE HANDOVER or YIELD, at once where it has the last entry. -/
def execYield_ (hdr : Hdr) (lastSeq cause : Nat) (s : State) : Out :=
  let t := s.mgr.dev.ingress commitCmd hdr s.mgr.genOf
  let m : Manager := { s.mgr with dev := t.dev }
  if !t.ok ∨ m.obj Obj.RD_STATE ≠ 3 ∨ !m.leads then .next { s with mgr := m }
  else
    let m := m.seeClaim (hdr.claim.getD 0) hdr.src
    .next { s with mgr := (m.onRed (fun r => { r with yieldAfter := some (lastSeq, cause) })).yielded }

/-- TAKEOVER: no heartbeat of the active unit for RD_HB_MISS × RD_HB_US; only a standby in step takes over. [DEDUCED, log 69] -/
def execTakeover (s : State) : Out :=
  if s.mgr.obj Obj.RD_STATE ≠ 3 ∨ !s.mgr.leads then .next s
  else .next { s with mgr := s.mgr.takeOver 1 }

/-! ## Heartbeats between managers (R294, R426) -/

/-- The manager-manager key (R413, R415): the active unit offers it to the peer that has none, or has not answered for RD_HB_MISS
heartbeats. When, no rule says. [DESIGN CHOICE, log 113] -/
def Manager.keyPeer (m : Manager) (nid : Nat) : Manager :=
  if m.fab.offers.any (fun o => o.nid == nid && o.key == 3) then m
  else if (mapGet m.dev.net.tx (peerKey nid 3)).isNone ∨ m.obj Obj.RD_HB_MISS ≤ m.red.unheard then m.offerOwnKey nid 3 0
  else m

/-- MANAGER_HEARTBEAT: to the module of the peer unit, with the latest sequence number. RD_HB_MISS heartbeats in a row that a
standby in step has not answered count a module fault (R276, R426). [DESIGN CHOICE, log 97] -/
def execManagerHeartbeat (s : State) : Out :=
  let m := s.mgr
  let to_ := m.red.standby.getD (m.obj Obj.RD_PEER)
  if !m.active ∨ !m.leads ∨ to_ = 0 then .next s
  else
    let m := m.onDev (fun d => d.send
      { dst := to_, assoc := 3, claim := some m.claim
        msg := .heartbeat (m.dev.net.round.getD 0) (m.obj Obj.IMP_COMMITTED) (some (m.red.nextSeq - 1)) })
    let failed := m.red.inSync && m.red.unheard == m.obj Obj.RD_HB_MISS
    let m := m.onRed (fun r => { r with unheard := r.unheard + 1 })
    .next { s with mgr := (if failed then m.moduleFault else m).keyPeer to_ }

/-- A heartbeat of the active unit shows its latest entry: a standby that has it is in step, and one that has made no way toward it
since the heartbeat before is out of step (R294, R295). -/
def Manager.heardSeq (m : Manager) (src seq : Nat) : Manager :=
  let m := m.onRed (fun r => { r with latest := max r.latest seq })
  let st := m.obj Obj.RD_STATE
  if (st ≠ 3 ∧ st ≠ 6 ∧ st ≠ 7) ∨ m.red.resync.isSome ∨ !m.leads then m
  else if seq ≤ m.red.applied then (m.onRed (fun r => { r with lagAt := none })).caughtUp
  else if m.red.lagAt = some m.red.applied then m.outOfStep src
  else m.onRed (fun r => { r with lagAt := some r.applied })

/-- PEER_HEARTBEAT: the active unit is heard; its heartbeat is answered with HB_REPLY. A higher pair ends this unit's
authority (R282); a spare begins to stand by (R280). -/
def execPeerHeartbeat (hdr : Hdr) (round _imp seq : Nat) (s : State) : Out :=
  let t := s.mgr.dev.ingress hbFrame hdr s.mgr.genOf
  let m : Manager := { s.mgr with dev := t.dev }
  if !t.ok then .next { s with mgr := m }
  else
    let st := m.obj Obj.RD_STATE
    let m := (m.meetPair (hdr.claim.getD 0) hdr.src).onRed (fun r => { r with heard := r.heard || st == 1, gapFrom := m.dev.time })
    let m := m.toPeer hdr.src (.hbReply round (m.obj Obj.IMP_COMMITTED) none)
    .next { s with mgr := (m.standBy hdr.src).heardSeq hdr.src seq }

/-! ## The triad (R287-R293) -/

/-- The module is to lead: it applies the entries it holds and asks the other follower for those that only that one holds. It leads
once it has them, at once where no other follower is in service (R290). In a unit that is not active nothing is to be taken over, and
against a higher pair that has been seen nothing is claimed (R282). -/
def becomeLeader (s : State) (old : Nat) (again : Bool) : State :=
  let s := applyHeld (s.mgr.red.entries.length + 1) s
  let m := (s.mgr.onRed (fun r => { r with restage := again })).meetPair (s.mgr.obj Obj.RD_HIGHEST) (s.mgr.obj Obj.RD_HIGHEST_NID)
  if !m.active ∨ m.obj Obj.TR_LEADER ≠ m.red.slot.getD 0 then { s with mgr := m }
  else if m.red.peersIn.isEmpty then gathered { s with mgr := m.onRed (fun r => { r with gather := some (old, some r.applied) }) }
  else { s with mgr := (m.onRed (fun r => { r with gather := some (old, none) })).triadSend (.fetch (m.red.applied + 1)) }

/-- Leadership passes on from a slot; `again` says that the new leader stages the candidate again (R291). -/
def passLead (s : State) (k : Nat) (again : Bool := false) : State :=
  let m := s.mgr
  let next := m.nextLeader k
  let m := (m.setObj Obj.TR_LEADER next).wakeEngine
  if m.red.slot = some next ∧ next ≠ k then becomeLeader { s with mgr := m } k again else { s with mgr := m }

/-- A peer is found failed, or resynchronises: leadership passes where it led; acknowledgements are no longer awaited from it, nor
entries by a module that is to lead. -/
def peerFailed (s : State) (k : Nat) : State :=
  let m := s.mgr
  if !m.red.peersIn.contains k then s
  else
    let led := decide (m.obj Obj.TR_LEADER = k)
    let s := { s with mgr := m.dropPeer k }
    let s := if led then passLead s k
      else match s.mgr.red.gather with
        | some (old, _) => if s.mgr.red.peersIn.isEmpty then
            gathered { s with mgr := s.mgr.onRed (fun r => { r with gather := some (old, some r.applied) }) } else s
        | none => s
    { s with mgr := if s.mgr.leads then s.mgr.release.alone else s.mgr }

/-- The module's heartbeats go out to both peers, each with whether the module is in service and synchronised in its triad; a leader
that copies from another unit leads on (R292, R295). -/
def Manager.beat (m : Manager) (me : Nat) : Manager :=
  ([0, 1, 2].filter (fun k => k != me)).foldl (fun (m : Manager) _ =>
    m.triadSend (.heartbeat me (m.red.resync.all (fun src => decide (3 ≤ src))))) m

/-- TRIAD_HEARTBEAT: heartbeats go out to both peers; those whose heartbeats arrived are named, each with whether it says that
its sender is resynchronising. A peer that has missed three in a row is found failed; at a follower, one whose heartbeat
says that it is synchronised is in service again. Where every peer falls silent together the module's own heartbeats fail: a module
fault (R276). A module out of service sends none. [DESIGN CHOICE, log 97] -/
def execTriadHeartbeat (heard : List (Nat × Bool)) (s : State) : Out :=
  let away := (heard.filter (fun k => k.2)).map (fun k => k.1)
  let heard := heard.map (fun k => k.1)
  match s.mgr.red.slot with
  | none => .next s
  | some me =>
    if s.mgr.red.outOfService then .next s
    else
      let m := s.mgr.onRed (fun r => { r with misses := r.peersIn.foldl (fun (t : SMap Nat) k =>
        if heard.contains k then mapDel t k else mapUpd t k 0 (fun n => n + 1)) r.misses })
      let m := m.beat me
      let back := if m.leads || m.red.resync.isSome then [] else heard.filter (fun k => decide (k < 3) && k != me && !away.contains k && !m.red.peersIn.contains k)
      let m := back.foldl Manager.addPeer m
      let lost := m.red.peersIn.filter (fun k => decide (3 ≤ mapGetD m.red.misses k 0))
      let own := decide (2 ≤ m.red.peersIn.length) && lost == m.red.peersIn
      let m := if own then m.moduleFault else m
      .next ((lost ++ m.red.peersIn.filter (fun k => heard.contains k && away.contains k)).foldl peerFailed { s with mgr := m })

/-- TRIAD_HEARTBEAT_MISS: three triad heartbeats of a peer in a row have been missed. -/
def execTriadHeartbeatMiss (slot : Nat) (s : State) : Out := .next (peerFailed s slot)

/-- TRIAD_PRESENCE_LOSS: port A (0) of slot k joins slot k + 1, port B (1) slot k + 2, mod 3. -/
def execTriadPresenceLoss (port : Nat) (s : State) : Out :=
  match s.mgr.red.slot with
  | none => .next s
  | some me => .next (peerFailed s ((me + 1 + port) % 3))

/-- This module of a triad resynchronises from its leader; where it led itself, the next module leads (R291, R292). -/
def Manager.resyncHere (m : Manager) : Manager :=
  let m := m.stepAside
  (m.abandon.startResync (m.obj Obj.TR_LEADER) 6).impState

/-- This module's digest differs from two equal ones: it is disqualified and resynchronises from its leader (R291). -/
def disqualified (s : State) : State :=
  { s with mgr := ((s.mgr.bump Obj.TR_DISQUAL).event 0x281 0).resyncHere }

/-- A peer's digest differs from two equal ones: it is out of service until it has resynchronised. Where it led, leadership passes,
and the new leader stages again before it commits (R199, R291). -/
def outlier (s : State) (k : Nat) : State :=
  let led := decide (s.mgr.obj Obj.TR_LEADER = k)
  let s := { s with mgr := (s.mgr.event 0x281 0).dropPeer k }
  if led then passLead s k true else { s with mgr := s.mgr.tryCommit }

/-- No two digests agree: nothing is committed (R293). A candidate whose COMMIT has gone out is another one. -/
def Manager.noAgreement (m : Manager) : Manager :=
  let m := m.event 0x282 0
  if m.leads && m.active then (if m.inst.phase < 4 && !m.completes then m.abandon else m).yieldIf else m

/-- The digests that the modules in service formed of one candidate are compared. [DEDUCED, log 69] -/
def judge (s : State) : State :=
  let m := s.mgr
  match m.red.slot.bind (fun k => mapGet m.red.digests k) with
  | none => s
  | some (n, d) =>
    let theirs := m.red.peersIn.filterMap (fun k => match mapGet m.red.digests k with
      | some e => if e.1 = n then some (k, e.2) else none
      | none => none)
    if theirs.length < m.red.peersIn.length then { s with mgr := m.tryCommit }
    else match theirs with
      | [(_, x)] => { s with mgr := if x = d then m.tryCommit else m.noAgreement }
      | [(a, x), (b, y)] =>
        if x = d ∧ y = d then { s with mgr := m.tryCommit }
        else if x = d then outlier s b
        else if y = d then outlier s a
        else if x = y then disqualified s
        else { s with mgr := m.noAgreement }
      | _ => { s with mgr := m.tryCommit }

/-- A module of a triad that has formed a digest compares it with those its peers have sent (R291). [DEDUCED, log 69] -/
def judgeNew (was : Manager) (s : State) : State :=
  let own := fun (m : Manager) => m.red.slot.bind (fun k => mapGet m.red.digests k)
  if own s.mgr = own was then s else judge s

/-- COMPUTATION_COMPLETE: step 8 forms the candidate, and in a triad its digest is compared (R149, R291). -/
def execComputationComplete (s : State) : Out := .next (judgeNew s.mgr { s with mgr := s.mgr.completeComp })

/-- TRIAD_DIGEST: a peer's impression digest (R291). [DEDUCED, log 69] -/
def execTriadDigest (slot : Nat) (imp : CandId) (digest : Digest) (s : State) : Out :=
  if s.mgr.red.slot.isNone ∨ !s.mgr.red.peersIn.contains slot then .next s
  else .next (judge { s with mgr := s.mgr.onRed (fun r => { r with digests := mapSet r.digests slot (imp, digest) }) })

/-! ## Resynchronising (R292, R295) -/

/-- TR_RESYNC: this module resynchronises; at one that is in no triad it has no effect (R348). -/
def execTrResync (req : Req) (value : Nat) (s : State) : Out :=
  let m := s.mgr
  let reach := m.gateReach req Obj.TR_RESYNC true value
  if reach ≠ 0 then .next { s with mgr := m.answer req reach }
  else if value = 1 ∧ m.red.resync.isSome then .next { s with mgr := m.answer req 0x0008 }
  else if value ≠ 1 then .next { s with mgr := m.answer req 0x0007 }
  else if m.red.slot.isNone then .next { s with mgr := m.answer req 0 }
  else
    .next { s with mgr := m.resyncHere.answer req 0 }

/-- Objects that a resynchronising module keeps as its own: identity to recorder, mailboxes, cells, arrays and interleave, sync
objects, redundancy, and its own escalation. [DESIGN CHOICE, log 68] -/
def ownObj (key : Nat) : Bool :=
  let idx := key / 256 % 65536
  decide (idx < 0x1500) || [0x1800, 0x3C00, 0x3C20, 0x3C30, 0x3C40, 0x3E00].contains (idx / 16 * 16) || (decide (0x5000 ≤ idx) && decide (idx < 0x5100)) ||
  key == Obj.MOD_ESCALATED

/-- A time of the source's clock as the same moment of this module's own; one before its start reads as its start (R9). -/
def Copy.at_ (c : Copy) (now t : Nat) : Nat := t + now - c.time

/-- The stamps of a copy, as times of this module's clock (R9). -/
def Copy.retimed (c : Copy) (now : Nat) : Copy :=
  let f := c.at_ now
  { c with
    links := c.links.map (fun (e : Nat × LinkEntry) => (e.1, { e.2 with changeTime := f e.2.changeTime, flapTimes := e.2.flapTimes.map f }))
    nodes := c.nodes.map (fun (e : Nat × NodeInfo) => (e.1, { e.2 with restarting := e.2.restarting.map f }))
    sl := { c.sl with
      ctxs := c.sl.ctxs.map (fun (e : Nat × Ctx) => (e.1, { e.2 with stateTime := f e.2.stateTime, keyRetired := e.2.keyRetired.map (fun k => (k.1, f k.2)) }))
      queue := c.sl.queue.map (fun q => { q with since := f q.since }) }
    rt := { c.rt with
      closed := c.rt.closed.map f
      sw := c.rt.sw.map (fun (e : Nat × SwitchRt) => (e.1, { e.2 with seedAt := e.2.seedAt.map f, below := e.2.below.map f })) }
    inst := { c.inst with
      archive := c.inst.archive.map (fun a => { a with time := f a.time })
      isolating := c.inst.isolating.map (fun (e : Nat × IsoWait) => (e.1, { e.2 with since := f e.2.since }))
      lastAck := f c.inst.lastAck
      cand := c.inst.cand.map (fun x => { x with closed := x.closed.map f })
      detour := c.inst.detour.map (fun e => (e.1, f e.2)) }
    disc := { c.disc with
      hellos := c.disc.hellos.map (fun (e : Nat × HelloRec) => (e.1, { e.2 with at_ := f e.2.at_ }))
      atts := c.disc.atts.map (fun (e : Nat × Att) => (e.1, { e.2 with sentAt := f e.2.sentAt }))
      claimed := f c.disc.claimed } }

/-- What the module's own exchanges tell of an agent stays: its time map is of its own clock (R9, R49, R284). -/
def NodeInfo.mine (n own : NodeInfo) : NodeInfo :=
  { n with exchanges := own.exchanges, estimate := own.estimate, answered := own.answered, misses := own.misses }

/-- The replicated state is taken from a copy: a computation in flight is not part of it, and the sides of the table memory are those
of the two newest impressions of the archive (R292). -/
def Manager.adoptCopy (m : Manager) (c : Copy) : Manager :=
  let c := c.retimed m.dev.time
  let merge := fun {α : Type} (own new : SMap α) =>
    (mapFilter new (fun k _ => !ownObj k)).foldl (fun (t : SMap α) e => mapSet t e.1 e.2) (mapFilter own (fun k _ => ownObj k))
  let m := { m with
    dev := { m.dev with objs := merge m.dev.objs c.objs, blobs := merge m.dev.blobs c.blobs }
    fab := { m.fab with links := c.links, nodes := c.nodes.map (fun (e : Nat × NodeInfo) => (e.1, e.2.mine (mapGetD m.fab.nodes e.1 {}))) }
    sl := c.sl, rt := { c.rt with comp := none }, inst := c.inst, rcv := c.rcv, disc := c.disc, cast := c.cast
    red := { m.red with runs := c.runs }
    tl := { m.tl with present := ((mapGet c.objs Obj.TL_PERIOD_MS).getD 1000) * ((mapGet c.objs Obj.TL_FACTOR).getD 1) } }
  (m.inst.archive.drop (m.inst.archive.length - 2)).foldl (fun (m : Manager) a => m.storePlates a.imp.number a.imp.plates) m

/-- A module that has copied the active unit's state tells it what it has applied. It is standby once it has caught up; where an entry
is missing before one that has come it copies again (R295). -/
def Manager.rejoinUnit (m : Manager) (src : Nat) : Manager :=
  if m.red.entries.any (fun e => decide (m.red.applied < e.1)) then m.outOfStep src
  else (m.caughtUp.toPeer src (.replAck m.red.applied)).yielded

/-- RESYNC_COMPLETE: the copy, complete up to an entry, is in place; later entries are applied, and the module rejoins as a
follower or standby. [DESIGN CHOICE, log 10; DEDUCED, log 69] -/
def execResyncComplete (seq : Nat) (copy : Copy) (s : State) : Out :=
  match s.mgr.red.resync with
  | none => .next s
  | some src =>
    let m := (s.mgr.adoptCopy copy).onRed (fun r => { r with
      resync := none, applied := seq, nextSeq := seq + 1, entries := mapFilter r.entries (fun n _ => decide (seq < n)) })
    let m := (m.setObj Obj.TR_RESYNC 0).setObj Obj.TR_RESYNC_PCT 0
    let t := applyHeld (m.red.entries.length + 1) { s with mgr := m }
    let m := t.mgr
    match m.red.slot with
    | some me =>
      if src < 3 then
        let st := if (mapGet copy.objs Obj.RD_STATE).getD 2 = 2 then 2 else 3
        let m := ((m.setObj Obj.RD_STATE st).setObj Obj.TR_MEMBERS (m.obj Obj.TR_MEMBERS ||| 2 ^ me)).setObj Obj.TR_SEQ m.red.applied
        .next { t with mgr := m.triadSend (.ack m.red.applied) }
      else .next { t with mgr := m.rejoinUnit src }
    | none => .next { t with mgr := m.rejoinUnit src }

end Sys2Proof.Machine
end

