-- ==== Sys2Proof/Machine/DictRows.lean ====
section
/-! DEFINITION. Sys2Proof/Machine/DictRows.lean: local reads and writes of any object of the dictionary. One whose access has a
row of its own in the command table acts as that row does. -/

namespace Sys2Proof.Machine

/-- What a module finds as it starts, where the command does not say: each part is a free value. [DEDUCED, log 43] -/
def Manager.openStart (m : Manager) : StartIn :=
  let n := fun k => Config.freeNat m.dev.key (m.dev.free + k)
  { slotOk := n 0 % 2 == 1
    otherOk := n 1 % 2 == 1
    pos := n 2 % 16
    slot := n 3 % 4
    peers := (List.range 3).filterMap (fun k => if n (4 + k) % 2 = 1 then some (k, n (4 + k) / 2 % 2 ^ 18) else none)
    joins := n 7 % 2 == 1
    running := if n 8 % 4 < 3 then some (n 8 % 4) else none
    saved := n 9 % 16
    stacksOk := n 10 % 2 == 1
    trainMs := n 11 % 2 ^ 32
    ports := (List.range 8).map (fun k => (k, n (12 + k) % 2 ^ 32))
    highest := n 20 % 2 ^ 64 }

/-- The state after the free values of a start have been drawn. -/
def State.drawnStart (s : State) : State := { s with mgr := s.mgr.onDev (fun d => { d with free := d.free + 21 }) }

/-- A free truth value, and the state after it has been drawn. -/
def State.openBool (s : State) : Bool := s.mgr.dev.openNat % 2 == 1
def State.drawn1 (s : State) : State := { s with mgr := s.mgr.onDev Dev.drawn }

/-- A WRITE of FW_GO (Table: Firmware record): whether the image's signature verifies is a free value. -/
def writeFwGo (req : Req) (v : Nat) (s : State) : Out :=
  if v = 1 then execFwBroadcast req s.openBool s.drawn1 else if v = 2 then execFwActivate req s else execFwAbort req s

/-- A WRITE of EV_CLEAR (R496). -/
def writeEvClear (req : Req) (v : Nat) (s : State) : Out :=
  if v = 1 then execEvClearCirculating req s else if v = 2 then execEvClearFirst req s else execEvClearBoth req s

/-- A WRITE of LP_RUN (R89). -/
def writeLpRun (req : Req) (v : Nat) (s : State) : Out :=
  if v = 1 then execLpRunStart req s else if v = 2 then execLpRunStop req s
  else .next { s with mgr := s.mgr.unlisted req Obj.LP_RUN }

/-- A WRITE of CX_RELEASE (R231). -/
def writeCxRelease (req : Req) (v : Nat) (s : State) : Out :=
  if v = 1 then execCxReleaseDrain req s else if v = 2 then execCxReleasePurge req s
  else .next { s with mgr := s.mgr.unlisted req Obj.CX_RELEASE }

/-- A WRITE of SC_SPDM: the RTP's response, and the state the IDE stream is left in, are free values (R481). -/
def writeSpdm (req : Req) (data : List Byte) (s : State) : Out :=
  let k := s.mgr.dev.openNat % 5
  execScSpdm req data s.mgr.dev.openBytes (if k < 4 then some k else none) s.drawn1

/-- Writes of command objects of the device and its security. [DEDUCED, log 43] -/
def writeDevCmd (req : Req) (key v : Nat) (s : State) : Out :=
  if key = Obj.DV_RESET then execDvReset req v s.mgr.openStart s.drawnStart
  else if key = Obj.SC_APPLY then execScApply req v s.openBool s.drawn1.mgr.openStart s.drawn1.drawnStart
  else if key = Obj.SC_PROVISION then execScProvision req v s.mgr.openStart s.drawnStart
  else if key = Obj.SC_FUSES_SET then execScFusesSet req v s
  else if key = Obj.AT_GO then execAtGo req v s
  else if key = Obj.PK_ROTATE then execPkRotate req v s
  else if key = Obj.EV_CLEAR then writeEvClear req v s
  else if key = Obj.RL_COMMIT then execRlCommit req v s
  else if key = Obj.P_PART_CREATE then execPPartCreate req v s
  else if key = Obj.P_PART_DELETE then execPPartDelete req v s
  else if key = Obj.P_RECOMPUTE then execPRecompute req v s
  else if key = Obj.P_HA_SWITCHOVER then execPHaSwitchover req v s
  else .next s

/-- Writes of command objects of bring-up, routing, installation, contexts, the engine and recovery. [DEDUCED, log 43] -/
def writeUnitCmd (req : Req) (key v : Nat) (s : State) : Out :=
  if key = Obj.DS_RESTART then execDsRestart req v s
  else if key = Obj.BT_FRESH then execBtFresh req v s
  else if key = Obj.FW_GO then writeFwGo req v s
  else if key = Obj.RB_CLEAR then execRbClear req v s
  else if key = Obj.LD_RUN then execLdRun req v s
  else if key = Obj.IL_REDRAW then execIlRedraw req v s
  else if key = Obj.IMP_FULL then execImpFull req v s
  else if key = Obj.IS_READMIT then execIsReadmit req v s
  else if key = Obj.IA_RESTORE then execIaRestore req v s
  else if key = Obj.CV_GO then execCvGo req v s
  else if key = Obj.CX_RELEASE then writeCxRelease req v s
  else if key = Obj.LP_LOAD then execLpLoad req v s
  else if key = Obj.LP_RUN then writeLpRun req v s
  else if key = Obj.RD_HANDOVER then execRdHandover req v s
  else if key = Obj.TR_RESYNC then execTrResync req v s
  else if key = Obj.RS_COMMIT then execRsCommit req v s
  else if key = Obj.EP_READMIT then execEpReadmit req v s
  else if key = Obj.LK_READMIT then execLkReadmit req v s
  else writeDevCmd req key v s

/-- Writes of objects that are no commands and have a row of their own. [DEDUCED, log 43] -/
def writeRow (req : Req) (key : Nat) (data : List Byte) (s : State) : Out :=
  if key = Obj.LP_IMAGE then execLpImageWrite req data s
  else if key = Obj.CV_CANCEL then execCvCancel req (leNat data) s
  else if key = Obj.BP_IMAGE then execBpImage req data s
  else if key = Obj.FW_IMAGE then execFwImage req data s
  else if key = Obj.TS_SUBSCRIBE then execTsSubscribe req data s
  else if key = Obj.SC_SPDM then writeSpdm req data s
  else if key = Obj.SC_DEBUG_REQ then execScDebugReq req (leNat data) s.mgr.openStart s.drawnStart
  else if key / 256 = 0x3040 then execReadyToleranceWrite req (key % 256) data s
  else execPwrWakeBudget req (key % 256) data s

/-- DICT_WRITE: a local WRITE is checked, and answered with the first check that fails (R341); one that passes has the effect of
its object's row, or, where the object has none, takes effect whole (R342, R348). [DEDUCED, log 43; DEDUCED, log 48] -/
def execDictWrite (req : Req) (key : Nat) (data : List Byte) (s : State) : Out :=
  let m := s.mgr
  let res := m.writeResult req key data
  let cmd : Bool := match objRow key with | some r => r.acc == .cmd | none => false
  if !m.turn req key true data then .next s
  else if res ≠ 0 then .next { s with mgr := m.answer req res }
  else if cmd then writeUnitCmd req key (leNat data) s
  else if rowObjs.contains key then writeRow req key data s
  else .next { s with mgr := m.writePlain req key data }

/-- DICT_READ: a local READ is checked and answered (R341, R346, R350); reads of SC_NONCE, ER_READ and TS_READ act as their
rows do. [DEDUCED, log 43; DEDUCED, log 48] -/
def execDictRead (req : Req) (key : Nat) (s : State) : Out :=
  let m := s.mgr
  let res := m.readResult req key
  if !m.turn req key false [] then .next s
  else if res ≠ 0 then .next { s with mgr := m.answer req res }
  else if key = Obj.SC_NONCE then execScNonce req s
  else if key = Obj.ER_READ then execErRead req s
  else if key = Obj.TS_READ then execTsRead req s
  else match objRow key with
    | none => .next s
    | some r => .next { s with mgr := m.readPlain req key r }

end Sys2Proof.Machine
end

