-- ==== Sys2Proof/Machine/Dispatch.lean ====
section
/-! DEFINITION. Sys2Proof/Machine/Dispatch.lean: one arm per command, each a direct call of its meaning. -/

namespace Sys2Proof.Machine

/-- The effect of a command on everything but the queue of waiting commands. -/
def exec (i : Instr) (s : State) : Host.Outcome State Fault Refusal :=
  match i with
  | .lineStart ctx line => Sys2Proof.Machine.execLineStart ctx line s
  | .tileStep ctx line upset corrected failing => Sys2Proof.Machine.execTileStep ctx line upset corrected failing s
  | .digestDrain ctx line bytes => Sys2Proof.Machine.execDigestDrain ctx line bytes s
  | .memoryReply what found => Sys2Proof.Machine.execMemoryReply what found s
  | .tablePatrol word found => Sys2Proof.Machine.execTablePatrol word found s
  | .stackPatrol word found => Sys2Proof.Machine.execStackPatrol word found s
  | .cellRemap cell => Sys2Proof.Machine.execCellRemap cell s
  | .lpImageWrite req image => Sys2Proof.Machine.execLpImageWrite req image s
  | .lpLoad req value => Sys2Proof.Machine.execLpLoad req value s
  | .lpRunStart req => Sys2Proof.Machine.execLpRunStart req s
  | .lpRunStop req => Sys2Proof.Machine.execLpRunStop req s
  | .wideComplete ctx => Sys2Proof.Machine.execWideComplete ctx s
  | .ldRun req value => Sys2Proof.Machine.execLdRun req value s
  | .rbClear req value => Sys2Proof.Machine.execRbClear req value s
  | .hotClear switch => Sys2Proof.Machine.execHotClear switch s
  | .interleaveWindow other => Sys2Proof.Machine.execInterleaveWindow other s
  | .ilRedraw req value => Sys2Proof.Machine.execIlRedraw req value s
  | .stage die hdr payload => Sys2Proof.Machine.execStage die hdr payload s
  | .stageNodeWritesDone die status => Sys2Proof.Machine.execStageNodeWritesDone die status s
  | .stageAssemblyTimeout die => Sys2Proof.Machine.execStageAssemblyTimeout die s
  | .stageAck hdr imp status detail digest => Sys2Proof.Machine.execStageAck hdr imp status detail digest s
  | .stageAttemptTimeout switch => Sys2Proof.Machine.execStageAttemptTimeout switch s
  | .commit die hdr imp drain digest => Sys2Proof.Machine.execCommit die hdr imp drain digest s
  | .commitAck hdr imp status detail field => Sys2Proof.Machine.execCommitAck hdr imp status detail field s
  | .isolate die hdr imp nid ports => Sys2Proof.Machine.execIsolate die hdr imp nid ports s
  | .isolateAck hdr nid status => Sys2Proof.Machine.execIsolateAck hdr nid status s
  | .isolateRetry switch => Sys2Proof.Machine.execIsolateRetry switch s
  | .isolateTimeout switch => Sys2Proof.Machine.execIsolateTimeout switch s
  | .impFull req value => Sys2Proof.Machine.execImpFull req value s
  | .isReadmit req value => Sys2Proof.Machine.execIsReadmit req value s
  | .iaRestore req value => Sys2Proof.Machine.execIaRestore req value s
  | .cvGo req value => Sys2Proof.Machine.execCvGo req value s
  | .cvCancel req tag => Sys2Proof.Machine.execCvCancel req tag s
  | .waitExpired tag => Sys2Proof.Machine.execWaitExpired tag s
  | .setKey die hdr ctx gen role nid => Sys2Proof.Machine.execSetKey die hdr ctx gen role nid s
  | .revoke die hdr ctx gen role nid => Sys2Proof.Machine.execRevoke die hdr ctx gen role nid s
  | .pkeyWriteComplete die rejected => Sys2Proof.Machine.execPkeyWriteComplete die rejected s
  | .keyAck hdr ctx gen role status => Sys2Proof.Machine.execKeyAck hdr ctx gen role status s
  | .setKeyTimeout ctx => Sys2Proof.Machine.execSetKeyTimeout ctx s
  | .carveComplete ctx => Sys2Proof.Machine.execCarveComplete ctx s
  | .cxReleaseDrain req => Sys2Proof.Machine.execCxReleaseDrain req s
  | .cxReleasePurge req => Sys2Proof.Machine.execCxReleasePurge req s
  | .drainTimeout ctx => Sys2Proof.Machine.execDrainTimeout ctx s
  | .purgeTagsReturned ctx => Sys2Proof.Machine.execPurgeTagsReturned ctx s
  | .revokeTimeout ctx => Sys2Proof.Machine.execRevokeTimeout ctx s
  | .vfReset ctx => Sys2Proof.Machine.execVfReset ctx s
  | .purgeComplete ctx => Sys2Proof.Machine.execPurgeComplete ctx s
  | .quarantineExpire ctx => Sys2Proof.Machine.execQuarantineExpire ctx s
  | .dramPageZeroed mib => Sys2Proof.Machine.execDramPageZeroed mib s
  | .keyBarLifted ctx => Sys2Proof.Machine.execKeyBarLifted ctx s
  | .confidentialReplyRelease req => Sys2Proof.Machine.execConfidentialReplyRelease req s
  | .watchPortBad die input => Sys2Proof.Machine.execWatchPortBad die input s
  | .watchPortGood die input ep port => Sys2Proof.Machine.execWatchPortGood die input ep port s
  | .linkMsg die ep port good => Sys2Proof.Machine.execLinkMsg die ep port good s
  | .linkEvent hdr nid port ep good report time wait => Sys2Proof.Machine.execLinkEvent hdr nid port ep good report time wait s
  | .eventAck die hdr type report => Sys2Proof.Machine.execEventAck die hdr type report s
  | .reportRetry die => Sys2Proof.Machine.execReportRetry die s
  | .withdraw die hdr imp nid port dests => Sys2Proof.Machine.execWithdraw die hdr imp nid port dests s
  | .neighbour hdr peerNode peerPort peerEp port ep => Sys2Proof.Machine.execNeighbour hdr peerNode peerPort peerEp port ep s
  | .endpointResetDetect die input => Sys2Proof.Machine.execEndpointResetDetect die input s
  | .gone die hdr nid rej0 rej1 => Sys2Proof.Machine.execGone die hdr nid rej0 rej1 s
  | .ready die hdr nid rej0 rej1 => Sys2Proof.Machine.execReady die hdr nid rej0 rej1 s
  | .memberLostReceive dev hdr lost cause ctx gen resets time => Sys2Proof.Machine.execMemberLostReceive dev hdr lost cause ctx gen resets time s
  | .memberAck hdr ctx gen nid => Sys2Proof.Machine.execMemberAck hdr ctx gen nid s
  | .epReset hdr nid cause resets report time wait => Sys2Proof.Machine.execEpReset hdr nid cause resets report time wait s
  | .nodeReady hdr nid report wait => Sys2Proof.Machine.execNodeReady hdr nid report wait s
  | .rejoined die hdr ctx gen nid => Sys2Proof.Machine.execRejoined die hdr ctx gen nid s
  | .memberRejoined die hdr lost cause ctx gen resets time => Sys2Proof.Machine.execMemberRejoined die hdr lost cause ctx gen resets time s
  | .rejoinTimeout ctx => Sys2Proof.Machine.execRejoinTimeout ctx s
  | .nodeCtlReady die => Sys2Proof.Machine.execNodeCtlReady die s
  | .resetNotice die => Sys2Proof.Machine.execResetNotice die s
  | .resetReqNode die => Sys2Proof.Machine.execResetReqNode die s
  | .resetReq hdr nid switch report wait => Sys2Proof.Machine.execResetReq hdr nid switch report wait s
  | .resetGrant die hdr nid detour => Sys2Proof.Machine.execResetGrant die hdr nid detour s
  | .detourTimeout die => Sys2Proof.Machine.execDetourTimeout die s
  | .heartbeatAgent die hdr port round imp => Sys2Proof.Machine.execHeartbeatAgent die hdr port round imp s
  | .hbReply dev hdr round committed map => Sys2Proof.Machine.execHbReply dev hdr round committed map s
  | .agentHeartbeatMissed nid => Sys2Proof.Machine.execAgentHeartbeatMissed nid s
  | .silentTimeout nid => Sys2Proof.Machine.execSilentTimeout nid s
  | .timeEstimateExpire nid => Sys2Proof.Machine.execTimeEstimateExpire nid s
  | .nodeHb die => Sys2Proof.Machine.execNodeHb die s
  | .nodeHbTimeout die => Sys2Proof.Machine.execNodeHbTimeout die s
  | .scribeWatchdog core reqs => Sys2Proof.Machine.execScribeWatchdog core reqs s
  | .hangWatchdog ctx => Sys2Proof.Machine.execHangWatchdog ctx s
  | .cellResetComplete cell => Sys2Proof.Machine.execCellResetComplete cell s
  | .epReadmit req value => Sys2Proof.Machine.execEpReadmit req value s
  | .lkReadmit req value => Sys2Proof.Machine.execLkReadmit req value s
  | .rsCommit req value => Sys2Proof.Machine.execRsCommit req value s
  | .nodeLinkDown die => Sys2Proof.Machine.execNodeLinkDown die s
  | .nodeLostTimeout die => Sys2Proof.Machine.execNodeLostTimeout die s
  | .nodeLost hdr nid report time wait => Sys2Proof.Machine.execNodeLost hdr nid report time wait s
  | .claimAgent die hdr prev prevNid cause imp => Sys2Proof.Machine.execClaimAgent die hdr prev prevNid cause imp s
  | .claimManager hdr prev prevNid cause imp => Sys2Proof.Machine.execClaimManager hdr prev prevNid cause imp s
  | .claimAck hdr committed staged stagedOk => Sys2Proof.Machine.execClaimAck hdr committed staged stagedOk s
  | .peerHeartbeat hdr round imp seq => Sys2Proof.Machine.execPeerHeartbeat hdr round imp seq s
  | .inputStreamEntry seq kind input => Sys2Proof.Machine.execInputStreamEntry seq kind input s
  | .triadHeartbeatMiss slot => Sys2Proof.Machine.execTriadHeartbeatMiss slot s
  | .triadPresenceLoss port => Sys2Proof.Machine.execTriadPresenceLoss port s
  | .triadDigest slot imp digest => Sys2Proof.Machine.execTriadDigest slot imp digest s
  | .trResync req value => Sys2Proof.Machine.execTrResync req value s
  | .resyncComplete seq copy => Sys2Proof.Machine.execResyncComplete seq copy s
  | .repl hdr seq kind input => Sys2Proof.Machine.execRepl hdr seq kind input s
  | .replAck hdr seq => Sys2Proof.Machine.execReplAck hdr seq s
  | .replTimeout seq => Sys2Proof.Machine.execReplTimeout seq s
  | .rdHandover req value => Sys2Proof.Machine.execRdHandover req value s
  | .yield_ hdr lastSeq cause => Sys2Proof.Machine.execYield_ hdr lastSeq cause s
  | .descPublish die desc regOk => Sys2Proof.Machine.execDescPublish die desc regOk s
  | .ltSave die area => Sys2Proof.Machine.execLtSave die area s
  | .ltSaveDeferred die area => Sys2Proof.Machine.execLtSaveDeferred die area s
  | .ltClear die hdr tag v => Sys2Proof.Machine.execLtClear die hdr tag v s
  | .nodeDoorbell die hdr data chk => Sys2Proof.Machine.execNodeDoorbell die hdr data chk s
  | .nodeLog die hdr data chk => Sys2Proof.Machine.execNodeLog die hdr data chk s
  | .telemetrySample die hdr data chk => Sys2Proof.Machine.execTelemetrySample die hdr data chk s
  | .neighbourReport die hdr data chk => Sys2Proof.Machine.execNeighbourReport die hdr data chk s
  | .hostReply die hdr data chk => Sys2Proof.Machine.execHostReply die hdr data chk s
  | .nodeMessageTaken die box code => Sys2Proof.Machine.execNodeMessageTaken die box code s
  | .hmSend die hdr tag data => Sys2Proof.Machine.execHmSend die hdr tag data s
  | .agRestart die hdr tag v => Sys2Proof.Machine.execAgRestart die hdr tag v s
  | .firmwareRunning die adopts regOk rej0 rej1 => Sys2Proof.Machine.execFirmwareRunning die adopts regOk rej0 rej1 s
  | .restartTimeout die => Sys2Proof.Machine.execRestartTimeout die s
  | .coreWatchdog die => Sys2Proof.Machine.execCoreWatchdog die s
  | .agentReset die cause => Sys2Proof.Machine.execAgentReset die cause s
  | .telemetryPeriodEnd die dropPkey dropRoute nakSent => Sys2Proof.Machine.execTelemetryPeriodEnd die dropPkey dropRoute nakSent s
  | .dictRead req key => Sys2Proof.Machine.execDictRead req key s
  | .dictWrite req key data => Sys2Proof.Machine.execDictWrite req key data s
  | .dictReq die hdr tag key data write => Sys2Proof.Machine.execDictReq die hdr tag key data write s
  | .dictReply hdr tag result data => Sys2Proof.Machine.execDictReply hdr tag result data s
  | .proxyTimeout num => Sys2Proof.Machine.execProxyTimeout num s
  | .dvReset req value start => Sys2Proof.Machine.execDvReset req value start s
  | .pPartCreate req value => Sys2Proof.Machine.execPPartCreate req value s
  | .pPartDelete req value => Sys2Proof.Machine.execPPartDelete req value s
  | .pRecompute req value => Sys2Proof.Machine.execPRecompute req value s
  | .pHaSwitchover req value => Sys2Proof.Machine.execPHaSwitchover req value s
  | .dwGo fn slot irq => Sys2Proof.Machine.execDwGo fn slot irq s
  | .dictReplyHost fn slot => Sys2Proof.Machine.execDictReplyHost fn slot s
  | .hostMailboxGo fn box => Sys2Proof.Machine.execHostMailboxGo fn box s
  | .mbDoorbell box => Sys2Proof.Machine.execMbDoorbell box s
  | .ping box => Sys2Proof.Machine.execPing box s
  | .hostLog box => Sys2Proof.Machine.execHostLog box s
  | .mark box => Sys2Proof.Machine.execMark box s
  | .mbAckHost box => Sys2Proof.Machine.execMbAckHost box s
  | .dbSet fn q v => Sys2Proof.Machine.execDbSet fn q v s
  | .dbClear fn q v => Sys2Proof.Machine.execDbClear fn q v s
  | .intStatusClear fn v => Sys2Proof.Machine.execIntStatusClear fn v s
  | .intMaskWrite fn v => Sys2Proof.Machine.execIntMaskWrite fn v s
  | .cfCtl fn k v => Sys2Proof.Machine.execCfCtl fn k v s
  | .cfFeed8 fn k v => Sys2Proof.Machine.execCfFeed8 fn k v s
  | .cfFeed16 fn k v => Sys2Proof.Machine.execCfFeed16 fn k v s
  | .cfFeed32 fn k v => Sys2Proof.Machine.execCfFeed32 fn k v s
  | .soCfg fn n v => Sys2Proof.Machine.execSoCfg fn n v s
  | .soValueWrite fn n v => Sys2Proof.Machine.execSoValueWrite fn n v s
  | .soOpCounter fn n v => Sys2Proof.Machine.execSoOpCounter fn n v s
  | .soOpSemaphore fn n v => Sys2Proof.Machine.execSoOpSemaphore fn n v s
  | .soOpLockRelease fn n => Sys2Proof.Machine.execSoOpLockRelease fn n s
  | .soOpEventSet fn n => Sys2Proof.Machine.execSoOpEventSet fn n s
  | .soOpEventClear fn n => Sys2Proof.Machine.execSoOpEventClear fn n s
  | .soTargetWrite fn n v => Sys2Proof.Machine.execSoTargetWrite fn n v s
  | .lockAcq fn n => Sys2Proof.Machine.execLockAcq fn n s
  | .semAcq fn n => Sys2Proof.Machine.execSemAcq fn n s
  | .lockTicket fn n => Sys2Proof.Machine.execLockTicket fn n s
  | .dqTail fn v bufs => Sys2Proof.Machine.execDqTail fn v bufs s
  | .descriptorComplete fn => Sys2Proof.Machine.execDescriptorComplete fn s
  | .registerWrite fn bar off width value => Sys2Proof.Machine.execRegisterWrite fn bar off width value s
  | .flr fn => Sys2Proof.Machine.execFlr fn s
  | .barrierUp accepted => Sys2Proof.Machine.execBarrierUp accepted s
  | .laneFailure lanes frames => Sys2Proof.Machine.execLaneFailure lanes frames s
  | .keyOffer dev hdr assoc phase wrap peer salts expire key sigOk ports peerAs => Sys2Proof.Machine.execKeyOffer dev hdr assoc phase wrap peer salts expire key sigOk ports peerAs s
  | .keyAccept hdr assoc phase status => Sys2Proof.Machine.execKeyAccept hdr assoc phase status s
  | .keyGraceExpire dev src assoc phase => Sys2Proof.Machine.execKeyGraceExpire dev src assoc phase s
  | .rekeyTimer dev peer assoc => Sys2Proof.Machine.execRekeyTimer dev peer assoc s
  | .timedSend nid => Sys2Proof.Machine.execTimedSend nid s
  | .timed die hdr t1 homeMac collector => Sys2Proof.Machine.execTimed die hdr t1 homeMac collector s
  | .timedReply hdr t1 t2 t3 wdrSent rekey restarting plateValid => Sys2Proof.Machine.execTimedReply hdr t1 t2 t3 wdrSent rekey restarting plateValid s
  | .fieldPortChange die port state => Sys2Proof.Machine.execFieldPortChange die port state s
  | .managerPortDown port => Sys2Proof.Machine.execManagerPortDown port s
  | .laneSwitch die => Sys2Proof.Machine.execLaneSwitch die s
  | .laneRelay die src dst fromLane => Sys2Proof.Machine.execLaneRelay die src dst fromLane s
  | .moduleStart start => Sys2Proof.Machine.execModuleStart start s
  | .btFresh req value => Sys2Proof.Machine.execBtFresh req value s
  | .agentStart die cold slotOk otherOk p0 p1 straps => Sys2Proof.Machine.execAgentStart die cold slotOk otherOk p0 p1 straps s
  | .helloRepeat die => Sys2Proof.Machine.execHelloRepeat die s
  | .hello hdr payload => Sys2Proof.Machine.execHello hdr payload s
  | .attestReq die hdr nonce nid fwd => Sys2Proof.Machine.execAttestReq die hdr nonce nid fwd s
  | .attestReport hdr die sigOk nonce hello desc debug => Sys2Proof.Machine.execAttestReport hdr die sigOk nonce hello desc debug s
  | .helloResume die => Sys2Proof.Machine.execHelloResume die s
  | .bpImage req image => Sys2Proof.Machine.execBpImage req image s
  | .readyToleranceWrite req sub data => Sys2Proof.Machine.execReadyToleranceWrite req sub data s
  | .dsRestart req value => Sys2Proof.Machine.execDsRestart req value s
  | .fwImage req image => Sys2Proof.Machine.execFwImage req image s
  | .fwBroadcast req sigOk => Sys2Proof.Machine.execFwBroadcast req sigOk s
  | .fwActivate req => Sys2Proof.Machine.execFwActivate req s
  | .fwAbort req => Sys2Proof.Machine.execFwAbort req s
  | .bulkData die hdr image block count pass data sigOk writeOk => Sys2Proof.Machine.execBulkData die hdr image block count pass data sigOk writeOk s
  | .endOfPass die hdr image count pass => Sys2Proof.Machine.execEndOfPass die hdr image count pass s
  | .bulkReportSend die => Sys2Proof.Machine.execBulkReportSend die s
  | .bulkReport hdr image state pass more missing => Sys2Proof.Machine.execBulkReport hdr image state pass more missing s
  | .activate die hdr image => Sys2Proof.Machine.execActivate die hdr image s
  | .scNonce req => Sys2Proof.Machine.execScNonce req s
  | .scApply req value sigOk start => Sys2Proof.Machine.execScApply req value sigOk start s
  | .scProvision req value start => Sys2Proof.Machine.execScProvision req value start s
  | .scDebugReq req value start => Sys2Proof.Machine.execScDebugReq req value start s
  | .debugDurationEnd dev start => Sys2Proof.Machine.execDebugDurationEnd dev start s
  | .scFusesSet req value => Sys2Proof.Machine.execScFusesSet req value s
  | .scGrant die hdr tag gdie dur imp sigOk => Sys2Proof.Machine.execScGrant die hdr tag gdie dur imp sigOk s
  | .scSpdm req data resp ide => Sys2Proof.Machine.execScSpdm req data resp ide s
  | .atGo req value => Sys2Proof.Machine.execAtGo req value s
  | .pkRotate req value => Sys2Proof.Machine.execPkRotate req value s
  | .bucketFull dev code => Sys2Proof.Machine.execBucketFull dev code s
  | .rlCommit req value => Sys2Proof.Machine.execRlCommit req value s
  | .evClearCirculating req => Sys2Proof.Machine.execEvClearCirculating req s
  | .evClearFirst req => Sys2Proof.Machine.execEvClearFirst req s
  | .evClearBoth req => Sys2Proof.Machine.execEvClearBoth req s
  | .ewView fn v => Sys2Proof.Machine.execEwView fn v s
  | .erRead req => Sys2Proof.Machine.execErRead req s
  | .event hdr bytes => Sys2Proof.Machine.execEvent hdr bytes s
  | .telemetry hdr time period last recs => Sys2Proof.Machine.execTelemetry hdr time period last recs s
  | .subsampleWindow full => Sys2Proof.Machine.execSubsampleWindow full s
  | .tsRead req => Sys2Proof.Machine.execTsRead req s
  | .tsSubscribe req data => Sys2Proof.Machine.execTsSubscribe req data s
  | .domainStateEntry dev domain quiet => Sys2Proof.Machine.execDomainStateEntry dev domain quiet s
  | .workArrival dev domain => Sys2Proof.Machine.execWorkArrival dev domain s
  | .domainWakeComplete dev domain => Sys2Proof.Machine.execDomainWakeComplete dev domain s
  | .pwrWakeBudget req sub data => Sys2Proof.Machine.execPwrWakeBudget req sub data s
  | .sentinelExitManager cause start => Sys2Proof.Machine.execSentinelExitManager cause start s
  | .sentinelEntryAgent die => Sys2Proof.Machine.execSentinelEntryAgent die s
  | .sentinelExitAgent die cause => Sys2Proof.Machine.execSentinelExitAgent die cause s
  | .pwWakeAt dev start => Sys2Proof.Machine.execPwWakeAt dev start s
  | .agentParked nid => Sys2Proof.Machine.execAgentParked nid s
  | .undervoltage mv => Sys2Proof.Machine.execUndervoltage mv s
  | .agentUndervoltage die => Sys2Proof.Machine.execAgentUndervoltage die s
  | .tempWarning dev => Sys2Proof.Machine.execTempWarning dev s
  | .tempCritical dev => Sys2Proof.Machine.execTempCritical dev s
  | .tempRecovered dev start => Sys2Proof.Machine.execTempRecovered dev start s
  | .referenceLost dev => Sys2Proof.Machine.execReferenceLost dev s
  | .signalDetect dev port start => Sys2Proof.Machine.execSignalDetect dev port start s
  | .mrst start => Sys2Proof.Machine.execMrst start s
  | .resetFenceRelease die => Sys2Proof.Machine.execResetFenceRelease die s
  | .triadHeartbeat heard => Sys2Proof.Machine.execTriadHeartbeat heard s
  | .inputStreamAck slot seq => Sys2Proof.Machine.execInputStreamAck slot seq s
  | .perstDeassertion rate width numVfs rid => Sys2Proof.Machine.execPerstDeassertion rate width numVfs rid s
  | .referenceRestored dev ports => Sys2Proof.Machine.execReferenceRestored dev ports s
  | .triadPresenceGain port start => Sys2Proof.Machine.execTriadPresenceGain port start s
  | .coalescingWindowClose => Sys2Proof.Machine.execCoalescingWindowClose s
  | .computationStart => Sys2Proof.Machine.execComputationStart s
  | .hookTimeout => Sys2Proof.Machine.execHookTimeout s
  | .computationComplete => Sys2Proof.Machine.execComputationComplete s
  | .pcountComplete => Sys2Proof.Machine.execPcountComplete s
  | .loadPeriod => Sys2Proof.Machine.execLoadPeriod s
  | .loadComplete => Sys2Proof.Machine.execLoadComplete s
  | .rebalComplete => Sys2Proof.Machine.execRebalComplete s
  | .imbalanceWindow => Sys2Proof.Machine.execImbalanceWindow s
  | .groupMove => Sys2Proof.Machine.execGroupMove s
  | .commitRetry => Sys2Proof.Machine.execCommitRetry s
  | .commitTimeout => Sys2Proof.Machine.execCommitTimeout s
  | .oldSideRelease => Sys2Proof.Machine.execOldSideRelease s
  | .placeComplete => Sys2Proof.Machine.execPlaceComplete s
  | .memberLostRetry => Sys2Proof.Machine.execMemberLostRetry s
  | .heartbeatRound => Sys2Proof.Machine.execHeartbeatRound s
  | .bootListenExpire => Sys2Proof.Machine.execBootListenExpire s
  | .claimRetry => Sys2Proof.Machine.execClaimRetry s
  | .claimTimeout => Sys2Proof.Machine.execClaimTimeout s
  | .takeover => Sys2Proof.Machine.execTakeover s
  | .barrierDown => Sys2Proof.Machine.execBarrierDown s
  | .fwHeartbeat => Sys2Proof.Machine.execFwHeartbeat s
  | .fwStall => Sys2Proof.Machine.execFwStall s
  | .perst => Sys2Proof.Machine.execPerst s
  | .attestRepeat => Sys2Proof.Machine.execAttestRepeat s
  | .settleExpire => Sys2Proof.Machine.execSettleExpire s
  | .passPlan => Sys2Proof.Machine.execPassPlan s
  | .activationBatchTimeout => Sys2Proof.Machine.execActivationBatchTimeout s
  | .nonceExpire => Sys2Proof.Machine.execNonceExpire s
  | .pkPeriod => Sys2Proof.Machine.execPkPeriod s
  | .rotationComplete => Sys2Proof.Machine.execRotationComplete s
  | .entropyHealthFail => Sys2Proof.Machine.execEntropyHealthFail s
  | .entropyHealthPass => Sys2Proof.Machine.execEntropyHealthPass s
  | .segmentStreamed => Sys2Proof.Machine.execSegmentStreamed s
  | .telemetryManagerPeriod => Sys2Proof.Machine.execTelemetryManagerPeriod s
  | .sentinelEntryManager => Sys2Proof.Machine.execSentinelEntryManager s
  | .supplyWarning => Sys2Proof.Machine.execSupplyWarning s
  | .overvoltage => Sys2Proof.Machine.execOvervoltage s
  | .hsEnClose => Sys2Proof.Machine.execHsEnClose s
  | .hsEnOpen => Sys2Proof.Machine.execHsEnOpen s
  | .overcurrent => Sys2Proof.Machine.execOvercurrent s
  | .managerHeartbeat => Sys2Proof.Machine.execManagerHeartbeat s
  | .passSent => Sys2Proof.Machine.execPassSent s
  | .ideStreamInsecure => Sys2Proof.Machine.execIdeStreamInsecure s

end Sys2Proof.Machine
end

