-- ==== Sys2Proof/Machine/Step.lean ====
section
/-! DEFINITION. Sys2Proof/Machine/Step.lean: one step takes the command at the front of the queue; with none waiting, time
passes. -/

namespace Sys2Proof.Machine

/-- Time passes: every device's local time advances by an amount of its own that nothing fixes (R47, R48). [DESIGN CHOICE, log 2] -/
def State.tick (s : State) : State :=
  { s with mgr := s.mgr.onDev Dev.tick, agents := s.agents.map (fun e => (e.1, e.2.onDev Dev.tick)) }

/-- One step: the command that has waited longest acts on the state with the rest of the queue. [DESIGN CHOICE, log 1; DESIGN CHOICE, log 2] -/
def step (s : State) : Host.Outcome State Fault Refusal :=
  match s.pending with
  | [] => .next s.tick
  | c :: rest => exec c { s with pending := rest }

/-- The command a word spells, put at the front of the queue; the state unchanged where it spells none. [DESIGN CHOICE, log 1] -/
def State.withFetchWord (s : State) (nbits w : Nat) : State :=
  match decodeTableWord nbits w with
  | some c => { s with pending := c :: s.pending }
  | none => s

end Sys2Proof.Machine
end

