-- ==== Sys2Proof/Machine/Gcm.lean ====
section
/-! DEFINITION. Sys2Proof/Machine/Gcm.lean: AES-256 in Galois/Counter Mode, which protects every frame under an association (R414):
FIPS 197 and NIST SP 800-38D, over lists of bytes in the order they go through the cipher. -/

namespace Sys2Proof.Machine

/-! ## AES-256 -/

/-- The product of two elements of the cipher's byte field. -/
def gfMul (a b : Byte) : Byte :=
  ((upTo 8).foldl (fun (r : Byte × Byte) i =>
    let sum := if b.getLsbD i then r.1 ^^^ r.2 else r.1
    (sum, if r.2.getLsbD 7 then (r.2 <<< 1) ^^^ 0x1B else r.2 <<< 1)) (0, a)).1

/-- The inverse of an element, 0 for 0: its power 254. -/
def gfInv (a : Byte) : Byte :=
  ((upTo 7).foldl (fun (r : Byte × Byte) _ => (gfMul r.1 (gfMul r.2 r.2), gfMul r.2 r.2)) (1, a)).1

/-- The substitution of a byte. -/
def aesSub (a : Byte) : Byte :=
  let x := gfInv a
  x ^^^ x.rotateLeft 1 ^^^ x.rotateLeft 2 ^^^ x.rotateLeft 3 ^^^ x.rotateLeft 4 ^^^ 0x63

/-- The exclusive or of two byte lists, as long as the shorter. -/
def xorBytes (a b : List Byte) : List Byte := (a.zip b).map (fun p => p.1 ^^^ p.2)

/-- The key schedule: 60 words of 4 bytes, newest first, from the 8 of the key. -/
def aesWords (key : List Byte) : List (List Byte) :=
  ((upTo 52).foldl (fun (r : List (List Byte) × Byte) i =>
    let w := r.1.headD []
    let t := if i % 8 = 0 then xorBytes ((w.drop 1 ++ w.take 1).map aesSub) [r.2, 0, 0, 0] else if i % 8 = 4 then w.map aesSub else w
    (xorBytes t (r.1.getD 7 []) :: r.1, if i % 8 = 0 then gfMul r.2 2 else r.2))
    (((upTo 8).map (fun i => (key.drop (4 * i)).take 4)).reverse, 1)).1

/-- The 15 round keys of 16 bytes. -/
def aesKeys (key : List Byte) : List (List Byte) :=
  let ws := (aesWords key).reverse
  (upTo 15).map (fun i => ((ws.drop (4 * i)).take 4).flatten)

/-- Rows shift by their number; the state lies column by column. -/
def aesShift (s : List Byte) : List Byte := (upTo 16).map (fun i => s.getD ((i + 4 * (i % 4)) % 16) 0)

/-- Columns mix. -/
def aesMix (s : List Byte) : List Byte :=
  (upTo 16).map (fun i =>
    let b := fun (k : Nat) => s.getD (i / 4 * 4 + (i + k) % 4) 0
    gfMul 2 (b 0) ^^^ gfMul 3 (b 1) ^^^ b 2 ^^^ b 3)

/-- One block enciphered. -/
def aesBlock (key block : List Byte) : List Byte :=
  let ks := aesKeys key
  let s := (upTo 13).foldl (fun s i => xorBytes (aesMix (aesShift (s.map aesSub))) (ks.getD (i + 1) [])) (xorBytes block (ks.headD []))
  xorBytes (aesShift (s.map aesSub)) (ks.getD 14 [])

/-! ## Galois/Counter Mode -/

/-- Bytes as a number, highest first, and back. -/
def beNat (bs : List Byte) : Nat := bs.foldl (fun a b => a * 256 + b.toNat) 0
def beBytes (n v : Nat) : List Byte := (leBytes n v).reverse

/-- The product of two blocks in the field of 2^128 elements. -/
def ghMul (x y : Nat) : Nat :=
  ((upTo 128).foldl (fun (r : Nat × Nat) i =>
    (if bitOf x (127 - i) then r.1.xor r.2 else r.1, if r.2 % 2 = 1 then (r.2 / 2).xor (0xE1 * 2 ^ 120) else r.2 / 2)) (0, y)).1

/-- A byte list filled with zeros to whole blocks. -/
def padBlock (l : List Byte) : List Byte := l ++ List.replicate ((16 - l.length % 16) % 16) 0

/-- The blocks of a byte list of whole blocks. -/
def blocks16 (l : List Byte) : List (List Byte) := (upTo (l.length / 16)).map (fun i => (l.drop (16 * i)).take 16)

/-- The hash of the additional data and the ciphertext. -/
def ghash (h : Nat) (aad ct : List Byte) : Nat :=
  (blocks16 (padBlock aad ++ padBlock ct ++ beBytes 8 (8 * aad.length) ++ beBytes 8 (8 * ct.length))).foldl
    (fun y b => ghMul (y.xor (beNat b)) h) 0

/-- Plaintext under a key, a 96-bit nonce and additional data: the ciphertext, then the 16-byte ICV. -/
def gcmSeal (key nonce aad plain : List Byte) : List Byte :=
  let count := fun (n : Nat) => aesBlock key (nonce ++ beBytes 4 n)
  let stream := (upTo ((plain.length + 15) / 16)).flatMap (fun i => count (i + 2))
  let ct := xorBytes plain stream
  let h := beNat (aesBlock key (List.replicate 16 0))
  ct ++ xorBytes (beBytes 16 (ghash h aad ct)) (count 1)

end Sys2Proof.Machine
end

