-- ==== Sys2Proof/Machine/FrameBytes.lean ====
section
/-! DEFINITION. Sys2Proof/Machine/FrameBytes.lean: the bytes on the wire of a frame that a device has sent: type codes and classes,
payloads, the Slarolu header, protection and Ethernet carriage (R404, R407, R409-R412, R414, R421). -/

namespace Sys2Proof.Machine

/-! ## Types and classes (R411) -/

/-- The TYPE code of a frame (Table: Frame types). -/
def msgCode : Msg → Nat
  | .hello _ => 0x01 | .attestReq _ _ _ => 0x02 | .attestReport _ _ => 0x03
  | .keyOffer _ _ _ _ _ _ _ _ => 0x04 | .keyAccept _ _ _ => 0x05 | .neighbour _ _ _ _ _ => 0x06
  | .heartbeat _ _ _ => 0x08 | .hbReply _ _ _ => 0x09 | .timed _ _ _ => 0x0A | .timedReply _ _ _ _ _ _ _ => 0x0B
  | .claim _ _ _ _ => 0x10 | .claimAck _ _ _ => 0x11 | .commit _ _ _ => 0x12 | .commitAck _ _ _ _ => 0x13
  | .yield_ _ _ _ => 0x14 | .isolate _ _ _ => 0x15 | .isolateAck _ _ => 0x16
  | .stage _ => 0x18 | .stageAck _ _ _ _ => 0x19 | .repl _ _ => 0x1A | .replAck _ => 0x1B
  | .withdraw _ _ _ _ => 0x20 | .linkEvent _ _ _ _ _ _ => 0x21 | .eventAck _ _ => 0x22 | .gone _ => 0x23
  | .epReset _ _ _ _ _ => 0x24 | .memberLost _ _ _ _ _ _ => 0x25 | .memberAck _ _ _ => 0x26 | .nodeLost _ _ _ => 0x27
  | .dictReq _ _ _ _ _ _ | .scGrant _ _ _ _ => 0x30 | .dictReply _ _ _ _ _ => 0x31
  | .setKey _ _ _ _ => 0x32 | .revoke _ _ _ _ => 0x33 | .keyAck _ _ _ _ => 0x34
  | .ready _ => 0x35 | .nodeReady _ _ => 0x36 | .rejoined _ _ _ => 0x37 | .memberRejoined _ _ _ _ _ _ => 0x38
  | .resetReq _ _ _ => 0x39 | .resetGrant _ _ => 0x3A | .activate _ => 0x3B
  | .telemetry _ _ _ _ => 0x40 | .eventRec _ => 0x41 | .bulkData _ _ _ _ _ _ _ => 0x48 | .bulkReport _ _ _ _ _ => 0x49

/-- The class of a type code (Table: Frame types). -/
def codeClass (c : Nat) : FrameClass :=
  if c < 0x08 then .dict
  else if c < 0x10 then .heartbeat
  else if c < 0x18 then .claimCommit
  else if c < 0x20 then .stage
  else if c < 0x30 then .withdraw
  else if c < 0x40 then .dict
  else if c < 0x48 then .telemetry
  else .bulk

/-- The class of a frame. -/
def msgClass (m : Msg) : FrameClass := codeClass (msgCode m)

/-- A frame carries CLAIM_P (R410): command frames, CLAIM, YIELD, and the manager's HEARTBEAT and TIMED. -/
def claimed : Msg → Bool
  | .dictReq _ _ _ _ _ w => w
  | .heartbeat _ _ _ | .timed _ _ _ | .claim _ _ _ _ | .yield_ _ _ _ | .ready _ | .rejoined _ _ _ | .resetGrant _ _ | .activate _ => true
  | m => ackedMsg m

/-- The frames that wait together at a port, in the order it serves them: class by class, and those of a class in the order they came
(R421). -/
def served (fs : List Sent) : List Sent :=
  (upTo 7).flatMap (fun c => fs.filter (fun f => frameClassNum (msgClass f.msg) == c))

/-! ## Payloads (R412 and the chapters' own rules) -/

/-- n bytes, lowest first (R5), that hold values in their bit ranges; every other bit is zero. -/
def packed (n : Nat) (fs : List (Nat × Nat × Nat)) : List Byte :=
  leBytes n (fs.foldl (fun v f => v + f.2.2 % 2 ^ (f.1 + 1 - f.2.1) * 2 ^ f.2.1) 0)

/-- One bit of a field. -/
def asBit (b : Bool) : Nat := if b then 1 else 0

/-- The layout shared by SET_KEY and REVOKE, and the acknowledgement of a stage or a commit (R192). -/
def keyCmdBytes (c gen role nid : Nat) : List Byte := packed 16 [(127, 116, c), (115, 108, gen), (107, 106, role), (105, 88, nid)]
def ackBytes (imp status detail : Nat) (field : Digest) : List Byte :=
  packed 48 [(383, 128, field.toNat), (127, 96, imp), (95, 80, status), (63, 32, detail)]

/-- The payload of a KEY_OFFER (R415). `u` and `v` are the wrapped key and the signature, free values. -/
def offerBytes (assoc phase wrap peer saltTx saltRx expire : Nat) (key : Key) (u v : Nat) : List Byte :=
  packed 24 [(15, 0, assoc), (16, 16, phase), (31, 24, wrap), (63, 32, peer), (95, 64, saltTx), (127, 96, saltRx), (191, 128, expire)] ++
  (if wrap = 1 then leBytes 384 u ++ leBytes 384 v else leBytes 32 key.toNat)

/-- The payload of a frame (a NEIGHBOUR frame carries one record, behind its count, R437); none where no rule lays it out: REPL,
REPL_ACK, DICT_REQ, DICT_REPLY, SC_GRANT, and a HEARTBEAT between managers, which carries a sequence number beside its two fields. [DESIGN CHOICE, log 115] -/
def payloadOf (u v : Nat) : Msg → Option (List Byte)
  | .repl _ _ | .replAck _ | .dictReq _ _ _ _ _ _ | .dictReply _ _ _ _ _ | .scGrant _ _ _ _ | .heartbeat _ _ (some _) => none
  | .stage p => some p
  | .hello p => some p
  | .eventRec bs => some bs
  | .attestReport r c => some (r ++ c)
  | .attestReq nonce nid fwd => some (attestPayload nonce nid fwd)
  | .keyOffer a p w peer st sr e k => some (offerBytes a p w peer st sr e k u v)
  | .keyAccept a p st => some (packed 8 [(63, 48, a), (40, 40, p), (39, 32, st)])
  | .neighbour node port ep own epOwn =>
      some (leBytes 8 1 ++ packed 16 [(127, 64, node), (63, 57, port), (56, 56, asBit ep), (55, 49, own), (48, 48, asBit epOwn)])
  | .heartbeat r i none => some (packed 8 [(63, 32, r), (31, 0, i)])
  | .hbReply r c map => some (packed 8 [(63, 32, r), (31, 0, c)] ++ (match map with | some m => leBytes 16 m.toNat | none => []))
  | .timed t1 mac c => some (packed 32 [(255, 192, t1), (191, 144, mac), (143, 126, c)])
  | .timedReply t1 t2 t3 w rk rs pv =>
      some (packed 32 [(255, 192, t1), (191, 128, t2), (127, 64, t3), (63, 32, w), (3, 3, asBit rk), (2, 2, asBit rs), (1, 1, asBit pv)])
  | .claim p pn c i => some (packed 16 [(127, 64, p), (63, 46, pn), (45, 43, c), (31, 0, i)])
  | .claimAck c st ok => some (packed 16 [(127, 96, c), (95, 64, st), (63, 63, asBit ok)])
  | .commit i d g => some (packed 40 [(319, 288, i), (287, 256, d), (255, 0, g.toNat)])
  | .stageAck i st d f => some (ackBytes i st d f)
  | .commitAck i st d f => some (ackBytes i st d f)
  | .yield_ l c cause => some (packed 24 [(191, 128, l), (127, 64, c), (63, 61, cause)])
  | .isolate i nid ports => some (packed 32 [(255, 224, i), (223, 206, nid), (199, 72, ports.toNat)])
  | .isolateAck nid st => some (packed 8 [(63, 46, nid), (15, 0, st)])
  | .withdraw i nid port ds =>
      some (packed 32 [(255, 224, i), (223, 206, nid), (205, 199, port), (191, 176, ds.length)] ++ ds.flatMap (leBytes 4))
  | .linkEvent nid port ep good r t =>
      some (packed 16 [(127, 110, nid), (109, 103, port), (102, 102, asBit ep), (101, 101, asBit good), (79, 64, r), (63, 0, t)])
  | .eventAck ty r => some (packed 8 [(63, 56, ty), (15, 0, r)])
  | .gone nid => some (packed 8 [(63, 46, nid)])
  | .epReset nid cause n r t => some (packed 16 [(127, 110, nid), (103, 96, cause), (95, 88, n), (79, 64, r), (63, 0, t)])
  | .memberLost l c x g n t => some (memberBytes l c x g n t)
  | .memberRejoined l c x g n t => some (memberBytes l c x g n t)
  | .memberAck c g nid => some (packed 16 [(127, 116, c), (115, 108, g), (107, 90, nid)])
  | .nodeLost nid r t => some (packed 16 [(127, 110, nid), (79, 64, r), (63, 0, t)])
  | .setKey c g r nid => some (keyCmdBytes c g r nid)
  | .revoke c g r nid => some (keyCmdBytes c g r nid)
  | .keyAck c g r st => some (packed 16 [(127, 116, c), (115, 108, g), (107, 106, r), (95, 80, st)])
  | .ready nid => some (packed 8 [(63, 46, nid)])
  | .nodeReady nid r => some (packed 8 [(63, 46, nid), (15, 0, r)])
  | .rejoined c g nid => some (packed 16 [(127, 116, c), (115, 108, g), (107, 90, nid)])
  | .resetReq nid sw r => some (packed 8 [(63, 46, nid), (45, 28, sw), (15, 0, r)])
  | .resetGrant nid d => some (packed 8 [(63, 46, nid), (0, 0, asBit d)])
  | .activate i => some (packed 8 [(63, 32, i)])
  | .telemetry t p l rs =>
      some (packed 16 [(127, 64, t), (63, 32, p), (31, 16, rs.length), (0, 0, asBit l)] ++ rs.flatMap (fun r =>
        packed 8 [(63, 54, r.group), (53, 42, r.ctx), (41, 24, r.nid), (23, 14, r.first), (11, 0, r.words.length)] ++ r.words.flatMap (leBytes 8)))
  | .bulkData i b n p uni e d =>
      some (packed 16 [(127, 96, i), (95, 80, b), (79, 64, n), (63, 56, p), (49, 49, asBit uni), (48, 48, asBit e)] ++ d)
  | .bulkReport i st p more miss =>
      some (packed 16 [(127, 96, i), (95, 88, st), (87, 80, p), (79, 64, miss.length), (63, 63, asBit more)] ++
        miss.flatMap (fun r => packed 4 [(31, 16, r.1), (15, 0, r.2)]))

/-- The payload a device's frame carries; where no rule lays it out, open bytes. [DESIGN CHOICE, log 115] -/
def Dev.payload (d : Dev) (f : Sent) : List Byte :=
  let k := match f.msg with | .keyOffer _ _ _ _ _ _ _ k => k.toNat | _ => 0
  (payloadOf (Config.freeNat (2 ^ 65 + d.key) k) (Config.freeNat (2 ^ 66 + d.key) k) f.msg).getD
    (Config.freeBytes (2 ^ 65 + d.key) (f.counter * 2 ^ 34 + sentPair f))

/-! ## The frame (R404, R409, R414) -/

/-- The header: 24 bytes, or 32 with a claim (Table: Slarolu header). -/
def headerBytes (f : Sent) (len : Nat) : List Byte :=
  packed (if f.claim.isSome then 32 else 24)
    [(255, 192, f.claim.getD 0), (191, 128, f.counter), (127, 112, f.assoc), (111, 104, f.gen), (103, 92, f.ctx), (91, 74, f.dst),
     (73, 56, f.src), (33, 20, len), (15, 15, asBit f.relayed), (14, 14, asBit f.claim.isSome), (13, 13, asBit f.phase),
     (11, 4, msgCode f.msg), (3, 0, 1)]

/-- The Slarolu frame: header and payload; under an association the payload enciphered and the ICV behind it, with the sender's salt and
the counter as nonce and the header as additional data (R414). [DESIGN CHOICE, log 8] -/
def Dev.frame (d : Dev) (f : Sent) : List Byte :=
  let body := d.payload f
  let hdr := headerBytes f body.length
  hdr ++ (if f.assoc = 0 then body else gcmSeal (leBytes 32 f.key.toNat) (leBytes 4 f.salt ++ leBytes 8 f.counter) hdr body)

/-- The priority code point of a class in use (FN_PCP_MAP). -/
def Dev.pcp (d : Dev) (c : FrameClass) : Nat := d.inUse Obj.FN_PCP_MAP / 2 ^ (18 - 3 * frameClassNum c) % 8

/-- The MAC frame, without its FCS: addresses, the 802.1Q tag, the EtherType, and the Slarolu frame (R404). -/
def Dev.wire (d : Dev) (f : Sent) : List Byte :=
  beBytes 6 f.dstMac ++ beBytes 6 f.srcMac ++ [0x81, 0x00] ++
  beBytes 2 (d.pcp (msgClass f.msg) * 2 ^ 13 + d.inUse Obj.FN_VID % 2 ^ 12) ++ beBytes 2 (d.inUse Obj.FN_ETHERTYPE) ++ d.frame f

end Sys2Proof.Machine
end

