-- ==== Sys2Proof/Machine/HostRead.lean ====
section
/-! DEFINITION. Sys2Proof/Machine/HostRead.lean: reads of the host's registers (R372, R373, R375-R379, R382, R387, R388, R398-R400, R493).
No row of the table is a read but LOCK_ACQ, SEM_ACQ and LOCK_TICKET; these definitions say what any other read returns and
counts. -/

namespace Sys2Proof.Machine

/-! ## Values of registers -/

/-- HS_STATUS as a function reads it: lanes, UNBOUND, IDE_BLOCK, FW_STALL, BARRIER_UP (Table: Host-side registers). -/
def Manager.hsStatus (m : Manager) (fn : Nat) : Nat :=
  m.host.lanes / 8 * 16 + (if m.bound fn then 0 else 8) + (if m.ideBlock then 4 else 0) + (if m.host.fwStall then 2 else 0) +
  (if m.host.barrier then 1 else 0)

/-- HS_CONTEXT: the context of the function. -/
def Manager.hsContext (m : Manager) (fn : Nat) : Nat := match m.fnCtx fn with | some c => 2 ^ 31 + c | none => 0

/-- A host-side register (Table: Host-side registers). -/
def Manager.hsReg (m : Manager) (fn off : Nat) : Nat :=
  let f := m.fnSt fn
  if off = 0x00 then m.hsStatus fn else if off = 0x04 then m.hsContext fn else if off = 0x08 then m.host.fwHb
  else if off = 0x10 then m.host.fwTime else if off = 0x20 then f.intStatus else if off = 0x24 then f.intMask else 0

/-- A register of a slot below its data (Table: Dictionary slot); reserved fields read zero (R7). -/
def DictSlot.reg (d : DictSlot) (off : Nat) : Nat :=
  if off = 0x00 then (if d.irq then 2 else 0) + (if d.go then 1 else 0)
  else if off = 0x04 then d.req &&& 0x8003FFFF
  else if off = 0x08 then d.addr % 2 ^ 24
  else if off = 0x0C then d.len % 2 ^ 9
  else if off = 0x10 then d.result % 2 ^ 16
  else if off = 0x14 then d.rlen % 2 ^ 9
  else if off = 0x18 then d.tag else 0

/-- A register of a host mailbox (R382, R327). -/
def Mailbox.reg (x : Mailbox) (off : Nat) : Nat :=
  if off = 0x00 then x.hdr &&& 0xFFFF003F
  else if off < 0x3C then fieldAt x.data (off - 4) 4
  else if off = 0x3C then x.chk
  else if off = 0x40 then (if x.go then 1 else 0)
  else if off = 0x44 then (if x.taken then 2 ^ 31 else 0) + (if x.done then 2 ^ 30 + x.code % 2 ^ 16 * 2 ^ 8 + x.echo % 2 ^ 8 else 0)
  else 0

/-- The doorbell bits of a quadword that a function owns, as it reads DB_STATUS. -/
def Manager.dbQuad (m : Manager) (fn q : Nat) : Nat :=
  (upTo 64).foldl (fun v i => if m.host.doorbells.getLsbD (64 * q + i) && m.mayRing fn (64 * q + i) then v + 2 ^ i else v) 0

/-- CF_CTL and CF_RESULT of a CRC feed window: the bytes fed since CF_CTL, with the final XOR; the feeds read zero. Under a reserved
code the accumulator is open (log 52). -/
def CrcFeed.reg (w : CrcFeed) (off : Nat) : Nat :=
  if off = 0x00 then w.code else if off = 0x18 then (if w.code < 4 then crcFinal w.code w.acc else w.acc) else 0

/-- SO_VALUE by kind: of a LOCK, HELD and the holder's requester ID, which in ticket mode is that of the ticket served. -/
def SyncObj.shown (o : SyncObj) : Nat :=
  match syncKind o.cfg with
  | .counter => o.value
  | .semaphore => o.value % 2 ^ 32
  | .event => o.value % 2
  | .lock =>
    let held := if bitOf o.cfg 2 then o.tickets.head?.map (fun t => t.rid) else o.holder
    match held with | some r => 2 ^ 16 + r % 2 ^ 16 | none => 0

/-- A register of a sync object whose read changes nothing (Table: Sync object registers). -/
def SyncObj.reg (o : SyncObj) (off : Nat) : Nat :=
  if off = 0x00 then o.cfg &&& 0x07FFFF8F else if off = 0x08 then o.shown else if off = 0x18 then o.target
  else if off = 0x28 then o.serving % 2 ^ 16 else 0

/-- A word of a function's MSI-X table; a vector control not written is masked. -/
def HostFn.msixWord (f : HostFn) (i : Nat) : Nat := mapGetD f.msix i (if i % 4 = 3 then 1 else 0)

/-- A quadword of the pending bits. -/
def HostFn.pbaQuad (f : HostFn) (q : Nat) : Nat := (upTo 64).foldl (fun v i => if f.pba.contains (64 * q + i) then v + 2 ^ i else v) 0

/-- A byte of the recorder's ring as the window shows it. -/
def Manager.ringByte (m : Manager) (off : Nat) : Byte :=
  match m.dev.log.ring.find? (fun r => Nat.ble r.off off && decide (off < r.off + r.len)) with
  | some r => (m.windowForm r).bytes.getD (off - r.off) 0
  | none => 0

/-- Bytes of the event-recorder window above its registers: the first area in slots of 256 bytes, and the segment, which reads zero
until READY (R493). -/
def Manager.windowByte (m : Manager) (off : Nat) : Byte :=
  if 0x100000 ≤ off ∧ off < 0x200000 then
    match m.dev.log.first[(off - 0x100000) / 256]? with
    | some r => (m.windowForm r).bytes.getD ((off - 0x100000) % 256) 0
    | none => 0
  else if 0x1000000 ≤ off ∧ m.host.ewReady then m.ringByte (m.host.ewView % 16 * 2 ^ 24 + (off - 0x1000000))
  else 0

/-- The registers of the window (Table: Event-recorder window). -/
def Manager.ewReg (m : Manager) (off : Nat) : Nat :=
  let old := m.dev.log.ring.head?
  if off = 0x00 then m.dev.log.seq % 2 ^ 48
  else if off = 0x08 then m.dev.log.nextOff % 2 ^ 28
  else if off = 0x10 then (match old with | some r => r.seq | none => m.dev.log.seq) % 2 ^ 48
  else if off = 0x18 then (match old with | some r => r.off | none => m.dev.log.nextOff) % 2 ^ 28
  else if off = 0x20 then (if m.host.ewReady then 16 else 0) + m.host.ewView % 16
  else if off = 0x24 then m.dev.log.first.length
  else 0

/-! ## Reads -/

/-- A read of a register at its own width gives its value; of another width zero, and is counted; a reserved offset reads zero
(R377). -/
def Manager.readAt (m : Manager) (t : List (Nat × Nat)) (off w v : Nat) : Manager × Nat :=
  if fits t off w then (m, v) else (m.widthOnly t off w, 0)

/-- A read of a byte area, whose own widths are those of an aligned access. [DEDUCED, log 118] -/
def Manager.readBytesAt (m : Manager) (off w : Nat) (byte : Nat → Byte) : Manager × Nat :=
  if aligned off w then (m, leNat ((upTo w).map (fun i => byte (off + i)))) else (m.badAccess, 0)

/-- A read of the dictionary window. [DEDUCED, log 56] -/
def Manager.readSlot (m : Manager) (fn off w : Nat) : Manager × Nat :=
  let o := off % 512
  let d := mapGetD (m.fnSt fn).slots (off / 512) {}
  if fn ≠ 0 ∧ 256 ≤ off / 512 then (m.badAccess, 0)
  else if Nat.ble 0x100 o then m.readBytesAt o w (fun i => d.data.getD (i - 0x100) 0)
  else m.readAt slotRegs o w (d.reg o)

/-- A read of a sync-object register: those whose read acts are the rows LOCK_ACQ, SEM_ACQ and LOCK_TICKET. -/
def Manager.readSync (m : Manager) (fn n off w : Nat) : Manager × Nat :=
  if !m.host.barrier then (m, 2 ^ (8 * w) - 1)
  else if m.ideBlock then (m, 0)
  else if !m.reachesSync fn n then (m.badAccess, 0)
  else if fits syncRegs off w then (m.bump Obj.SY_OPS, (m.sync n).reg off)
  else (m.widthOnly syncRegs off w, 0)

/-- A read of doorbells: a function that owns no bit of the quadword reads zero, and is counted. -/
def Manager.readDb (m : Manager) (fn off w : Nat) : Manager × Nat :=
  let q := off % 0x40 / 8
  if !((upTo 64).any (fun i => m.mayRing fn (64 * q + i))) then (m.badAccess, 0)
  else m.readAt dbRegs off w (if off < 0x40 then m.dbQuad fn q else 0)

/-- A read of BAR0 (Table: BAR0 map): what the read leaves, and what it returns. -/
def Manager.readBar0 (m : Manager) (fn off w : Nat) : Manager × Nat :=
  if off < 0x100000 then m.readSlot fn off w
  else if 0x104000 ≤ off ∧ off < 0x104100 then m.readAt hsRegs (off - 0x104000) w (if m.bound fn ∨ off = 0x104000 then m.hsReg fn (off - 0x104000) else 0)
  else if !m.bound fn then (if ownedRegion off then m.badAccess else m, 0)
  else if off < 0x102000 then
    if !m.mayPost fn ((off - 0x100000) / 0x80) then (m.badAccess, 0)
    else m.readAt mboxRegs (off % 0x80) w (if m.ideBlock then 0 else (m.mbox ((off - 0x100000) / 0x80)).reg (off % 0x80))
  else if off < 0x102100 then m.readDb fn (off - 0x102000) w
  else if 0x103000 ≤ off ∧ off < 0x103100 ∧ fn = 0 then
    m.readAt feedRegs (off % 0x40) w ((mapGetD m.host.feeds ((off - 0x103000) / 0x40) {}).reg (off % 0x40))
  else if 0x200000 ≤ off ∧ off < 0x280000 then m.readSync fn ((off - 0x200000) / 64) (off % 64) w
  else if 0x380000 ≤ off ∧ off < 0x388000 then
    if off - 0x380000 < (if fn = 0 then 2048 * 16 else 8 * 16) then
      let i := (off - 0x380000) / 4
      if w = 4 ∧ off % 4 = 0 then (m, (m.fnSt fn).msixWord i)
      else if w = 8 ∧ off % 8 = 0 then (m, (m.fnSt fn).msixWord i + (m.fnSt fn).msixWord (i + 1) * 2 ^ 32)
      else (m.badAccess, 0)
    else (m, 0)
  else if 0x388000 ≤ off ∧ off < (if fn = 0 then 0x388100 else 0x388008) then
    if w = 8 ∧ off % 8 = 0 then (m, (m.fnSt fn).pbaQuad ((off - 0x388000) / 8)) else (m.badAccess, 0)
  else if 0x2000000 ≤ off ∧ fn = 0 then
    if off < 0x2000100 then m.readAt ewRegs (off - 0x2000000) w (m.ewReg (off - 0x2000000))
    else m.readBytesAt (off - 0x2000000) w m.windowByte
  else (m, 0)

/-- A read of BAR2: the descriptor ring, and its two registers (R396). -/
def Manager.readBar2 (m : Manager) (fn off w : Nat) : Manager × Nat :=
  let f := m.fnSt fn
  if off < 0x4000 then m.readBytesAt off w (fun i => BitVec.ofNat 8 (mapGetD f.ring (i / 64) 0 / 2 ^ (8 * (i % 64))))
  else m.readAt dqRegs off w (if off = 0x4000 then f.dqTail else f.dqHead)

/-- A memory read of the host that reaches the endpoint through a function: none where it falls in none of the function's BARs and
completes as Unsupported Request (R372). [DEDUCED, log 118] -/
def Manager.hostRead (m : Manager) (fn bar off w : Nat) : Option (Manager × Nat) :=
  if m.host.perst ∨ !barHolds fn bar off then none
  else if bar = 0 then some (m.readBar0 fn off w)
  else some (m.readBar2 fn off w)

end Sys2Proof.Machine
end

