-- ==== Sys2Proof/Safety.lean ====
section
/-! DEFINITION. Sys2Proof/Safety.lean: what a safe run is, and the conditions under which statements say that a command is
carried out: a request admitted, a frame taken. -/

namespace Sys2Proof.Machine

/-! ## Outcomes -/

/-- The state after a step's outcome, where it is a next state. -/
def nextOf (o : Host.Outcome State Fault Refusal) : Option State :=
  match o with
  | .next t => some t
  | .fault _ => none
  | .refused _ => none

/-- The command is carried out: neither a fault nor a refusal ends the run. -/
def Runs (i : Instr) (s : State) : Prop := ∃ t, exec i s = .next t

/-- The next state of a command that changes the manager module alone. -/
abbrev State.withMgr (s : State) (m : Manager) : Out := .next { s with mgr := m }

/-- The next state of a command that changes one agent alone: its records that are due to be forwarded go out (R497). -/
abbrev State.withAgent (s : State) (die : Nat) (a : Agent) : Out := .next (s.setAgent die a.flush)

/-! ## Requests -/

/-- A WRITE of `v` to an object passes the checks of reach, mode and state at a module that leads its unit (R341, R288). -/
def Manager.grants (m : Manager) (r : Req) (key v : Nat) : Prop :=
  m.gateReach r key true v = 0 ∧ m.gateState r key true = 0 ∧ m.leads = true

/-- A WRITE of `v` to an object of a module's own ranges passes the checks of reach, mode and state (R341, R361). -/
def Manager.admits (m : Manager) (r : Req) (key v : Nat) : Prop := m.gateReach r key true v = 0 ∧ m.gateState r key true = 0

/-- A WRITE of bytes to an object that is no command passes every check of R341. -/
def Manager.passes (m : Manager) (r : Req) (key : Nat) (data : List Byte) : Prop :=
  dictResult false key true data (m.gateReach r key true (leNat data)) 0 (m.gateState r key true) 0 = 0 ∧ m.leads = true

/-- The context a request reaches (R349). -/
def Manager.reached (m : Manager) (r : Req) : Nat := (m.reachCtx r.fn).getD 0

/-! ## Frames -/

/-- The manager takes a frame: it passes every check of ingress (R420). -/
def Manager.takes (m : Manager) (k : FrameKind) (h : Hdr) : Prop := (m.dev.ingress k h m.genOf).ok = true

/-- The manager after the ingress of a frame. -/
def Manager.after (m : Manager) (k : FrameKind) (h : Hdr) : Manager := { m with dev := (m.dev.ingress k h m.genOf).dev }

/-- The manager takes a report into its empty queue and acts on it at once (R254): the frame is taken, this module commands its
agents, and no report waits. -/
def Manager.canReport (m : Manager) (k : FrameKind) (h : Hdr) : Prop :=
  m.takes k h ∧ (m.after k h).active = true ∧ (m.after k h).leads = true ∧ m.repQ = []

/-- The manager after a first report of a sender has left the queue, before it acts on it: the queue held one report, the report
is acknowledged, its number is taken and the event is counted (R244, R254). -/
def Manager.reported1 (m : Manager) (k : FrameKind) (h : Hdr) (type num : Nat) (w : Window) : Manager :=
  let m := (m.after k h).setObj Obj.FR_Q_DEPTH (max ((m.after k h).obj Obj.FR_Q_DEPTH) 1)
  let m := { m with repQ := [] }.sendAgent h.src (.eventAck type num)
  ({ m with rcv := { m.rcv with reports := mapSet m.rcv.reports h.src w } }).bump Obj.FR_EVENTS

/-- The agent takes a frame and acts on it now. -/
def Agent.takes (a : Agent) (k : FrameKind) (h : Hdr) (x : Option Msg) : Prop := (a.take k h x).ok = true

/-- The agent after taking a frame. -/
def Agent.after (a : Agent) (k : FrameKind) (h : Hdr) (x : Option Msg) : Agent := (a.take k h x).ag

end Sys2Proof.Machine
end

