-- ==== Sys2Proof/WellFormed.lean ====
section
/-! DEFINITION. Sys2Proof/WellFormed.lean: operands that a command can carry: each number within the width its field or register
has, each map in its canonical form. A meaning answers for every operand; the outside sends these. -/

namespace Sys2Proof

/-- A number of n bits. -/
def inBits (n v : Nat) : Bool := Nat.blt v (2 ^ n)

/-- A device: the manager module, or a DIE_ID of 64 bits. -/
def atWf (d : At) : Bool := match d with | none => true | some die => inBits 64 die

/-- Keys strictly rising, and each value fit. -/
def mapOk {α : Type} (ok : α → Bool) : SMap α → Bool
  | [] => true
  | [e] => ok e.2
  | e :: f :: rest => Nat.blt e.1 f.1 && ok e.2 && mapOk ok (f :: rest)

/-- A source of dictionary requests: a function, and a slot of the window or a descriptor of the ring (R340, R378). -/
def Req.wf (r : Req) : Bool := Nat.blt r.fn 256 && (Nat.blt r.tag 2048 || (Nat.ble 0x10000 r.tag && Nat.blt r.tag 0x10100))

/-- The fields of a frame header (R409). -/
def Hdr.wf (h : Hdr) : Bool :=
  inBits 4 h.version && inBits 18 h.src && inBits 18 h.dst && inBits 12 h.ctx && inBits 8 h.gen && inBits 16 h.assoc &&
  inBits 64 h.counter && h.claim.all (inBits 64) && inBits 48 h.srcMac && h.vlan.all (inBits 12) && inBits 16 h.etherType && inBits 14 h.length

/-- What a module finds as it starts. -/
def StartIn.wf (i : StartIn) : Bool :=
  inBits 4 i.pos && Nat.ble i.slot 3 && mapOk (inBits 18) i.peers && i.running.all (fun k => Nat.blt k 3) && inBits 4 i.saved &&
  inBits 32 i.trainMs && mapOk (inBits 32) i.ports && inBits 64 i.highest

/-- An upset strikes within a tile. -/
def Upset.wf (u : Upset) : Bool := Nat.blt u.row 64 && Nat.blt u.col 64 && u.product.all (fun k => Nat.blt k 64) && inBits 32 u.mask

/-- A word of an array. -/
def ArrayWord.wf : ArrayWord → Bool
  | .routeImage switch => inBits 13 switch
  | .linkTable index => inBits 20 index
  | .context ctx => inBits 12 ctx
  | .dictStore => true
  | .recorder _ seq => inBits 48 seq
  | .dram ctx _ => inBits 12 ctx
  | .archive impression => inBits 32 impression
  | .telemetry group => inBits 4 group
  | .blueprint => true
  | .firmware => true
  | .plateStore die => inBits 64 die

/-- A memory reply answers a tag of a cell, or a read of the manager's own. -/
def ReplyFor.wf : ReplyFor → Bool
  | .tag cell t => Nat.blt cell 68 && inBits 9 t
  | .word w => w.wf

/-- An entry of the input stream. -/
def EntryKind.wf : EntryKind → Bool
  | .input _ _ => true
  | .seed switch value => inBits 13 switch && inBits 64 value
  | .adjust adj => mapOk (inBits 16) adj
  | .centre switch => switch.all (inBits 13)
  | .granted _ switch => switch.all (inBits 13)
  | .hook impression _ => inBits 32 impression
  | .runEnd ctx status => inBits 12 ctx && inBits 32 status
  | .decision impression _ _ _ => inBits 32 impression
  | .claim number nid => inBits 64 number && inBits 18 nid
  | .gained cause committed waits _ => inBits 3 cause && mapOk (inBits 32) committed && waits.all (inBits 13)
  | .silent switches => switches.all (inBits 13)

/-- A telemetry record (R502). -/
def TlRec.wf (r : TlRec) : Bool :=
  inBits 4 r.group && inBits 12 r.ctx && inBits 18 r.nid && inBits 16 r.first && r.words.all (inBits 64)

/-- The command is well formed; an entry of the input stream carries a well-formed command. -/
def Instr.wf : Instr → Bool
  | .lineStart ctx line => inBits 12 ctx && inBits 16 line
  | .tileStep ctx line upset corrected failing => inBits 12 ctx && inBits 16 line && upset.all Upset.wf && inBits 32 corrected && failing.all (inBits 64)
  | .digestDrain ctx line bytes => inBits 12 ctx && inBits 16 line && inBits 32 bytes
  | .memoryReply what _ => what.wf
  | .tablePatrol word _ => word.wf
  | .stackPatrol word _ => word.wf
  | .cellRemap cell => inBits 7 cell
  | .lpImageWrite req _ => req.wf
  | .lpLoad req value => req.wf && inBits 8 value
  | .lpRunStart req => req.wf
  | .lpRunStop req => req.wf
  | .wideComplete ctx => inBits 12 ctx
  | .ldRun req value => req.wf && inBits 8 value
  | .rbClear req value => req.wf && inBits 8 value
  | .hotClear switch => inBits 13 switch
  | .interleaveWindow other => mapOk (inBits 32) other && other.all (fun e => decide (e.1 < 64))
  | .ilRedraw req value => req.wf && inBits 8 value
  | .stage die hdr payload => inBits 64 die && hdr.wf && Nat.ble payload.length 65536
  | .stageNodeWritesDone die status => inBits 64 die && inBits 32 status
  | .stageAssemblyTimeout die => inBits 64 die
  | .stageAck hdr imp status detail _ => hdr.wf && inBits 32 imp && inBits 16 status && inBits 32 detail
  | .stageAttemptTimeout switch => inBits 13 switch
  | .commit die hdr imp drain _ => inBits 64 die && hdr.wf && inBits 32 imp && inBits 32 drain
  | .commitAck hdr imp status detail _ => hdr.wf && inBits 32 imp && inBits 16 status && inBits 32 detail
  | .isolate die hdr imp nid _ => inBits 64 die && hdr.wf && inBits 32 imp && inBits 18 nid
  | .isolateAck hdr nid status => hdr.wf && inBits 18 nid && inBits 8 status
  | .isolateRetry switch => inBits 13 switch
  | .isolateTimeout switch => inBits 13 switch
  | .impFull req value => req.wf && inBits 8 value
  | .isReadmit req value => req.wf && inBits 8 value
  | .iaRestore req value => req.wf && inBits 8 value
  | .cvGo req value => req.wf && inBits 8 value
  | .cvCancel req tag => req.wf && inBits 64 tag
  | .waitExpired tag => inBits 64 tag
  | .setKey die hdr ctx gen role nid => inBits 64 die && hdr.wf && inBits 12 ctx && inBits 8 gen && inBits 2 role && inBits 18 nid
  | .revoke die hdr ctx gen role nid => inBits 64 die && hdr.wf && inBits 12 ctx && inBits 8 gen && inBits 2 role && inBits 18 nid
  | .pkeyWriteComplete die _ => inBits 64 die
  | .keyAck hdr ctx gen role status => hdr.wf && inBits 12 ctx && inBits 8 gen && inBits 2 role && inBits 16 status
  | .setKeyTimeout ctx => inBits 12 ctx
  | .carveComplete ctx => inBits 12 ctx
  | .cxReleaseDrain req => req.wf
  | .cxReleasePurge req => req.wf
  | .drainTimeout ctx => inBits 12 ctx
  | .purgeTagsReturned ctx => inBits 12 ctx
  | .revokeTimeout ctx => inBits 12 ctx
  | .vfReset ctx => inBits 12 ctx
  | .purgeComplete ctx => inBits 12 ctx
  | .quarantineExpire ctx => inBits 12 ctx
  | .dramPageZeroed mib => inBits 32 mib
  | .keyBarLifted ctx => inBits 12 ctx
  | .confidentialReplyRelease req => req.wf
  | .watchPortBad die input => inBits 64 die && inBits 5 input
  | .watchPortGood die input _ port => inBits 64 die && input.all (inBits 5) && inBits 7 port
  | .linkMsg die _ port _ => inBits 64 die && inBits 7 port
  | .linkEvent hdr nid port _ _ report time _ => hdr.wf && inBits 18 nid && inBits 7 port && inBits 16 report && inBits 64 time
  | .eventAck die hdr type report => inBits 64 die && hdr.wf && inBits 8 type && inBits 16 report
  | .reportRetry die => inBits 64 die
  | .withdraw die hdr imp nid port dests => inBits 64 die && hdr.wf && inBits 32 imp && inBits 18 nid && inBits 7 port && dests.all (inBits 32)
  | .neighbour hdr peerNode peerPort _ port _ => hdr.wf && inBits 64 peerNode && inBits 7 peerPort && inBits 7 port
  | .endpointResetDetect die input => inBits 64 die && inBits 5 input
  | .gone die hdr nid rej0 rej1 => inBits 64 die && hdr.wf && inBits 18 nid && inBits 8 rej0 && inBits 8 rej1
  | .ready die hdr nid rej0 rej1 => inBits 64 die && hdr.wf && inBits 18 nid && inBits 8 rej0 && inBits 8 rej1
  | .memberLostReceive dev hdr lost cause ctx gen resets time => atWf dev && hdr.wf && inBits 18 lost && inBits 8 cause && inBits 12 ctx && inBits 8 gen && inBits 8 resets && inBits 64 time
  | .memberAck hdr ctx gen nid => hdr.wf && inBits 12 ctx && inBits 8 gen && inBits 18 nid
  | .epReset hdr nid cause resets report time _ => hdr.wf && inBits 18 nid && inBits 8 cause && inBits 8 resets && inBits 16 report && inBits 64 time
  | .nodeReady hdr nid report _ => hdr.wf && inBits 18 nid && inBits 16 report
  | .rejoined die hdr ctx gen nid => inBits 64 die && hdr.wf && inBits 12 ctx && inBits 8 gen && inBits 18 nid
  | .memberRejoined die hdr lost cause ctx gen resets time => inBits 64 die && hdr.wf && inBits 18 lost && inBits 8 cause && inBits 12 ctx && inBits 8 gen && inBits 8 resets && inBits 64 time
  | .rejoinTimeout ctx => inBits 12 ctx
  | .nodeCtlReady die => inBits 64 die
  | .resetNotice die => inBits 64 die
  | .resetReqNode die => inBits 64 die
  | .resetReq hdr nid switch report _ => hdr.wf && inBits 18 nid && inBits 18 switch && inBits 16 report
  | .resetGrant die hdr nid _ => inBits 64 die && hdr.wf && inBits 18 nid
  | .detourTimeout die => inBits 64 die
  | .heartbeatAgent die hdr port round imp => inBits 64 die && hdr.wf && inBits 7 port && inBits 32 round && inBits 32 imp
  | .hbReply dev hdr round committed _ => atWf dev && hdr.wf && inBits 32 round && inBits 32 committed
  | .agentHeartbeatMissed nid => inBits 18 nid
  | .silentTimeout nid => inBits 18 nid
  | .timeEstimateExpire nid => inBits 18 nid
  | .nodeHb die => inBits 64 die
  | .nodeHbTimeout die => inBits 64 die
  | .scribeWatchdog core reqs => inBits 8 core && reqs.all Req.wf
  | .hangWatchdog ctx => inBits 12 ctx
  | .cellResetComplete cell => inBits 7 cell
  | .epReadmit req value => req.wf && inBits 8 value
  | .lkReadmit req value => req.wf && inBits 8 value
  | .rsCommit req value => req.wf && inBits 8 value
  | .nodeLinkDown die => inBits 64 die
  | .nodeLostTimeout die => inBits 64 die
  | .nodeLost hdr nid report time _ => hdr.wf && inBits 18 nid && inBits 16 report && inBits 64 time
  | .claimAgent die hdr prev prevNid cause imp => inBits 64 die && hdr.wf && inBits 64 prev && inBits 18 prevNid && inBits 8 cause && inBits 32 imp
  | .claimManager hdr prev prevNid cause imp => hdr.wf && inBits 64 prev && inBits 18 prevNid && inBits 8 cause && inBits 32 imp
  | .claimAck hdr committed staged _ => hdr.wf && inBits 32 committed && inBits 32 staged
  | .peerHeartbeat hdr round imp seq => hdr.wf && inBits 32 round && inBits 32 imp && inBits 64 seq
  | .inputStreamEntry seq kind input => inBits 64 seq && kind.wf && input.wf
  | .triadHeartbeatMiss slot => Nat.blt slot 3
  | .triadPresenceLoss port => Nat.blt port 2
  | .triadDigest slot imp _ => Nat.blt slot 3 && inBits 32 imp.number && inBits 64 imp.entry
  | .trResync req value => req.wf && inBits 8 value
  | .resyncComplete seq _ => inBits 64 seq
  | .repl hdr seq kind input => hdr.wf && inBits 64 seq && kind.wf && input.wf
  | .replAck hdr seq => hdr.wf && inBits 64 seq
  | .replTimeout seq => inBits 64 seq
  | .rdHandover req value => req.wf && inBits 8 value
  | .yield_ hdr lastSeq cause => hdr.wf && inBits 64 lastSeq && inBits 8 cause
  | .descPublish die desc _ => inBits 64 die && Nat.ble desc.length 256
  | .ltSave die area => inBits 64 die && Nat.ble area.length 16384
  | .ltSaveDeferred die area => inBits 64 die && Nat.ble area.length 16384
  | .ltClear die hdr tag v => inBits 64 die && hdr.wf && inBits 64 tag && inBits 8 v
  | .nodeDoorbell die hdr data chk => inBits 64 die && inBits 32 hdr && Nat.ble data.length 33554432 && inBits 32 chk
  | .nodeLog die hdr data chk => inBits 64 die && inBits 32 hdr && Nat.ble data.length 33554432 && inBits 32 chk
  | .telemetrySample die hdr data chk => inBits 64 die && inBits 32 hdr && Nat.ble data.length 33554432 && inBits 32 chk
  | .neighbourReport die hdr data chk => inBits 64 die && inBits 32 hdr && Nat.ble data.length 33554432 && inBits 32 chk
  | .hostReply die hdr data chk => inBits 64 die && inBits 32 hdr && Nat.ble data.length 33554432 && inBits 32 chk
  | .nodeMessageTaken die box code => inBits 64 die && inBits 8 box && inBits 16 code
  | .hmSend die hdr tag data => inBits 64 die && hdr.wf && inBits 64 tag && Nat.ble data.length 33554432
  | .agRestart die hdr tag v => inBits 64 die && hdr.wf && inBits 64 tag && inBits 8 v
  | .firmwareRunning die _ _ rej0 rej1 => inBits 64 die && inBits 8 rej0 && inBits 8 rej1
  | .restartTimeout die => inBits 64 die
  | .coreWatchdog die => inBits 64 die
  | .agentReset die cause => inBits 64 die && Nat.blt cause 6
  | .telemetryPeriodEnd die dropPkey dropRoute nakSent => inBits 64 die && inBits 64 dropPkey && inBits 64 dropRoute && inBits 64 nakSent
  | .dictRead req key => req.wf && inBits 24 key
  | .dictWrite req key data => req.wf && inBits 24 key && Nat.ble data.length 33554432
  | .dictReq die hdr tag key data _ => inBits 64 die && hdr.wf && inBits 64 tag && inBits 24 key && Nat.ble data.length 33554432
  | .dictReply hdr tag result data => hdr.wf && inBits 32 tag && inBits 16 result && Nat.ble data.length 33554432
  | .proxyTimeout num => inBits 64 num
  | .dvReset req value start => req.wf && inBits 8 value && start.wf
  | .pPartCreate req value => req.wf && inBits 8 value
  | .pPartDelete req value => req.wf && inBits 8 value
  | .pRecompute req value => req.wf && inBits 8 value
  | .pHaSwitchover req value => req.wf && inBits 8 value
  | .dwGo fn slot _ => Nat.blt fn 256 && Nat.blt slot 2048
  | .dictReplyHost fn slot => Nat.blt fn 256 && Nat.blt slot 2048
  | .hostMailboxGo fn box => Nat.blt fn 256 && inBits 8 box
  | .mbDoorbell box => inBits 8 box
  | .ping box => inBits 8 box
  | .hostLog box => inBits 8 box
  | .mark box => inBits 8 box
  | .mbAckHost box => inBits 8 box
  | .dbSet fn q v => Nat.blt fn 257 && Nat.blt q 4 && inBits 64 v
  | .dbClear fn q v => Nat.blt fn 257 && Nat.blt q 4 && inBits 64 v
  | .intStatusClear fn v => Nat.blt fn 256 && inBits 64 v
  | .intMaskWrite fn v => Nat.blt fn 256 && inBits 64 v
  | .cfCtl fn k v => Nat.blt fn 256 && Nat.blt k 4 && inBits 64 v
  | .cfFeed8 fn k v => Nat.blt fn 256 && Nat.blt k 4 && inBits 64 v
  | .cfFeed16 fn k v => Nat.blt fn 256 && Nat.blt k 4 && inBits 64 v
  | .cfFeed32 fn k v => Nat.blt fn 256 && Nat.blt k 4 && inBits 64 v
  | .soCfg fn n v => Nat.blt fn 257 && Nat.blt n 8192 && inBits 64 v
  | .soValueWrite fn n v => Nat.blt fn 257 && Nat.blt n 8192 && inBits 64 v
  | .soOpCounter fn n v => Nat.blt fn 257 && Nat.blt n 8192 && inBits 64 v
  | .soOpSemaphore fn n v => Nat.blt fn 257 && Nat.blt n 8192 && inBits 64 v
  | .soOpLockRelease fn n => Nat.blt fn 257 && Nat.blt n 8192
  | .soOpEventSet fn n => Nat.blt fn 257 && Nat.blt n 8192
  | .soOpEventClear fn n => Nat.blt fn 257 && Nat.blt n 8192
  | .soTargetWrite fn n v => Nat.blt fn 257 && Nat.blt n 8192 && inBits 64 v
  | .lockAcq fn n => Nat.blt fn 257 && Nat.blt n 8192
  | .semAcq fn n => Nat.blt fn 257 && Nat.blt n 8192
  | .lockTicket fn n => Nat.blt fn 257 && Nat.blt n 8192
  | .dqTail fn v bufs => Nat.blt fn 256 && inBits 64 v && mapOk (fun _ => true) bufs
  | .descriptorComplete fn => Nat.blt fn 256
  | .registerWrite fn bar off width value => Nat.blt fn 256 && inBits 3 bar && inBits 32 off && inBits 8 width && inBits 64 value
  | .flr fn => Nat.blt fn 256
  | .barrierUp accepted => accepted.all Req.wf
  | .laneFailure lanes frames => inBits 6 lanes && inBits 32 frames
  | .keyOffer dev hdr assoc _ wrap peer salts expire _ _ ports peerAs => atWf dev && hdr.wf && inBits 16 assoc && inBits 16 wrap && inBits 18 peer && inBits 32 salts.tx && inBits 32 salts.rx && (assoc == 1 || assoc == 3 || salts.rx == 0) && inBits 64 expire && ports.all (inBits 7) && inBits 18 peerAs
  | .keyAccept hdr assoc _ status => hdr.wf && inBits 16 assoc && inBits 8 status
  | .keyGraceExpire dev src assoc _ => atWf dev && inBits 18 src && inBits 16 assoc
  | .rekeyTimer dev peer assoc => atWf dev && inBits 18 peer && inBits 16 assoc
  | .timedSend nid => inBits 18 nid
  | .timed die hdr t1 homeMac collector => inBits 64 die && hdr.wf && inBits 64 t1 && inBits 48 homeMac && inBits 18 collector
  | .timedReply hdr t1 t2 t3 wdrSent _ _ _ => hdr.wf && inBits 64 t1 && inBits 64 t2 && inBits 64 t3 && inBits 32 wdrSent
  | .fieldPortChange die port state => inBits 64 die && inBits 7 port && inBits 32 state
  | .managerPortDown port => inBits 7 port
  | .laneSwitch die => inBits 64 die
  | .laneRelay die src dst _ => inBits 64 die && inBits 18 src && inBits 18 dst
  | .moduleStart start => start.wf
  | .btFresh req value => req.wf && inBits 8 value
  | .agentStart die _ _ _ p0 p1 straps => inBits 64 die && inBits 32 p0 && inBits 32 p1 && inBits 5 straps
  | .helloRepeat die => inBits 64 die
  | .hello hdr payload => hdr.wf && Nat.ble payload.length 65536
  | .attestReq die hdr _ nid fwd => inBits 64 die && hdr.wf && inBits 18 nid && inBits 18 fwd
  | .attestReport hdr die _ _ _ desc debug => hdr.wf && inBits 64 die && Nat.ble desc.length 256 && inBits 8 debug
  | .helloResume die => inBits 64 die
  | .bpImage req _ => req.wf
  | .readyToleranceWrite req sub data => req.wf && Nat.blt sub 16 && Nat.ble data.length 33554432
  | .dsRestart req value => req.wf && inBits 8 value
  | .fwImage req _ => req.wf
  | .fwBroadcast req _ => req.wf
  | .fwActivate req => req.wf
  | .fwAbort req => req.wf
  | .bulkData die hdr image block count pass data _ _ => inBits 64 die && hdr.wf && inBits 32 image && inBits 16 block && inBits 16 count && inBits 16 pass && Nat.ble data.length 33554432
  | .endOfPass die hdr image count pass => inBits 64 die && hdr.wf && inBits 32 image && inBits 16 count && inBits 16 pass
  | .bulkReportSend die => inBits 64 die
  | .bulkReport hdr image state pass _ missing => hdr.wf && inBits 32 image && inBits 8 state && inBits 16 pass && missing.all (fun p => inBits 16 p.1 && inBits 16 p.2)
  | .activate die hdr image => inBits 64 die && hdr.wf && inBits 32 image
  | .scNonce req => req.wf
  | .scApply req value _ start => req.wf && inBits 8 value && start.wf
  | .scProvision req value start => req.wf && inBits 8 value && start.wf
  | .scDebugReq req value start => req.wf && inBits 8 value && start.wf
  | .debugDurationEnd dev start => atWf dev && start.wf
  | .scFusesSet req value => req.wf && inBits 32 value
  | .scGrant die hdr tag gdie dur imp _ => inBits 64 die && hdr.wf && inBits 64 tag && inBits 64 gdie && inBits 32 dur && inBits 32 imp
  | .scSpdm req data resp ide => req.wf && Nat.ble data.length 33554432 && Nat.ble resp.length 4096 && ide.all (inBits 2)
  | .atGo req value => req.wf && inBits 8 value
  | .pkRotate req value => req.wf && inBits 8 value
  | .bucketFull dev code => atWf dev && inBits 16 code
  | .rlCommit req value => req.wf && inBits 8 value
  | .evClearCirculating req => req.wf
  | .evClearFirst req => req.wf
  | .evClearBoth req => req.wf
  | .ewView fn v => Nat.blt fn 256 && inBits 64 v
  | .erRead req => req.wf
  | .event hdr bytes => hdr.wf && Nat.ble bytes.length 2048
  | .telemetry hdr time period _ recs => hdr.wf && inBits 64 time && inBits 32 period && recs.all TlRec.wf
  | .subsampleWindow _ => true
  | .tsRead req => req.wf
  | .tsSubscribe req data => req.wf && Nat.ble data.length 33554432
  | .domainStateEntry dev domain _ => atWf dev && Nat.blt domain 96
  | .workArrival dev domain => atWf dev && Nat.blt domain 96
  | .domainWakeComplete dev domain => atWf dev && Nat.blt domain 96
  | .pwrWakeBudget req sub data => req.wf && Nat.blt sub 9 && Nat.ble data.length 33554432
  | .sentinelExitManager cause start => inBits 8 cause && start.wf
  | .sentinelEntryAgent die => inBits 64 die
  | .sentinelExitAgent die cause => inBits 64 die && inBits 8 cause
  | .pwWakeAt dev start => atWf dev && start.wf
  | .agentParked nid => inBits 18 nid
  | .undervoltage mv => inBits 32 mv
  | .agentUndervoltage die => inBits 64 die
  | .tempWarning dev => atWf dev
  | .tempCritical dev => atWf dev
  | .tempRecovered dev start => atWf dev && start.wf
  | .referenceLost dev => atWf dev
  | .signalDetect dev port start => atWf dev && inBits 7 port && start.wf
  | .mrst start => start.wf
  | .resetFenceRelease die => inBits 64 die
  | .triadHeartbeat heard => heard.all (fun k => Nat.blt k.1 3)
  | .inputStreamAck slot seq => Nat.blt slot 3 && inBits 64 seq
  | .perstDeassertion rate width numVfs rid => Nat.ble 1 rate && Nat.ble rate 7 && [1, 4, 8, 16].contains width && inBits 16 numVfs && inBits 16 rid
  | .referenceRestored dev ports => atWf dev && mapOk (inBits 32) ports
  | .triadPresenceGain port start => Nat.blt port 2 && start.wf
  | .coalescingWindowClose => true
  | .computationStart => true
  | .hookTimeout => true
  | .computationComplete => true
  | .pcountComplete => true
  | .loadPeriod => true
  | .loadComplete => true
  | .rebalComplete => true
  | .imbalanceWindow => true
  | .groupMove => true
  | .commitRetry => true
  | .commitTimeout => true
  | .oldSideRelease => true
  | .placeComplete => true
  | .memberLostRetry => true
  | .heartbeatRound => true
  | .claimRetry => true
  | .claimTimeout => true
  | .takeover => true
  | .barrierDown => true
  | .fwHeartbeat => true
  | .fwStall => true
  | .perst => true
  | .attestRepeat => true
  | .settleExpire => true
  | .passPlan => true
  | .activationBatchTimeout => true
  | .nonceExpire => true
  | .pkPeriod => true
  | .rotationComplete => true
  | .entropyHealthFail => true
  | .entropyHealthPass => true
  | .segmentStreamed => true
  | .telemetryManagerPeriod => true
  | .sentinelEntryManager => true
  | .supplyWarning => true
  | .overvoltage => true
  | .hsEnClose => true
  | .bootListenExpire => true
  | .hsEnOpen => true
  | .overcurrent => true
  | .managerHeartbeat => true
  | .passSent => true
  | .ideStreamInsecure => true

end Sys2Proof
end

