-- ==== Sys2Proof/Certificates/Slice0/Obligations.lean ====
section
/-! DEFINITION. Sys2Proof/Certificates/Slice0/Obligations.lean: the statements for the provers. -/

open Sys2Proof Sys2Proof.Machine

/-- A step runs the command at the front of the queue. For every command c and state s, a step of s with c in front of its queue
is exec of c on s with the rest of the queue. The queue of commands is the model's own form of the block. -/
def Obligations.StepRunsTheFront : Prop :=
  ∀ (c : Instr) (rest : List Instr) (s : State),
    step { s with pending := c :: rest } = exec c { s with pending := rest }

/-- An idle step lets time pass at every device and changes nothing else. On an empty queue a step answers a next state in which
the local time of the manager and of every listed agent has advanced by an amount that nothing fixes, and only their times
and counts of free values have changed. That an idle step is where time passes is the model's choice (assumption 2). -/
def Obligations.IdleStepOnlyPassesTime : Prop :=
  ∀ s : State, s.pending = [] → ∃ t, step s = .next t ∧
    t.pending = [] ∧ s.mgr.dev.time ≤ t.mgr.dev.time ∧
    t.mgr = { s.mgr with dev := { s.mgr.dev with time := t.mgr.dev.time, free := t.mgr.dev.free } } ∧
    (∀ die a, mapGet s.agents die = some a → ∃ b, mapGet t.agents die = some b ∧ a.dev.time ≤ b.dev.time ∧
      b = { a with dev := { a.dev with time := b.dev.time, free := b.dev.free } }) ∧
    (∀ die, mapGet s.agents die = none → mapGet t.agents die = none)

/-- Every command answers a next state and leaves the queue alone. For every command and every state, exec answers a next state,
never a fault and never a refusal, and the queue of waiting commands is as before. A command whose condition does not hold
leaves the state as it is (assumption 3). -/
def Obligations.EveryCommandCompletes : Prop :=
  ∀ (c : Instr) (s : State), ∃ t, exec c s = .next t ∧ t.pending = s.pending

/-- A queued line starts, a Burin step accumulates a tile, and a drained line completes. LINE_START: a queued line whose
conditions hold takes a free slot, and a line whose shortest input has no tile completes OK at once; the sync object it
waits on is taken (R75). TILE_STEP: a running line whose stage is the Burin's MACC, granted its station and not struck by an
upset, has in its accumulator C plus A times B over its semiring and K (FMAC's order of additions is open, so FMAC is not
named here), and goes to its next stage, tile or end; at that boundary a REPAIR line that waits for a slot is served.
DIGEST_DRAIN: the bytes go from the buffer into the digest; a draining line whose last bytes leave completes OK. A draining
context whose run ends is purged. Nothing but the manager changes. The next state answered is given for LINE_START,
TILE_STEP, DIGEST_DRAIN. -/
def Obligations.LinesRun : Prop :=
  (∀ (s : State) (ctx line : Nat) (run : Run) (p : Program) (l : LineRun),
    mapGet s.mgr.eng.runs ctx = some run → mapGet s.mgr.eng.programs ctx = some p → run.line line = some l →
    s.mgr.lineReady run l = true → s.mgr.eng.slotsTaken l.cell < 4 →
    exec (.lineStart ctx line) s = s.withMgr
      ((if tilesOf p l.desc = 0 then (s.mgr.syncWaitTake l.desc.waitObj l.desc.waitMode).endLine ctx line 0
        else (s.mgr.syncWaitTake l.desc.waitObj l.desc.waitMode).setLine ctx { l with phase := .running }).drainCheck ctx)) ∧
  (∀ (s : State) (ctx line corrected : Nat) (failing : List Nat) (run : Run) (p : Program) (l : LineRun) (m : Manager) (a r : Tile),
    mapGet s.mgr.eng.runs ctx = some run → mapGet s.mgr.eng.programs ctx = some p → run.line line = some l →
    l.phase = .running → l.out = false → s.mgr.eng.cellRuns l.cell = true → l.stage ≠ 0 → (stagesOf l.desc).getD l.stage 0 = 0x40 →
    burinSuits l.desc 0 = true → l.desc.semiring ≠ 6 → l.acc.elems.isEmpty = false →
    m = (s.mgr.bumpBy Obj.AR_SRAM_CORR corrected).onEng (fun e => { e with failing := failing.foldl insNat e.failing }) →
    granted m.eng (m.obj Obj.ENG_BG_SHARE) l.cell 2 run l = true →
    a = (if (stagesOf l.desc).getD (l.stage - 1) 0 / 32 = 1 ∨ (stagesOf l.desc).getD (l.stage - 1) 0 / 32 = 4 then l.a else l.cur) →
    r = tileOf l.desc.fmtAcc (fun i j =>
      ((upTo l.desc.k).map (fun n => semTimes l.desc.semiring (tileAt a i n) (tileAt l.b n j))).foldl (semPlus l.desc.semiring)
        (tileAt l.acc i j)) →
    ∀ n, (m.onEng (fun e => countGrant e l.cell 2 (linePriority run l))).touchTiles ctx line [] = some n →
    exec (.tileStep ctx line none corrected failing) s = s.withMgr
      (((n.advanceLine ctx p { l with acc := r, cur := r }).settleOwed l.cell).drainCheck ctx)) ∧
  (∀ (s : State) (ctx line bytes : Nat) (run : Run) (l : LineRun),
    mapGet s.mgr.eng.runs ctx = some run → run.line line = some l →
    (l.phase = .draining → l.buffer.length ≤ bytes → exec (.digestDrain ctx line bytes) s = s.withMgr
      (((s.mgr.setLine ctx { l with buffer := [], hashed := l.hashed ++ l.buffer }).endLine ctx line 0).drainCheck ctx)) ∧
    (l.phase ≠ .draining ∨ bytes < l.buffer.length → exec (.digestDrain ctx line bytes) s = s.withMgr
      ((s.mgr.setLine ctx { l with buffer := l.buffer.drop bytes, hashed := l.hashed ++ l.buffer.take bytes }).drainCheck ctx)))

/-- A reply frees its tag, patrols count what they find, and a stopped cell is remapped. MEMORY_REPLY: a reply for a tag frees
the tag; where the tag's generation is no longer its context's, the reply is discarded; otherwise the tile, or the list
word, is read into the line that waits, which goes on with the last of its loads; a tile fetched ahead is back in its cell.
A reply for a word not under a tag counts what it found; an uncorrectable one of an agent's plate store makes the store
invalid. TABLE_PATROL and STACK_PATROL: a good word changes nothing, a corrected word advances the corrected count of its
array, an uncorrectable one has the consequence of what it holds. CELL_REMAP: the retired cell loses its logical number, the
first spare takes it, or with none the number is withdrawn; ENG_RETIRED advances, the lines are queued again or end, and
event 0x080 names the physical cell. A cell that is not retiring is left alone. The next state answered is given for
MEMORY_REPLY, TABLE_PATROL, STACK_PATROL, CELL_REMAP. -/
def Obligations.ArrayWordsRead : Prop :=
  (∀ (s : State) (cell tag : Nat) (t : MemTag), mapGet s.mgr.eng.tags (cell * 512 + tag) = some t →
    (s.mgr.ctx t.ctx).gen ≠ t.gen →
    firstFailing (s.mgr.onEng (fun e => { e with tags := mapDel e.tags (cell * 512 + tag) })) t.space t.addr t.size = none →
    exec (.memoryReply (.tag cell tag) .good) s =
      s.withMgr ((s.mgr.onEng (fun e => { e with tags := mapDel e.tags (cell * 512 + tag) })).drainCheck t.ctx)) ∧
  (∀ (s : State) (cell tag : Nat) (t : MemTag) (run : Run) (p : Program) (l k : LineRun) (m : Manager),
    mapGet s.mgr.eng.tags (cell * 512 + tag) = some t → (s.mgr.ctx t.ctx).gen = t.gen → t.store = false → t.ahead = false →
    mapGet s.mgr.eng.runs t.ctx = some run → mapGet s.mgr.eng.programs t.ctx = some p → run.line t.line = some l →
    l.phase = .waitMem → l.tags.contains (cell * 512 + tag) = true →
    m = s.mgr.onEng (fun e => { e with tags := mapDel e.tags (cell * 512 + tag) }) → firstFailing m t.space t.addr t.size = none →
    k = { l with
      tags := l.tags.filter (fun x => x != cell * 512 + tag)
      words := if t.word then mapSet l.words t.reg (leNat (m.refBytes ⟨t.space, t.addr, t.size, 64⟩)) else l.words
      got := if t.word || (mapGet l.got t.reg).isSome then l.got
        else mapSet l.got t.reg (readTile m t.fmt ⟨t.space, t.addr, t.size, 64⟩) } →
    exec (.memoryReply (.tag cell tag) .good) s =
      s.withMgr ((if !k.tags.isEmpty then m.setLine t.ctx k else if t.word then m.wordsCame t.ctx k else m.lineLoaded t.ctx p k).drainCheck
        t.ctx)) ∧
  (∀ (s : State) (cell tag : Nat) (t : MemTag) (m : Manager), mapGet s.mgr.eng.tags (cell * 512 + tag) = some t →
    (s.mgr.ctx t.ctx).gen = t.gen → t.store = false → t.ahead = true →
    m = s.mgr.onEng (fun e => { e with tags := mapDel e.tags (cell * 512 + tag) }) → firstFailing m t.space t.addr t.size = none →
    exec (.memoryReply (.tag cell tag) .good) s = s.withMgr ((m.cameBack t).drainCheck t.ctx)) ∧
  (∀ (s : State) (die : Nat), exec (.memoryReply (.word (.plateStore die)) .uncorrectable) s = s.withAgent die (s.agent die).invalidate) ∧
  (∀ (s : State) (w : ArrayWord) (f : WordFound), (∀ die, w ≠ .plateStore die) → exec (.memoryReply (.word w) f) s = s.withMgr
    (match f with
     | .good => s.mgr
     | .corrected => s.mgr.bump (if inTable w then Obj.AR_TABLE_CORR else Obj.AR_STACK_CORR)
     | .uncorrectable => s.mgr.uncorrectable w)) ∧
  (∀ (s : State) (w : ArrayWord) (f : WordFound), inTable w = true → exec (.tablePatrol w f) s = s.withMgr
    (match f with
     | .good => s.mgr
     | .corrected => s.mgr.bump Obj.AR_TABLE_CORR
     | .uncorrectable => s.mgr.uncorrectable w)) ∧
  (∀ (s : State) (w : ArrayWord) (f : WordFound), inTable w = false → exec (.stackPatrol w f) s = s.withMgr
    (match f with
     | .good => s.mgr
     | .corrected => s.mgr.bump Obj.AR_STACK_CORR
     | .uncorrectable => s.mgr.uncorrectable w)) ∧
  (∀ (s : State) (cell q : Nat), (s.mgr.eng.cell cell).st = .retiring → s.mgr.eng.runs = [] → 48 ≤ s.mgr.obj Obj.ENG_CELLS →
    (upTo 68).find? (fun k => decide ((s.mgr.eng.cell k).st = .spare)) = some q →
    ∃ m, exec (.cellRemap cell) s = s.withMgr m ∧ (m.eng.cell cell).logical = 0xFF ∧ (m.eng.cell cell).st = .retired ∧
      (m.eng.cell q).logical = (s.mgr.eng.cell cell).logical ∧ (m.eng.cell q).st = .enabled ∧
      (∀ k, k ≠ cell → k ≠ q → m.eng.cell k = s.mgr.eng.cell k)) ∧
  (∀ (s : State) (cell : Nat) (m n : Manager) (lost : List (Nat × Nat)), (s.mgr.eng.cell cell).st = .retiring →
    m = (s.mgr.onEng (fun e => e.setCell cell { s.mgr.eng.cell cell with logical := 0xFF, st := .retired })).bump Obj.ENG_RETIRED →
    (upTo 68).find? (fun k => decide ((s.mgr.eng.cell k).st = .spare)) = none →
    n = ((m.setObj Obj.ENG_CELLS (m.obj Obj.ENG_CELLS - 1)).onDev (fun d => { d with health := d.health ||| 1 })) →
    lost = n.eng.runs.flatMap (fun r => (r.2.lines.filter (fun k =>
      k.cell == (s.mgr.eng.cell cell).logical && decide (k.phase = .stopped) && !k.desc.restart)).map (fun k => (r.1, k.desc.id))) →
    exec (.cellRemap cell) s = s.withMgr
      (((lost.foldl (fun m x => (m.endLine x.1 x.2 2).drainCheck x.1)
        ((n.onEng (fun e => { e with runs := e.runs.map (fun r => (r.1, { r.2 with
          recent := mapDel r.2.recent (s.mgr.eng.cell cell).logical, away := mapDel r.2.away (s.mgr.eng.cell cell).logical })) })).requeueAll
          (s.mgr.eng.cell cell).logical none)).eventOf 0x080 0 [cell, 1,
        (lost.foldl (fun m x => (m.endLine x.1 x.2 2).drainCheck x.1)
          ((n.onEng (fun e => { e with runs := e.runs.map (fun r => (r.1, { r.2 with
            recent := mapDel r.2.recent (s.mgr.eng.cell cell).logical, away := mapDel r.2.away (s.mgr.eng.cell cell).logical })) })).requeueAll
            (s.mgr.eng.cell cell).logical none)).obj Obj.ENG_CELLS]).checkDegraded)) ∧
  (∀ (s : State) (cell : Nat), (s.mgr.eng.cell cell).st ≠ .retiring → exec (.cellRemap cell) s = .next s)

/-- A granted write loads, runs, stops and unloads a line program. LP_IMAGE_WRITE keeps the image, and one of no bytes unloads
the program. LP_LOAD writes the first failing check's number, or 0, to LP_RESULT, the shortage to LP_SHORT, and 2 to
LP_LOAD; a good image becomes the program. LP_RUN_START starts a run in an ACTIVE context with none in progress, and
completes ENGINE_DEGRADED with fewer than 48 cells. LP_RUN_STOP stops every line with STOPPED. Each is answered OK. The next
state answered is given for LP_IMAGE_WRITE, LP_LOAD, LP_RUN_START, LP_RUN_STOP. -/
def Obligations.HostPrograms : Prop :=
  (∀ (s : State) (req : Req) (image : List Byte), s.mgr.passes req Obj.LP_IMAGE image → mapGet s.mgr.eng.runs (s.mgr.reached req) = none →
    exec (.lpImageWrite req image) s = s.withMgr
      ((if image.isEmpty then
          ((s.mgr.entry (.lpImageWrite req image)).onDev (fun d => d.setBlob (ctxKey Obj.LP_IMAGE (s.mgr.reached req)) image)).onEng
            (fun e => { e with programs := mapDel e.programs (s.mgr.reached req) })
        else (s.mgr.entry (.lpImageWrite req image)).onDev (fun d => d.setBlob (ctxKey Obj.LP_IMAGE (s.mgr.reached req)) image)).answerWrite req 0)) ∧
  (∀ (s : State) (req : Req) (m : Manager) (c : Nat) (r : Nat × Nat), s.mgr.grants req Obj.LP_LOAD 1 → c = s.mgr.reached req →
    m = s.mgr.entry (.lpLoad req 1) → r = m.loadResult c (m.dev.blob (ctxKey Obj.LP_IMAGE c)) →
    exec (.lpLoad req 1) s = s.withMgr
      ((if r.1 = 0 then
          (((m.setObj (ctxKey Obj.LP_RESULT c) r.1).setObj (ctxKey Obj.LP_SHORT c) r.2).setObj (ctxKey Obj.LP_LOAD c) 2).onEng
            (fun e => { e with programs := mapSet e.programs c (parseProgram (m.dev.blob (ctxKey Obj.LP_IMAGE c))) })
        else ((m.setObj (ctxKey Obj.LP_RESULT c) r.1).setObj (ctxKey Obj.LP_SHORT c) r.2).setObj (ctxKey Obj.LP_LOAD c) 2).answerWrite req 0)) ∧
  (∀ (s : State) (req : Req), s.mgr.grants req Obj.LP_RUN 1 → mapGet s.mgr.eng.runs (s.mgr.reached req) = none →
    (s.mgr.ctx (s.mgr.reached req)).st = .active → exec (.lpRunStart req) s = s.withMgr
      ((if s.mgr.obj Obj.ENG_CELLS < 48 then ((s.mgr.entry (.lpRunStart req)).startRun (s.mgr.reached req) false).endAllLines (s.mgr.reached req) 7
        else (s.mgr.entry (.lpRunStart req)).startRun (s.mgr.reached req) false).answerWrite req 0)) ∧
  (∀ (s : State) (req : Req), s.mgr.grants req Obj.LP_RUN 2 → exec (.lpRunStop req) s = s.withMgr
    ((((s.mgr.entry (.lpRunStop req)).endAllLines (s.mgr.reached req) 6).drainCheck (s.mgr.reached req)).answerWrite req 0))

/-- The window closes on a snapshot, a computation takes it, and ends in a candidate. COALESCING_WINDOW_CLOSE: the open window
closes, the link table becomes the snapshot waiting, and queued carves are tried again. COMPUTATION_START: where no
computation is in progress and none must wait, the waiting snapshot is taken, a pending RB_CLEAR having cleared the
adjustments; with at most 4,096 exception endpoints a computation of the next number runs on it, one plate for each attested
switch that is not isolated; with more, none does. HOOK_TIMEOUT: a hook that has not completed OK stops, or does not start,
the entries of steps 4 to 6 are written again, event 0x103. COMPUTATION_COMPLETE: the computation ends, RT_LAST_IMP takes
its number, and its plates as step 7 left them, without switches isolated meanwhile, with their impression digest, become
the new candidate, whose digest a triad compares. PCOUNT_COMPLETE: path counting ends. WIDE_COMPLETE: the context leaves the
queue of WIDE and the trees of other contexts stay. The next state answered is given for COALESCING_WINDOW_CLOSE,
COMPUTATION_START, HOOK_TIMEOUT, COMPUTATION_COMPLETE, PCOUNT_COMPLETE, WIDE_COMPLETE. -/
def Obligations.ComputationsRun : Prop :=
  (∀ s : State, s.mgr.rt.window = true → ∀ m, m = s.mgr.entry .coalescingWindowClose →
    exec .coalescingWindowClose s = s.withMgr
      ({ m with rt := { m.rt with window := false, closed := some m.dev.time, waiting := some s.mgr.fab.links, snap := s.mgr.fab.links, snapSeq := m.red.applied } } : Manager).retryQueue) ∧
  (∀ (s : State) (ls : Links) (adj : SMap Nat), s.mgr.rt.waiting = some ls → s.mgr.rt.comp = none → s.mgr.compWaits ls = false →
    adj = (if s.mgr.obj Obj.RB_CLEAR = 1 then [] else s.mgr.rt.adj) →
    ∃ m, exec .computationStart s = s.withMgr m ∧ m.rt.waiting = none ∧ m.rt.adj = adj ∧ m.fab = s.mgr.fab ∧ m.inst = s.mgr.inst ∧
      (if 4096 < (routeAll (s.mgr.routeIn ls adj) s.mgr.epCtx).excs then m.rt.comp = none
       else ∃ c, m.rt.comp = some c ∧ c.snap = ls ∧ c.number = nextImp (s.mgr.obj Obj.IMP_COMMITTED) ∧
         c.plates.map (fun p => p.1) = s.mgr.impSwitches (switchesOf ls))) ∧
  (∀ (s : State) (c : Comp), s.mgr.rt.comp = some c → c.ran = true ∨ c.owes = true →
    (c.owes = false → ∀ st, c.ended = some st → st % 16 ≠ 0) →
    ∀ m, m = ((if c.owes || c.ended.isSome then s.mgr else s.mgr.endAllLines 0 6).storePlates c.number c.plates).event 0x103 0 →
    exec .hookTimeout s = s.withMgr { m with rt := { m.rt with comp := some { c with ran := false, owes := false } } }) ∧
  (∀ (s : State) (c : Comp) (left plates : SMap Plate), s.mgr.rt.comp = some c → s.mgr.hookLeft c = some left →
    plates = (c.plates.filter (fun p => !s.mgr.isolated p.1)).map (fun p => (p.1, renumber (hookCut (mapGetD left p.1 p.2) p.2).1 c.number (hookCut (mapGetD left p.1 p.2) p.2).1.seed)) →
    ∃ (n : Manager) (d : Cand), n.fab = s.mgr.fab ∧ n.inst = s.mgr.inst ∧ n.rt.comp = none ∧ n.rt.trees = s.mgr.rt.trees ∧
      d = { imp := { number := c.number, digest := impDigest c.number plates, plates := plates }, entry := c.entry, snap := c.snap, awaits := []
            adj := c.adj, lex := c.lex, trees := c.trees, closed := c.closed } ∧
      exec .computationComplete s = .next (judgeNew s.mgr { s with mgr := n.newCandidate d })) ∧
  (∀ (s : State) (n : Nat), s.mgr.rt.pcount = some n →
    (n ≠ s.mgr.obj Obj.IMP_COMMITTED → exec .pcountComplete s = s.withMgr { s.mgr with rt := { s.mgr.rt with pcount := none } }) ∧
    (n = s.mgr.obj Obj.IMP_COMMITTED → ∃ sw, exec .pcountComplete s =
      s.withMgr { s.mgr.stockSteps with rt := { s.mgr.rt with pcount := none, sw := sw } })) ∧
  (∀ (s : State) (ctx : Nat), s.mgr.rt.wide.contains ctx = true →
    ∃ m, exec (.wideComplete ctx) s = s.withMgr m ∧ m.rt.wide.contains ctx = false ∧ m.fab = s.mgr.fab ∧ m.sl = s.mgr.sl ∧
      (∀ t, t ∈ s.mgr.rt.trees → t.ctx ≠ ctx → t ∈ m.rt.trees))

/-- Loads are estimated, adjustments are kept and cleared, and an imbalance is measured. LOAD_PERIOD with LD_PERIOD_MS not 0 and
a granted LD_RUN start a LOAD run. LOAD_COMPLETE ends it: LD_RUN becomes 2 where it was 1, and no link entry changes but in
its LOAD field. REBAL_COMPLETE at the active leader keeps the adjustments found and asks for a computation without a window.
A granted RB_CLEAR clears re-seed counts and hot marks and is pending for the adjustments of the next computation.
IMBALANCE_WINDOW acts only at the active leader and leaves the link table alone. HOT_CLEAR clears the re-seed count and hot
mark of a switch below its threshold. The next state answered is given for LOAD_PERIOD, LD_RUN, LOAD_COMPLETE,
REBAL_COMPLETE, RB_CLEAR, IMBALANCE_WINDOW, HOT_CLEAR. -/
def Obligations.LoadsAndBalance : Prop :=
  (∀ s : State, s.mgr.obj Obj.LD_PERIOD_MS ≠ 0 → exec .loadPeriod s = s.withMgr
    { s.mgr.entry .loadPeriod with rt := { s.mgr.rt with load := true } }) ∧
  (∀ (s : State) (req : Req), s.mgr.grants req Obj.LD_RUN 1 → s.mgr.obj Obj.LD_RUN ≠ 1 → exec (.ldRun req 1) s = s.withMgr
    ((({ s.mgr.entry (.ldRun req 1) with rt := { s.mgr.rt with load := true } } : Manager).setObj Obj.LD_RUN 1).answerWrite req 0)) ∧
  (∀ s : State, s.mgr.rt.load = true → ∃ m, exec .loadComplete s = s.withMgr m ∧ m.rt = { s.mgr.rt with load := false } ∧
    m.fab.links.map (fun e => (e.1, { e.2 with load := 0 })) = s.mgr.fab.links.map (fun e => (e.1, { e.2 with load := 0 })) ∧
    m.fab.nodes = s.mgr.fab.nodes ∧ m.eng = s.mgr.eng ∧ m.sl = s.mgr.sl ∧ m.host = s.mgr.host) ∧
  (∀ s : State, s.mgr.rt.rebal = true → s.mgr.active = true → s.mgr.leads = true →
    ∃ (m : Manager) (best : SMap Nat), m.rt = { s.mgr.rt with adj := best, rebal := false } ∧ m.fab = s.mgr.fab ∧
      exec .rebalComplete s = s.withMgr m.wantNow) ∧
  (∀ (s : State) (req : Req), s.mgr.grants req Obj.RB_CLEAR 1 → s.mgr.obj Obj.RB_CLEAR ≠ 1 → exec (.rbClear req 1) s = s.withMgr
    ((({ s.mgr.entry (.rbClear req 1) with rt := { s.mgr.rt with
        sw := s.mgr.rt.sw.map (fun e => (e.1, { e.2 with reseeds := 0, hot := false, below := none })) } } : Manager).setObj Obj.RB_CLEAR 1).answerWrite req 0)) ∧
  (∀ s : State, s.mgr.active = true → s.mgr.leads = true →
    ∃ m, exec .imbalanceWindow s = s.withMgr m ∧ m.fab = s.mgr.fab ∧ m.sl = s.mgr.sl ∧ m.eng = s.mgr.eng ∧ m.inst = s.mgr.inst) ∧
  (∀ (s : State) (k : Nat), s.mgr.obj Obj.RB_HOT_CLEAR_S ≠ 0 → (mapGetD s.mgr.rt.sw k {}).below.isSome = true →
    exec (.hotClear k) s = s.withMgr { s.mgr.entry (.hotClear k) with rt := { s.mgr.rt with
      sw := mapSet s.mgr.rt.sw k { mapGetD s.mgr.rt.sw k {} with reseeds := 0, hot := false } } })

/-- A window measures the channels, a redraw is requested, and groups move to the new key. INTERLEAVE_WINDOW records the ratio
of the busiest channel to the mean in IL_IMBAL, at most 65535, and starts a redraw that is due and may start. The requests
of other traffic are the command's operand (assumption 95). A granted IL_REDRAW starts a redraw where one may start, waits
where it may not, and has no effect during a sweep. GROUP_MOVE moves one group; with the last, the new key replaces the old,
IL_SWEEP and IL_REDRAW return to 0 and IL_REDRAWS advances. The next state answered is given for INTERLEAVE_WINDOW,
IL_REDRAW, GROUP_MOVE. -/
def Obligations.InterleaveRedraws : Prop :=
  (∀ (s : State) (other : SMap Nat) (ratio n : Nat) (above : Bool) (m : Manager),
    ratio = chanRatio ((upTo 64).map (fun c => mapGetD s.mgr.eng.stk.chan c 0 + mapGetD other c 0)) →
    above = (decide (s.mgr.obj Obj.IL_RATIO ≠ 0) && Nat.ble (s.mgr.obj Obj.IL_RATIO) ratio) →
    n = (if above then s.mgr.eng.stk.above + 1 else 0) →
    m = (s.mgr.setObj Obj.IL_IMBAL (min ratio 65535)).onStk (fun k => { k with above := n, chan := [] }) →
    exec (.interleaveWindow other) s = s.withMgr
      (if (m.eng.stk.asked || (above && Nat.ble (max 1 (m.obj Obj.IL_WINDOWS)) n)) && m.mayRedraw then m.startRedraw else m)) ∧
  (∀ (s : State) (req : Req) (m : Manager), s.mgr.grants req Obj.IL_REDRAW 1 → m = s.mgr.entry (.ilRedraw req 1) →
    exec (.ilRedraw req 1) s = s.withMgr
      ((if s.mgr.eng.stk.next.isSome then m else if m.mayRedraw then m.startRedraw
        else m.onStk (fun k => { k with asked := true })).answerWrite req 0)) ∧
  (∀ (s : State) k, s.mgr.eng.stk.next = some k → exec .groupMove s = s.withMgr
    (if s.mgr.obj Obj.IL_SWEEP + 1 < 524288 then s.mgr.setObj Obj.IL_SWEEP (s.mgr.obj Obj.IL_SWEEP + 1)
     else (((s.mgr.setObj Obj.IL_SWEEP 0).setObj Obj.IL_REDRAW 0).bump Obj.IL_REDRAWS).onStk (fun x => { x with key := k, next := none })))

/-- The manager counts acknowledgements of stages, commits and isolations, and acts on their absence. STAGE_ACK taken with
status OK and the digest the manager holds: the switch is STAGED and no longer awaited, and the candidate commits when none
is. A status that is not OK is a failed attempt, and so is an attempt unanswered in time (STAGE_ATTEMPT_TIMEOUT). COMMIT_ACK
OK: the switch holds the impression; it is CURRENT unless it has been isolated meanwhile. COMMIT_RETRY repeats COMMIT to
those awaited. COMMIT_TIMEOUT: those silent are lost and isolated. ISOLATE_ACK ends the wait for a peer, ISOLATE_RETRY
repeats ISOLATE, ISOLATE_TIMEOUT declares silent peers lost. OLD_SIDE_RELEASE: the candidate is gone; with none draining,
the wait of an adoption's step 3 ends. IMP_FULL, IS_READMIT and IA_RESTORE granted have their effect and are answered OK.
The next state answered is given for STAGE_ACK, STAGE_ATTEMPT_TIMEOUT, COMMIT_ACK, COMMIT_RETRY, COMMIT_TIMEOUT,
ISOLATE_ACK, ISOLATE_RETRY, ISOLATE_TIMEOUT, OLD_SIDE_RELEASE, IMP_FULL, IS_READMIT, IA_RESTORE. -/
def Obligations.ManagerInstalls : Prop :=
  (∀ (s : State) (hdr : Hdr) (imp status detail sw : Nat) (digest : Digest) (m n : Manager) (c : Cand),
    s.mgr.takes stageFrame hdr → m = (s.mgr.after stageFrame hdr).entry (.stageAck hdr imp status detail digest) →
    sw = (s.mgr.after stageFrame hdr).switchOf hdr.src → status ≠ 2 → s.mgr.inst.cand = some c → s.mgr.inst.phase = 2 → c.imp.number = imp →
    c.awaits.contains sw = true →
    n = (if status = 1 ∨ (status = 3 ∧ detail ≠ 0xFFFFFFFF) ∨ status = 9 then
        (m.setSwInst sw { m.swInst sw with last := status }).swReports sw (detail % 2 ^ 32)
      else m.setSwInst sw { m.swInst sw with last := status }) →
    exec (.stageAck hdr imp status detail digest) s = s.withMgr
      (if status = 0 ∧ (mapGetD c.imp.plates sw {}).digest = digest then
        ({ n.setSwInst sw ((n.swInst sw).mark .staged) with inst := { (n.setSwInst sw ((n.swInst sw).mark .staged)).inst with
            cand := some { c with awaits := c.awaits.filter (fun k => k != sw) } } } : Manager).tryCommit.drainCmds
       else n.stageFailed sw (if status = 0 then 0x8001 else status))) ∧
  (∀ (s : State) (sw : Nat) (c : Cand), s.mgr.inst.cand = some c → s.mgr.inst.phase = 2 → c.awaits.contains sw = true →
    (s.mgr.node (s.mgr.agentOf sw)).stageHeld = none →
    exec (.stageAttemptTimeout sw) s = s.withMgr ((s.mgr.entry (.stageAttemptTimeout sw)).stageFailed sw 0x8000)) ∧
  (∀ (s : State) (hdr : Hdr) (imp detail sw : Nat) (field : Digest) (c : Cand), s.mgr.takes commitFrame hdr →
    sw = (s.mgr.after commitFrame hdr).switchOf hdr.src → s.mgr.inst.cand = some c → s.mgr.inst.phase = 4 → c.imp.number = imp →
    c.awaits.contains sw = true →
    ∃ m : Manager, exec (.commitAck hdr imp 0 detail field) s = s.withMgr m.checkDrain.drainCmds ∧
      (m.swInst sw).st = (if s.mgr.isolated sw then (s.mgr.swInst sw).st else .current) ∧ (m.swInst sw).committed = imp ∧ (m.node (m.agentOf sw)).plateValid = true ∧
      m.inst.cand = some { c with awaits := c.awaits.filter (fun k => k != sw) }) ∧
  (∀ (s : State) (c : Cand), s.mgr.inst.cand = some c → s.mgr.inst.phase = 4 → exec .commitRetry s = s.withMgr
    (c.awaits.foldl (fun m k => m.cmdAgent (m.agentOf k) (m.commitMsg c)) s.mgr)) ∧
  (∀ (s : State) (c : Cand) (m : Manager), s.mgr.inst.cand = some c → s.mgr.inst.phase = 4 → c.awaits.isEmpty = false →
    m = c.awaits.foldl (fun m k => m.loseSwitch k) (s.mgr.entry .commitTimeout) →
    exec .commitTimeout s = s.withMgr
      ({ m with inst := { m.inst with cand := some { c with awaits := [] } } } : Manager).wantNow.checkDrain) ∧
  (∀ (s : State) (hdr : Hdr) (nid : Nat) (m : Manager), s.mgr.takes commitFrame hdr → 0x20000 ≤ nid →
    m = s.mgr.after commitFrame hdr → exec (.isolateAck hdr nid 0) s = s.withMgr
      ((m.entry (.isolateAck hdr nid 0)).isoDone (nid - 0x20000) (m.switchOf hdr.src))) ∧
  (∀ (s : State) (k : Nat) (w : IsoWait), mapGet s.mgr.inst.isolating k = some w →
    exec (.isolateRetry k) s = s.withMgr (w.peers.foldl (fun m p => m.sendIsolate p k) s.mgr)) ∧
  (∀ (s : State) (k : Nat) (w : IsoWait), mapGet s.mgr.inst.isolating k = some w →
    exec (.isolateTimeout k) s = s.withMgr
      (w.peers.foldl (fun m p => m.isoDone k p) (w.peers.foldl (fun m p => m.loseSwitch p) (s.mgr.entry (.isolateTimeout k)))).wantNow) ∧
  (∀ s : State, s.mgr.inst.phase ≠ 5 → exec .oldSideRelease s = s.withMgr s.mgr.adoptDrained) ∧
  (∀ s : State, s.mgr.inst.phase = 5 → ∃ m, exec .oldSideRelease s = s.withMgr m ∧ m.inst.cand = none ∧ m.inst.phase = 0 ∧
    m.inst.again = false ∧ m.inst.committed = s.mgr.inst.committed ∧ m.eng = s.mgr.eng) ∧
  (∀ (s : State) (req : Req), s.mgr.grants req Obj.IMP_FULL 1 → s.mgr.obj Obj.DS_STATE = 4 → s.mgr.obj Obj.IMP_FULL ≠ 1 →
    exec (.impFull req 1) s = s.withMgr ((((s.mgr.entry (.impFull req 1)).setObj Obj.IMP_FULL 1).wantNow).answerWrite req 0)) ∧
  (∀ (s : State) (req : Req) (m : Manager), s.mgr.grants req Obj.IS_READMIT 1 → s.mgr.red.readmits.contains (s.mgr.obj Obj.SW_SEL) = false →
    m = s.mgr.entry (.isReadmit req 1) → exec (.isReadmit req 1) s = s.withMgr
      ((if m.isolated (m.obj Obj.SW_SEL) then (m.onRed (fun r => { r with readmits := insNat r.readmits (m.obj Obj.SW_SEL) })).joinLater else m).answerWrite req 0)) ∧
  (∀ (s : State) (req : Req) (a : ArchImp) (m : Manager) (plates : SMap Plate), s.mgr.grants req Obj.IA_RESTORE 1 → s.mgr.obj Obj.IA_RESTORE ≠ 1 →
    m = s.mgr.entry (.iaRestore req 1) → m.inst.archive.find? (fun a => a.imp.number == m.obj Obj.IA_SEL && a.available) = some a →
    a.imp.plates.all (restorable m.rt.snap) = true →
    plates = a.imp.plates.map (fun p => (p.1, renumber p.2 (nextImp (m.obj Obj.IMP_COMMITTED)) ((mapGetD m.rt.sw p.1 {}).seed.getD 0))) →
    exec (.iaRestore req 1) s = s.withMgr (((m.setObj Obj.IA_RESTORE 1).newCandidate
        { imp := { number := nextImp (m.obj Obj.IMP_COMMITTED), digest := impDigest (nextImp (m.obj Obj.IMP_COMMITTED)) plates, plates := plates }
          entry := m.red.applied, snap := m.rt.snap, awaits := [], restore := true }).answerWrite req 0)) ∧
  (∀ (s : State) (req : Req) (m : Manager), s.mgr.grants req Obj.IA_RESTORE 1 → s.mgr.obj Obj.IA_RESTORE ≠ 1 → m = s.mgr.entry (.iaRestore req 1) →
    m.inst.archive.find? (fun a => a.imp.number == m.obj Obj.IA_SEL && a.available) = none →
    exec (.iaRestore req 1) s = s.withMgr ((m.event 0x10A 0).answerWrite req 0))

/-- Carves are started, cancelled, placed and completed, and their key rounds acknowledged. CV_GO granted on a READY fabric with
no carve in PLACE commits group 1 and goes through steps 1 to 3. CV_CANCEL removes the queued carves of its tag with
CANCELLED. PLACE_COMPLETE: the carve chooses its endpoints around PLACE's centre. WAIT_EXPIRED: the first queued carve of a
tag whose wait has a limit completes WAIT_EXPIRED. KEY_ACK of role 1 taken is counted for its key round. SET_KEY_TIMEOUT:
members that had one attempt get a second; those that had two fail the carve's fit policy, or in a REJOIN are HELD.
CARVE_COMPLETE: a carved context installed and acknowledged becomes ACTIVE and its result is reported; then what members
lost meanwhile bring with them. The next state answered is given for CV_GO, CV_CANCEL, PLACE_COMPLETE, WAIT_EXPIRED,
KEY_ACK, SET_KEY_TIMEOUT, CARVE_COMPLETE. -/
def Obligations.CarvesAndKeys : Prop :=
  (∀ (s : State) (req : Req), s.mgr.grants req Obj.CV_GO 1 → s.mgr.obj Obj.DS_STATE = 4 → s.mgr.sl.placing = none →
    exec (.cvGo req 1) s = s.withMgr (((s.mgr.entry (.cvGo req 1)).goCarve).answerWrite req 0)) ∧
  (∀ (s : State) (req : Req) (tag : Nat) (m : Manager), s.mgr.grants req Obj.CV_CANCEL tag → m = s.mgr.entry (.cvCancel req tag) →
    exec (.cvCancel req tag) s = s.withMgr
      (((s.mgr.sl.queue.filter (fun q => q.req.tag == tag)).foldl (fun m q => m.dropQueued q 11) m).retryQueue.answerWrite req 0)) ∧
  (∀ (s : State) (p : PlaceWait) (m : Manager), s.mgr.sl.placing = some p → s.mgr.active = true → s.mgr.leads = true →
    m = s.mgr.stockSteps.putEntry { kind := .centre (s.mgr.placeFor p.req) } → m.sl.placing = some p →
    exec .placeComplete s = s.withMgr
      ((({ m with sl := { m.sl with placing := none } } : Manager).carveChoose p.req p.ctx (s.mgr.placeFor p.req)).retryIfFree p.ctx)) ∧
  (∀ (s : State) (tag : Nat) (q : QueuedCarve), s.mgr.sl.queue.find? (fun q => q.req.tag == tag && q.req.waitMs != 0) = some q →
    exec (.waitExpired tag) s = s.withMgr ((s.mgr.entry (.waitExpired tag)).dropQueued q 8).retryQueue) ∧
  (∀ (s : State) (hdr : Hdr) (ctx gen status : Nat), s.mgr.takes dictFrame hdr → exec (.keyAck hdr ctx gen 1 status) s = s.withMgr
    (((s.mgr.after dictFrame hdr).entry (.keyAck hdr ctx gen 1 status)).keyAcked hdr.src ctx gen status).drainCmds) ∧
  (∀ (s : State) (ctx : Nat) (m : Manager), (s.mgr.ctx ctx).st = .carving → (s.mgr.ctx ctx).rejoin = none →
    m = (s.mgr.entry (.setKeyTimeout ctx)).setCtx ctx { s.mgr.ctx ctx with setKeys := (secondTry (s.mgr.ctx ctx).setKeys).1 } →
    exec (.setKeyTimeout ctx) s = s.withMgr
      (((secondTry (s.mgr.ctx ctx).setKeys).2.1.foldl (fun m e => m.sendCmd e 1 0 0 (.setKey ctx (s.mgr.ctx ctx).gen 1 e)) m).membersFailed ctx
        (secondTry (s.mgr.ctx ctx).setKeys).2.2)) ∧
  (∀ (s : State) (ctx : Nat) (x : Ctx), x = s.mgr.ctx ctx → x.st = .carving → x.waiting = false → x.carve.isSome = true →
    x.installed = true → allAcked x.setKeys = true →
    ∃ m : Manager, (m.ctx ctx).st = .active ∧ (m.ctx ctx).carve = none ∧ (m.ctx ctx).setKeys = [] ∧ m.fab = s.mgr.fab ∧ m.eng = s.mgr.eng ∧
      exec (.carveComplete ctx) s = s.withMgr
        (if x.doomed then (m.carveDone x.tag x.outcome ctx).purgeStart ctx else ((m.carveDone x.tag x.outcome ctx).missing ctx).rejoinTry ctx)) ∧
  (∀ (s : State) (ctx : Nat) (r : RejoinSt) (m : Manager), (s.mgr.ctx ctx).st ≠ .carving → (s.mgr.ctx ctx).rejoin = some r →
    m = (s.mgr.entry (.setKeyTimeout ctx)).setCtx ctx { s.mgr.ctx ctx with rejoin := some { r with keys := (secondTry r.keys).1 } } →
    exec (.setKeyTimeout ctx) s = s.withMgr
      (((secondTry r.keys).2.2.foldl (fun m e => m.hold e (r.oldKeys ++ [pKey ctx (s.mgr.ctx ctx).gen]))
        ((secondTry r.keys).2.1.foldl (fun m e => m.sendCmd e 1 0 0 (.setKey ctx (s.mgr.ctx ctx).gen 1 e)) m)).rejoinDone ctx))

/-- A context drains, is purged step by step, rests in quarantine and is free again. CX_RELEASE 1 granted for an ACTIVE tenant
context puts it in DRAINING, and the purge starts at once with CX_DRAIN_MS 0 or no run. CX_RELEASE 2 starts the purge.
DRAIN_TIMEOUT starts it from DRAINING. PURGE_TAGS_RETURNED with no tag of the context left: its cell SRAM and DRAM read 0,
it holds no cells, and its DRAM waits to be zeroed. REVOKE_TIMEOUT repeats REVOKE or holds the member. VF_RESET unbinds the
function. PURGE_COMPLETE ends the purge where its steps have ended. QUARANTINE_EXPIRE frees the context. DRAM_PAGE_ZEROED
returns what waits to the pool. CONFIDENTIAL_REPLY_RELEASE delivers a held reply; a proxied one not ready passes to the next
instant. The next state answered is given for CX_RELEASE_DRAIN, CX_RELEASE_PURGE, DRAIN_TIMEOUT, PURGE_TAGS_RETURNED,
REVOKE_TIMEOUT, VF_RESET, PURGE_COMPLETE, QUARANTINE_EXPIRE, DRAM_PAGE_ZEROED, CONFIDENTIAL_REPLY_RELEASE. -/
def Obligations.ReleaseAndPurge : Prop :=
  (∀ (s : State) (req : Req) (c : Nat) (m : Manager), c = s.mgr.reached req → c ≠ 0 → s.mgr.grants req Obj.CX_RELEASE 1 →
    (s.mgr.ctx c).st = .active → m = ((s.mgr.entry (.cxReleaseDrain req)).enter c .draining).raiseCtx c 1 →
    exec (.cxReleaseDrain req) s = s.withMgr ((if m.obj Obj.CX_DRAIN_MS = 0 then m.purgeStart c else m.drainCheck c).answerWrite req 0)) ∧
  (∀ (s : State) (req : Req), s.mgr.reached req ≠ 0 → s.mgr.grants req Obj.CX_RELEASE 2 →
    exec (.cxReleasePurge req) s = s.withMgr (((s.mgr.entry (.cxReleasePurge req)).purgeStart (s.mgr.reached req)).answerWrite req 0)) ∧
  (∀ (s : State) (ctx : Nat), (s.mgr.ctx ctx).st = .draining →
    exec (.drainTimeout ctx) s = s.withMgr ((s.mgr.entry (.drainTimeout ctx)).purgeStart ctx)) ∧
  (∀ (s : State) (ctx : Nat) (p : PurgeSt), (s.mgr.ctx ctx).purge = some p → p.tags = false →
    s.mgr.eng.tags.any (fun t => t.2.ctx == ctx) = false →
    ∃ m, exec (.purgeTagsReturned ctx) s = s.withMgr m ∧ (m.ctx ctx).cells = [] ∧ (m.ctx ctx).purge = some { p with tags := true } ∧
      m.sl.zeroing = s.mgr.sl.zeroing + (s.mgr.ctx ctx).dramMib ∧
      (∀ ph i, ph < 68 → i < 2 ^ 44 → memRead m.eng.mem (sramAddr ph ctx 0 + i) = 0) ∧
      (∀ i, i < 2 ^ 40 → memRead m.eng.mem (dramAddr ctx 0 + i) = 0) ∧
      (∀ a, (∀ ph, ph < 68 → a < sramAddr ph ctx 0 ∨ sramAddr ph ctx 0 + 2 ^ 44 ≤ a) →
        (a < dramAddr ctx 0 ∨ dramAddr ctx 0 + 2 ^ 40 ≤ a) → memRead m.eng.mem a = memRead s.mgr.eng.mem a)) ∧
  (∀ (s : State) (ctx : Nat) (p : PurgeSt) (m : Manager), (s.mgr.ctx ctx).purge = some p →
    m = (s.mgr.entry (.revokeTimeout ctx)).setCtx ctx { s.mgr.ctx ctx with purge := some { p with revoke := (secondTry p.revoke).1 } } →
    exec (.revokeTimeout ctx) s = s.withMgr ((secondTry p.revoke).2.2.foldl (fun m e => m.hold e p.oldKeys)
      ((secondTry p.revoke).2.1.foldl (fun m e => m.sendCmd e 1 0 0 (.revoke ctx (((s.mgr.ctx ctx).gen + 255) % 256) 1 e)) m))) ∧
  (∀ (s : State) (ctx : Nat) (p : PurgeSt), (s.mgr.ctx ctx).purge = some p →
    ∃ m, exec (.vfReset ctx) s = s.withMgr m ∧ (m.ctx ctx).vf = 0 ∧ (m.ctx ctx).purge = some { p with vfDone := true } ∧
      m.fab = s.mgr.fab ∧ m.inst = s.mgr.inst) ∧
  (∀ (s : State) (ctx : Nat), exec (.purgeComplete ctx) s = s.withMgr ((s.mgr.entry (.purgeComplete ctx)).purgeEnd ctx)) ∧
  (∀ (s : State) (ctx : Nat), (s.mgr.ctx ctx).st = .quarantine →
    exec (.quarantineExpire ctx) s = s.withMgr ((s.mgr.entry (.quarantineExpire ctx)).freeCtx ctx).retryQueue) ∧
  (∀ (s : State) (mib : Nat) (m : Manager), m = s.mgr.entry (.dramPageZeroed mib) →
    exec (.dramPageZeroed mib) s = s.withMgr
      (({ m with sl := { s.mgr.sl with zeroing := s.mgr.sl.zeroing - min mib s.mgr.sl.zeroing } } : Manager).setObj Obj.CX_DRAM_FREE_MIB
        (m.obj Obj.CX_DRAM_FREE_MIB + min mib s.mgr.sl.zeroing))) ∧
  (∀ (s : State) (req : Req) (a : Answer) (m : Manager), s.mgr.host.held.find? (fun a => a.req == req) = some a →
    m = (if s.mgr.host.late.contains req then s.mgr.bump Obj.CF_OVERRUN else s.mgr) →
    exec (.confidentialReplyRelease req) s = s.withMgr { m with host := { m.host with
      held := m.host.held.filter (fun x => x.req != req), late := m.host.late.filter (fun r => r != req), answers := m.host.answers ++ [a] } }) ∧
  (∀ (s : State) (req : Req), s.mgr.host.held.find? (fun a => a.req == req) = none → s.mgr.host.proxied.any (fun p => p.req == req) = true →
    s.mgr.host.late.contains req = false →
    exec (.confidentialReplyRelease req) s = s.withMgr { s.mgr with host := { s.mgr.host with late := s.mgr.host.late ++ [req] } })

/-- An agent assembles, installs and acknowledges stages, flips on COMMIT and sets its failover mask on ISOLATE. STAGE under the
highest pair: a whole header with parsable records joins the assembly. STAGE_NODE_WRITES_DONE: the stage's table writes are
issued; WRITE_STATUS 0 answers OK with the plate digest; else NODE_WRITE with the count, and the side is unknown; then the
stages that waited are taken. STAGE_ASSEMBLY_TIMEOUT discards the assembly unanswered. COMMIT of the staged number, staged
under the highest pair, flips and answers OK; of the committed number it answers OK; of an older one NOT_NEWER; each takes
the frame's drain time. ISOLATE sets F for the ports, records the event and answers OK. The next state answered is given for
STAGE, STAGE_NODE_WRITES_DONE, STAGE_ASSEMBLY_TIMEOUT, COMMIT, ISOLATE. -/
def Obligations.AgentTakesStages : Prop :=
  (∀ (s : State) (die : Nat) (hdr : Hdr) (payload : List Byte) (a : Agent) (h : StageHdr) (r : List StageRec), (s.agent die).takes stageCmd hdr none →
    a = (s.agent die).after stageCmd hdr none → a.accepts hdr = true → parseStageHdr payload = .ok h →
    stageRecs h payload = .ok r → exec (.stage die hdr payload) s = s.withAgent die (a.fragment h payload)) ∧
  (∀ (s : State) (die status : Nat) (a b : Agent) (x : StagePend), a = s.agent die → a.store.pend = some x → a.runs = true →
    b = ({ a with store := { a.store with pend := none } } : Agent).issue →
    exec (.stageNodeWritesDone die status) s = s.withAgent die (Agent.nextStages b.store.whole
      (if status % 2 ^ 16 = 0 then
        ({ b with store := { b.store with stagedBy := some (x.claim, x.from_) } } : Agent).toMgr (.stageAck x.imp 0 0 x.plate.digest)
       else (({ b with node := { b.node with unknown := insNat b.node.unknown (x.imp % 2) } } : Agent).onDev
          (fun d => d.bumpBy Obj.AG_WRITE_ERRS (status % 2 ^ 16))).toMgr (.stageAck x.imp 7 status 0)))) ∧
  (∀ (s : State) (die : Nat) (a : Agent), a = s.agent die → a.runs = true →
    exec (.stageAssemblyTimeout die) s = s.withAgent die { a with store := { a.store with asm := none } }) ∧
  (∀ (s : State) (die : Nat) (hdr : Hdr) (imp drain c : Nat) (digest : Digest) (a : Agent), (s.agent die).takes commitCmd hdr none →
    a = (s.agent die).after commitCmd hdr none → c = a.obj Obj.AG_COMMITTED → a.accepts hdr = true →
    (imp ≠ c → newer imp c = true → a.store.stagedBy = some a.pair ∧ a.obj Obj.AG_STAGED = imp) →
    exec (.commit die hdr imp drain digest) s = s.withAgent die
      (let b := a.setObj Obj.AP_DRAIN_US drain
       if imp = c then b.toMgr (.commitAck imp 0 0 b.flipField)
       else if newer imp c then (b.flip imp drain digest).toMgr (.commitAck imp 0 0 (b.flip imp drain digest).flipField)
       else b.toMgr (.commitAck imp 1 c 0))) ∧
  (∀ (s : State) (die : Nat) (hdr : Hdr) (imp nid : Nat) (ports : Ports) (a : Agent), (s.agent die).takes commitCmd hdr none →
    a = (s.agent die).after commitCmd hdr none → a.accepts hdr = true →
    exec (.isolate die hdr imp nid ports) s = s.withAgent die (((a.writeF (a.node.fmask ||| ports)).eventOf 0x109 0 [nid, imp]).toMgr (.isolateAck nid 0)))

/-- An agent records and removes partition keys and acknowledges each key command. SET_KEY under the highest pair records the
context's entry, a member entry replacing every other member entry, and queues the PKEY write where the node takes the key,
else answers at once. REVOKE removes the entry of that role and generation only; where the node takes the key and no member
entry is left it queues key 0, beside another it waits for a PKEY write that is queued. PKEY_WRITE_COMPLETE writes the key
to the node and acknowledges every command it serves, with NODE_WRITE where it was rejected. The next state answered is
given for SET_KEY, REVOKE, PKEY_WRITE_COMPLETE. -/
def Obligations.AgentTakesKeys : Prop :=
  (∀ (s : State) (die : Nat) (hdr : Hdr) (ctx gen role nid : Nat) (a b : Agent), (s.agent die).takes dictCmd hdr none →
    a = (s.agent die).after dictCmd hdr none → a.accepts hdr = true → (role = 1 ∨ role = 2) → nid < 2 ^ 18 →
    b = { a with ptable := mapSet (if role = 1 then mapFilter a.ptable (fun c e => e.role != 1 || c == ctx) else a.ptable) ctx
                  { role := role, gen := gen, key := pKey ctx gen } } →
    exec (.setKey die hdr ctx gen role nid) s = s.withAgent die
      (if b.writesKey role then b.queueKey (pKey ctx gen) { ctx := ctx, gen := gen, role := role, dst := hdr.src }
       else b.sendMgr hdr.src (.keyAck ctx gen role 0))) ∧
  (∀ (s : State) (die : Nat) (hdr : Hdr) (ctx gen role nid : Nat) (a : Agent), (s.agent die).takes dictCmd hdr none →
    a = (s.agent die).after dictCmd hdr none → a.accepts hdr = true → (role = 1 ∨ role = 2) → nid < 2 ^ 18 →
    (∀ e, mapGet a.ptable ctx = some e → e.role ≠ role ∨ e.gen ≠ gen) →
    exec (.revoke die hdr ctx gen role nid) s = s.withAgent die
      (if a.writesKey role = false then a.sendMgr hdr.src (.keyAck ctx gen role 0)
       else if a.member.isNone then a.queueKey 0 { ctx := ctx, gen := gen, role := role, dst := hdr.src }
       else a.afterKey { ctx := ctx, gen := gen, role := role, dst := hdr.src })) ∧
  (∀ (s : State) (die : Nat) (hdr : Hdr) (ctx gen nid : Nat) (a : Agent) (e : PartEntry), (s.agent die).takes dictCmd hdr none →
    a = (s.agent die).after dictCmd hdr none → a.accepts hdr = true → nid < 2 ^ 18 → mapGet a.ptable ctx = some e → e.role = 2 → e.gen = gen →
    exec (.revoke die hdr ctx gen 2 nid) s = s.withAgent die
      ((({ a with ptable := mapDel a.ptable ctx } : Agent).dropGroup ctx).sendMgr hdr.src (.keyAck ctx gen 2 0))) ∧
  (∀ (s : State) (die : Nat) (rejected : Bool) (a b : Agent) (key : Nat) (l : List KeyPend), a = s.agent die → a.keyQ = some (key, l) → a.runs = true →
    b = (if rejected then (({ a with keyQ := none } : Agent).write [.pkey key]).bump Obj.AG_WRITE_ERRS else ({ a with keyQ := none } : Agent).write [.pkey key]) →
    exec (.pkeyWriteComplete die rejected) s = s.withAgent die
      (l.foldl (fun a p => a.sendMgr p.dst (.keyAck p.ctx p.gen p.role (if rejected then 1 else 0))) b))

/-- Node firmware's publications, saves and messages are taken, the next queued message is posted, and the agent resets.
DESC_PUBLISH and LT_SAVE write the area, LT_SAVE's while the node port is up, and run the NODE_CTL command. LT_SAVE_DEFERRED
saves the area as it stands where a save waits. A message that its mailbox accepts has its effect: NODE_DOORBELL none but
the mailbox's own; NODE_LOG a record; TELEMETRY_SAMPLE the latest values; NEIGHBOUR_REPORT the neighbour table; HOST_REPLY
the reply of the last HOST_MSG. NODE_MESSAGE_TAKEN with code 0: the posted message of mailbox 4 leaves, its alive counter
and MX_SENT advance, MB_ACK shows TAKEN, DONE and the counter, and the next queued one is posted. AGENT_RESET resets the
agent with its cause. The next state answered is given for DESC_PUBLISH, LT_SAVE, LT_SAVE_DEFERRED, NODE_DOORBELL, NODE_LOG,
TELEMETRY_SAMPLE, NEIGHBOUR_REPORT, HOST_REPLY, NODE_MESSAGE_TAKEN, AGENT_RESET. -/
def Obligations.AgentServesItsNode : Prop :=
  (∀ (s : State) (die : Nat) (desc : List Byte) (ok : Bool), (s.agent die).hears = true → exec (.descPublish die desc ok) s = s.withAgent die
    (({ s.agent die with node := { (s.agent die).node with descArea := desc } } : Agent).nodeCtl 4 (fun a => a.publish ok))) ∧
  (∀ (s : State) (die : Nat) (area : List Byte), (s.agent die).hears = true → exec (.ltSave die area) s = s.withAgent die
    (((s.agent die).writeLt area).nodeCtl 5 Agent.ltSave)) ∧
  (∀ (s : State) (die : Nat) (area : List Byte), (s.agent die).hears = true → (s.agent die).node.ltWants = true → (s.agent die).runs = true →
    exec (.ltSaveDeferred die area) s = s.withAgent die ((s.agent die).writeLt area).saveLt) ∧
  (∀ (s : State) (die h chk : Nat) (data : List Byte) (r : Agent × Nat), (s.agent die).hears = true → (s.agent die).runs = true →
    (mapGetD (s.agent die).node.inBoxes 0 {}).held = none → r = ((s.agent die).putMessage 0 h data chk).receive 0 (h, data, chk) (formCode 0) → r.2 = 0 →
    (bitsOf h 23 16 = 0 → exec (.nodeDoorbell die h data chk) s = s.withAgent die r.1) ∧
    (bitsOf h 23 16 = 1 → exec (.nodeLog die h data chk) s = s.withAgent die (r.1.logMessage (data.take (h % 64))))) ∧
  (∀ (s : State) (die h chk : Nat) (data : List Byte) (r : Agent × Nat), (s.agent die).hears = true → (s.agent die).runs = true →
    (mapGetD (s.agent die).node.inBoxes 1 {}).held = none → r = ((s.agent die).putMessage 1 h data chk).receive 1 (h, data, chk) (formCode 1) → r.2 = 0 →
    (fieldAt (data.take (h % 64)) 0 1 ≠ 1 → exec (.telemetrySample die h data chk) s = s.withAgent die (r.1.sample (data.take (h % 64)))) ∧
    (fieldAt (data.take (h % 64)) 0 1 = 1 → exec (.neighbourReport die h data chk) s = s.withAgent die (r.1.neighbourReport (data.take (h % 64))))) ∧
  (∀ (s : State) (die h chk : Nat) (data : List Byte) (r : Agent × Nat), (s.agent die).hears = true → (s.agent die).runs = true →
    (mapGetD (s.agent die).node.inBoxes 2 {}).held = none → r = ((s.agent die).putMessage 2 h data chk).receive 2 (h, data, chk) (formCode 2) → r.2 = 0 →
    exec (.hostReply die h data chk) s = s.withAgent die (r.1.hostReply (data.take (h % 64)))) ∧
  (∀ (s : State) (die : Nat) (a : Agent) (b c : OutBox) (x : Nat × List Byte), a = s.agent die → b = mapGetD a.node.outBoxes 4 {} → b.posted = some x →
    c = { b with posted := none, alive := (b.alive + 1) % 256, ack := 2 ^ 31 + 2 ^ 30 + bitsOf b.hdr 31 24 } →
    exec (.nodeMessageTaken die 4 0) s = s.withAgent die
      (((({ a with node := { a.node with outBoxes := mapSet a.node.outBoxes 4 c } } : Agent).bump Obj.MX_SENT).postNext 4).tellLost)) ∧
  (∀ (s : State) (die cause : Nat), exec (.agentReset die cause) s = s.withAgent die
    ((s.agent die).reset (if (s.agent die).link.lowSupply then 0 else cause)))

/-- An agent acts on bad and good ports, on acknowledgements and on withdraws. WATCH_PORT_BAD and WATCH_PORT_GOOD: a watched
input of a port finds it bad, or no longer does. LINK_MSG good or bad likewise. EVENT_ACK taken ends the repetition of its
report. REPORT_RETRY repeats every unacknowledged report. WITHDRAW taken has its effect on F. FIELD_PORT_CHANGE of the port
in use sends a TIMED_REPLY so that the network relearns. The next state answered is given for WATCH_PORT_BAD,
WATCH_PORT_GOOD, LINK_MSG, EVENT_ACK, REPORT_RETRY, WITHDRAW, FIELD_PORT_CHANGE. -/
def Obligations.AgentReportsPorts : Prop :=
  (∀ (s : State) (die i p : Nat), (s.agent die).link.held = false → (s.agent die).inputPort i = some p → exec (.watchPortBad die i) s = s.withAgent die
    (((s.agent die).setLevel i true).watchPort p (fun w => { w with inputs := insNat w.inputs i }))) ∧
  (∀ (s : State) (die i p port : Nat) (ep : Bool), (s.agent die).inputPort i = some p → exec (.watchPortGood die (some i) ep port) s = s.withAgent die
    (((s.agent die).setLevel i false).watchPort p (fun w => { w with inputs := w.inputs.filter (fun k => k != i) }))) ∧
  (∀ (s : State) (die port : Nat) (ep : Bool), exec (.watchPortGood die none ep port) s = s.withAgent die
    ((s.agent die).watchPort (portNo ep port) (fun w => if w.goods then { w with msg := false, goods := false } else w))) ∧
  (∀ (s : State) (die port : Nat) (ep : Bool), (s.agent die).hears = true →
    exec (.linkMsg die ep port false) s = s.withAgent die
      ((s.agent die).watchPort (portNo ep port) (fun w => { w with msg := true, goods := false })) ∧
    exec (.linkMsg die ep port true) s = s.withAgent die
      ((s.agent die).watchPort (portNo ep port) (fun w => if w.msg then
        { w with msg := !decide ((s.agent die).obj Obj.AP_GOOD_MS = 0), goods := !decide ((s.agent die).obj Obj.AP_GOOD_MS = 0) } else w))) ∧
  (∀ (s : State) (die type report : Nat) (hdr : Hdr), (s.agent die).takes withdrawFrame hdr (some (.eventAck type report)) →
    exec (.eventAck die hdr type report) s = s.withAgent die
      (((s.agent die).after withdrawFrame hdr (some (.eventAck type report))).onEventAck type report)) ∧
  (∀ (s : State) (die : Nat), (s.agent die).runs = true → exec (.reportRetry die) s = s.withAgent die
    ((s.agent die).rep.unacked.foldl (fun a r => a.toMgr r.msg) (s.agent die))) ∧
  (∀ (s : State) (die imp nid port : Nat) (dests : List Nat) (hdr : Hdr), (s.agent die).takes withdrawFrame hdr (some (.withdraw imp nid port dests)) →
    exec (.withdraw die hdr imp nid port dests) s = s.withAgent die
      (((s.agent die).after withdrawFrame hdr (some (.withdraw imp nid port dests))).onWithdraw imp nid dests.length)) ∧
  (∀ (s : State) (die port state : Nat) (a : Agent), (s.agent die).hears = true → (s.agent die).link.refLost = false → (s.agent die).runs = true →
    a = (s.agent die).onDev (fun d => { d with net := { d.net with ports := mapSet d.net.ports port (portWord state) } }) →
    a.dev.txPort ≠ (s.agent die).dev.txPort → a.dev.txPort.isSome = true → a.dev.net.nid ≠ nidNone →
    exec (.fieldPortChange die port state) s = s.withAgent die (a.timedReply a.home a.link.lastT.1 a.link.lastT.2))

/-- The manager acts on link events, resets, losses and readmissions. A report joins the queue of reports, is counted as dropped
where 65,536 are held, and waits where it does not leave the queue at once; acted on, for LINK_EVENT of a known link: the
link goes bad or good. NEIGHBOUR of an attested agent is kept and the gate is looked at again unless it says nothing new.
MEMBER_ACK: the sender is no longer awaited. MEMBER_LOST_RETRY repeats to those awaited. EP_RESET: the node is gone and
member loss applies. NODE_READY without a fence or REJOIN: READY goes to the peers. NODE_LOST of a switch: its store is
invalid and it is isolated. EP_READMIT of a fenced ready endpoint readmits it. LK_READMIT of an ADMIN_DOWN link returns its
ends to PROBING with no flap counted, a snapshot change. RS_COMMIT commits the limits and delivers them. The next state
answered is given for LINK_EVENT, NEIGHBOUR, MEMBER_ACK, MEMBER_LOST_RETRY, EP_RESET, NODE_READY, RESET_REQ, NODE_LOST,
EP_READMIT, LK_READMIT, RS_COMMIT. -/
def Obligations.ManagerTakesFaultReports : Prop :=
  (∀ (s : State) (hdr : Hdr) (nid port report time : Nat) (ep good wait : Bool) (m : Manager), s.mgr.takes withdrawFrame hdr →
    m = s.mgr.after withdrawFrame hdr → m.active = true → m.leads = true →
    (65536 ≤ m.repQ.length → exec (.linkEvent hdr nid port ep good report time wait) s = s.withMgr (m.bump Obj.FR_DROPPED)) ∧
    (m.repQ.length < 65536 → wait = true → exec (.linkEvent hdr nid port ep good report time wait) s = s.withMgr
      (({ m with repQ := m.repQ ++ [.linkEvent hdr nid port ep good report time false] } : Manager).setObj Obj.FR_Q_DEPTH
        (max (m.obj Obj.FR_Q_DEPTH) (m.repQ.length + 1))))) ∧
  (∀ (s : State) (hdr : Hdr) (nid port report time i : Nat) (ep good : Bool) (w : Window) (m : Manager), s.mgr.canReport withdrawFrame hdr →
    takeNumber (mapGet s.mgr.rcv.reports hdr.src) report = some w →
    m = (s.mgr.reported1 withdrawFrame hdr 0x21 report w).entry (.linkEvent hdr nid port ep good report time false) →
    m.reported nid port ep = some i →
    exec (.linkEvent hdr nid port ep good report time false) s = s.withMgr (if good then m.linkGood i else m.linkBad i)) ∧
  (∀ (s : State) (hdr : Hdr) (peerNode peerPort port : Nat) (peerEp ep : Bool) (m : Manager) (n : NodeInfo), s.mgr.takes dictPlain hdr →
    m = s.mgr.after dictPlain hdr → mapGet s.mgr.fab.nodes hdr.src = some n → m.disc.nbr n.die (portNo ep port) = none →
    exec (.neighbour hdr peerNode peerPort peerEp port ep) s = s.withMgr
      (((m.entry (.neighbour hdr peerNode peerPort peerEp port ep)).takeNeighbour n.die (portNo ep port)
        { node := peerNode, port := peerPort, ep := peerEp }).touchGate.pump)) ∧
  (∀ (s : State) (hdr : Hdr) (ctx gen nid : Nat) (m : Manager), s.mgr.takes withdrawFrame hdr →
    m = (s.mgr.after withdrawFrame hdr).entry (.memberAck hdr ctx gen nid) →
    exec (.memberAck hdr ctx gen nid) s = s.withMgr { m with rcv := { s.mgr.rcv with
      losses := (s.mgr.rcv.losses.map (fun l =>
        if l.ctx = ctx ∧ l.gen = gen ∧ l.nid = nid then { l with awaits := l.awaits.filter (fun k => k != hdr.src) } else l)).filter
          (fun l => !l.awaits.isEmpty) } }) ∧
  (∀ s : State, s.mgr.active = true → s.mgr.leads = true → exec .memberLostRetry s = s.withMgr
    (s.mgr.rcv.losses.foldl (fun m l => l.awaits.foldl (fun m e => m.sendAgent e (.memberLost l.nid l.cause l.ctx l.gen l.resets l.time)) m) s.mgr)) ∧
  (∀ (s : State) (hdr : Hdr) (nid cause resets report time : Nat) (w : Window) (m : Manager), s.mgr.canReport withdrawFrame hdr →
    takeNumber (mapGet s.mgr.rcv.reports hdr.src) report = some w → cause ≠ 4 →
    m = (s.mgr.reported1 withdrawFrame hdr 0x24 report w).entry (.epReset hdr nid cause resets report time false) →
    exec (.epReset hdr nid cause resets report time false) s = s.withMgr
      ((m.setNode nid { m.node nid with gone := true, resets := resets }).memberLoss nid cause resets time false)) ∧
  (∀ (s : State) (hdr : Hdr) (nid report : Nat) (w : Window) (m : Manager), s.mgr.canReport dictPlain hdr →
    takeNumber (mapGet s.mgr.rcv.reports hdr.src) report = some w →
    m = ((s.mgr.reported1 dictPlain hdr 0x36 report w).entry (.nodeReady hdr nid report false)).endDetour nid →
    (m.node nid).fenced = false → (m.ctx (m.epCtx nid)).rejoin = none →
    exec (.nodeReady hdr nid report false) s = s.withMgr (m.announceReady nid)) ∧
  (∀ (s : State) (hdr : Hdr) (nid switch report : Nat) (w : Window) (m : Manager), s.mgr.canReport dictPlain hdr →
    takeNumber (mapGet s.mgr.rcv.reports hdr.src) report = some w → 0x20000 ≤ switch →
    m = (s.mgr.reported1 dictPlain hdr 0x39 report w).entry (.resetReq hdr nid switch report false) →
    s.mgr.sl.queue = [] → ∃ n : Manager, exec (.resetReq hdr nid switch report false) s = s.withMgr n ∧
      mapGet n.inst.detour nid = some s.mgr.dev.time ∧ n.rt.waiting = some n.fab.links ∧
      (∀ i, i ∈ entriesOf m.fab.links (switch - 0x20000) → (linkOf n.fab.links i).st = .adminDown ∨ (linkOf n.fab.links i).st = .absent)) ∧
  (∀ (s : State) (hdr : Hdr) (nid report time : Nat) (w : Window) (m : Manager), s.mgr.canReport withdrawFrame hdr →
    takeNumber (mapGet s.mgr.rcv.reports hdr.src) report = some w → 0x20000 ≤ nid →
    m = ((s.mgr.reported1 withdrawFrame hdr 0x27 report w).entry (.nodeLost hdr nid report time false)).eventOf 0x185 0 [nid] →
    exec (.nodeLost hdr nid report time false) s = s.withMgr
      (((m.setNode hdr.src { m.node hdr.src with plateValid := false }).isolate (nid - 0x20000) .excluded).touchGate.wantNow)) ∧
  (∀ (s : State) (req : Req) (m : Manager), s.mgr.grants req Obj.EP_READMIT 1 → m = s.mgr.entry (.epReadmit req 1) →
    (s.mgr.node (s.mgr.obj Obj.EP_SEL)).fenced = true → (s.mgr.node (s.mgr.obj Obj.EP_SEL)).gone = false →
    (s.mgr.node (s.mgr.obj Obj.EP_SEL)).readmit = false →
    exec (.epReadmit req 1) s = s.withMgr ((m.readmitEp (s.mgr.obj Obj.EP_SEL)).answerWrite req 0)) ∧
  (∀ (s : State) (req : Req) (i : Nat) (m : Manager), s.mgr.grants req Obj.LK_READMIT 1 → i = s.mgr.obj Obj.LK_SEL →
    m = (bothEnds s.mgr.fab.links i).foldl (fun m j => match mapGet m.fab.links j with
      | some l => { m with fab := { m.fab with links := mapSet m.fab.links j { l with flapTimes := [] } } }
      | none => m) (s.mgr.entry (.lkReadmit req 1)) → (linkOf m.fab.links i).st = .adminDown →
    exec (.lkReadmit req 1) s = s.withMgr
      (((((bothEnds s.mgr.fab.links i).filter (fun j => decide ((linkOf m.fab.links j).st = .adminDown))).foldl (fun m j => m.putState j .probing)
        m).openWindow.touchGate.tryUp i).retryQueue.answerWrite req 0)) ∧
  (∀ (s : State) (req : Req) (m : Manager), s.mgr.grants req Obj.RS_COMMIT 1 → s.mgr.obj Obj.RS_COMMIT ≠ 1 →
    m = ((s.mgr.entry (.rsCommit req 1)).onDev (fun d => d.commitObjs escalationKeys)).deliverAll →
    exec (.rsCommit req 1) s = s.withMgr ((if m.rcv.delivering.isEmpty then m else m.setObj Obj.RS_COMMIT 1).answerWrite req 0))

/-- An agent detects resets of its node and takes the frames of recovery. ENDPOINT_RESET_DETECT, RESET_NOTICE and NODE_LINK_DOWN
at an endpoint detect a reset; at a switch a link down is only noted, and 1 ms later NODE_LOST_TIMEOUT sends NODE_LOST.
NODE_CTL READY and RESET_REQ run their commands. RESET_GRANT for its own NID grants. DETOUR_TIMEOUT grants what was asked.
GONE and MEMBER_LOST are taken. NODE_HB starts the watchdog; NODE_HB_TIMEOUT at a switch records 0x184. RESET_FENCE_RELEASE
releases the reset fence. READY clears the endpoint from the gone list, REJOINED tries to release the fences,
MEMBER_REJOINED is posted. The next state answered is given for ENDPOINT_RESET_DETECT, RESET_NOTICE, NODE_LINK_DOWN,
NODE_LOST_TIMEOUT, NODE_CTL_READY, RESET_REQ_NODE, RESET_GRANT, DETOUR_TIMEOUT, NODE_HB, NODE_HB_TIMEOUT,
RESET_FENCE_RELEASE, GONE, READY, MEMBER_LOST_RECEIVE, MEMBER_REJOINED, REJOINED. -/
def Obligations.AgentSeesResets : Prop :=
  (∀ (s : State) (die i : Nat), (s.agent die).link.held = false → (s.agent die).watchOf i % 8 = 2 → bitOf ((s.agent die).obj Obj.WF_ENABLE) i = true →
    exec (.endpointResetDetect die i) s = s.withAgent die (((s.agent die).setLevel i true).nodeReset 0 true)) ∧
  (∀ (s : State) (die : Nat), exec (.resetNotice die) s = s.withAgent die (((s.agent die).nodeReset 0 false).nodeCtl 2 id)) ∧
  (∀ (s : State) (die : Nat) (a : Agent), a = { s.agent die with node := { (s.agent die).node with linkDown := some (s.agent die).dev.time, lostSent := false } } →
    exec (.nodeLinkDown die) s = s.withAgent die (if a.isEndpoint then a.nodeReset 0 true else a)) ∧
  (∀ (s : State) (die : Nat) (a : Agent), a = s.agent die → a.node.linkDown.isSome = true → a.node.lostSent = false → a.isSwitch = true → a.hears = true →
    a.restart = none → exec (.nodeLostTimeout die) s = s.withAgent die a.loseNode) ∧
  (∀ (s : State) (die : Nat), (s.agent die).hears = true → (s.agent die).restart = none → exec (.nodeCtlReady die) s = s.withAgent die (s.agent die).nodeIsReady ∧
    exec (.resetReqNode die) s = s.withAgent die (s.agent die).nodeAsksReset) ∧
  (∀ (s : State) (die : Nat) (hdr : Hdr) (nid : Nat) (d : Bool) (a : Agent), (s.agent die).takes dictCmd hdr none → a = (s.agent die).after dictCmd hdr none →
    a.accepts hdr = true → nid = a.obj Obj.AG_NID → exec (.resetGrant die hdr nid d) s = s.withAgent die
      { a with node := { a.node with granted := true, detoured := true, asked := none } }) ∧
  (∀ (s : State) (die : Nat) (a : Agent), a = s.agent die → a.node.asked.isSome = true → a.runs = true →
    exec (.detourTimeout die) s = s.withAgent die { a with node := { a.node with granted := true, detoured := false, asked := none } }) ∧
  (∀ (s : State) (die : Nat), (s.agent die).hears = true → exec (.nodeHb die) s = s.withAgent die { s.agent die with node := { (s.agent die).node with hbRuns := true } }) ∧
  (∀ (s : State) (die : Nat) (a : Agent), a = s.agent die → a.node.hbRuns = true → a.obj Obj.AP_NODE_HB_US ≠ 0 → a.runs = true → a.isEndpoint = false →
    exec (.nodeHbTimeout die) s = s.withAgent die (a.event 0x184 0)) ∧
  (∀ (s : State) (die : Nat), (s.agent die).runs = true → exec (.resetFenceRelease die) s = s.withAgent die ((s.agent die).releaseFences ((s.agent die).fencesOf 2))) ∧
  (∀ (s : State) (die nid r0 r1 : Nat) (hdr : Hdr), (s.agent die).takes withdrawFrame hdr (some (.gone nid)) →
    exec (.gone die hdr nid r0 r1) s = s.withAgent die (((s.agent die).after withdrawFrame hdr (some (.gone nid))).onGone nid r0 r1)) ∧
  (∀ (s : State) (die nid r0 r1 : Nat) (hdr : Hdr) (a : Agent), (s.agent die).takes dictCmd hdr none → a = (s.agent die).after dictCmd hdr none →
    a.accepts hdr = true → nid ≠ a.obj Obj.AG_NID → a.node.gone.contains nid = true →
    exec (.ready die hdr nid r0 r1) s = s.withAgent die
      ((({ a with node := { a.node with gone := a.node.gone.filter (fun n => n != nid) } } : Agent).goneSide 0 nid false r0).goneSide 1 nid false r1)) ∧
  (∀ (s : State) (die lost cause ctx gen resets time : Nat) (hdr : Hdr), (s.agent die).takes withdrawFrame hdr (some (.memberLost lost cause ctx gen resets time)) →
    exec (.memberLostReceive (some die) hdr lost cause ctx gen resets time) s = s.withAgent die
      (((s.agent die).after withdrawFrame hdr (some (.memberLost lost cause ctx gen resets time))).onMemberLost lost cause ctx gen resets time)) ∧
  (∀ (s : State) (lost cause ctx gen resets time : Nat) (hdr : Hdr), s.mgr.takes withdrawFrame hdr → hdr.dst = nidAll →
    exec (.memberLostReceive none hdr lost cause ctx gen resets time) s = s.withMgr
      ((s.mgr.after withdrawFrame hdr).emit { dst := nidAll, assoc := 0xF000 + ctx, ctx := hdr.ctx, gen := hdr.gen, msg := .memberLost lost cause ctx gen resets time })) ∧
  (∀ (s : State) (die lost cause ctx gen resets time : Nat) (hdr : Hdr), (s.agent die).takes dictPlain hdr none →
    exec (.memberRejoined die hdr lost cause ctx gen resets time) s = s.withAgent die
      (((s.agent die).after dictPlain hdr none).postMember 0x11 lost cause ctx gen resets time)) ∧
  (∀ (s : State) (die ctx gen nid : Nat) (hdr : Hdr) (a : Agent), (s.agent die).takes dictCmd hdr none → a = (s.agent die).after dictCmd hdr none →
    a.accepts hdr = true → nid = a.obj Obj.AG_NID → exec (.rejoined die hdr ctx gen nid) s = s.withAgent die a.tryRelease)

/-- Heartbeat rounds, silence, rejoins and the watchdogs of the module. HEARTBEAT_ROUND of the active leader sends the next
round's HEARTBEAT. HB_REPLY is taken by the manager or a collector. Three misses make an agent SILENT
(AGENT_HEARTBEAT_MISSED), and FR_SILENT_MS later its member endpoint meets member loss (SILENT_TIMEOUT).
TIME_ESTIMATE_EXPIRE makes the estimate invalid. KEY_BAR_LIFTED lets a REJOIN proceed; REJOIN_TIMEOUT purges.
SCRIBE_WATCHDOG answers its requests RETRY and counts a module fault. HANG_WATCHDOG of a tenant context whose cells served
others purges it. CELL_RESET_COMPLETE zeroes the cell's SRAM and enables it, or retires it where that is due. CORE_WATCHDOG
restarts the agent's control island unannounced. The next state answered is given for HEARTBEAT_ROUND, HB_REPLY,
AGENT_HEARTBEAT_MISSED, SILENT_TIMEOUT, TIME_ESTIMATE_EXPIRE, KEY_BAR_LIFTED, REJOIN_TIMEOUT, SCRIBE_WATCHDOG,
HANG_WATCHDOG, CELL_RESET_COMPLETE, CORE_WATCHDOG. -/
def Obligations.HeartbeatsAndHangs : Prop :=
  (∀ (s : State) (m : Manager) (r : Nat), s.mgr.active = true → s.mgr.leads = true → s.mgr.dev.net.round = some r →
    m = ((s.mgr.fab.nodes.map (fun (n : Nat × NodeInfo) => n.1)).foldl (fun (m : Manager) (n : Nat) => m.closeRound r n) s.mgr).onDev
      (fun d => { d with net := { d.net with round := some ((r + 1) % 2 ^ 32) } }) →
    exec .heartbeatRound s = s.withMgr (m.emit { dst := nidAll, assoc := 0xE000, claim := some m.claim,
                                                 msg := .heartbeat ((r + 1) % 2 ^ 32) (m.obj Obj.IMP_COMMITTED) none })) ∧
  (∀ (s : State) (die : Nat) (hdr : Hdr) (round c : Nat) (map : Option Ports),
    exec (.hbReply (some die) hdr round c map) s = s.withAgent die ((s.agent die).hbCollected hdr round) ∧
    (s.mgr.hbNews hdr.src map = false → exec (.hbReply none hdr round c map) s =
      s.withMgr (if s.mgr.dev.net.replay then s.mgr.hbReplied hdr round c map else (s.mgr.hbReplied hdr round c map).sendDue))) ∧
  (∀ (s : State) (nid : Nat), 3 ≤ (s.mgr.node nid).misses → (s.mgr.node nid).silent = false → exec (.agentHeartbeatMissed nid) s = s.withMgr
    (((s.mgr.entry (.agentHeartbeatMissed nid)).setNode nid { s.mgr.node nid with silent := true, estimate := false }).event 0x183 0)) ∧
  (∀ (s : State) (nid : Nat) (m : Manager), (s.mgr.node nid).silent = true → s.mgr.obj Obj.FR_SILENT_MS ≠ 0 → m = s.mgr.entry (.silentTimeout nid) →
    ((s.mgr.node nid).kind = 1 → exec (.silentTimeout nid) s = s.withMgr (m.memberLoss nid 2 0 m.dev.time true)) ∧
    ((s.mgr.node nid).kind = 0 → exec (.silentTimeout nid) s = s.withMgr (m.isolate (m.switchOf nid) .lost).touchGate.wantNow)) ∧
  (∀ (s : State) (nid : Nat) (n : NodeInfo), mapGet s.mgr.fab.nodes nid = some n → exec (.timeEstimateExpire nid) s = s.withMgr
    ((s.mgr.entry (.timeEstimateExpire nid)).setNode nid { n with estimate := false })) ∧
  (∀ (s : State) (ctx : Nat) (r : RejoinSt), (s.mgr.ctx ctx).rejoin = some r →
    (r.barred = true → s.mgr.keyFree ctx (((s.mgr.ctx ctx).gen + 1) % 256) = true →
      exec (.keyBarLifted ctx) s = s.withMgr ((s.mgr.entry (.keyBarLifted ctx)).rejoinTry ctx)) ∧
    (r.lost.isEmpty = false → s.mgr.obj Obj.FR_REJOIN_MS ≠ 0 →
      exec (.rejoinTimeout ctx) s = s.withMgr ((s.mgr.entry (.rejoinTimeout ctx)).purgeStart ctx))) ∧
  (∀ (s : State) (core : Nat) (reqs : List Req) (m : Manager),
    m = { s.mgr with rcv := { s.mgr.rcv with scribes := mapUpd s.mgr.rcv.scribes core 0 (fun n => n + 1) }
                     host := { s.mgr.host with proxied := s.mgr.host.proxied.filter (fun p => !reqs.contains p.req) } } →
    exec (.scribeWatchdog core reqs) s = s.withMgr ((reqs.foldl (fun m r =>
      if s.mgr.host.proxied.any (fun p => p.req == r) then m.answerProxy r 0x0010 else m.answer r 0x0010) m).moduleFault)) ∧
  (∀ (s : State) (ctx ns : Nat) (run : Run) (cells : List Nat), ctx ≠ 0 → mapGet s.mgr.eng.runs ctx = some run → s.mgr.hangNs ctx = some ns →
    cells = (sortNat ((run.lines.filter LineRun.unfinished).map (fun l => l.cell))).filterMap s.mgr.eng.phys → cells.isEmpty = false →
    cells.any (fun p => (s.mgr.eng.cell p).steps.any (fun x => x.1 == ctx && decide (s.mgr.dev.time < x.2 + ns))) = false →
    cells.all (fun p => (s.mgr.eng.cell p).steps.any (fun x => x.1 != ctx && decide (s.mgr.dev.time < x.2 + ns))) = true →
    exec (.hangWatchdog ctx) s = s.withMgr (((s.mgr.entry (.hangWatchdog ctx)).event 0x085 ctx).purgeStart ctx)) ∧
  (∀ (s : State) (cell : Nat), (s.mgr.eng.cell cell).st = .resetting → (s.mgr.eng.linesOn (s.mgr.eng.cell cell).logical) = [] →
    s.mgr.rt.comp = none → s.mgr.dev.objC Obj.CELL_RESET_WINDOW = 0 →
    ∃ m, exec (.cellResetComplete cell) s = s.withMgr m ∧ (m.eng.cell cell).st = (if (s.mgr.eng.cell cell).retireDue then .retiring else .enabled) ∧
      (∀ k, k ≠ cell → m.eng.cell k = s.mgr.eng.cell k) ∧
      (∀ a, memRead m.eng.mem a = if sramAddr cell 0 0 ≤ a ∧ a < sramAddr cell 0 0 + 2 ^ 56 then 0 else memRead s.mgr.eng.mem a)) ∧
  (∀ (s : State) (die : Nat), (s.agent die).restart = none → (s.agent die).link.asleep = false → (s.agent die).link.held = false →
    ∃ a r, exec (.coreWatchdog die) s = s.withAgent die a ∧ a.restart = some r ∧ r.announced = false ∧ a.node = (s.agent die).node ∧
      a.store.side0 = (s.agent die).store.side0 ∧ a.store.side1 = (s.agent die).store.side1 ∧ a.ptable = (s.agent die).ptable)

/-- Agents answer heartbeats, claims and TIMED, the manager keeps each exchange, and the lane relays. HEARTBEAT_AGENT taken is
answered to its sender. CLAIM_AGENT taken under the highest pair at a switch agent is answered with COMMITTED, STAGED and
whether the staged one was answered OK. TIMED from the unit the agent answers sets its home address and collector, and is
answered. TIMED_SEND sends TIMED with the claim to an attested agent, and renewals asked for start. TIMED_REPLY taken from
an attested agent keeps the exchange, at most 16, and adds the WITHDRAW count's advance to FR_WITHDRAWS. LANE_SWITCH moves a
LANE agent to the lane. LANE_RELAY within its rate relays and counts. TELEMETRY_PERIOD_END with no count changed sends
nothing. MANAGER_PORT_DOWN gives agents homed on the port new homes. The next state answered is given for HEARTBEAT_AGENT,
CLAIM_AGENT, TIMED, TIMED_SEND, TIMED_REPLY, LANE_SWITCH, LANE_RELAY, TELEMETRY_PERIOD_END, MANAGER_PORT_DOWN. -/
def Obligations.AgentHeartbeatsAndTime : Prop :=
  (∀ (s : State) (die port round imp : Nat) (hdr : Hdr) (a : Agent), (s.agent die).takes hbFrame hdr none →
    a = ((s.agent die).after hbFrame hdr none).onDev (fun d => { d.hearRound round with net := { (d.hearRound round).net with relay := hdr.relayed } }) →
    exec (.heartbeatAgent die hdr port round imp) s = s.withAgent die
      ((if a.dev.net.lane && port == 0 && a.dev.portUp 0 then a.onLane false else a).hbReply hdr.src round)) ∧
  (∀ (s : State) (die p q c i : Nat) (hdr : Hdr) (a : Agent), (s.agent die).takes commitCmd hdr none → a = (s.agent die).after commitCmd hdr none →
    a.accepts hdr = true → a.isSwitch = true → exec (.claimAgent die hdr p q c i) s = s.withAgent die
      (a.sendMgr hdr.src (.claimAck (a.obj Obj.AG_COMMITTED) (a.obj Obj.AG_STAGED)
        (a.obj Obj.AG_STAGED != a.obj Obj.AG_COMMITTED && a.store.stagedBy.isSome)))) ∧
  (∀ (s : State) (die t1 mac coll : Nat) (hdr : Hdr) (a : Agent), (s.agent die).takes hbFrame hdr none → a = (s.agent die).after hbFrame hdr none →
    hdr.src = a.home → exec (.timed die hdr t1 mac coll) s = s.withAgent die
      (({ a with link := { a.link with lastT := (t1, a.dev.time), homeMac := mac, collector := coll } } : Agent).timedReply hdr.src t1 a.dev.time)) ∧
  (∀ (s : State) (nid : Nat) (n : NodeInfo), s.mgr.leads = true → mapGet s.mgr.fab.nodes nid = some n →
    ∃ (m : Manager) (d mac coll : Nat), exec (.timedSend nid) s = s.withMgr (m.onDev (fun x => x.send { dst := nid, assoc := 1, claim := some s.mgr.claim, msg := .timed d mac coll })).renewAsked ∧
      d = s.mgr.dev.time ∧ m.dev = { s.mgr.dev with net := { s.mgr.dev.net with homes := m.dev.net.homes } } ∧
      mapGet m.dev.net.homes nid = (mapGet m.fab.nodes nid).map (fun x => x.homePort) ∧ m.fab.links = s.mgr.fab.links ∧ (n.kind ≠ 1 → coll = 0x3FFFF)) ∧
  (∀ (s : State) (hdr : Hdr) (t1 t2 t3 w : Nat) (restarting valid : Bool) (n : NodeInfo), s.mgr.dev.net.replay = false →
    s.mgr.takes hbReplyFrame hdr → mapGet s.mgr.fab.nodes hdr.src = some n →
    ∃ m x, exec (.timedReply hdr t1 t2 t3 w false restarting valid) s = s.withMgr m ∧ mapGet m.fab.nodes hdr.src = some x ∧ x.estimate = true ∧
      x.exchanges.length ≤ max 16 n.exchanges.length ∧ { t1 := t1, t2 := t2, t3 := t3, t4 := s.mgr.dev.time } ∈ x.exchanges ∧ x.wdrSent = some w ∧
      x.plateValid = valid ∧ (∀ k, k ≠ hdr.src → mapGet m.fab.nodes k = mapGet s.mgr.fab.nodes k)) ∧
  (∀ (s : State) (die : Nat) (a : Agent), a = s.agent die → a.obj Obj.FN_P1_MODE = 1 → a.dev.net.lane = false → a.hears = true → a.runs = true →
    exec (.laneSwitch die) s = s.withAgent die ((a.onLane true).timedReply a.home a.link.lastT.1 a.link.lastT.2)) ∧
  (∀ (s : State) (die src dst n : Nat) (a : Agent), a = s.agent die → a.obj Obj.FN_P1_MODE = 1 → a.hears = true → dst ≠ a.dev.net.nid → a.dev.portUp 0 = true →
    n = (if a.link.relaySec = a.dev.time / 1000000000 then a.link.relayed else 0) → n < a.obj Obj.FN_RELAY_RATE →
    exec (.laneRelay die src dst true) s = s.withAgent die
      ((({ a with link := { a.link with relaySec := a.dev.time / 1000000000, relayed := n + 1, passed := a.link.passed ++ [(src, dst, false)] } } : Agent).onDev
        (fun d => { d with net := { d.net with relayed := insNat d.net.relayed src } })).bump Obj.FC_RELAYED)) ∧
  (∀ (s : State) (die : Nat) (a : Agent), a = s.agent die → a.runs = true → a.hears = true → a.tl.changed = false →
    exec (.telemetryPeriodEnd die a.tl.dropPkey a.tl.dropRoute a.tl.nakSent) s = s.withAgent die
      { a with tl := { a.tl with changed := false, period := (a.tl.period + 1) % 2 ^ 32 } }) ∧
  (∀ (s : State) (port : Nat), ∃ m, exec (.managerPortDown port) s = s.withMgr m ∧ mapGetD m.dev.net.ports port 0 = 0 ∧
    m.fab.links = s.mgr.fab.links ∧ m.fab.nodes.map (fun n => n.1) = s.mgr.fab.nodes.map (fun n => n.1) ∧
    (∀ nid n, mapGet s.mgr.fab.nodes nid = some n → n.homePort ≠ port → mapGet m.fab.nodes nid = some n))

/-- A unit claims, learns of claims, takes over and hands over. CLAIM_MANAGER taken from the module's own triad names its leader
and becomes RD_CLAIM; a standby's follower is then TAKING_OVER. CLAIM_ACK of a switch agent is kept as its report.
CLAIM_RETRY and CLAIM_TIMEOUT act while answers are awaited. BOOT_LISTEN_EXPIRE in LISTENING: where an active unit was
heard, the unit resynchronises to stand by, or is spare without a peer; where none was and its role allows, it claims.
TAKEOVER of a leading standby takes over with CAUSE 1. YIELD taken at a leading standby that has applied its last entry
takes over at once with CAUSE 3, or 4 where it says so; else it waits for that entry. RD_HANDOVER and P_HA_SWITCHOVER
granted where none is in progress hand over and are answered OK. The next state answered is given for CLAIM_MANAGER,
CLAIM_ACK, CLAIM_RETRY, CLAIM_TIMEOUT, BOOT_LISTEN_EXPIRE, TAKEOVER, YIELD, RD_HANDOVER, P_HA_SWITCHOVER. -/
def Obligations.UnitsClaimAndHandOver : Prop :=
  (∀ (s : State) (hdr : Hdr) (p q cause i k c nid : Nat) (m : Manager), s.mgr.takes commitCmd hdr → hdr.claim = some c →
    (s.mgr.after commitCmd hdr).red.trio.find? (fun x => x.2 == hdr.src) = some (k, nid) →
    m = ((s.mgr.after commitCmd hdr).seeClaim c hdr.src).followMate k c →
    exec (.claimManager hdr p q cause i) s = s.withMgr (if m.obj Obj.RD_STATE = 1 then m.setObj Obj.RD_STATE 2
      else if m.obj Obj.RD_STATE = 3 then m.setObj Obj.RD_STATE 5 else m)) ∧
  (∀ (s : State) (hdr : Hdr) (committed staged : Nat) (ok : Bool) (n : NodeInfo), s.mgr.takes commitFrame hdr → mapGet s.mgr.fab.nodes hdr.src = some n →
    s.mgr.red.gain = .none → s.mgr.disc.atts = [] → mapGet s.mgr.red.claimTry ((s.mgr.after commitFrame hdr).switchOf hdr.src) = none →
    ∃ m, exec (.claimAck hdr committed staged ok) s = s.withMgr m ∧
      mapGet m.red.reports (m.switchOf hdr.src) = some { committed := committed, staged := staged, stagedOk := ok } ∧
      (m.swInst (m.switchOf hdr.src)).committed = committed ∧ (m.node hdr.src).committed = committed ∧
      (s.mgr.obj Obj.IMP_COMMITTED = 0 ∨ committed = s.mgr.obj Obj.IMP_COMMITTED → mapGet m.fab.nodes hdr.src = some { n with committed := committed })) ∧
  (∀ (s : State), s.mgr.red.claimTry.isEmpty = false → s.mgr.leads = true →
    exec .claimRetry s = s.withMgr ((s.mgr.red.claimTry.foldl (fun (m : Manager) (k : Nat × Nat) => m.sendClaim (m.agentOf k.1)) s.mgr).onRed
      (fun r => { r with claimTry := r.claimTry.map (fun k => (k.1, k.2 + 1)) })).gainDone ∧
    exec .claimTimeout s = s.withMgr ((((s.mgr.onRed (fun r => { r with claimTry := [] })).gainDone).putEntry
      { kind := .silent (s.mgr.red.claimTry.map (fun k => k.1)) }).silentAgents (s.mgr.red.claimTry.map (fun k => k.1)))) ∧
  (∀ (s : State) (m : Manager), s.mgr.obj Obj.RD_STATE = 1 → m = s.mgr.setObj Obj.BT_BOOT_MS ((s.mgr.dev.time - s.mgr.dev.since) / 1000000) →
    (s.mgr.red.heard = true → s.mgr.obj Obj.RD_PEER = 0 → exec .bootListenExpire s = s.withMgr (m.setObj Obj.RD_STATE 4)) ∧
    (s.mgr.red.heard = true → s.mgr.obj Obj.RD_PEER ≠ 0 → exec .bootListenExpire s = s.withMgr
      (m.startResync (s.mgr.obj Obj.RD_HIGHEST_NID) 6)) ∧
    (s.mgr.red.heard = false → s.mgr.leads = true → s.mgr.obj Obj.RD_ROLE = 0 → exec .bootListenExpire s = s.withMgr (m.claimBoot)) ∧
    (s.mgr.red.heard = false → s.mgr.leads = true → s.mgr.obj Obj.RD_ROLE ≠ 0 → exec .bootListenExpire s = s.withMgr (m.setObj Obj.RD_STATE 4))) ∧
  (∀ s : State, s.mgr.obj Obj.RD_STATE = 3 → s.mgr.leads = true → exec .takeover s = s.withMgr (s.mgr.takeOver 1)) ∧
  (∀ (s : State) (hdr : Hdr) (seq cause : Nat) (m : Manager), s.mgr.takes commitCmd hdr → m = s.mgr.after commitCmd hdr →
    m.obj Obj.RD_STATE = 3 → m.leads = true →
    (seq ≤ m.red.applied → exec (.yield_ hdr seq cause) s = s.withMgr
      (((m.seeClaim (hdr.claim.getD 0) hdr.src).onRed (fun r => { r with yieldAfter := none })).takeOver (if cause = 4 then 4 else 3))) ∧
    (m.red.applied < seq → exec (.yield_ hdr seq cause) s = s.withMgr
      ((m.seeClaim (hdr.claim.getD 0) hdr.src).onRed (fun r => { r with yieldAfter := some (seq, cause) })))) ∧
  (∀ (s : State) (req : Req), s.mgr.grants req Obj.RD_HANDOVER 1 → s.mgr.obj Obj.RD_HANDOVER ≠ 1 →
    exec (.rdHandover req 1) s = s.withMgr (((s.mgr.entry (.rdHandover req 1)).yieldTo 3).answerWrite req 0)) ∧
  (∀ (s : State) (req : Req), s.mgr.grants req Obj.P_HA_SWITCHOVER 1 → s.mgr.obj Obj.RD_HANDOVER ≠ 1 →
    exec (.pHaSwitchover req 1) s = s.withMgr (((s.mgr.entry (.pHaSwitchover req 1)).yieldTo 3).answerWrite req 0))

/-- Entries are taken and acknowledged, heartbeats told, digests judged, and a module resynchronises. INPUT_STREAM_ENTRY at a
follower is taken and acknowledged. INPUT_STREAM_ACK and REPL_ACK raise the last entry acknowledged, and REPL_TIMEOUT of an
entry not acknowledged ends the wait for the standby; what waited is released. A standby that takes REPL passes the entry on
and acknowledges what it has applied, or is out of step where it lacks one. MANAGER_HEARTBEAT goes to the standby or
RD_PEER, and its failure counts a module fault. PEER_HEARTBEAT taken is answered HB_REPLY and shows a standby what it lacks.
TRIAD_HEARTBEAT_MISS and TRIAD_PRESENCE_LOSS find a peer failed. TRIAD_HEARTBEAT with every peer heard clears their misses
and finds none failed. TRIAD_DIGEST of a peer in service is kept and the digests are judged. TR_RESYNC at a module of a
triad has it resynchronise and is answered OK; at one in no triad it has no effect. RESYNC_COMPLETE of a single-module unit
gives it the copy, whose instants are moved to its own time; it is standby once it has caught up, and acknowledges. The next
state answered is given for INPUT_STREAM_ENTRY, REPL, INPUT_STREAM_ACK, REPL_ACK, REPL_TIMEOUT, MANAGER_HEARTBEAT,
PEER_HEARTBEAT, TRIAD_HEARTBEAT_MISS, TRIAD_PRESENCE_LOSS, TRIAD_HEARTBEAT, TRIAD_DIGEST, TR_RESYNC, RESYNC_COMPLETE. -/
def Obligations.TriadsAndReplicas : Prop :=
  (∀ (s : State) (seq : Nat) (kind : EntryKind) (input : Instr), s.mgr.red.slot.isSome = true → s.mgr.leads = false →
    exec (.inputStreamEntry seq kind input) s = .next (gathered { takeEntry s seq kind input with
      mgr := ((takeEntry s seq kind input).mgr.triadSend (.ack seq)).fetch seq })) ∧
  (∀ (s u : State) (hdr : Hdr) (seq : Nat) (kind : EntryKind) (input : Instr) (m : Manager), s.mgr.takes stageFrame hdr →
    (s.mgr.after stageFrame hdr).obj Obj.RD_STATE = 3 → (s.mgr.after stageFrame hdr).leads = true →
    u = takeEntry { s with mgr := (s.mgr.after stageFrame hdr).onRed (fun r => { r with latest := max r.latest seq }) } seq kind input →
    m = u.mgr.passOn seq { kind := kind, input := match kind with | .input _ _ => some input | _ => none } → m.red.resync = none →
    exec (.repl hdr seq kind input) s = .next { u with mgr := if m.red.applied < seq then m.outOfStep hdr.src
      else (m.caughtUp.toPeer hdr.src (.replAck m.red.applied)).yielded }) ∧
  (∀ (s : State) (k seq : Nat), s.mgr.red.slot.isSome = true → s.mgr.red.gather = none → s.mgr.leads = true → s.mgr.red.peersIn.contains k = true →
    exec (.inputStreamAck k seq) s = s.withMgr
      (s.mgr.onRed (fun r => { r with acked := mapSet r.acked k (max seq (mapGetD r.acked k 0)) })).release) ∧
  (∀ (s : State) (hdr : Hdr) (seq : Nat), s.mgr.takes stageFrame hdr → s.mgr.red.standby = some hdr.src →
    exec (.replAck hdr seq) s = s.withMgr ((s.mgr.after stageFrame hdr).onRed (fun r => { r with
      acked := mapSet r.acked hdr.src (max seq (mapGetD r.acked hdr.src 0)), inSync := r.inSync || decide (r.nextSeq ≤ seq + 1) })).lag.release.alone) ∧
  (∀ (s : State) (nid seq : Nat), s.mgr.red.standby = some nid → s.mgr.red.inSync = true → mapGetD s.mgr.red.acked nid 0 < seq → seq < s.mgr.red.nextSeq →
    exec (.replTimeout seq) s = s.withMgr (s.mgr.onRed (fun r => { r with inSync := false })).release) ∧
  (∀ (s : State) (to_ : Nat) (m n : Manager), s.mgr.active = true → s.mgr.leads = true → to_ = s.mgr.red.standby.getD (s.mgr.obj Obj.RD_PEER) → to_ ≠ 0 →
    m = s.mgr.onDev (fun d => d.send { dst := to_, assoc := 3, claim := some s.mgr.claim, msg := .heartbeat (s.mgr.dev.net.round.getD 0) (s.mgr.obj Obj.IMP_COMMITTED) (some (s.mgr.red.nextSeq - 1)) }) →
    n = m.onRed (fun r => { r with unheard := r.unheard + 1 }) →
    exec .managerHeartbeat s = s.withMgr ((if (m.red.inSync && m.red.unheard == m.obj Obj.RD_HB_MISS) = true then n.moduleFault else n).keyPeer to_)) ∧
  (∀ (s : State) (hdr : Hdr) (round imp seq : Nat) (a m : Manager), s.mgr.takes hbFrame hdr → a = s.mgr.after hbFrame hdr →
    m = (a.meetPair (hdr.claim.getD 0) hdr.src).onRed (fun r => { r with heard := r.heard || a.obj Obj.RD_STATE == 1, gapFrom := a.dev.time }) →
    exec (.peerHeartbeat hdr round imp seq) s = s.withMgr
      (((m.toPeer hdr.src (.hbReply round (m.obj Obj.IMP_COMMITTED) none)).standBy hdr.src).heardSeq hdr.src seq)) ∧
  (∀ (s : State) (k : Nat), exec (.triadHeartbeatMiss k) s = .next (peerFailed s k)) ∧
  (∀ (s : State) (me port : Nat), s.mgr.red.slot = some me → exec (.triadPresenceLoss port) s = .next (peerFailed s ((me + 1 + port) % 3))) ∧
  (∀ (s : State) (me : Nat) (heard : List (Nat × Bool)), s.mgr.red.slot = some me → s.mgr.red.outOfService = false → s.mgr.red.misses = [] →
    (∀ k, k ∈ s.mgr.red.peersIn → (heard.map (fun x => x.1)).contains k = true ∧ heard.contains (k, true) = false) →
    (s.mgr.leads = true ∨ ∀ k, k ∈ heard → k.1 ≠ me → k.2 = true ∨ s.mgr.red.peersIn.contains k.1 = true) →
    exec (.triadHeartbeat heard) s = s.withMgr (s.mgr.beat me)) ∧
  (∀ (s : State) (k : Nat) (imp : CandId) (digest : Digest), s.mgr.red.slot.isSome = true → s.mgr.red.peersIn.contains k = true →
    exec (.triadDigest k imp digest) s = .next (judge { s with mgr := s.mgr.onRed (fun r => { r with digests := mapSet r.digests k (imp, digest) }) })) ∧
  (∀ (s : State) (req : Req), s.mgr.gateReach req Obj.TR_RESYNC true 1 = 0 → s.mgr.red.resync = none →
    (s.mgr.red.slot = none → exec (.trResync req 1) s = s.withMgr (s.mgr.answer req 0)) ∧
    (s.mgr.red.slot.isSome = true → exec (.trResync req 1) s = s.withMgr (s.mgr.resyncHere.answer req 0))) ∧
  (∀ (s : State) (seq src : Nat) (copy : Copy), s.mgr.red.resync = some src → s.mgr.red.slot = none → s.mgr.red.entries = [] →
    ∃ m : Manager, exec (.resyncComplete seq copy) s = s.withMgr ((m.caughtUp.toPeer src (.replAck seq)).yielded) ∧
      m.red.resync = none ∧ m.red.applied = seq ∧ m.red.latest = s.mgr.red.latest ∧ m.red.runs = copy.runs ∧ m.sl = (copy.retimed s.mgr.dev.time).sl ∧ m.inst = (copy.retimed s.mgr.dev.time).inst ∧
      m.rt = { (copy.retimed s.mgr.dev.time).rt with comp := none } ∧ m.fab.links = (copy.retimed s.mgr.dev.time).links ∧
      m.fab.nodes.map (fun n => n.1) = (copy.retimed s.mgr.dev.time).nodes.map (fun n => n.1))

/-- Keys are offered, accepted and renewed, and the old one is erased. KEY_OFFER at an agent or the manager is taken as R416
says. KEY_ACCEPT taken for an offer that waits: OK ends it, BUSY notes the time, any other leaves it to be repeated.
KEY_GRACE_EXPIRE erases the old phase. REKEY_TIMER renews a key the leading manager sends under, and has an agent ask for a
new one. The next state answered is given for KEY_OFFER, KEY_ACCEPT, KEY_GRACE_EXPIRE, REKEY_TIMER. -/
def Obligations.KeysAreExchanged : Prop :=
  (∀ (s : State) (die : Nat) (hdr : Hdr) (assoc wrap peer expire peerAs : Nat) (salts : Salts) (phase sig : Bool) (key : Key) (ports : List Nat),
    exec (.keyOffer (some die) hdr assoc phase wrap peer salts expire key sig ports peerAs) s =
      s.withAgent die ((s.agent die).keyOffer hdr assoc phase wrap peer salts expire key sig ports peerAs) ∧
    exec (.keyOffer none hdr assoc phase wrap peer salts expire key sig ports peerAs) s =
      s.withMgr (s.mgr.takeOffer hdr assoc phase wrap peer salts expire key sig)) ∧
  (∀ (s : State) (hdr : Hdr) (assoc status : Nat) (phase : Bool) (o : Offer) (m : Manager), assoc ≠ 2 → (s.mgr.pairSlot hdr).takes dictPlain hdr →
    ((s.mgr.pairSlot hdr).after dictPlain hdr).fab.offers.find? (fun o => o.nid == hdr.src && o.key == assoc && o.phase == phase) = some o →
    m = ((s.mgr.pairSlot hdr).after dictPlain hdr).entry (.keyAccept hdr assoc phase status) →
    exec (.keyAccept hdr assoc phase status) s = s.withMgr
      (if status = 0 then m.accepted hdr.src o
       else if status = 1 then { m with fab := { m.fab with offers := m.fab.offers.map (fun x => if x = o then { x with busy := some m.dev.time } else x) } }
       else m)) ∧
  (∀ (s : State) (die src assoc : Nat) (phase : Bool),
    exec (.keyGraceExpire none src assoc phase) s = s.withMgr (s.mgr.onDev (fun d => d.endGrace src assoc phase)) ∧
    exec (.keyGraceExpire (some die) src assoc phase) s = s.withAgent die ((s.agent die).onDev (fun d => d.endGrace src assoc phase))) ∧
  (∀ (s : State) (die peer assoc : Nat),
    (s.mgr.obj Obj.FN_REKEY_S ≠ 0 → s.mgr.leads = true → (mapGet s.mgr.dev.net.tx (peerKey peer assoc)).isSome = true →
      exec (.rekeyTimer none peer assoc) s = s.withMgr (s.mgr.renew peer assoc)) ∧
    exec (.rekeyTimer (some die) peer assoc) s = s.withAgent die ((s.agent die).onDev (fun d => d.askRekey peer assoc)))

/-- An agent starts, says HELLO, answers ATTEST_REQ, and receives and activates an image. AGENT_START warm with its slot
verified trains its ports and starts HELLO. HELLO_REPEAT and HELLO_RESUME send or resume HELLO. ATTEST_REQ taken stops HELLO
and is answered with ATTEST_REPORT. BULK_DATA of a block not held is kept; the last completes the image. END_OF_PASS makes a
report due, BULK_REPORT_SEND sends it with the missing ranges. ACTIVATE of the image held COMPLETE restarts into the other
slot; of another image it answers the actual state. The next state answered is given for AGENT_START, HELLO_REPEAT,
HELLO_RESUME, ATTEST_REQ, BULK_DATA, END_OF_PASS, BULK_REPORT_SEND, ACTIVATE. -/
def Obligations.AttestationAndImages : Prop :=
  (∀ (s : State) (die p0 p1 straps : Nat) (other : Bool) (a : Agent),
    a = (if (s.agent die).link.refLost then s.agent die else (s.agent die).onDev (fun d => { d with net := { d.net with
      ports := mapSet (mapSet d.net.ports 0 (portWord p0)) 1 (portWord p1) } })) →
    ∃ b : Agent, exec (.agentStart die false true other p0 p1 straps) s = s.withAgent die b.startHello ∧
      b.link.held = false ∧ b.link.asleep = false ∧ b.link.straps = straps ∧ b.dev.net = a.dev.net ∧ b.node = a.node ∧ b.store = a.store ∧ b.ptable = a.ptable) ∧
  (∀ (s : State) (die : Nat) (a : Agent), a = s.agent die → a.runs = true → a.hears = true →
    (a.link.helloOn = true → a.anyPort = true → exec (.helloRepeat die) s = s.withAgent die a.hello) ∧
    (a.link.helloOn = false → a.link.reported = true → a.dev.net.nid = nidNone → exec (.helloResume die) s = s.withAgent die a.startHello)) ∧
  (∀ (s : State) (die nid fwd : Nat) (hdr : Hdr) (nonce : Digest) (a : Agent), (s.agent die).takes attestFrame hdr none →
    a = { (s.agent die).after attestFrame hdr none with link := { ((s.agent die).after attestFrame hdr none).link with
      helloOn := false, offered := some (nid, fwd), reported := true } } →
    exec (.attestReq die hdr nonce nid fwd) s = s.withAgent die
      ((a.onDev (fun d => d.send { dst := hdr.src, assoc := 0, msg := .attestReport (a.attestation nonce nid fwd) d.certificate })).onDev Dev.drawn)) ∧
  (∀ (s : State) (die image block count pass : Nat) (hdr : Hdr) (data : List Byte) (sig wr : Bool) (a b : Agent), (s.agent die).takes bulkFrame hdr none →
    0 < count → count ≤ 2048 → a = ((s.agent die).after bulkFrame hdr none).turnTo image count → a.bulk.held ≠ some image → block < count →
    b = { a with bulk := { a.bulk with blocks := mapSet a.bulk.blocks block data, pass := pass, state := 0 } } →
    exec (.bulkData die hdr image block count pass data sig wr) s = s.withAgent die (if b.bulk.blocks.length = count then b.finishImage sig wr else b)) ∧
  (∀ (s : State) (die image count pass : Nat) (hdr : Hdr) (a : Agent), (s.agent die).takes bulkFrame hdr none → 0 < count → count ≤ 2048 →
    a = ((s.agent die).after bulkFrame hdr none).turnTo image count →
    exec (.endOfPass die hdr image count pass) s = s.withAgent die { a with bulk := { a.bulk with pass := pass, due := true } }) ∧
  (∀ (s : State) (die : Nat) (a : Agent) (miss : List (Nat × Nat)), a = s.agent die → a.bulk.due = true → a.runs = true → a.hears = true →
    miss = (if a.bulk.state = 0 then missingRanges a.bulk.count a.bulk.blocks else []) →
    exec (.bulkReportSend die) s = s.withAgent die (({ a with bulk := { a.bulk with due := false } } : Agent).toMgr
      (.bulkReport (a.bulk.image.getD 0) a.bulk.state a.bulk.pass (decide (1024 < miss.length)) (miss.take 1024)))) ∧
  (∀ (s : State) (die image : Nat) (hdr : Hdr) (a : Agent), (s.agent die).takes dictCmd hdr none → a = (s.agent die).after dictCmd hdr none → a.accepts hdr = true →
    (a.bulk.held ≠ some image → exec (.activate die hdr image) s = s.withAgent die (a.bulkReport image a.bulk.state)) ∧
    (a.bulk.held = some image → a.bulk.state = 1 → ∃ b : Agent, exec (.activate die hdr image) s = s.withAgent die (b.stopCores a.dev.fw true true) ∧
      b.dev.fw = 1 - a.dev.fw ∧ b.bulk = { a.bulk with state := 4 } ∧ b.store = a.store ∧ b.ptable = a.ptable))

/-- An agent carries out the dictionary requests that pass its checks and answers them. DICT_REQ under the checks of ingress, of
the output stage where it is a WRITE, of reach and of the object: a WRITE takes effect, a READ answers the value. LT_CLEAR 1
erases the saved copies. AG_RESTART 1 is answered and stops the control cores. HM_SEND posts the message. SC_GRANT under a
verified signature, for this die and its committed impression, opens INVASIVE until its duration has passed. A WRITE under a
lower pair is answered CLAIM without effect. The next state answered is given for DICT_REQ, LT_CLEAR, AG_RESTART, HM_SEND,
SC_GRANT. -/
def Obligations.AgentAnswersRequests : Prop :=
  (∀ (s : State) (die tag key : Nat) (hdr : Hdr) (data : List Byte) (write : Bool) (a : Agent), (s.agent die).takes (dictReqFrame write) hdr none →
    a = (s.agent die).after (dictReqFrame write) hdr none → (write = true → a.accepts hdr = true) → a.reaches hdr.ctx hdr.gen key = true →
    dictResult true key write data 0 0 0 0 = 0 →
    (write = true → agentValueBad key data = false ∧ key ≠ Obj.AG_RESTART ∧ key ≠ Obj.DV_RESET) →
    exec (.dictReq die hdr tag key data write) s = s.withAgent die
      (if write then (a.writeObj hdr.ctx key data).answerDict hdr tag 0 []
       else (a.readObj hdr.ctx key).1.answerDict hdr tag 0 (a.readObj hdr.ctx key).2)) ∧
  (∀ (s : State) (die tag key : Nat) (hdr : Hdr) (data : List Byte) (a : Agent), (s.agent die).takes (dictReqFrame true) hdr none →
    a = (s.agent die).after (dictReqFrame true) hdr none → a.accepts hdr = false →
    exec (.dictReq die hdr tag key data true) s = s.withAgent die (a.answerDict hdr tag 0x000D [])) ∧
  (∀ (s : State) (die tag : Nat) (hdr : Hdr) (a : Agent), (s.agent die).takes (dictReqFrame true) hdr none →
    a = (s.agent die).after (dictReqFrame true) hdr none → a.accepts hdr = true → hdr.ctx = 0 →
    exec (.ltClear die hdr tag 1) s = s.withAgent die
      ((({ a with node := { a.node with ltCopies := [], lt := [] } } : Agent).setObj Obj.LT_VALID 0).answerDict hdr tag 0 [])) ∧
  (∀ (s : State) (die tag : Nat) (hdr : Hdr) (a : Agent), (s.agent die).takes (dictReqFrame true) hdr none →
    a = (s.agent die).after (dictReqFrame true) hdr none → a.accepts hdr = true → hdr.ctx = 0 →
    exec (.agRestart die hdr tag 1) s = s.withAgent die ((a.answerDict hdr tag 0 []).stopCores a.dev.fw true false)) ∧
  (∀ (s : State) (die tag : Nat) (hdr : Hdr) (data : List Byte) (a : Agent), (s.agent die).takes (dictReqFrame true) hdr none →
    a = (s.agent die).after (dictReqFrame true) hdr none → a.accepts hdr = true → a.reaches hdr.ctx hdr.gen Obj.HM_SEND = true →
    dictResult true Obj.HM_SEND true data 0 0 0 0 = 0 →
    exec (.hmSend die hdr tag data) s = s.withAgent die ((a.hmSend hdr.ctx data).answerDict hdr tag 0 [])) ∧
  (∀ (s : State) (die tag dur : Nat) (hdr : Hdr) (a : Agent), (s.agent die).takes (dictReqFrame true) hdr none →
    a = (s.agent die).after (dictReqFrame true) hdr none → a.accepts hdr = true → hdr.ctx = 0 →
    exec (.scGrant die hdr tag die dur (a.obj Obj.AG_COMMITTED) true) s = s.withAgent die
      (((({ a with link := { a.link with grant := some (a.dev.time + dur * 1000000000) } } : Agent).setObj Obj.SC_DEBUG 2).setObj
        Obj.SC_DEBUG_MAX 2).answerDict hdr tag 0 []))

/-- An agent's firmware runs again or is replaced, and the agent sleeps, wakes and loses its supply. FIRMWARE_RUNNING ends the
restart; where the retained state is not adopted the plate store is invalid; the frames held are processed, the ports and
resets acted on, the loss of the node told, the latched NODE_CTL command run, the messages held taken, and a running
activation reported. RESTART_TIMEOUT restarts the previous slot, records it and reports a failed activation.
SENTINEL_ENTRY_AGENT where the agent may sleep; SENTINEL_EXIT_AGENT restarts the control island. AGENT_UNDERVOLTAGE holds
the agent in reset. The next state answered is given for FIRMWARE_RUNNING, RESTART_TIMEOUT, SENTINEL_ENTRY_AGENT,
SENTINEL_EXIT_AGENT, AGENT_UNDERVOLTAGE. -/
def Obligations.AgentRestartsAndSleeps : Prop :=
  (∀ (s : State) (die rej0 rej1 : Nat) (adopts regOk : Bool) (r : RestartSt) (a b c : Agent), (s.agent die).restart = some r →
    a = ({ s.agent die with restart := none, bulk := { (s.agent die).bulk with image := none, count := 0, blocks := [], pass := 0, due := false } }).setObj
      Obj.AG_RESTART 0 →
    b = (if adopts then a else a.invalidate).setObj Obj.AG_SLOT (if adopts then a else a.invalidate).dev.fw →
    c = r.latched.frames.foldl (fun a f => a.heldFrame f.msg rej0 rej1) b →
    exec (.firmwareRunning die adopts regOk rej0 rej1) s = s.withAgent die
      (let d := r.latched.resets.foldl (fun a x => a.resetActs x.1) (c.watched.foldl (fun a p => a.actOnPort p) c.catchUp)
       let d := ((if r.latched.lost && !d.node.lostSent then d.loseNode else d).latchedCtl r.latched.ctl regOk).takeHeld
       if r.activated then ({ d with bulk := { d.bulk with state := 5 } } : Agent).bulkReport (d.bulk.held.getD 0) 5 else d)) ∧
  (∀ (s : State) (die : Nat) (r : RestartSt) (a b : Agent), (s.agent die).restart = some r →
    a = (s.agent die).onDev (fun d => { d with fw := r.prev }) →
    b = (({ a with restart := some { r with since := a.dev.time, prev := 1 - r.prev, activated := false } } : Agent).bump Obj.AG_RESTARTS).event 0x304 0 →
    exec (.restartTimeout die) s = s.withAgent die
      (if r.activated then ({ b with bulk := { b.bulk with state := 6 } } : Agent).bulkReport (b.bulk.held.getD 0) 6 else b)) ∧
  (∀ (s : State) (die : Nat), (s.agent die).hears = true → (s.agent die).maySleep = true →
    exec (.sentinelEntryAgent die) s = s.withAgent die ((s.agent die).sleep false)) ∧
  (∀ (s : State) (die cause : Nat) (a : Agent), cause ∈ [3, 7, 8, 9] → (s.agent die).link.asleep = true → (s.agent die).link.thermal = false →
    a = (({ s.agent die with link := { (s.agent die).link with asleep := false, thermal := false } } : Agent).onDev
      (fun d => { d with domains := [], waking := [] })).setObj Obj.PW_WAKE_CAUSE cause →
    exec (.sentinelExitAgent die cause) s = s.withAgent die (a.stopCores a.dev.fw false false)) ∧
  (∀ (s : State) (die : Nat), exec (.agentUndervoltage die) s = s.withAgent die
    (({ s.agent die with link := { (s.agent die).link with lowSupply := true } } : Agent).reset 0))

/-- A local access of an object that has a row of its own is that row's command. A DICT_WRITE of a command object, or of another
object with a row, that passes the checks of a write does what the row does with the same request and value; a DICT_READ of
SC_NONCE, ER_READ or TS_READ that passes the checks of a read does what the row does. That a general access acts as its row
is the model's reading (log entry 43). The next state answered is given for DICT_WRITE, DICT_READ. -/
def Obligations.AccessesActAsTheirRows : Prop :=
  (∀ (s : State) (req : Req) (data : List Byte) (e : Nat × (Req → Nat → Instr)),
    e ∈ ([(Obj.DS_RESTART, .dsRestart), (Obj.BT_FRESH, .btFresh), (Obj.RB_CLEAR, .rbClear), (Obj.LD_RUN, .ldRun), (Obj.IL_REDRAW, .ilRedraw),
      (Obj.IMP_FULL, .impFull), (Obj.IS_READMIT, .isReadmit), (Obj.IA_RESTORE, .iaRestore), (Obj.CV_GO, .cvGo), (Obj.LP_LOAD, .lpLoad),
      (Obj.RD_HANDOVER, .rdHandover), (Obj.TR_RESYNC, .trResync), (Obj.RS_COMMIT, .rsCommit), (Obj.EP_READMIT, .epReadmit),
      (Obj.LK_READMIT, .lkReadmit), (Obj.SC_FUSES_SET, .scFusesSet), (Obj.AT_GO, .atGo), (Obj.PK_ROTATE, .pkRotate),
      (Obj.RL_COMMIT, .rlCommit), (Obj.P_PART_CREATE, .pPartCreate), (Obj.P_PART_DELETE, .pPartDelete), (Obj.P_RECOMPUTE, .pRecompute),
      (Obj.P_HA_SWITCHOVER, .pHaSwitchover), (Obj.CV_CANCEL, .cvCancel)] : List (Nat × (Req → Nat → Instr))) →
    s.mgr.turn req e.1 true data = true → s.mgr.writeResult req e.1 data = 0 → exec (.dictWrite req e.1 data) s = exec (e.2 req (leNat data)) s) ∧
  (∀ (s : State) (req : Req) (data : List Byte) (e : Nat × Nat × (Req → Instr)),
    e ∈ ([(Obj.LP_RUN, 1, .lpRunStart), (Obj.LP_RUN, 2, .lpRunStop), (Obj.CX_RELEASE, 1, .cxReleaseDrain), (Obj.CX_RELEASE, 2, .cxReleasePurge),
      (Obj.EV_CLEAR, 1, .evClearCirculating), (Obj.EV_CLEAR, 2, .evClearFirst), (Obj.EV_CLEAR, 3, .evClearBoth),
      (Obj.FW_GO, 2, .fwActivate), (Obj.FW_GO, 3, .fwAbort)] : List (Nat × Nat × (Req → Instr))) →
    s.mgr.turn req e.1 true data = true → s.mgr.writeResult req e.1 data = 0 → leNat data = e.2.1 → exec (.dictWrite req e.1 data) s = exec (e.2.2 req) s) ∧
  (∀ (s : State) (req : Req) (data : List Byte) (e : Nat × (Req → List Byte → Instr)),
    e ∈ ([(Obj.LP_IMAGE, .lpImageWrite), (Obj.BP_IMAGE, .bpImage), (Obj.FW_IMAGE, .fwImage), (Obj.TS_SUBSCRIBE, .tsSubscribe)] :
      List (Nat × (Req → List Byte → Instr))) →
    s.mgr.turn req e.1 true data = true → s.mgr.writeResult req e.1 data = 0 → exec (.dictWrite req e.1 data) s = exec (e.2 req data) s) ∧
  (∀ (s : State) (req : Req) (e : Nat × (Req → Instr)),
    e ∈ ([(Obj.SC_NONCE, .scNonce), (Obj.ER_READ, .erRead), (Obj.TS_READ, .tsRead)] : List (Nat × (Req → Instr))) →
    s.mgr.turn req e.1 false [] = true → s.mgr.readResult req e.1 = 0 → exec (.dictRead req e.1) s = exec (e.2 req) s)

/-- Local reads and writes of the dictionary, replies of agents, and the partition and recompute commands. DICT_READ that passes
is answered with its bytes and DICT_WRITE that passes takes effect, each failing one is answered with the first check that
fails and changes nothing else; a request whose turn among its function's has not come waits. DICT_REPLY ends the proxied
request it answers; PROXY_TIMEOUT ends it with NO_REPLY's code. P_PART_CREATE, P_PART_DELETE and P_RECOMPUTE have the
effects of the writes they stand for. The next state answered is given for DICT_READ, DICT_WRITE, DICT_REPLY, PROXY_TIMEOUT,
P_PART_CREATE, P_PART_DELETE, P_RECOMPUTE. -/
def Obligations.DictionaryIsServed : Prop :=
  (∀ (s : State) (req : Req) (key : Nat) (data : List Byte),
    (s.mgr.turn req key false [] = true → s.mgr.readResult req key ≠ 0 → exec (.dictRead req key) s = s.withMgr (s.mgr.answer req (s.mgr.readResult req key))) ∧
    (s.mgr.turn req key true data = true → s.mgr.writeResult req key data ≠ 0 → exec (.dictWrite req key data) s = s.withMgr (s.mgr.answer req (s.mgr.writeResult req key data)))) ∧
  (∀ (s : State) (req : Req) (key : Nat) (data : List Byte),
    (s.mgr.turn req key false [] = false → exec (.dictRead req key) s = s.withMgr s.mgr) ∧
    (s.mgr.turn req key true data = false → exec (.dictWrite req key data) s = s.withMgr s.mgr)) ∧
  (∀ (s : State) (req : Req) (key : Nat) (r : ObjRow), s.mgr.turn req key false [] = true → s.mgr.readResult req key = 0 → rowReads.contains key = false → sweepKeys.contains key = false →
    objRow key = some r → exec (.dictRead req key) s = s.withMgr
      ((s.mgr.onDev (fun d => d.afterRead key)).answer req 0 (s.mgr.readBytes req.fn (s.mgr.reached req) key r))) ∧
  (∀ (s : State) (req : Req) (key : Nat) (data : List Byte) (r : ObjRow), s.mgr.turn req key true data = true → s.mgr.writeResult req key data = 0 → rowObjs.contains key = false →
    objRow key = some r → r.acc ≠ .cmd → (ownKey (nativeKey key) = true ∨ s.mgr.leads = true) → (ownKey (nativeKey key) = true → s.mgr.dev.net.replay = false) →
    exec (.dictWrite req key data) s = s.withMgr
      (((s.mgr.entry (.dictWrite req key data)).writeObj req.fn (s.mgr.reached req) key data).answerWrite req 0)) ∧
  (∀ (s : State) (hdr : Hdr) (tag result : Nat) (data : List Byte) (m : Manager) (p : Proxied), s.mgr.takes dictReplyFrame hdr →
    m = s.mgr.after dictReplyFrame hdr → tag ≠ 0 → m.host.proxied.find? (fun p => p.num == tag && p.nid == hdr.src) = some p →
    exec (.dictReply hdr tag result data) s = s.withMgr (m.endProxy p result data)) ∧
  (∀ (s : State) (num : Nat) (p : Proxied), s.mgr.host.proxied.find? (fun p => p.num == num) = some p →
    exec (.proxyTimeout num) s = s.withMgr (s.mgr.endProxy p 0x000C [])) ∧
  (∀ (s : State) (req : Req) (m : Manager), s.mgr.grants req Obj.P_PART_CREATE 1 → s.mgr.obj Obj.DS_STATE = 4 → s.mgr.sl.placing = none →
    m = (s.mgr.entry (.pPartCreate req 1)).stagePart.goCarve →
    exec (.pPartCreate req 1) s = s.withMgr (({ m with sl := { m.sl with profile := if m.obj Obj.CV_CTX = 0 then none else some (m.obj Obj.CV_CTX) } } :
      Manager).answerWrite req 0)) ∧
  (∀ (s : State) (req : Req), s.mgr.grants req Obj.P_PART_DELETE 1 → s.mgr.obj Obj.LP_SEL_CTX ≠ 0 →
    exec (.pPartDelete req 1) s = s.withMgr (((s.mgr.entry (.pPartDelete req 1)).purgeStart (s.mgr.obj Obj.LP_SEL_CTX)).answerWrite req 0)) ∧
  (∀ (s : State) (req : Req), s.mgr.grants req Obj.P_RECOMPUTE 1 → s.mgr.obj Obj.DS_STATE = 4 →
    exec (.pRecompute req 1) s = s.withMgr ((((s.mgr.entry (.pRecompute req 1)).setObj Obj.IMP_FULL 1).wantNow).answerWrite req 0))

/-- Slots and descriptors carry requests over the barrier, and their answers come back. DW_GO sets GO and issues the slot's
request, but for a slot that has GO set, or one past 255 of a virtual function, which is counted alone. DICT_REPLY_HOST
fills the slot of a request with GO set. DQ_TAIL that leaves at most 255 outstanding issues each new descriptor in order,
another is counted alone. DESCRIPTOR_COMPLETE completes the descriptor at DQ_HEAD. REGISTER_WRITE reaches the registers of
BAR 0, the ring or the rest, and outside the BARs nothing. FLR of a bound virtual function resets it and clears its
doorbells. The next state answered is given for DW_GO, DICT_REPLY_HOST, DQ_TAIL, DESCRIPTOR_COMPLETE, REGISTER_WRITE, FLR. -/
def Obligations.HostRequestsCross : Prop :=
  (∀ (s : State) (fn slot : Nat) (irq : Bool) (m : Manager), s.mgr.host.perst = false → (fn = 0 ∨ slot < 256) →
    (mapGetD (s.mgr.fnSt fn).slots slot {}).go = false → m = s.mgr.onSlot fn slot (fun d => { d with go := true, irq := irq }) →
    exec (.dwGo fn slot irq) s = s.withMgr (m.issue (.dwGo fn slot irq) (m.slotReq fn slot))) ∧
  (∀ (s : State) (fn slot : Nat) (irq : Bool), s.mgr.host.perst = false → (mapGetD (s.mgr.fnSt fn).slots slot {}).go = true →
    exec (.dwGo fn slot irq) s = s.withMgr s.mgr.badAccess) ∧
  (∀ (s : State) (fn slot : Nat) (a : Answer) (m : Manager) (d : DictSlot), s.mgr.host.barrier = true → s.mgr.takeAnswer ⟨fn, slot⟩ = some (a, m) →
    d = mapGetD (m.fnSt fn).slots slot {} → exec (.dictReplyHost fn slot) s = s.withMgr
      (if d.go then (m.onSlot fn slot (fun d => d.fill a)).transferred fn d.irq else m)) ∧
  (∀ (s : State) (fn v : Nat) (bufs : SMap (List Byte)) (f : HostFn), f = s.mgr.fnSt fn → s.mgr.host.perst = false → v < 2 ^ 32 →
    (v + 2 ^ 32 - f.dqHead) % 2 ^ 32 ≤ 255 → (f.dqTail + 2 ^ 32 - f.dqHead) % 2 ^ 32 ≤ (v + 2 ^ 32 - f.dqHead) % 2 ^ 32 →
    exec (.dqTail fn v bufs) s = s.withMgr ((ringSpan f.dqTail v).foldl (fun (m : Manager) i =>
      m.issue (.dqTail fn v bufs) (m.descReq fn i (mapGetD bufs i []))) (s.mgr.setFn fn { f with dqTail := v }))) ∧
  (∀ (s : State) (fn v : Nat) (bufs : SMap (List Byte)), s.mgr.host.perst = false → v < 2 ^ 32 →
    255 < (v + 2 ^ 32 - (s.mgr.fnSt fn).dqHead) % 2 ^ 32 → exec (.dqTail fn v bufs) s = s.withMgr s.mgr.badAccess) ∧
  (∀ (s : State) (fn i d : Nat) (a : Answer) (m m' : Manager) (f : HostFn), f = s.mgr.fnSt fn → i = f.dqHead % 256 → s.mgr.host.barrier = true →
    f.dqHead ≠ f.dqTail → s.mgr.takeAnswer ⟨fn, descTag i⟩ = some (a, m) → d = mapGetD f.ring i 0 →
    m' = m.setFn fn { f with ring := mapSet f.ring i (descDone d (descOutcome d a).1 (descOutcome d a).2.1), dqHead := (f.dqHead + 1) % 2 ^ 32 } →
    exec (.descriptorComplete fn) s = s.withMgr (((if (descOutcome d a).2.2.isEmpty then m' else
      { m' with host := { m'.host with dma := m'.host.dma ++ [(bitsOf d 511 448, (descOutcome d a).2.2)] } }) : Manager).transferred fn (bitOf d 308))) ∧
  (∀ (s : State) (fn bar off width value : Nat), s.mgr.host.perst = false → exec (.registerWrite fn bar off width value) s = s.withMgr
    (if barHolds fn bar off = false then s.mgr else if bar = 0 then s.mgr.writeBar0 fn off width value else if off < 0x4000 then s.mgr.writeRing fn off width value
     else s.mgr.widthOnly dqRegs off width)) ∧
  (∀ (s : State) (fn c : Nat), s.mgr.fnCtx fn = some c → c ≠ 0 → exec (.flr fn) s = s.withMgr
    ((s.mgr.resetFn fn 0x000E).clearBells c))

/-- Host mailboxes, doorbells, interrupt registers and CRC feed windows. HOST_MAILBOX_GO of an owned idle mailbox posts its
message, at once or when the barrier comes up; of a mailbox the function does not own it is counted alone. A message
firmware takes has the effect of its code and is answered OK. MB_ACK_HOST shows TAKEN, then DONE with the code, and raises
MAILBOX. DB_SET and DB_CLEAR change the owned bits named. INT_STATUS_CLEAR clears the causes written as 1. INT_MASK_WRITE
sends the message of each set cause it unmasks. CF_CTL restarts a window at the initial value of its polynomial, CF_FEED
feeds its bytes. The next state answered is given for HOST_MAILBOX_GO, MB_DOORBELL, PING, HOST_LOG, MARK, MB_ACK_HOST,
DB_SET, DB_CLEAR, INT_STATUS_CLEAR, INT_MASK_WRITE, CF_CTL, CF_FEED8, CF_FEED16, CF_FEED32. -/
def Obligations.MailboxesDoorbellsInterrupts : Prop :=
  (∀ (s : State) (fn box : Nat), s.mgr.host.perst = false → s.mgr.ideBlock = false → box < 64 →
    (s.mgr.mayPost fn box = false → exec (.hostMailboxGo fn box) s = s.withMgr s.mgr.badAccess) ∧
    (s.mgr.mayPost fn box = true → (s.mgr.mbox box).go = false → s.mgr.host.barrier = true → exec (.hostMailboxGo fn box) s = s.withMgr
      ((s.mgr.onMbox box (fun x => { x with go := true, taken := false, done := false, waits := false })).post box)) ∧
    (s.mgr.mayPost fn box = true → (s.mgr.mbox box).go = false → s.mgr.host.barrier = false → exec (.hostMailboxGo fn box) s = s.withMgr
      (s.mgr.onMbox box (fun x => { x with go := true, taken := false, done := false, waits := true })))) ∧
  (∀ (s : State) (box c : Nat) (x : Mailbox) (m : Manager), x = s.mgr.mbox box → x.posted = true → s.mgr.fwRuns = true →
    c = s.mgr.mboxCtx box →
    m = (s.mgr.onMbox box (fun x => { x with posted := false, alive := some (bitsOf x.hdr 31 24), acks := [none, some 0] })).bump (ctxKey Obj.MBX_DONE c) →
    (x.msgCode = 0 → exec (.mbDoorbell box) s = s.withMgr m) ∧ (x.msgCode = 1 → exec (.ping box) s = s.withMgr m) ∧
    (x.msgCode = 2 → exec (.hostLog box) s = s.withMgr (m.eventWith 0x380 c (padded x.payload))) ∧
    (x.msgCode = 3 → exec (.mark box) s = s.withMgr (m.markTel c (leNat x.payload)))) ∧
  (∀ (s : State) (box : Nat) (rest : List (Option Nat)), s.mgr.host.barrier = true →
    ((s.mgr.mbox box).acks = none :: rest → exec (.mbAckHost box) s = s.withMgr (s.mgr.onMbox box (fun x => { x with taken := true, acks := rest }))) ∧
    (∀ code, (s.mgr.mbox box).acks = some code :: rest → exec (.mbAckHost box) s = s.withMgr ((s.mgr.onMbox box (fun x =>
      { x with go := false, done := true, code := code, echo := bitsOf x.hdr 31 24, acks := rest })).raiseCtx (s.mgr.mboxCtx box) 6))) ∧
  (∀ (s : State) (fn q v : Nat), s.mgr.bellsHeld fn = false → q < 4 → (∀ b ∈ quadBits q v, s.mgr.mayRing fn b = true) →
    exec (.dbSet fn q v) s = s.withMgr ((quadBits q v).foldl (fun m b => m.dbSet b) s.mgr) ∧
    exec (.dbClear fn q v) s = s.withMgr ((quadBits q v).foldl (fun m b => m.dbClear b) s.mgr)) ∧
  (∀ (s : State) (fn v : Nat) (f : HostFn), s.mgr.host.perst = false → s.mgr.bound fn = true → f = s.mgr.fnSt fn →
    exec (.intStatusClear fn v) s = s.withMgr (s.mgr.setFn fn { f with intStatus := f.intStatus - (f.intStatus &&& v) }) ∧
    (v < 256 → exec (.intMaskWrite fn v) s = s.withMgr
      (((upTo 8).filter (fun i => bitOf f.intMask i && !bitOf v i && bitOf f.intStatus i)).foldl (fun m i => m.msi fn i)
        (s.mgr.setFn fn { f with intMask := v })))) ∧
  (∀ (s : State) (k v : Nat) (w : CrcFeed), s.mgr.host.perst = false → k < 4 → w = mapGetD s.mgr.host.feeds k {} → w.code < 4 →
    (v < 4 → exec (.cfCtl 0 k v) s = s.withMgr
      { s.mgr with host := { s.mgr.host with feeds := mapSet s.mgr.host.feeds k { code := v, acc := crcInit v } } }) ∧
    exec (.cfFeed8 0 k v) s = s.withMgr
      { s.mgr with host := { s.mgr.host with feeds := mapSet s.mgr.host.feeds k { w with acc := (leBytes 1 v).foldl (crcFeed w.code) w.acc } } } ∧
    exec (.cfFeed16 0 k v) s = s.withMgr
      { s.mgr with host := { s.mgr.host with feeds := mapSet s.mgr.host.feeds k { w with acc := (leBytes 2 v).foldl (crcFeed w.code) w.acc } } } ∧
    exec (.cfFeed32 0 k v) s = s.withMgr
      { s.mgr with host := { s.mgr.host with feeds := mapSet s.mgr.host.feeds k { w with acc := (leBytes 4 v).foldl (crcFeed w.code) w.acc } } })

/-- Sync objects: every operation of each kind, for a function that reaches the object. With the barrier up and no IDE block, an
object reached counts the operation and: SO_CFG resets it; SO_VALUE sets a COUNTER or SEMAPHORE; SO_OP adds to a COUNTER
modulo 2^64, to a SEMAPHORE saturating, sets or clears an EVENT, releases a LOCK; SO_TARGET sets a COUNTER's threshold. A
free plain LOCK is acquired and LOCK_ACQ returns 0, a held one returns 2^16 + its holder; SEM_ACQ takes a count there is and
returns 1, else 0; LOCK_TICKET in ticket mode issues the next ticket while fewer than 64 are outstanding. A COUNTER that
crosses its target, a SEMAPHORE that leaves 0 and an EVENT that becomes set fire. Manager firmware acquires a lock as 0xFFFF
whatever the host link's state. SO_VALUE of a held LOCK reads 2^16 + its holder; a read of another width returns zero and is
counted. The next state answered is given for LOCK_ACQ, SO_CFG, SO_VALUE_WRITE, SO_OP_COUNTER, SO_TARGET_WRITE,
SO_OP_SEMAPHORE, SO_OP_EVENT_SET, SO_OP_EVENT_CLEAR, SO_OP_LOCK_RELEASE, SEM_ACQ, LOCK_TICKET. -/
def Obligations.SyncObjectsRun : Prop :=
  (∀ (s : State) (n : Nat) (o : SyncObj), n < 8192 → o = s.mgr.sync n → syncKind o.cfg = .lock → bitOf o.cfg 2 = false → o.holder = none →
    exec (.lockAcq fwFn n) s = s.withMgr (((s.mgr.bump Obj.SY_OPS).setSync n { o with holder := some 0xFFFF }).returns 0)) ∧
  (∀ (m : Manager) (fn n h w : Nat), m.host.perst = false → m.host.barrier = true → m.ideBlock = false → n < 8192 → m.reachesSync fn n = true →
    fn < 256 → m.bound fn = true → syncKind (m.sync n).cfg = .lock → bitOf (m.sync n).cfg 2 = false → (m.sync n).holder = some h → h < 2 ^ 16 →
    m.hostRead fn 0 (0x200008 + 64 * n) 8 = some (m.bump Obj.SY_OPS, 2 ^ 16 + h) ∧
    (w ≠ 8 → m.hostRead fn 0 (0x200008 + 64 * n) w = some (m.badAccess, 0))) ∧
  (∀ (s : State) (fn n : Nat) (m : Manager) (o : SyncObj), s.mgr.host.perst = false → s.mgr.host.barrier = true → s.mgr.ideBlock = false → n < 8192 →
    s.mgr.reachesSync fn n = true → m = s.mgr.bump Obj.SY_OPS → o = s.mgr.sync n →
    (∀ v, v < 2 ^ 32 → exec (.soCfg fn n v) s = s.withMgr (m.setSync n (syncInit v))) ∧
    (∀ v, syncKind o.cfg = .counter → v < 2 ^ 64 →
      exec (.soValueWrite fn n v) s = s.withMgr (if o.value < o.target ∧ o.target ≤ v then (m.setSync n { o with value := v }).fire n else m.setSync n { o with value := v }) ∧
      exec (.soOpCounter fn n v) s = s.withMgr (m.syncPut n ((o.value + v) % 2 ^ 64)) ∧
      exec (.soTargetWrite fn n v) s = s.withMgr (m.setSync n { o with target := v })) ∧
    (∀ v, syncKind o.cfg = .semaphore → v < 2 ^ 32 →
      exec (.soValueWrite fn n v) s = s.withMgr (if o.value = 0 ∧ 0 < v then (m.setSync n { o with value := v }).fire n else m.setSync n { o with value := v }) ∧
      exec (.soOpSemaphore fn n v) s = s.withMgr (m.syncPut n (min (o.value + v) 0xFFFFFFFF))) ∧
    (syncKind o.cfg = .event →
      exec (.soOpEventSet fn n) s = s.withMgr (if o.value = 0 then (m.setSync n { o with value := 1 }).fire n else m.setSync n { o with value := 1 }) ∧
      exec (.soOpEventClear fn n) s = s.withMgr (m.setSync n { o with value := 0 })) ∧
    (syncKind o.cfg = .lock → exec (.soOpLockRelease fn n) s = s.withMgr
      (if lockFires o (releaseLock (m.ridOf fn) o) then (m.setSync n (releaseLock (m.ridOf fn) o)).fire n else m.setSync n (releaseLock (m.ridOf fn) o))) ∧
    (syncKind o.cfg = .lock → bitOf o.cfg 2 = false →
      (o.holder = none → exec (.lockAcq fn n) s = s.withMgr ((m.setSync n { o with holder := some (m.ridOf fn) }).returns 0)) ∧
      (∀ h, o.holder = some h → exec (.lockAcq fn n) s = s.withMgr (m.returns (0x10000 + h)))) ∧
    (syncKind o.cfg = .semaphore → exec (.semAcq fn n) s = s.withMgr
      (if 0 < o.value then (m.setSync n { o with value := o.value - 1 }).returns 1 else m.returns 0)) ∧
    (syncKind o.cfg = .lock → bitOf o.cfg 2 = true → o.tickets.length < 64 → exec (.lockTicket fn n) s = s.withMgr
      ((m.setSync n { o with tickets := o.tickets ++ [{ num := o.next, rid := m.ridOf fn }], next := (o.next + 1) % 65536 }).returns o.next)) ∧
    (syncKind o.cfg = .lock → bitOf o.cfg 2 = true → 64 ≤ o.tickets.length → exec (.lockTicket fn n) s = s.withMgr (m.returns 0xFFFFFFFF)))

/-- The barrier falls and rises, its lanes fail, firmware heartbeats and stalls, and PERST# resets the host side. BARRIER_DOWN
and FW_STALL raise LINK at the physical function once; FW_HEARTBEAT advances HS_FW_HB, writes HS_TIME and ends a stall.
BARRIER_UP completes with RETRY what was accepted and sends again what was not. LANE_FAILURE retrains at 16 or 8 lanes and
counts the frames replayed; frames replayed or discarded while no lane fails are counted. PERST resets the host side and
drops the barrier; PERST_DEASSERTION takes the link, NumVFs and requester ID. A read of HS_STATUS gives lanes, UNBOUND,
IDE_BLOCK, FW_STALL and BARRIER_UP, of HS_CONTEXT the context, of CF_RESULT the CRC of the bytes fed; an unbound virtual
function reads zero elsewhere, and a read outside the BARs is no access. The next state answered is given for BARRIER_DOWN,
FW_HEARTBEAT, FW_STALL, BARRIER_UP, LANE_FAILURE, PERST, PERST_DEASSERTION. -/
def Obligations.BarrierAndResets : Prop :=
  (∀ (m : Manager) (fn off w : Nat), m.host.perst = false →
    (fn < 256 → m.hostRead fn 0 0x104000 4 = some (m, m.host.lanes / 8 * 16 + (if (m.fnCtx fn).isSome then 0 else 8) +
      (if m.obj Obj.SC_MODE = 2 ∧ m.obj Obj.HL_IDE = 0 then 4 else 0) + (if m.host.fwStall then 2 else 0) + (if m.host.barrier then 1 else 0))) ∧
    m.hostRead 0 0 0x104004 4 = some (m, 0x80000000) ∧
    (∀ c, m.fnCtx fn = some c → fn < 256 → m.hostRead fn 0 0x104004 4 = some (m, 0x80000000 + c)) ∧
    (m.fnCtx fn = none → fn < 256 → 0x104004 ≤ off → off < 0x400000 → ∃ n, m.hostRead fn 0 off w = some (n, 0)) ∧
    (∀ k x, k < 4 → x = mapGetD m.host.feeds k {} → x.code < 4 → m.hostRead 0 0 (0x103018 + 0x40 * k) 4 = some (m, crcFinal x.code x.acc)) ∧
    (0x4000000 ≤ off → m.hostRead 0 0 off w = none)) ∧
  (∀ s : State, s.mgr.host.barrier = true →
    exec .barrierDown s = s.withMgr (({ s.mgr with host := { s.mgr.host with barrier := false } } : Manager).raiseInt 0 7)) ∧
  (∀ s : State, s.mgr.host.barrier = true → s.mgr.fwRuns = true → ∃ m : Manager,
    m = { s.mgr with host := { s.mgr.host with fwHb := (s.mgr.host.fwHb + 1) % 2 ^ 64, fwTime := s.mgr.dev.time, fwStall := false } } ∧
    exec .fwHeartbeat s = s.withMgr (if s.mgr.host.fwStall then m.raiseInt 0 7 else m)) ∧
  (∀ s : State, s.mgr.host.fwStall = false → s.mgr.host.perst = false →
    exec .fwStall s = s.withMgr (({ s.mgr with host := { s.mgr.host with fwStall := true } } : Manager).raiseInt 0 7)) ∧
  (∀ (s : State) (accepted : List Req) (m n : Manager), s.mgr.host.barrier = false → s.mgr.host.perst = false → s.mgr.pwr.off = false →
    s.mgr.pwr.asleep = false →
    m = accepted.foldl (fun m r => m.retry r) (({ s.mgr with host := { s.mgr.host with barrier := true } } : Manager).raiseInt 0 7) →
    n = m.host.waiting.foldl (fun (m : Manager) w => m.accept (.barrierUp accepted)
      (if w.1.tag < 0x10000 then m.slotReq w.1.fn w.1.tag else m.descReq w.1.fn (w.1.tag - 0x10000) w.2))
      { m with host := { m.host with waiting := [] } } →
    exec (.barrierUp accepted) s = s.withMgr n.postHeld) ∧
  (∀ (s : State) (lanes frames : Nat), (lanes = 16 ∨ lanes = 8) → lanes < s.mgr.host.lanes → exec (.laneFailure lanes frames) s = s.withMgr
    ((({ s.mgr with host := { s.mgr.host with lanes := lanes } } : Manager).setObj Obj.HL_LANES lanes).bumpBy Obj.HS_BARRIER_ERR frames)) ∧
  (∀ (s : State) (frames : Nat), exec (.laneFailure s.mgr.host.lanes frames) s = s.withMgr (s.mgr.bumpBy Obj.HS_BARRIER_ERR frames)) ∧
  (∀ s : State, ∃ m : Manager, exec .perst s = s.withMgr (((m.setObj Obj.HL_RATE 0).setObj Obj.HL_WIDTH 0).setObj Obj.HL_IDE 0) ∧ m.host.perst = true ∧ m.host.barrier = false ∧ m.host.fns = [] ∧ m.host.numVfs = 0 ∧
    m.host.doorbells = 0 ∧ m.host.feeds = [] ∧ m.host.answers = [] ∧ m.host.waiting = [] ∧ m.host.proxied = [] ∧ m.host.fwStall = false ∧
    m.host.fwHb = 0 ∧ m.host.fwTime = 0 ∧
    m.host.syncs = s.mgr.host.syncs ∧ m.host.dma = s.mgr.host.dma ∧ m.host.msis = s.mgr.host.msis ∧ m.eng = s.mgr.eng ∧ m.sl = s.mgr.sl ∧
    m.fab = s.mgr.fab ∧ m.red = s.mgr.red ∧ m.sec = s.mgr.sec ∧ m.dev = s.mgr.dev) ∧
  (∀ (s : State) (rate width numVfs rid : Nat), s.mgr.host.perst = true → 1 ≤ rate → rate ≤ 7 → width ∈ [1, 4, 8, 16] → numVfs ≤ 255 → exec (.perstDeassertion rate width numVfs rid) s = s.withMgr
    ((({ s.mgr with host := { s.mgr.host with perst := false, numVfs := numVfs, rid := rid }, pwr := { s.mgr.pwr with wake := false } } : Manager).setObj
      Obj.HL_RATE rate).setObj Obj.HL_WIDTH width))

/-- Power domains rest, begin to wake and wake, and a written budget wakes what it no longer permits. DOMAIN_STATE_ENTRY takes a
domain that no work has begun to wake to the deepest state its row and budget permit, where that is deeper. WORK_ARRIVAL
begins the wake of a domain in IDLE or STANDBY. DOMAIN_WAKE_COMPLETE ends it. PWR_WAKE_BUDGET writes the budget and begins
the wake of every domain deeper than it permits. The same at the manager module and at an agent. The next state answered is
given for DOMAIN_STATE_ENTRY, WORK_ARRIVAL, DOMAIN_WAKE_COMPLETE, PWR_WAKE_BUDGET. -/
def Obligations.DomainsRestAndWake : Prop :=
  (∀ (s : State) (i : Nat) (quiet : Bool), s.mgr.pwr.asleep = false → s.mgr.pwr.off = false → s.mgr.dev.waking.contains i = false →
    s.mgr.dev.domain i < s.mgr.dev.deepest i (s.mgr.permits i quiet) →
    exec (.domainStateEntry none i quiet) s = s.withMgr (s.mgr.onDev (fun d => { d with
      domains := mapSet d.domains i (d.deepest i (s.mgr.permits i quiet)), waking := d.waking.filter (fun k => k != i) }))) ∧
  (∀ (s : State) (die i : Nat) (quiet : Bool), (s.agent die).hears = true → (s.agent die).dev.waking.contains i = false →
    (s.agent die).dev.domain i < (s.agent die).dev.deepest i ((s.agent die).permits i quiet) →
    exec (.domainStateEntry (some die) i quiet) s = s.withAgent die ((s.agent die).onDev (fun d => { d with
      domains := mapSet d.domains i (d.deepest i ((s.agent die).permits i quiet)), waking := d.waking.filter (fun k => k != i) }))) ∧
  (∀ (s : State) (i : Nat), (s.mgr.dev.domain i = 1 ∨ s.mgr.dev.domain i = 2) → s.mgr.pwr.asleep = false →
    exec (.workArrival none i) s = s.withMgr (s.mgr.onDev (fun d => { d with waking := insNat d.waking i }))) ∧
  (∀ (s : State) (die i : Nat), ((s.agent die).dev.domain i = 1 ∨ (s.agent die).dev.domain i = 2) → (s.agent die).hears = true →
    exec (.workArrival (some die) i) s = s.withAgent die ((s.agent die).onDev (fun d => { d with waking := insNat d.waking i }))) ∧
  (∀ (s : State) (i : Nat), s.mgr.dev.waking.contains i = true → exec (.domainWakeComplete none i) s = s.withMgr
    (s.mgr.onDev (fun d => { d with domains := mapDel d.domains i, waking := d.waking.filter (fun k => k != i) }))) ∧
  (∀ (s : State) (die i : Nat), (s.agent die).dev.waking.contains i = true → exec (.domainWakeComplete (some die) i) s = s.withAgent die
    ((s.agent die).onDev (fun d => { d with domains := mapDel d.domains i, waking := d.waking.filter (fun k => k != i) }))) ∧
  (∀ (s : State) (req : Req) (sub : Nat) (data : List Byte), s.mgr.writeResult req (0x130000 + sub) data = 0 →
    exec (.pwrWakeBudget req sub data) s = s.withMgr (((s.mgr.writeObj req.fn 0 (0x130000 + sub) data).onDev Dev.wakeDeeper).answer req 0))

/-- The manager module sleeps and wakes, and both parts act on temperature and on the reference clock. A manager that may sleep
enters SENTINEL; a wake source ends it, latching its cause: the wake time, a signal, a presence, and after a thermal entry
the temperature alone. AGENT_PARKED marks the node. TEMP_WARNING sets DV_HEALTH and is recorded; TEMP_CRITICAL enters
SENTINEL at once, at a manager after a module fault; TEMP_RECOVERED wakes the part. REFERENCE_LOST stops the field ports and
sets PW_REF_LOST, REFERENCE_RESTORED brings them back. A signal or a presence at a part that is awake wakes the port's
domain. The next state answered is given for SENTINEL_ENTRY_MANAGER, SENTINEL_EXIT_MANAGER, PW_WAKE_AT, SIGNAL_DETECT,
TRIAD_PRESENCE_GAIN, TEMP_RECOVERED, AGENT_PARKED, TEMP_WARNING, SUPPLY_WARNING, TEMP_CRITICAL, REFERENCE_LOST,
REFERENCE_RESTORED. -/
def Obligations.SentinelAndComparators : Prop :=
  (∀ s : State, s.mgr.pwr.asleep = false → s.mgr.pwr.off = false → s.mgr.dev.net.replay = false → s.mgr.maySleep = true → s.mgr.leads = true →
    s.mgr.red.slot = none → exec .sentinelEntryManager s = s.withMgr (s.mgr.sleep false)) ∧
  (∀ (s : State) (start : StartIn), s.mgr.pwr.asleep = true → s.mgr.pwr.thermal = false →
    (∀ cause ∈ [2, 3, 4, 5], exec (.sentinelExitManager cause start) s = s.withMgr (s.mgr.wakeUp cause start)) ∧
    (s.mgr.obj Obj.PW_WAKE_AT ≠ 0 → exec (.pwWakeAt none start) s = s.withMgr (s.mgr.wakeUp 1 start)) ∧
    (∀ port, exec (.signalDetect none port start) s = s.withMgr (s.mgr.wakeUp 3 start) ∧
      exec (.triadPresenceGain port start) s = s.withMgr (s.mgr.wakeUp 4 start))) ∧
  (∀ (s : State) (start : StartIn), s.mgr.pwr.asleep = true → s.mgr.pwr.thermal = true →
    exec (.tempRecovered none start) s = s.withMgr ((s.mgr.wakeUp 6 start).onDev Dev.cool) ∧
    (∀ port, exec (.signalDetect none port start) s = s.withMgr s.mgr)) ∧
  (∀ (s : State) (start : StartIn) (port : Nat), s.mgr.pwr.asleep = false →
    (port < 8 → exec (.signalDetect none port start) s = s.withMgr (s.mgr.onDev (fun d => d.wakeDomain (81 + port)))) ∧
    (port < 2 → exec (.triadPresenceGain port start) s = s.withMgr (s.mgr.onDev (fun d => d.wakeDomain (90 + port))))) ∧
  (∀ (s : State) (nid : Nat) (n : NodeInfo), mapGet s.mgr.fab.nodes nid = some n →
    exec (.agentParked nid) s = s.withMgr ((s.mgr.entry (.agentParked nid)).setNode nid { n with parked := true })) ∧
  (∀ s : State, s.mgr.pwr.off = false →
    exec (.tempWarning none) s = s.withMgr ((s.mgr.onDev Dev.hot).event 0x305 0) ∧
    exec .supplyWarning s = s.withMgr ((s.mgr.onDev (fun d => { d with health := d.health ||| 0x10 })).event 0x306 0) ∧
    (s.mgr.pwr.asleep = false → exec (.tempCritical none) s = s.withMgr (s.mgr.moduleFault.sleep true))) ∧
  (∀ (s : State) (m : Manager), s.mgr.pwr.off = false → s.mgr.pwr.portsHeld = false →
    m = (s.mgr.setObj Obj.PW_REF_LOST 1).onDev (fun d => { d with net := { d.net with ports := [] } }) →
    exec (.referenceLost none) s = s.withMgr (({ m with pwr := { m.pwr with portsHeld := true }
                                                        fab := { m.fab with nodes := m.fab.nodes.map (fun (n : Nat × NodeInfo) =>
                                                          (n.1, { n.2 with estimate := false })) } } : Manager).moduleFault)) ∧
  (∀ (s : State) (ports : SMap Nat), s.mgr.pwr.portsHeld = true → s.mgr.pwr.off = false → s.mgr.pwr.asleep = false → s.mgr.pwr.noBoot = false →
    exec (.referenceRestored none ports) s = s.withMgr (({ s.mgr with pwr := { s.mgr.pwr with portsHeld := false } } : Manager).onDev
      (fun d => { d with net := { d.net with ports := trained ports } }))) ∧
  (∀ (s : State) (die : Nat) (a : Agent), a = s.agent die → a.link.held = false →
    exec (.tempWarning (some die)) s = s.withAgent die ((a.onDev Dev.hot).event 0x305 0) ∧
    (a.link.asleep = false → exec (.tempCritical (some die)) s = s.withAgent die (a.sleep true)) ∧
    exec (.referenceLost (some die)) s = s.withAgent die ((({ a with link := { a.link with refLost := true } } : Agent).setObj Obj.PW_REF_LOST 1).onDev
      (fun d => { d with net := { d.net with ports := [] } })))

/-- A module starts, resets, and is turned off by its hot-swap stage. MODULE_START of a stage that conducts reads the straps,
resets the module with local time at 0 and runs the start sequence; with HS_EN open or after an overcurrent it has no
effect. DV_RESET 0x5A is answered and resets a module that is neither active nor taking over, else it is answered STATE.
MRST resets the field side. HS_EN_OPEN, OVERCURRENT, UNDERVOLTAGE and OVERVOLTAGE turn the stage off; HS_EN_CLOSE forgets an
overcurrent. BT_FRESH discards the saved settings for the next start. The next state answered is given for MODULE_START,
DV_RESET, MRST, HS_EN_OPEN, HS_EN_CLOSE, OVERCURRENT, UNDERVOLTAGE, OVERVOLTAGE, BT_FRESH. -/
def Obligations.ModuleStartsAndTrips : Prop :=
  (∀ (s : State) (start : StartIn), s.mgr.pwr.opened = false → s.mgr.pwr.tripped = false → ∃ m n : Manager,
    m = ({ s.mgr with pwr := { s.mgr.pwr with straps := (start.pos, start.slot) } } : Manager).resetModule 0 ∧
    n = ({ m with pwr := { m.pwr with off := false, portsHeld := false } } : Manager).onDev (fun d => { d with time := 0, since := 0 }) ∧
    exec (.moduleStart start) s = s.withMgr (n.startModule start)) ∧
  (∀ (s : State) (start : StartIn), (s.mgr.pwr.opened = true ∨ s.mgr.pwr.tripped = true) → exec (.moduleStart start) s = s.withMgr s.mgr) ∧
  (∀ (s : State) (req : Req) (start : StartIn), s.mgr.admits req Obj.DV_RESET 0x5A →
    (s.mgr.obj Obj.RD_STATE ≠ 2 → s.mgr.obj Obj.RD_STATE ≠ 5 →
      exec (.dvReset req 0x5A start) s = s.withMgr (((s.mgr.answer req 0).resetModule 2).startModule start)) ∧
    ((s.mgr.obj Obj.RD_STATE = 2 ∨ s.mgr.obj Obj.RD_STATE = 5) → exec (.dvReset req 0x5A start) s = s.withMgr (s.mgr.answer req 0x0009))) ∧
  (∀ (s : State) (start : StartIn), s.mgr.pwr.off = false → s.mgr.pwr.inReset = false → exec (.mrst start) s = s.withMgr ((s.mgr.resetModule 1).startModule start)) ∧
  (∀ s : State, exec .hsEnOpen s = s.withMgr { s.mgr.powerOff with pwr := { s.mgr.powerOff.pwr with opened := true } }) ∧
  (∀ (s : State) (m : Manager), s.mgr.pwr.opened = true →
    m = ({ s.mgr with pwr := { s.mgr.pwr with opened := false, tripped := false, off := false } } : Manager).resetModule 0 →
    exec .hsEnClose s = s.withMgr { m with pwr := { m.pwr with inReset := true } }) ∧
  (∀ s : State, s.mgr.pwr.off = false → exec .overcurrent s = s.withMgr { s.mgr.powerOff with pwr := { s.mgr.powerOff.pwr with tripped := true } }) ∧
  (∀ (s : State) (mv : Nat), (20000 ≤ mv → mv < 38000 → exec (.undervoltage mv) s = s.withMgr s.mgr.powerOff) ∧
    (mv < 20000 → exec (.undervoltage mv) s = s.withMgr { s.mgr.powerOff with pwr := { s.mgr.powerOff.pwr with tripped := false } }) ∧
    exec .overvoltage s = s.withMgr s.mgr.powerOff) ∧
  (∀ (s : State) (req : Req), s.mgr.grants req Obj.BT_FRESH 1 →
    exec (.btFresh req 1) s = s.withMgr (((s.mgr.entry (.btFresh req 1)).setObj Obj.BT_FRESH 1).answerWrite req 0))

/-- Hellos, attestation reports, blueprints and the ready gate. HELLO taken: it is kept and acted on. ATTEST_REPORT that answers
an outstanding request under a verified signature and binds the HELLO kept passes, a bad one fails the attestation.
ATTEST_REPEAT repeats what is outstanding. SETTLE_EXPIRE with no attestation outstanding evaluates the gate. BP_IMAGE that
checks replaces the blueprint, one that fails leaves it and names the failure's code. A READY tolerance takes effect at
once. DS_RESTART starts discovery again. The next state answered is given for HELLO, ATTEST_REPORT, ATTEST_REPEAT,
SETTLE_EXPIRE, BP_IMAGE, READY_TOLERANCE_WRITE, DS_RESTART. -/
def Obligations.DiscoveryAndTheGate : Prop :=
  (∀ (s : State) (hdr : Hdr) (payload : List Byte) (m : Manager), s.mgr.takes helloFrame { hdr with lengthOk := hdr.lengthOk && helloOk payload } →
    m = s.mgr.after helloFrame { hdr with lengthOk := hdr.lengthOk && helloOk payload } →
    exec (.hello hdr payload) s = s.withMgr ((m.entry (.hello hdr payload)).takeHello payload)) ∧
  (∀ (s : State) (hdr : Hdr) (die debug : Nat) (sigOk : Bool) (nonce hello : Digest) (desc : List Byte) (m n : Manager) (a : Att),
    s.mgr.takes attestReportFrame hdr → m = s.mgr.after attestReportFrame hdr → mapGet m.disc.atts die = some a → a.stage = 0 → a.hello = false →
    m.active = true → m.leads = true → n = m.entry (.attestReport hdr die sigOk nonce hello desc debug) →
    (sigOk = true → a.digests.contains nonce = true → hello = sha256 (n.disc.hello die).payload →
      exec (.attestReport hdr die sigOk nonce hello desc debug) s = s.withMgr (n.passAttest die a desc debug)) ∧
    (sigOk = false → exec (.attestReport hdr die sigOk nonce hello desc debug) s = s.withMgr (n.failAttest die a))) ∧
  (∀ s : State, s.mgr.active = true → s.mgr.leads = true →
    exec .attestRepeat s = s.withMgr s.mgr.repeatAtts.repeatOffers.repeatClaims.pump) ∧
  (∀ s : State, s.mgr.disc.settle = true → s.mgr.disc.atts = [] →
    exec .settleExpire s = s.withMgr (((s.mgr.entry .settleExpire).onDisc (fun x => { x with settle := false })).evalGate)) ∧
  (∀ (s : State) (req : Req) (image : List Byte) (m : Manager), s.mgr.passes req Obj.BP_IMAGE image →
    m = s.mgr.entry (.bpImage req image) →
    (image = [] ∨ (bpCheck image = none ∧ m.nidChange image = none) → exec (.bpImage req image) s = s.withMgr (((({ m.onDev (fun d => d.setBlob Obj.BP_IMAGE image) with
      failed := m.failed.filter (fun k => k != Obj.BP_IMAGE) } : Manager)).acceptBp image).answerWrite req 0)) ∧
    (∀ f, image ≠ [] → bpCheck image = some f → ∃ at_ : Nat, f.at_ ≤ at_ ∧ at_ < f.at_ + max 1 f.size ∧
      exec (.bpImage req image) s = s.withMgr (((((({ m.onDev (fun d => d.setBlob Obj.BP_IMAGE image) with
        failed := m.failed.filter (fun k => k != Obj.BP_IMAGE) } : Manager)).onDev Dev.drawn).setObj Obj.BP_RESULT f.code).setObj
          Obj.BP_OFFSET at_).touchGate.answerWrite req 0))) ∧
  (∀ (s : State) (req : Req) (sub : Nat) (data : List Byte) (m : Manager), s.mgr.passes req (0x304000 + sub) data →
    m = ((s.mgr.entry (.readyToleranceWrite req sub data)).setObj (0x304000 + sub) (leNat data)).evalGate →
    exec (.readyToleranceWrite req sub data) s = s.withMgr
      ((if m.obj Obj.DS_STATE = 2 then m.onDisc (fun x => { x with settle := s.mgr.disc.settle }) else m).answerWrite req 0)) ∧
  (∀ (s : State) (req : Req) (m : Manager), s.mgr.grants req Obj.DS_RESTART 1 → s.mgr.inst.phase ≠ 2 →
    m = ((s.mgr.entry (.dsRestart req 1)).setObj Obj.DS_STATE 1).setObj Obj.DS_READY_MS 0 →
    exec (.dsRestart req 1) s = s.withMgr (((m.onDisc (fun x => { x with
      matches_ := [], atts := [], ended := [], failed := []
      redo := m.fab.nodes.foldl (fun (t : SMap Bool) n => mapSet t n.2.die false) [] })).rematch.touchGate.pump).answerWrite req 0))

/-- A firmware image is held, verified, broadcast in passes, activated in batches and aborted. FW_IMAGE holds the image. FW_GO 1
with a verified agent image starts the broadcast, with a manager image writes the active module's other slot, else FAILED.
PASS_SENT sends END_OF_PASS. BULK_REPORT of a target is kept and tallied. PASS_PLAN plans the next pass, or ends the
broadcast and lists the targets that are not COMPLETE. FW_GO 2 activates the COMPLETE agents; a batch's timeout lists its
silent agents. FW_GO 3 aborts what is in progress. The next state answered is given for FW_IMAGE, FW_BROADCAST, PASS_SENT,
BULK_REPORT, PASS_PLAN, FW_ACTIVATE, FW_ABORT, ACTIVATION_BATCH_TIMEOUT. -/
def Obligations.FirmwareIsBroadcast : Prop :=
  (∀ (s : State) (req : Req) (image : List Byte) (m : Manager), s.mgr.passes req Obj.FW_IMAGE image → m = s.mgr.entry (.fwImage req image) →
    exec (.fwImage req image) s = s.withMgr
      (({ m with cast := { m.cast with image := image }, failed := m.failed.filter (fun k => k != Obj.FW_IMAGE) } : Manager).answerWrite req 0)) ∧
  (∀ (s : State) (req : Req) (sigOk : Bool) (m : Manager), s.mgr.grants req Obj.FW_GO 1 → s.mgr.casting = false →
    s.mgr.failed.contains Obj.FW_IMAGE = false → m = s.mgr.entry (.fwBroadcast req sigOk) →
    exec (.fwBroadcast req sigOk) s = s.withMgr ((
      if sigOk && imageOk m.cast.image 1 m.dev.floor then m.startCast
      else if sigOk && imageOk m.cast.image 2 m.dev.floor then
        (if m.obj Obj.RD_STATE = 2 then m.onDev (fun d => { d with fwVers := mapSet d.fwVers (1 - d.fw) (fieldAt m.cast.image 4 4), nextFw := some (1 - d.fw) })
         else m).setObj Obj.FW_STATE 4
      else m.setObj Obj.FW_STATE 6).answerWrite req 0)) ∧
  (∀ s : State, s.mgr.obj Obj.FW_STATE = 1 → s.mgr.cast.sent = false → ∃ (m : Manager) (b : Nat), b < 2 ^ 16 ∧
    exec .passSent s = s.withMgr ((m.emit { dst := nidAll, assoc := 0xE004
                                            msg := .bulkData (imageId m.cast.run) b (imageBlocks m.cast.run) (m.obj Obj.FW_PASS) false true [] }).onCast
      (fun c => { c with sent := true })) ∧ m = (s.mgr.entry .passSent).onDev Dev.drawn) ∧
  (∀ (s : State) (hdr : Hdr) (image state pass : Nat) (more : Bool) (missing : List (Nat × Nat)) (m n : Manager), s.mgr.takes bulkFrame hdr →
    m = s.mgr.after bulkFrame hdr → image = imageId m.cast.run → m.cast.targets.contains hdr.src = true →
    n = m.entry (.bulkReport hdr image state pass more missing) →
    exec (.bulkReport hdr image state pass more missing) s = s.withMgr ((n.onCast (fun c => { c with
      agents := mapSet c.agents hdr.src { state := state, pass := pass, more := more, missing := missing } })).tally.batchReport hdr.src state)) ∧
  (∀ (s : State) (m : Manager) (l : List Nat), s.mgr.obj Obj.FW_STATE = 1 → s.mgr.cast.sent = true → m = s.mgr.entry .passPlan →
    l = m.cast.targets.filter (fun n => (m.cast.of n).state != 1 && (m.cast.of n).state != 5) →
    exec .passPlan s = s.withMgr (if l.isEmpty ∨ max 1 (m.obj Obj.FW_PASSES) ≤ m.obj Obj.FW_PASS then
      ((m.onCast (fun c => { c with failed := l, sent := false })).setObj Obj.FW_STATE 2).setObj Obj.FW_PASS 0 else m.nextPass l)) ∧
  (∀ (s : State) (req : Req) (m : Manager), s.mgr.grants req Obj.FW_GO 2 → s.mgr.casting = false → m = s.mgr.entry (.fwActivate req) →
    exec (.fwActivate req) s = s.withMgr ((((m.onCast (fun c => { c with
      waiting := (m.cast.agents.filter (fun (a : Nat × FwAgent) => a.2.state == 1)).map (fun a => a.1), batch := [] })).setObj
        Obj.FW_STATE 3).nextBatch).answerWrite req 0)) ∧
  (∀ (s : State) (req : Req) (m : Manager), s.mgr.grants req Obj.FW_GO 3 → m = s.mgr.entry (.fwAbort req) → m.casting = true →
    exec (.fwAbort req) s = s.withMgr ((((m.onCast (fun c => { c with batch := [], waiting := [] })).setObj Obj.FW_STATE 5).setObj
      Obj.FW_PASS 0).answerWrite req 0)) ∧
  (∀ s : State, s.mgr.obj Obj.FW_STATE = 3 → s.mgr.cast.batch ≠ [] →
    exec .activationBatchTimeout s = s.withMgr (((s.mgr.entry .activationBatchTimeout).onCast (fun c => { c with
      failed := c.batch.foldl insNat c.failed, batch := [] })).nextBatch))

/-- Nonces, tokens, debug levels, fuses, reports, page-key rotation, entropy health and SPDM. SC_NONCE returns a fresh nonce, or
waits while no random value is issued; NONCE_EXPIRE voids it. SC_APPLY, SC_PROVISION, SC_DEBUG_REQ, SC_FUSES_SET, AT_GO and
PK_ROTATE have their effect at the module they reach. DEBUG_DURATION_END lowers the level and is recorded. ROTATION_COMPLETE
ends the sweep and counts it. A failed entropy source stops random values and counts a module fault; recovered, it lets what
waited go on. SC_SPDM is answered by the root of trust. An IDE stream that leaves the secure state reads so. The next state
answered is given for SC_NONCE, NONCE_EXPIRE, SC_APPLY, SC_PROVISION, SC_DEBUG_REQ, DEBUG_DURATION_END, SC_FUSES_SET, AT_GO,
PK_ROTATE, PK_PERIOD, ROTATION_COMPLETE, ENTROPY_HEALTH_FAIL, ENTROPY_HEALTH_PASS, SC_SPDM, IDE_STREAM_INSECURE. -/
def Obligations.SecurityCommands : Prop :=
  (∀ (s : State) (req : Req), s.mgr.readResult req Obj.SC_NONCE = 0 →
    (s.mgr.rngOut = false → exec (.scNonce req) s = s.withMgr (s.mgr.answerView req s.mgr.drawNonce)) ∧
    (s.mgr.rngOut = true → exec (.scNonce req) s = s.withMgr (s.mgr.onSec (fun x => { x with waits := x.waits ++ [req] })))) ∧
  (∀ s : State, exec .nonceExpire s = s.withMgr (s.mgr.onSec (fun x => { x with nonce := none }))) ∧
  (∀ (s : State) (req : Req) (sigOk : Bool) (start : StartIn), s.mgr.admits req Obj.SC_APPLY 1 →
    exec (.scApply req 1 sigOk start) s = s.withMgr (((s.mgr.onDev (fun d => d.wakeDomain 95)).applyToken sigOk start).answer req 0)) ∧
  (∀ (s : State) (req : Req) (start : StartIn), s.mgr.gateReach req Obj.SC_PROVISION true 1 = 0 → s.mgr.provisionState req = 0 →
    exec (.scProvision req 1 start) s = s.withMgr ((s.mgr.answer req 0).provision start)) ∧
  (∀ (s : State) (req : Req) (v : Nat) (start : StartIn), s.mgr.admits req Obj.SC_DEBUG_REQ v → v ≤ 2 →
    (v = 2 → s.mgr.obj Obj.SC_DEBUG = 0 → s.mgr.managing = false) →
    exec (.scDebugReq req v start) s = s.withMgr ((s.mgr.answer req 0).askLevel v start)) ∧
  (∀ (s : State) (start : StartIn), s.mgr.obj Obj.SC_DEBUG ≠ 0 → s.mgr.sec.until_.isSome = true →
    exec (.debugDurationEnd none start) s = s.withMgr ((s.mgr.lowerLevel start).event 0x301 0)) ∧
  (∀ (s : State) (die : Nat) (start : StartIn), (s.agent die).link.grant.isSome = true → exec (.debugDurationEnd (some die) start) s = s.withAgent die
    (({ s.agent die with link := { (s.agent die).link with grant := none } } : Agent).setObj Obj.SC_DEBUG 0)) ∧
  (∀ (s : State) (req : Req) (v : Nat), s.mgr.admits req Obj.SC_FUSES_SET v → fusesListed v = true →
    exec (.scFusesSet req v) s = s.withMgr ((s.mgr.onDev (fun d => d.burn v)).answer req 0)) ∧
  (∀ (s : State) (req : Req), s.mgr.admits req Obj.AT_GO 1 → exec (.atGo req 1) s = s.withMgr ((s.mgr.makeReport req.fn (s.mgr.reached req)).answer req 0)) ∧
  (∀ (s : State) (req : Req), s.mgr.admits req Obj.PK_ROTATE 1 → s.mgr.sec.sweep = false →
    exec (.pkRotate req 1) s = s.withMgr (s.mgr.rotate.answer req 0)) ∧
  (∀ s : State, s.mgr.obj Obj.PK_PERIOD_H ≠ 0 → s.mgr.pwr.asleep = false → exec .pkPeriod s = s.withMgr s.mgr.rotate) ∧
  (∀ s : State, s.mgr.sec.sweep = true → s.mgr.pwr.asleep = false →
    exec .rotationComplete s = s.withMgr (s.mgr.sweepEnd.bump Obj.PK_ROTATIONS).rotateDue) ∧
  (∀ s : State, s.mgr.sec.noRng = false →
    exec .entropyHealthFail s = s.withMgr ((((s.mgr.onSec (fun x => { x with noRng := true })).event 0x302 0)).moduleFault)) ∧
  (∀ s : State, s.mgr.sec.noRng = true → exec .entropyHealthPass s = s.withMgr ((s.mgr.sec.waits.foldl (fun (m : Manager) r => m.answerView r m.drawNonce)
    (s.mgr.onSec (fun x => { x with noRng := false, waits := [] }))).rotateDue.reseedOwed.pump)) ∧
  (∀ (s : State) (req : Req) (data resp : List Byte) (k : Nat) (m : Manager), s.mgr.writeResult req Obj.SC_SPDM data = 0 → k < 4 →
    m = s.mgr.onDev (fun d => d.setBlob Obj.SC_SPDM resp) →
    exec (.scSpdm req data resp none) s = s.withMgr (m.postHeld.answer req 0) ∧
    exec (.scSpdm req data resp (some k)) s = s.withMgr (((m.setObj Obj.SP_IDE_STATE k).setObj Obj.HL_IDE (if k = 2 then 1 else 0)).postHeld.answer req 0)) ∧
  (∀ s : State, s.mgr.obj Obj.HL_IDE ≠ 0 → exec .ideStreamInsecure s = s.withMgr ((s.mgr.setObj Obj.HL_IDE 0).setObj Obj.SP_IDE_STATE 3))

/-- The event recorder and telemetry: clears, views, summaries, records and samples. BUCKET_FULL writes the summaries of an
episode. RL_COMMIT commits the rates. EV_CLEAR clears the areas it names. EW_VIEW selects a segment and SEGMENT_STREAMED
shows it. ER_READ and TS_READ answer from the function's cursor. TS_SUBSCRIBE sets the subscriptions a context may have.
EVENT is recorded as AGENT_RECORD. TELEMETRY's records are measured and stored. TELEMETRY_MANAGER_PERIOD stores the loads
and the engine's counts, and leaves the rest. SUBSAMPLE_WINDOW doubles the period after a loss, and halves it after TL_RELAX
windows without one. The next state answered is given for BUCKET_FULL, RL_COMMIT, EV_CLEAR_CIRCULATING, EV_CLEAR_FIRST,
EV_CLEAR_BOTH, EW_VIEW, SEGMENT_STREAMED, ER_READ, TS_READ, TS_SUBSCRIBE, EVENT, TELEMETRY, TELEMETRY_MANAGER_PERIOD,
SUBSAMPLE_WINDOW. -/
def Obligations.RecordsAndTelemetry : Prop :=
  (∀ (s : State) (code : Nat), s.mgr.dev.bucketFull code = true → exec (.bucketFull none code) s = s.withMgr (s.mgr.summaries code)) ∧
  (∀ (s : State) (die code : Nat), (s.agent die).dev.bucketFull code = true →
    exec (.bucketFull (some die) code) s = s.withAgent die ((s.agent die).onDev (fun d => d.summaries code))) ∧
  (∀ (s : State) (req : Req), s.mgr.grants req Obj.RL_COMMIT 1 → exec (.rlCommit req 1) s = s.withMgr
    (((s.mgr.entry (.rlCommit req 1)).dev.commitCodes.foldl (fun m k => m.summaries k) ((s.mgr.entry (.rlCommit req 1)).onDev Dev.commitRates)).answerWrite req 0)) ∧
  (∀ (s : State) (req : Req),
    (s.mgr.admits req Obj.EV_CLEAR 1 → exec (.evClearCirculating req) s = s.withMgr ((s.mgr.clearAreas 1).answer req 0)) ∧
    (s.mgr.admits req Obj.EV_CLEAR 2 → exec (.evClearFirst req) s = s.withMgr ((s.mgr.clearAreas 2).answer req 0)) ∧
    (s.mgr.admits req Obj.EV_CLEAR 3 → exec (.evClearBoth req) s = s.withMgr ((s.mgr.clearAreas 3).answer req 0))) ∧
  (∀ (s : State) (v : Nat), s.mgr.host.perst = false → v < 16 →
    exec (.ewView 0 v) s = s.withMgr { s.mgr with host := { s.mgr.host with ewView := v, ewReady := false } }) ∧
  (∀ s : State, s.mgr.host.barrier = true → s.mgr.ideBlock = false →
    exec .segmentStreamed s = s.withMgr { s.mgr with host := { s.mgr.host with ewReady := true } }) ∧
  (∀ (s : State) (req : Req) (r : Dev × List Byte), s.mgr.readResult req Obj.ER_READ = 0 →
    r = s.mgr.dev.erRead (fnKey (ctxKey Obj.ER_CURSOR (s.mgr.reached req)) req.fn) (ctxKey Obj.ER_LOST (s.mgr.reached req))
      (ctxKey Obj.ER_MAX (s.mgr.reached req)) (s.mgr.ctxShows (s.mgr.reached req)) →
    exec (.erRead req) s = s.withMgr (s.mgr.answerView req ({ s.mgr with dev := r.1 }, r.2))) ∧
  (∀ (s : State) (req : Req), s.mgr.readResult req Obj.TS_READ = 0 →
    exec (.tsRead req) s = s.withMgr (s.mgr.answerView req (s.mgr.tsRead req.fn (s.mgr.reached req)))) ∧
  (∀ (s : State) (req : Req) (data : List Byte) (c : Nat) (m : Manager), s.mgr.passes req Obj.TS_SUBSCRIBE data → c = s.mgr.reached req →
    m = s.mgr.entry (.tsSubscribe req data) →
    exec (.tsSubscribe req data) s = s.withMgr ((m.setCtx c { m.ctx c with subscribe := maskSubscribe c data }).answerWrite req 0)) ∧
  (∀ (s : State) (hdr : Hdr) (bytes : List Byte) (m : Manager), s.mgr.takes telFrame hdr → m = s.mgr.after telFrame hdr →
    exec (.event hdr bytes) s = s.withMgr (m.afterRecord
      (m.dev.record (recSeverity bytes) 0x3F0 (recContext bytes) (agentPayload hdr.src bytes)) (recContext bytes))) ∧
  (∀ (s : State) (hdr : Hdr) (time period : Nat) (last : Bool) (recs : List TlRec), s.mgr.takes telFrame hdr →
    exec (.telemetry hdr time period last recs) s = s.withMgr (recs.foldl (fun m r => (m.measure time r).storeTel time r)
      (((s.mgr.after telFrame hdr).entry (.telemetry hdr time period last recs)).bump Obj.TL_FRAMES))) ∧
  (∀ (s : State) (m n : Manager), m = s.mgr.entry .telemetryManagerPeriod → n = m.loadRecords.foldl (fun m r => m.storeTel 0 r) m →
    exec .telemetryManagerPeriod s = s.withMgr (n.periodCtxs.foldl Manager.storeEngine n)) ∧
  (∀ s : State, ∃ m : Manager, exec .telemetryManagerPeriod s = s.withMgr m ∧ m.fab = s.mgr.fab ∧ m.eng = s.mgr.eng ∧ m.rt = s.mgr.rt ∧
    m.sl = s.mgr.sl ∧ m.inst = s.mgr.inst ∧ m.host = s.mgr.host) ∧
  (∀ (s : State) (m : Manager), s.mgr.active = true → s.mgr.leads = true → m = s.mgr.entry (.subsampleWindow true) →
    exec (.subsampleWindow true) s = s.withMgr (({ m with tl := { m.tl with drops := mapGetD s.mgr.dev.net.dropClass 5 0, calm := 0 } } : Manager).setPeriod (max m.tl.present (min (2 * m.tl.present) (m.obj Obj.TL_PERIOD_MAX_MS)))))

/-- A residue mod 3 detects every change by an amount not divisible by 3, every single-bit error, and no change by a multiple of
3. For a 16-bit distance or capacity element (formats U16 and CAP16, whose check is one residue mod 3 of the value): a
change from v to w is shown exactly when 3 does not divide their difference, either way round, and a change of one bit
always is. -/
def Obligations.ResiduesDetectChanges : Prop :=
  ∀ (f v : Nat), (f = 0 ∨ f = 2) → v < 2 ^ 16 →
    (∀ w, upsetShows f v w = true ↔ ¬ ((3 : Int) ∣ ((w : Int) - (v : Int)))) ∧
    (∀ k, k < 16 → upsetShows f v (v ^^^ 2 ^ k) = true) ∧
    (∀ n : Nat, upsetShows f v (v + 3 * n) = false)

/-- In LEX the product adds hops and latency apart and saturates whole, and the unsigned minimum is the lexicographic one. For
16-bit words a and b: the product is 0xFFFF if either operand is 0xFFFF or either field sum reaches 0xFF; otherwise its hop
field is the sum of the hop fields and its latency field the sum of the latency fields. The sum of the semiring is the word
with fewer hops, and between equal hops the one with the lower latency. -/
def Obligations.LexAddsFieldsAndMinimises : Prop :=
  ∀ (a b : Nat), a < 2 ^ 16 → b < 2 ^ 16 →
    ((a = 0xFFFF ∨ b = 0xFFFF ∨ 0xFF ≤ a / 256 + b / 256 ∨ 0xFF ≤ a % 256 + b % 256) → semTimes 7 a b = 0xFFFF) ∧
    (¬ (a = 0xFFFF ∨ b = 0xFFFF ∨ 0xFF ≤ a / 256 + b / 256 ∨ 0xFF ≤ a % 256 + b % 256) →
      semTimes 7 a b / 256 = a / 256 + b / 256 ∧ semTimes 7 a b % 256 = a % 256 + b % 256) ∧
    (semPlus 7 a b = a ∨ semPlus 7 a b = b) ∧
    (a / 256 < b / 256 → semPlus 7 a b = a) ∧ (b / 256 < a / 256 → semPlus 7 a b = b) ∧
    (a / 256 = b / 256 → a % 256 ≤ b % 256 → semPlus 7 a b = a) ∧ (a / 256 = b / 256 → b % 256 ≤ a % 256 → semPlus 7 a b = b)

/-- The replay window accepts a new counter once, moves with the highest, and changes only after the ICV has verified. A counter
counts as held when it lies in H - 1023 to H with its bit set. A counter above H is accepted and becomes H; one in the
window that is not held is accepted and H stays; any other is refused. After an acceptance exactly the counter and what was
held, as far as the window still reaches, are held: the same counter is refused from then on. A keyed frame with no key,
with a wrong key or with an ICV that does not verify leaves every window as it was, and a verified repeat is counted as
REPLAY; another window never changes. -/
def Obligations.WindowAcceptsOnce : Prop :=
  (∀ (w : Window) (c : Nat),
    (w.high < c → ∃ x, Window.accept (some w) c = some x ∧ x.high = c) ∧
    (c ≤ w.high → w.high - c < 1024 → w.bits.getLsbD (w.high - c) = false → ∃ x, Window.accept (some w) c = some x ∧ x.high = w.high) ∧
    (c ≤ w.high → (1024 ≤ w.high - c ∨ w.bits.getLsbD (w.high - c) = true) → Window.accept (some w) c = none) ∧
    (∀ x, Window.accept (some w) c = some x → ∀ k, k ≤ x.high → x.high - k < 1024 →
      (x.bits.getLsbD (x.high - k) = true ↔ k = c ∨ (k ≤ w.high ∧ w.high - k < 1024 ∧ w.bits.getLsbD (w.high - k) = true))) ∧
    (∀ x, Window.accept (some w) c = some x → Window.accept (some x) c = none)) ∧
  (∀ (d : Dev) (k : FrameKind) (h : Hdr) (gen : Nat → Option Nat) (off : Option Nat),
    ((d.net.keyFor h ≠ some h.key ∨ h.intact = false) →
      (d.ingressKeyed k h gen off).dev.net.windows = d.net.windows ∧ (d.ingressKeyed k h gen off).ok = false) ∧
    (∀ w, d.net.keyFor h = some h.key → h.intact = true → mapGet d.net.windows (slotKey h.src h.assoc h.phase) = some w →
      Window.accept (some w) h.counter = none → d.ingressKeyed k h gen off = ⟨d.bump Obj.FC_DROP_REPLAY, false⟩) ∧
    (∀ w x, d.net.keyFor h = some h.key → h.intact = true → mapGet d.net.windows (slotKey h.src h.assoc h.phase) = some w →
      Window.accept (some w) h.counter = some x →
      mapGet (d.ingressKeyed k h gen off).dev.net.windows (slotKey h.src h.assoc h.phase) = some x) ∧
    (∀ i, i ≠ slotKey h.src h.assoc h.phase → mapGet (d.ingressKeyed k h gen off).dev.net.windows i = mapGet d.net.windows i))

/-- A cause is set by its source and cleared by a write of 1, and its message goes when it rises or is unmasked. A source sets
the bit of its cause at the function. The message of the vector goes when the bit goes from 0 to 1 with its mask bit clear,
at most once; a bit already set changes nothing. A write of INT_STATUS clears the bits written as 1 and no other, and sends
nothing. Clearing the mask of a set cause sends its message. While the vector is masked in the MSI-X table its pending bit
is set in place of the message. A set ordered after a clear leaves the bit set and sends again. The next state answered is
given for INT_STATUS_CLEAR, INT_MASK_WRITE. -/
def Obligations.CausesAndMessages : Prop :=
  (∀ (m : Manager) (fn i : Nat), i < 8 →
    bitOf ((m.raiseInt fn i).fnSt fn).intStatus i = true ∧
    (∀ j, j ≠ i → bitOf ((m.raiseInt fn i).fnSt fn).intStatus j = bitOf (m.fnSt fn).intStatus j) ∧
    (bitOf (m.fnSt fn).intStatus i = true → m.raiseInt fn i = m) ∧
    (bitOf (m.fnSt fn).intStatus i = false → bitOf (m.fnSt fn).intMask i = false → (m.fnSt fn).vecMasked i = false →
      (m.raiseInt fn i).host.msis = m.host.msis ++ [(m.fnSt fn).msiOf fn i]) ∧
    (bitOf (m.fnSt fn).intStatus i = false → bitOf (m.fnSt fn).intMask i = false → (m.fnSt fn).vecMasked i = true →
      (m.raiseInt fn i).host.msis = m.host.msis ∧ i ∈ ((m.raiseInt fn i).fnSt fn).pba) ∧
    (bitOf (m.fnSt fn).intMask i = true → (m.raiseInt fn i).host.msis = m.host.msis)) ∧
  (∀ (s : State) (fn v : Nat), s.mgr.host.perst = false → s.mgr.bound fn = true → ∃ m, exec (.intStatusClear fn v) s = s.withMgr m ∧
    m.host.msis = s.mgr.host.msis ∧ (m.fnSt fn).intMask = (s.mgr.fnSt fn).intMask ∧
    (∀ i, bitOf (m.fnSt fn).intStatus i = (bitOf (s.mgr.fnSt fn).intStatus i && !bitOf v i)) ∧
    (∀ i, i < 8 → bitOf v i = true → bitOf (s.mgr.fnSt fn).intMask i = false → (s.mgr.fnSt fn).vecMasked i = false →
      (m.raiseInt fn i).host.msis = m.host.msis ++ [(m.fnSt fn).msiOf fn i])) ∧
  (∀ (s : State) (fn i : Nat), s.mgr.host.perst = false → s.mgr.bound fn = true → i < 8 → (s.mgr.fnSt fn).intMask = 2 ^ i →
    bitOf (s.mgr.fnSt fn).intStatus i = true → (s.mgr.fnSt fn).vecMasked i = false →
    ∃ m, exec (.intMaskWrite fn 0) s = s.withMgr m ∧ (m.fnSt fn).intMask = 0 ∧ m.host.msis = s.mgr.host.msis ++ [(s.mgr.fnSt fn).msiOf fn i])

/-- A request is answered with the first check that fails, and then has no effect but its answer. The result of a request is the
first of these that applies, else 0: no such object, no such subindex, the result of the reach check, that of the mode
check, a write of a read-only object, a read of a write-only one, a wrong length, the state, an action in progress, a value
not accepted. A READ or WRITE whose result is not OK leaves everything as it was but for the answer and its place among the
requests that wait; so does a command written to an object, save where the value is one that a per-context object does not
list, which is not checked. The next state answered is given for DICT_READ, DICT_WRITE. -/
def Obligations.RefusedRequestsHaveNoEffect : Prop :=
  (∀ (agentPart : Bool) (key : Nat) (write : Bool) (data : List Byte) (reach mode state busy : Nat) (r : ObjRow), objRow key = some r →
    dictResult agentPart key write data reach mode state busy =
      (([(!holdsIdx agentPart (key / 256 % 65536), 0x0001), (!holdsKey agentPart key, 0x0002), (reach != 0, reach), (mode != 0, mode),
        (write && r.acc == .ro, 0x0003), (!write && r.acc == .wo, 0x0004), (write && lengthBad r data.length, 0x0005), (state != 0, state),
        (write && busy != 0, busy), (write && valueBad agentPart r key data, 0x0007)].find? (fun c => c.1)).map (fun c => c.2)).getD 0) ∧
  (∀ (s : State) (req : Req) (key : Nat) (data : List Byte),
    (s.mgr.turn req key false [] = true → s.mgr.readResult req key ≠ 0 → exec (.dictRead req key) s = s.withMgr (s.mgr.answer req (s.mgr.readResult req key))) ∧
    (s.mgr.turn req key true data = true → s.mgr.writeResult req key data ≠ 0 → exec (.dictWrite req key data) s = s.withMgr (s.mgr.answer req (s.mgr.writeResult req key data)))) ∧
  (∀ (m : Manager) (i : Instr) (req : Req) (key v : Nat) (listed : List Nat) (busy : Bool) (eff : Manager → Nat → Manager),
    ¬ (m.grants req key v ∧ listed.contains v = true ∧ busy = false) → m.leads = true →
    (listed.contains v = true ∨ (objRow key).any (fun x => x.perCtx) = false) →
    ∃ result, result ≠ 0 ∧ m.cmd i req key v listed busy eff = m.answer req result) ∧
  (∀ (m : Manager) (req : Req) (result : Nat), ∃ x : Answer, x = ⟨req, result, []⟩ ∧
    (m.answer req result = { m with host := { (m.performed req).host with answers := m.host.answers ++ [x] } } ∨
     m.answer req result = { m with host := { (m.performed req).host with held := m.host.held ++ [x] } }))

/-- A command frame whose pair is below the highest has no effect at an agent, and is answered CLAIM where its type has an
acknowledgement. After ingress the highest pair is the higher of the two. STAGE, COMMIT, ISOLATE, SET_KEY, REVOKE and a
dictionary write under another pair are answered with status CLAIM and change nothing else; READY, REJOINED, RESET_GRANT and
ACTIVATE are dropped without an answer. The next state answered is given for STAGE, COMMIT, ISOLATE, SET_KEY, REVOKE,
DICT_REQ, READY, REJOINED, RESET_GRANT, ACTIVATE. -/
def Obligations.LowerPairsAreRefused : Prop :=
  (∀ (s : State) (die imp drain nid ctx gen role tag key : Nat) (hdr : Hdr) (payload data : List Byte) (digest : Digest) (ports : Ports) (a : Agent),
    ((s.agent die).takes stageCmd hdr none → a = (s.agent die).after stageCmd hdr none → a.accepts hdr = false →
      exec (.stage die hdr payload) s = s.withAgent die (a.sendMgr hdr.src (.stageAck (fieldAt payload 12 4) 2 0 a.pairField))) ∧
    ((s.agent die).takes commitCmd hdr none → a = (s.agent die).after commitCmd hdr none → a.accepts hdr = false →
      exec (.commit die hdr imp drain digest) s = s.withAgent die (a.sendMgr hdr.src (.commitAck imp 2 0 a.pairField)) ∧
      exec (.isolate die hdr imp nid ports) s = s.withAgent die (a.sendMgr hdr.src (.isolateAck nid 2))) ∧
    ((s.agent die).takes dictCmd hdr none → a = (s.agent die).after dictCmd hdr none → a.accepts hdr = false →
      exec (.setKey die hdr ctx gen role nid) s = s.withAgent die (a.sendMgr hdr.src (.keyAck ctx gen role 2)) ∧
      exec (.revoke die hdr ctx gen role nid) s = s.withAgent die (a.sendMgr hdr.src (.keyAck ctx gen role 2))) ∧
    ((s.agent die).takes (dictReqFrame true) hdr none → a = (s.agent die).after (dictReqFrame true) hdr none → a.accepts hdr = false →
      exec (.dictReq die hdr tag key data true) s = s.withAgent die (a.answerDict hdr tag 0x000D []))) ∧
  (∀ (s : State) (die nid ctx gen rej0 rej1 image : Nat) (hdr : Hdr) (detour : Bool) (a : Agent), (s.agent die).takes dictCmd hdr none →
    a = (s.agent die).after dictCmd hdr none → a.accepts hdr = false →
    exec (.ready die hdr nid rej0 rej1) s = s.withAgent die a ∧ exec (.rejoined die hdr ctx gen nid) s = s.withAgent die a ∧
    exec (.resetGrant die hdr nid detour) s = s.withAgent die a ∧ exec (.activate die hdr image) s = s.withAgent die a) ∧
  (∀ c n c' n' : Nat, (c, n) ≠ (c', n') → pairHigher c n c' n' = !pairHigher c' n' c n) ∧
  (∀ c n c1 n1 c2 n2 : Nat, pairHigher c n c1 n1 = true → pairHigher c1 n1 c2 n2 = true → pairHigher c n c2 n2 = true)

/-- A port joins the next-hop set exactly when it lies on a least path, and the alternate set by the loop-free condition. For a
port below 128 of the ports of a switch that face switches: it joins the next-hop set toward a set of switches exactly when
some entry of that port has weight times the peer's distance equal to the switch's distance, which is not 0xFFFF, and the
switch is not in the set. It joins the alternate set exactly when alternates are computed, it is no next hop, and the peer's
distance is below the peer's distance to the switch times the switch's distance. -/
def Obligations.NextHopsFollowDistances : Prop :=
  ∀ (r : RouteIn) (p : Pass) (s q : Nat) (set_ : List Nat) (nh : Ports), (∀ o ∈ r.out p.pass s, o.1 < 128) → q < 128 →
    (portIn (r.nh p s set_) q = true ↔
      p.toSet s set_ ≠ 0xFFFF ∧ s ∉ set_ ∧ ∃ n w, (q, n, w) ∈ r.out p.pass s ∧ semTimes r.sem w (p.toSet n set_) = p.toSet s set_) ∧
    (portIn (r.alt p s set_ nh) q = true ↔
      r.lfa = true ∧ portIn nh q = false ∧ ∃ n w, (q, n, w) ∈ r.out p.pass s ∧
        p.toSet n set_ < semTimes r.sem (distAt p.d n s) (p.toSet s set_))

/-- A purge cause that finds the context purging, in quarantine or free has no effect. The start of a purge leaves a context
that is PURGING, in QUARANTINE or FREE, and context 0, exactly as they are. A first cause advances the generation by one
modulo 256 and enters PURGING, so a second cause changes nothing more. CX_RELEASE 2 written to a purging context is answered
and changes nothing but the input stream. The next state answered is given for CX_RELEASE_PURGE. -/
def Obligations.SecondPurgeHasNoEffect : Prop :=
  (∀ (m : Manager) (c : Nat), (c = 0 ∨ (m.ctx c).st = .purging ∨ (m.ctx c).st = .quarantine ∨ (m.ctx c).st = .free) → m.purgeStart c = m) ∧
  (∀ (m : Manager) (c : Nat), c ≠ 0 → ((m.ctx c).st = .active ∨ (m.ctx c).st = .draining ∨ (m.ctx c).st = .carving) →
    ((m.purgeStart c).ctx c).st = .purging ∧ ((m.purgeStart c).ctx c).gen = ((m.ctx c).gen + 1) % 256 ∧
    (m.purgeStart c).purgeStart c = m.purgeStart c) ∧
  (∀ (s : State) (req : Req), s.mgr.reached req ≠ 0 → s.mgr.grants req Obj.CX_RELEASE 2 → (s.mgr.ctx (s.mgr.reached req)).st = .purging →
    exec (.cxReleasePurge req) s = s.withMgr ((s.mgr.entry (.cxReleasePurge req)).answerWrite req 0))

/-- Impression numbers are compared modulo 2^32, and an agent refuses a COMMIT of an older one. A number is newer than another
exactly when their difference modulo 2^32 lies between 1 and 2^31 - 1, so none is newer than itself, and of two that differ
by less than half the range exactly one is newer. A COMMIT under the highest pair of a number that is neither the committed
one nor newer is answered NOT_NEWER with the committed number, takes the drain time and changes nothing else. The next state
answered is given for COMMIT. -/
def Obligations.NumbersAreSerial : Prop :=
  (∀ a b, a < 2 ^ 32 → b < 2 ^ 32 →
    (newer a b = true ↔ 1 ≤ (a + 2 ^ 32 - b) % 2 ^ 32 ∧ (a + 2 ^ 32 - b) % 2 ^ 32 ≤ 2 ^ 31 - 1) ∧ newer a a = false ∧
    (newer a b = true → newer b a = false) ∧ (a ≠ b → (a + 2 ^ 32 - b) % 2 ^ 32 ≠ 2 ^ 31 → newer a b = !newer b a)) ∧
  (∀ (s : State) (die imp drain : Nat) (hdr : Hdr) (digest : Digest) (a : Agent), (s.agent die).takes commitCmd hdr none →
    a = (s.agent die).after commitCmd hdr none → a.accepts hdr = true → imp ≠ a.obj Obj.AG_COMMITTED → newer imp (a.obj Obj.AG_COMMITTED) = false →
    exec (.commit die hdr imp drain digest) s = s.withAgent die ((a.setObj Obj.AP_DRAIN_US drain).toMgr (.commitAck imp 1 (a.obj Obj.AG_COMMITTED) 0)))

/-- A doorbell write of a virtual function changes the bits of its own mailboxes alone, and a bit that rises raises DOORBELL
once. After DB_SET of a quadword the bits it names and the function may ring are set, after DB_CLEAR they are clear, and
every other bit is as it was; a bit of a mailbox of another context never changes. Setting a bit that is set changes
nothing; a bit that goes from 0 to 1 raises cause 2 at the function of its owner's context. The next state answered is given
for DB_SET, DB_CLEAR. -/
def Obligations.DoorbellsAreOwned : Prop :=
  (∀ (s : State) (fn q v : Nat), s.mgr.bellsHeld fn = false → q < 4 →
    (∃ m, exec (.dbSet fn q v) s = s.withMgr m ∧ ∀ i, i < 256 →
      m.host.doorbells.getLsbD i = (s.mgr.host.doorbells.getLsbD i || ((quadBits q v).contains i && s.mgr.mayRing fn i))) ∧
    (∃ m, exec (.dbClear fn q v) s = s.withMgr m ∧ ∀ i, i < 256 →
      m.host.doorbells.getLsbD i = (s.mgr.host.doorbells.getLsbD i && !((quadBits q v).contains i && s.mgr.mayRing fn i)))) ∧
  (∀ (m : Manager) (fn i : Nat), fn ≠ 0 → fn ≠ fwFn → m.mboxOwner (i / 4) ≠ m.fnCtx fn → m.mayRing fn i = false) ∧
  (∀ (m : Manager) (i c : Nat), i < 256 → (m.host.doorbells.getLsbD i = true → m.dbSet i = m) ∧
    (m.host.doorbells.getLsbD i = false → m.mboxOwner (i / 4) = some c →
      m.dbSet i = (({ m with host := { m.host with doorbells := m.host.doorbells ||| (1#256 <<< i) } } : Manager).bump (ctxKey Obj.MBX_DB c)).raiseCtx c 2))

/-- A clear leaves one CLEARED record in each area it clears, and record numbers go on unbroken. Clearing the circulating area
leaves it holding the CLEARED record alone, whose number is the next one and whose payload names the areas and the number of
the last record cleared; the first area is as it was but for what it still had room to copy. Clearing both leaves each
holding that record alone where the first area has room for one. At the manager EV_CLEAR 1 admitted does so and is answered
OK; 2 or 3 accepted in CONFIDENTIAL mode is answered MODE. The next state answered is given for EV_CLEAR_CIRCULATING,
EV_CLEAR_FIRST, EV_CLEAR_BOTH. -/
def Obligations.ClearsLeaveOneRecord : Prop :=
  (∀ (d : Dev), ∃ r : EvRec, r.seq = d.log.seq ∧ r.code = 0x003 ∧ r.ctx = 0 ∧
    r.payload = [1] ++ List.replicate 7 0 ++ leBytes 8 (d.lastCleared 1) ∧
    (d.clearLog 1).log.ring = [r] ∧ (d.clearLog 1).log.seq = d.log.seq + 1) ∧
  (∀ (d : Dev), 0 < (if d.agentPart then min 256 (d.obj Obj.EV_FIRST_SIZE) else d.obj Obj.EV_FIRST_SIZE) → ∃ r : EvRec, r.seq = d.log.seq ∧
    r.payload = [3] ++ List.replicate 7 0 ++ leBytes 8 (d.lastCleared 3) ∧ (d.clearLog 3).log.ring = [r] ∧ (d.clearLog 3).log.first = [r]) ∧
  (∀ (s : State) (req : Req), s.mgr.gateReach req Obj.EV_CLEAR true 1 = 0 → s.mgr.gateState req Obj.EV_CLEAR true = 0 →
    exec (.evClearCirculating req) s = s.withMgr ((s.mgr.clearAreas 1).answer req 0)) ∧
  (∀ (s : State) (req : Req), (s.mgr.acceptedUnder req).1 = 2 → req.fn = 0 →
    exec (.evClearFirst req) s = s.withMgr (s.mgr.answer req 0x000A) ∧ exec (.evClearBoth req) s = s.withMgr (s.mgr.answer req 0x000A))

/-- INVASIVE is refused to a unit that manages the fabric, and a debug request outside OPEN mode is answered MODE. SC_DEBUG_REQ
2 at level NONE at a managing module is answered STATE and the level stays. SC_DEBUG_REQ accepted in PROVISIONED or
CONFIDENTIAL mode is answered MODE. Neither changes anything but the answer. The next state answered is given for
SC_DEBUG_REQ. -/
def Obligations.InvasiveIsRefusedToTheManager : Prop :=
  (∀ (s : State) (req : Req) (start : StartIn), s.mgr.admits req Obj.SC_DEBUG_REQ 2 → s.mgr.obj Obj.SC_DEBUG = 0 → s.mgr.managing = true →
    exec (.scDebugReq req 2 start) s = s.withMgr (s.mgr.answer req 0x0009)) ∧
  (∀ (s : State) (req : Req) (v : Nat) (start : StartIn), req.fn = 0 → (s.mgr.acceptedUnder req).1 ≠ 0 →
    exec (.scDebugReq req v start) s = s.withMgr (s.mgr.answer req 0x000A))

/-- A tile written fills its own bytes and no others, and memory keeps its canonical form. Writing a tile's bytes at a
reference: every address outside the reference's bytes reads as before, every address inside reads the byte written a memory
in canonical form stays so, no word of it stays marked as failing its code while the other words' marks stay, and nothing
else changes: of table memory this is said below the link table. A write to table memory changes no byte and no link entry
outside its bytes. Zeroing a range reads 0 inside and as before outside. -/
def Obligations.MemoryWritesStayInPlace : Prop :=
  (∀ (m : Manager) (r : TileRef) (bs : List Byte), bs.length = r.size → (r.space = 3 → r.addr + r.size ≤ linkBase) →
    (∀ a, a < r.addr ∨ r.addr + r.size ≤ a → memRead (writeTile m r bs).eng.mem a = memRead m.eng.mem a) ∧
    (Memory.wf m.eng.mem = true → ∀ i, i < r.size → memRead (writeTile m r bs).eng.mem (r.addr + i) = bs.getD i 0) ∧
    (Memory.wf m.eng.mem = true → Memory.wf (writeTile m r bs).eng.mem = true) ∧
    (∀ w, w ∈ (writeTile m r bs).eng.failing ↔ w ∈ m.eng.failing ∧ (w < r.addr / 8 ∨ (r.addr + r.size + 7) / 8 ≤ w)) ∧
    (writeTile m r bs).sl = m.sl ∧ (writeTile m r bs).fab = m.fab ∧ (writeTile m r bs).host = m.host ∧ (writeTile m r bs).dev = m.dev) ∧
  (∀ (m : Manager) (lo : Nat) (bs : List Byte),
    (∀ a, a < lo ∨ lo + bs.length ≤ a → memRead (m.tableWrite lo bs).eng.mem a = memRead m.eng.mem a) ∧
    (∀ i, linkBase + 32 * i + 32 ≤ lo ∨ lo + bs.length ≤ linkBase + 32 * i → linkOf (m.tableWrite lo bs).fab.links i = linkOf m.fab.links i) ∧
    (Memory.wf m.eng.mem = true → Memory.wf (m.tableWrite lo bs).eng.mem = true)) ∧
  (∀ (mem : List Host.Cell) (lo n : Nat), (∀ a, lo ≤ a → a < lo + n → memRead (memZero mem lo n) a = 0) ∧
    (∀ a, a < lo ∨ lo + n ≤ a → memRead (memZero mem lo n) a = memRead mem a) ∧ (Memory.wf mem = true → Memory.wf (memZero mem lo n) = true))

/-- A host register command changes nothing of the engine, the slices' contexts, the fabric, the impression or the agents.
Interrupt, mailbox, doorbell, CRC feed, sync-object and lane commands of the host: whatever state they give, the line engine
with all of memory, the contexts and their queue, the fabric's links and nodes, the routing, install, recovery and security
state, the redundancy state and every agent are as before, and so is the queue of waiting commands. The next state answered
is given for INT_STATUS_CLEAR, INT_MASK_WRITE, MB_ACK_HOST, HOST_MAILBOX_GO, MB_DOORBELL, PING, DB_SET, DB_CLEAR, CF_CTL,
CF_FEED8, CF_FEED16, CF_FEED32, SO_CFG, SO_VALUE_WRITE, SO_OP_COUNTER, SO_OP_SEMAPHORE, SO_OP_LOCK_RELEASE, SO_OP_EVENT_SET,
SO_OP_EVENT_CLEAR, SO_TARGET_WRITE, LOCK_ACQ, SEM_ACQ, LOCK_TICKET, LANE_FAILURE, BARRIER_DOWN, FW_HEARTBEAT, FW_STALL. -/
def Obligations.HostWindowsLeaveTheRest : Prop :=
  ∀ (s t : State) (fn k n v lanes frames : Nat),
    (exec (.intStatusClear fn v) s = .next t ∨ exec (.intMaskWrite fn v) s = .next t ∨ exec (.mbAckHost k) s = .next t ∨
     exec (.hostMailboxGo fn k) s = .next t ∨ exec (.mbDoorbell k) s = .next t ∨ exec (.ping k) s = .next t ∨
     exec (.dbSet fn k v) s = .next t ∨ exec (.dbClear fn k v) s = .next t ∨
     exec (.cfCtl fn k v) s = .next t ∨ exec (.cfFeed8 fn k v) s = .next t ∨ exec (.cfFeed16 fn k v) s = .next t ∨
     exec (.cfFeed32 fn k v) s = .next t ∨ exec (.soCfg fn n v) s = .next t ∨ exec (.soValueWrite fn n v) s = .next t ∨
     exec (.soOpCounter fn n v) s = .next t ∨ exec (.soOpSemaphore fn n v) s = .next t ∨ exec (.soOpLockRelease fn n) s = .next t ∨
     exec (.soOpEventSet fn n) s = .next t ∨ exec (.soOpEventClear fn n) s = .next t ∨ exec (.soTargetWrite fn n v) s = .next t ∨
     exec (.lockAcq fn n) s = .next t ∨ exec (.semAcq fn n) s = .next t ∨ exec (.lockTicket fn n) s = .next t ∨
     exec (.laneFailure lanes frames) s = .next t ∨ exec .barrierDown s = .next t ∨ exec .fwHeartbeat s = .next t ∨ exec .fwStall s = .next t) →
    t.mgr.eng = s.mgr.eng ∧ t.mgr.sl = s.mgr.sl ∧ t.mgr.fab = s.mgr.fab ∧ t.mgr.rt = s.mgr.rt ∧ t.mgr.inst = s.mgr.inst ∧ t.mgr.rcv = s.mgr.rcv ∧
    t.mgr.sec = s.mgr.sec ∧ t.mgr.red = s.mgr.red ∧ t.mgr.disc = s.mgr.disc ∧ t.mgr.cast = s.mgr.cast ∧ t.mgr.tl = s.mgr.tl ∧
    t.mgr.pwr = s.mgr.pwr ∧ t.agents = s.agents ∧ t.pending = s.pending

/-- A plain lock that one function holds is not given to another, its holder alone releases it, and tickets are served in order.
While a plain LOCK is held, LOCK_ACQ of any function that reaches it leaves the lock as it is. SO_OP of another requester
leaves it held; of the holder it becomes free. With 64 tickets outstanding none is issued; the ticket issued is the next
number, and goes behind those outstanding. The next state answered is given for LOCK_ACQ, SO_OP_LOCK_RELEASE, LOCK_TICKET. -/
def Obligations.LocksHaveOneHolder : Prop :=
  ∀ (s : State) (fn n : Nat) (o : SyncObj), s.mgr.host.perst = false → s.mgr.host.barrier = true → s.mgr.ideBlock = false → n < 8192 →
    s.mgr.reachesSync fn n = true → o = s.mgr.sync n → syncKind o.cfg = .lock →
    (∀ h t, bitOf o.cfg 2 = false → o.holder = some h → exec (.lockAcq fn n) s = .next t → t.mgr.host.syncs = s.mgr.host.syncs ∧
      t.mgr.host.readBack = s.mgr.host.readBack ++ [0x10000 + h]) ∧
    (∀ h t, bitOf o.cfg 2 = false → o.holder = some h → h ≠ s.mgr.ridOf fn → exec (.soOpLockRelease fn n) s = .next t → (t.mgr.sync n).holder = some h) ∧
    (∀ t, bitOf o.cfg 2 = false → o.holder = some (s.mgr.ridOf fn) → exec (.soOpLockRelease fn n) s = .next t → (t.mgr.sync n).holder = none) ∧
    (∀ t, bitOf o.cfg 2 = true → exec (.lockTicket fn n) s = .next t →
      (t.mgr.sync n).tickets.length ≤ max 64 o.tickets.length ∧
      (o.tickets.length < 64 → (t.mgr.sync n).tickets = o.tickets ++ [{ num := o.next, rid := s.mgr.ridOf fn }] ∧
        (t.mgr.sync n).next = (o.next + 1) % 65536 ∧ t.mgr.host.readBack = s.mgr.host.readBack ++ [o.next]))

/-- A command changes the manager module alone or one agent alone. Whatever a command is and whatever the state: if it gives a
next state, then either every agent is exactly as it was, or the manager module is exactly as it was and there is one agent
such that every other agent is. What passes between the machines passes as frames, each a command of its own. -/
def Obligations.OneCommandOneMachine : Prop :=
  ∀ (c : Instr) (s t : State), exec c s = .next t →
    t.agents = s.agents ∨ (t.mgr = s.mgr ∧ ∃ die, ∀ d, d ≠ die → mapGet t.agents d = mapGet s.agents d)

/-- A step takes the command at the front of the queue and no command changes what waits behind it. Whatever command is at the
front: the step's next state has exactly the rest of the queue waiting, in its order. The commands are taken first in, first
out; that the queue is filled from outside alone is the model's convention (assumption log, entry 1). -/
def Obligations.CommandsLeaveInOrder : Prop :=
  (∀ (c : Instr) (s t : State), exec c s = .next t → t.pending = s.pending) ∧
  (∀ (c : Instr) (rest : List Instr) (s t : State), s.pending = c :: rest → step s = .next t → t.pending = rest)

/-- Every step keeps the agents a table in which each die stands once. The table of agents lists rising die identifiers, each
once, whatever command a step takes and also when it idles: no step makes two agents of one die or loses the order by which
they are found. An agent that is listed stays listed. -/
def Obligations.EveryStepKeepsAgentsApart : Prop :=
  (∀ s t : State, mapWf s.agents = true → step s = .next t → mapWf t.agents = true) ∧
  (∀ (s t : State) (die : Nat), (mapGet s.agents die).isSome = true → step s = .next t → (mapGet t.agents die).isSome = true)

/-- Every step keeps the engine's memory in its canonical form. Memory lists rising addresses, each once, and no byte equal to
the zero that an unlisted address reads as. From every state whose memory has that form, every step that gives a next state
gives one whose memory has it, whatever command it takes. -/
def Obligations.EveryStepKeepsMemoryCanonical : Prop :=
  ∀ s t : State, Memory.wf s.mgr.eng.mem = true → step s = .next t → Memory.wf t.mgr.eng.mem = true

/-- The state after reset has both invariants and the reset values of the dictionary. At reset no command waits, no agent is
listed, memory lists nothing and has its canonical form, the tables of registers are canonical, and every register of the
manager's dictionary reads the reset value that its row gives. A reset value that the rules do not state is the model's
choice (assumption log, entry 4). -/
def Obligations.ResetMeetsTheInvariants : Prop :=
  State.reset.pending = [] ∧ mapWf State.reset.agents = true ∧ State.reset.mgr.eng.mem = [] ∧ Memory.wf State.reset.mgr.eng.mem = true ∧
  mapWf State.reset.mgr.dev.objs = true ∧ State.reset.mgr.host.barrier = false ∧ State.reset.mgr.obj Obj.SC_MODE = 0 ∧
  State.reset.mgr.obj Obj.SC_DEBUG = 0 ∧ State.reset.mgr.obj Obj.ENG_CELLS = 64 ∧ State.reset.mgr.obj Obj.FN_REKEY_FRAMES = 2 ^ 40 ∧
  (∀ key, State.reset.mgr.obj key = objDefault false key)

/-- A module applies an entry of the input stream within one step. While a module applies an entry of the input stream or of
replication it sends, answers and signals nothing and keeps its own clock; the mark that it does so is clear after every
step that began with it clear, whatever command the step takes. Statements that suppose the mark clear hold in every state
that a run reaches. The mark is the model's own field (assumption log, entry 68). -/
def Obligations.NoStepLeavesAReplayOpen : Prop :=
  State.reset.mgr.dev.net.replay = false ∧
  (∀ s t : State, s.mgr.dev.net.replay = false → step s = .next t → t.mgr.dev.net.replay = false)
end

