-- ==== Sys2Proof/Laws/Maps.lean ====
section
/-! SUPPORT. Sys2Proof/Laws/Maps.lean: sparse tables and memory: a read after a write, and the canonical form. -/

namespace Sys2Proof.Machine

/-! ## Reading after writing -/

@[simp] theorem mapGet_mapSet_self {α : Type} (m : SMap α) (k : Nat) (v : α) : mapGet (mapSet m k v) k = some v := by
  induction m with
  | nil => simp [mapSet, mapGet]
  | cons e m ih =>
    obtain ⟨j, w⟩ := e
    simp only [mapSet]
    split
    · simp [mapGet]
    · split
      · simp [mapGet]
      · rename_i h; simp [mapGet, h, ih]

theorem mapGet_mapSet_ne {α : Type} (m : SMap α) (k i : Nat) (v : α) (h : i ≠ k) : mapGet (mapSet m k v) i = mapGet m i := by
  induction m with
  | nil => simp [mapSet, mapGet, Ne.symm h]
  | cons e m ih =>
    obtain ⟨j, w⟩ := e
    simp only [mapSet]
    split
    · simp [mapGet, Ne.symm h]
    · split
      · rename_i hj; subst hj; simp [mapGet, Ne.symm h]
      · simp [mapGet, ih]

theorem mapGet_mapDel_ne {α : Type} (m : SMap α) (k i : Nat) (h : i ≠ k) : mapGet (mapDel m k) i = mapGet m i := by
  induction m with
  | nil => simp [mapDel, mapGet]
  | cons e m ih =>
    obtain ⟨j, w⟩ := e
    simp only [mapDel]
    split
    · rename_i hj; subst hj; simp [mapGet, Ne.symm h]
    · simp [mapGet, ih]

@[simp] theorem mapGetD_mapSet_self {α : Type} (m : SMap α) (k : Nat) (v d : α) : mapGetD (mapSet m k v) k d = v := by simp [mapGetD]

theorem mapGetD_mapSet_ne {α : Type} (m : SMap α) (k i : Nat) (v d : α) (h : i ≠ k) : mapGetD (mapSet m k v) i d = mapGetD m i d := by
  simp [mapGetD, mapGet_mapSet_ne m k i v h]

/-! ## Rising numbers -/

theorem mapWf_cons {α : Type} (j : Nat) (w : α) (m : SMap α) :
    mapWf ((j, w) :: m) = true ↔ (∀ e ∈ m, j < e.1) ∧ mapWf m = true := by
  induction m generalizing j w with
  | nil => simp [mapWf]
  | cons e m ih =>
    obtain ⟨k, v⟩ := e
    simp only [mapWf, Bool.and_eq_true, decide_eq_true_eq, List.mem_cons, forall_eq_or_imp]
    constructor
    · rintro ⟨h, hw⟩
      exact ⟨⟨h, fun e he => Nat.lt_trans h (((ih k v).1 hw).1 e he)⟩, hw⟩
    · rintro ⟨⟨h, _⟩, hw⟩
      exact ⟨h, hw⟩

theorem mem_mapSet {α : Type} (m : SMap α) (k : Nat) (v : α) (e : Nat × α) (h : e ∈ mapSet m k v) : e = (k, v) ∨ e ∈ m := by
  induction m with
  | nil => simpa [mapSet] using h
  | cons f m ih =>
    obtain ⟨j, w⟩ := f
    simp only [mapSet] at h
    split at h
    · simpa using h
    · split at h
      · rcases List.mem_cons.1 h with h | h
        · exact .inl h
        · exact .inr (List.mem_cons_of_mem _ h)
      · rcases List.mem_cons.1 h with h | h
        · exact .inr (List.mem_cons.2 (.inl h))
        · rcases ih h with h | h
          · exact .inl h
          · exact .inr (List.mem_cons_of_mem _ h)

theorem mem_mapDel {α : Type} (m : SMap α) (k : Nat) (e : Nat × α) (h : e ∈ mapDel m k) : e ∈ m := by
  induction m with
  | nil => simp [mapDel] at h
  | cons f m ih =>
    obtain ⟨j, w⟩ := f
    simp only [mapDel] at h
    split at h
    · exact List.mem_cons_of_mem _ h
    · simp only [List.mem_cons] at h ⊢
      rcases h with h | h
      · exact .inl h
      · exact .inr (ih h)

theorem mapWf_mapSet {α : Type} (m : SMap α) (k : Nat) (v : α) (h : mapWf m = true) : mapWf (mapSet m k v) = true := by
  induction m with
  | nil => simp [mapSet, mapWf]
  | cons e m ih =>
    obtain ⟨j, w⟩ := e
    have hc := (mapWf_cons j w m).1 h
    simp only [mapSet]
    split
    · rename_i hk
      refine (mapWf_cons k v _).2 ⟨?_, h⟩
      intro e he
      simp only [List.mem_cons] at he
      rcases he with he | he
      · subst he; exact hk
      · exact Nat.lt_trans hk (hc.1 e he)
    · split
      · rename_i hj; subst hj; exact (mapWf_cons j v m).2 hc
      · rename_i h1 h2
        refine (mapWf_cons j w _).2 ⟨?_, ih hc.2⟩
        intro e he
        rcases mem_mapSet m k v e he with he | he
        · subst he; show j < k; omega
        · exact hc.1 e he

theorem mapWf_mapDel {α : Type} (m : SMap α) (k : Nat) (h : mapWf m = true) : mapWf (mapDel m k) = true := by
  induction m with
  | nil => simp [mapDel, mapWf]
  | cons e m ih =>
    obtain ⟨j, w⟩ := e
    have hc := (mapWf_cons j w m).1 h
    simp only [mapDel]
    split
    · exact hc.2
    · exact (mapWf_cons j w _).2 ⟨fun e he => hc.1 e (mem_mapDel m k e he), ih hc.2⟩

theorem mapWf_filter {α : Type} (m : SMap α) (p : Nat × α → Bool) (h : mapWf m = true) : mapWf (m.filter p) = true := by
  induction m with
  | nil => simp [mapWf]
  | cons e m ih =>
    obtain ⟨j, w⟩ := e
    have hc := (mapWf_cons j w m).1 h
    simp only [List.filter_cons]
    split
    · exact (mapWf_cons j w _).2 ⟨fun e he => hc.1 e (List.mem_filter.1 he).1, ih hc.2⟩
    · exact ih hc.2

theorem mapGet_none_of_lt {α : Type} (m : SMap α) (k : Nat) (h : ∀ e ∈ m, k < e.1) : mapGet m k = none := by
  induction m with
  | nil => rfl
  | cons e m ih =>
    obtain ⟨j, w⟩ := e
    have hj : k < j := h (j, w) (by simp)
    simp [mapGet, Nat.ne_of_gt hj, ih (fun e he => h e (by simp [he]))]

theorem mapGet_mapDel_self {α : Type} (m : SMap α) (k : Nat) (h : mapWf m = true) : mapGet (mapDel m k) k = none := by
  induction m with
  | nil => rfl
  | cons e m ih =>
    obtain ⟨j, w⟩ := e
    have hc := (mapWf_cons j w m).1 h
    simp only [mapDel]
    split
    · rename_i hj; subst hj; exact mapGet_none_of_lt m j hc.1
    · rename_i hj; simp [mapGet, hj, ih hc.2]

/-- A table is its reads: two tables whose numbers rise and that read alike are the same. -/
theorem mapGet_mem {α : Type} (m : SMap α) (k : Nat) (v : α) (h : mapGet m k = some v) : (k, v) ∈ m := by
  induction m with
  | nil => simp [mapGet] at h
  | cons e m ih =>
    obtain ⟨j, w⟩ := e
    simp only [mapGet] at h
    split at h
    · rename_i hj; subst hj; simp at h; simp [h]
    · simp [ih h]

/-! ## Memory -/

theorem Memory.wf_iff (m : List Host.Cell) : Memory.wf m = true ↔ mapWf m = true ∧ ∀ c ∈ m, c.2 ≠ 0 := by
  simp [Memory.wf]

/-- A byte written keeps the canonical form. -/
theorem Memory.wf_memWrite (m : List Host.Cell) (a : Nat) (b : Byte) (h : Memory.wf m = true) : Memory.wf (memWrite m a b) = true := by
  rw [Memory.wf_iff] at h ⊢
  unfold memWrite
  split
  · exact ⟨mapWf_mapDel m a h.1, fun c hc => h.2 c (mem_mapDel m a c hc)⟩
  · rename_i hb
    refine ⟨mapWf_mapSet m a b h.1, fun c hc => ?_⟩
    rcases mem_mapSet m a b c hc with hc | hc
    · subst hc; exact hb
    · exact h.2 c hc

theorem Memory.wf_filter (m : List Host.Cell) (p : Host.Cell → Bool) (h : Memory.wf m = true) : Memory.wf (m.filter p) = true := by
  rw [Memory.wf_iff] at h ⊢
  exact ⟨mapWf_filter m p h.1, fun c hc => h.2 c (List.mem_filter.1 hc).1⟩

/-- Zeroing a range keeps the canonical form. -/
theorem Memory.wf_memZero (m : List Host.Cell) (lo n : Nat) (h : Memory.wf m = true) : Memory.wf (memZero m lo n) = true :=
  Memory.wf_filter m _ h

/-- A byte written reads back. -/
theorem memRead_memWrite_self (m : List Host.Cell) (a : Nat) (b : Byte) (h : Memory.wf m = true) : memRead (memWrite m a b) a = b := by
  unfold memWrite memRead
  split
  · rename_i hb; rw [mapGet_mapDel_self m a ((Memory.wf_iff m).1 h).1, hb]; rfl
  · simp

/-- A byte written leaves every other byte alone. -/
theorem memRead_memWrite_ne (m : List Host.Cell) (a i : Nat) (b : Byte) (h : i ≠ a) : memRead (memWrite m a b) i = memRead m i := by
  unfold memWrite memRead
  split
  · rw [mapGet_mapDel_ne m a i h]
  · rw [mapGet_mapSet_ne m a i b h]

/-- A read of two tables one after the other. -/
theorem mapGet_append {α : Type} (x y : SMap α) (k : Nat) : mapGet (x ++ y) k = (mapGet x k).or (mapGet y k) := by
  induction x with
  | nil => simp [mapGet]
  | cons e x ih => obtain ⟨j, w⟩ := e; by_cases hj : j = k <;> simp [mapGet, hj, ih]

/-- A filter by number keeps the reads of the numbers it keeps, and drops the others. -/
theorem mapGet_filter_key {α : Type} (p : Nat → Bool) (m : SMap α) (k : Nat) :
    mapGet (m.filter (fun e => p e.1)) k = if p k then mapGet m k else none := by
  induction m with
  | nil => simp [mapGet]
  | cons e m ih =>
    obtain ⟨j, w⟩ := e
    by_cases hj : j = k
    · subst hj; cases hp : p j <;> simp [mapGet, hp] at ih ⊢; exact ih
    · cases hp : p j <;> simp [mapGet, hp, hj] at ih ⊢ <;> exact ih

/-- Two tables in rising order, one wholly below the other, rise together. -/
theorem mapWf_append {α : Type} (x y : SMap α) (hx : mapWf x = true) (hy : mapWf y = true) (h : ∀ e ∈ x, ∀ f ∈ y, e.1 < f.1) :
    mapWf (x ++ y) = true := by
  induction x with
  | nil => exact hy
  | cons e x ih =>
    obtain ⟨j, w⟩ := e
    have hc := (mapWf_cons j w x).1 hx
    refine (mapWf_cons j w _).2 ⟨fun f hf => ?_, ih hc.2 (fun e he => h e (by simp [he]))⟩
    rcases List.mem_append.1 hf with hf | hf
    · exact hc.1 f hf
    · exact h (j, w) (by simp) f hf

/-- The cells of bytes lie in their range and hold no 0. -/
theorem mem_byteCells (bs : List Byte) (a : Nat) (c : Host.Cell) (h : c ∈ byteCells a bs) : a ≤ c.1 ∧ c.1 < a + bs.length ∧ c.2 ≠ 0 := by
  induction bs generalizing a with
  | nil => simp [byteCells] at h
  | cons b bs ih =>
    simp only [List.length_cons]
    unfold byteCells at h
    split at h
    · obtain ⟨h1, h2, h3⟩ := ih (a + 1) h; exact ⟨by omega, by omega, h3⟩
    · rename_i hb
      rcases List.mem_cons.1 h with h | h
      · subst h; exact ⟨Nat.le_refl a, by show a < a + (bs.length + 1); omega, hb⟩
      · obtain ⟨h1, h2, h3⟩ := ih (a + 1) h; exact ⟨by omega, by omega, h3⟩

theorem mapWf_byteCells (bs : List Byte) (a : Nat) : mapWf (byteCells a bs) = true := by
  induction bs generalizing a with
  | nil => rfl
  | cons b bs ih =>
    by_cases hb : b = 0
    · simpa [byteCells, hb] using ih (a + 1)
    · simp only [byteCells, hb, if_false]
      exact (mapWf_cons a b _).2 ⟨fun e he => (mem_byteCells bs (a + 1) e he).1, ih (a + 1)⟩

theorem mapGet_byteCells (bs : List Byte) (a i : Nat) : ((mapGet (byteCells a bs) i).getD 0 : Byte) = if a ≤ i then bs.getD (i - a) 0 else 0 := by
  induction bs generalizing a with
  | nil => simp [byteCells, mapGet]
  | cons b bs ih =>
    have h1 := ih (a + 1)
    unfold byteCells
    by_cases hi : i = a
    · subst hi
      rw [if_neg (by omega)] at h1
      split
      · rename_i hb; rw [h1, hb]; simp
      · simp [mapGet]
    · have e : (mapGet (if b = 0 then byteCells (a + 1) bs else (a, b) :: byteCells (a + 1) bs) i).getD 0 = (mapGet (byteCells (a + 1) bs) i).getD 0 := by
        split
        · rfl
        · simp [mapGet, Ne.symm hi]
      rw [e, h1]
      by_cases hle : a + 1 ≤ i
      · rw [if_pos hle, if_pos (by omega), show i - a = (i - (a + 1)) + 1 by omega]; rfl
      · rw [if_neg hle, if_neg (by omega)]

theorem mapGet_byteCells_out (bs : List Byte) (a i : Nat) (h : i < a ∨ a + bs.length ≤ i) : mapGet (byteCells a bs) i = none := by
  cases hg : mapGet (byteCells a bs) i with
  | none => rfl
  | some v => obtain ⟨h1, h2, _⟩ := mem_byteCells bs a _ (mapGet_mem _ _ _ hg); simp only at h1 h2; omega

/-- Bytes written keep the canonical form. -/
theorem Memory.wf_memWriteN (bs : List Byte) (m : List Host.Cell) (a : Nat) (h : Memory.wf m = true) :
    Memory.wf (memWriteN m a bs) = true := by
  rw [Memory.wf_iff] at h ⊢
  have lo : ∀ c ∈ m.filter (fun c => decide (c.1 < a)), c.1 < a := fun c hc => by simpa using (List.mem_filter.1 hc).2
  have hi : ∀ c ∈ m.filter (fun c => Nat.ble (a + bs.length) c.1), a + bs.length ≤ c.1 :=
    fun c hc => Nat.le_of_ble_eq_true (List.mem_filter.1 hc).2
  refine ⟨mapWf_append _ _ (mapWf_filter m _ h.1) (mapWf_append _ _ (mapWf_byteCells bs a) (mapWf_filter m _ h.1) ?_) ?_, ?_⟩
  · intro e he f hf; have := mem_byteCells bs a e he; have := hi f hf; omega
  · intro e he f hf
    have h1 := lo e he
    rcases List.mem_append.1 hf with hf | hf
    · have := mem_byteCells bs a f hf; omega
    · have := hi f hf; omega
  · intro c hc
    simp only [memWriteN, List.mem_append, List.mem_filter] at hc
    rcases hc with hc | hc | hc
    · exact h.2 c hc.1
    · exact (mem_byteCells bs a c hc).2.2
    · exact h.2 c hc.1

/-- What a byte reads as once bytes are written from an address on. -/
theorem memRead_memWriteN (bs : List Byte) (m : List Host.Cell) (a i : Nat) :
    memRead (memWriteN m a bs) i = if a ≤ i ∧ i < a + bs.length then bs.getD (i - a) 0 else memRead m i := by
  have hb := mapGet_byteCells bs a i
  have hble : Nat.ble (a + bs.length) i = decide (a + bs.length ≤ i) := by
    rw [Bool.eq_iff_iff, decide_eq_true_iff]; exact ⟨Nat.le_of_ble_eq_true, Nat.ble_eq_true_of_le⟩
  unfold memRead memWriteN
  rw [mapGet_append, mapGet_append, mapGet_filter_key (fun k => decide (k < a)), mapGet_filter_key (fun k => Nat.ble (a + bs.length) k), hble]
  by_cases h1 : i < a
  · have h2 : ¬ a + bs.length ≤ i := by omega
    simp [mapGet_byteCells_out bs a i (.inl h1), h1, h2, Nat.not_le.2 h1]
  · by_cases h2 : a + bs.length ≤ i
    · simp [mapGet_byteCells_out bs a i (.inr h2), h1, h2, Nat.not_lt.2 h2]
    · simp only [Nat.not_lt.1 h1, if_true] at hb
      simp [h1, h2, Nat.not_lt.1 h1, Nat.not_le.1 h2]
      simpa using hb

/-- Bytes written leave every byte outside them alone. -/
theorem memRead_memWriteN_out (bs : List Byte) (m : List Host.Cell) (a i : Nat) (h : i < a ∨ a + bs.length ≤ i) :
    memRead (memWriteN m a bs) i = memRead m i := by
  rw [memRead_memWriteN, if_neg (by omega)]

/-- Bytes written read back. -/
theorem memRead_memWriteN_in (bs : List Byte) (m : List Host.Cell) (a i : Nat) (h : i < bs.length) :
    memRead (memWriteN m a bs) (a + i) = bs[i] := by
  rw [memRead_memWriteN, if_pos (by omega)]
  simp [h]

/-- A range zeroed reads 0, and every byte outside it is as before. -/
theorem memRead_memZero (m : List Host.Cell) (lo n i : Nat) :
    memRead (memZero m lo n) i = if lo ≤ i ∧ i < lo + n then 0 else memRead m i := by
  unfold memZero memRead
  induction m with
  | nil => simp [mapGet]
  | cons e m ih =>
    obtain ⟨j, w⟩ := e
    by_cases hj : j = i
    · subst hj
      by_cases hin : lo ≤ j ∧ j < lo + n
      · have hf : (decide (j < lo) || Nat.ble (lo + n) j) = false := by
          rw [Bool.or_eq_false_iff]
          refine ⟨by simp; omega, ?_⟩
          cases hb : Nat.ble (lo + n) j with
          | false => rfl
          | true => have := Nat.le_of_ble_eq_true hb; omega
        rw [if_pos hin] at ih ⊢
        simp only [List.filter_cons, hf]
        exact ih
      · have hf : (decide (j < lo) || Nat.ble (lo + n) j) = true := by
          rw [Bool.or_eq_true]
          by_cases h1 : j < lo
          · exact .inl (by simpa using h1)
          · exact .inr (Nat.ble_eq_true_of_le (by omega))
        simp [hf, mapGet, hin]
    · simp only [List.filter_cons]
      split
      · simp only [mapGet, hj, if_false]; exact ih
      · simp only [mapGet, hj, if_false]; exact ih

end Sys2Proof.Machine
end

