-- ==== Sys2Proof/Laws/State.lean ====
section
/-! SUPPORT. Sys2Proof/Laws/State.lean: what each update of the state leaves in each field. -/

namespace Sys2Proof.Machine


/-! ## `Manager.onDev` -/

@[simp] theorem Manager.onDev_dev (m : Manager) (f : Dev → Dev) : (m.onDev f).dev = f m.dev := rfl
@[simp] theorem Manager.onDev_eng (m : Manager) (f : Dev → Dev) : (m.onDev f).eng = m.eng := rfl
@[simp] theorem Manager.onDev_sl (m : Manager) (f : Dev → Dev) : (m.onDev f).sl = m.sl := rfl
@[simp] theorem Manager.onDev_host (m : Manager) (f : Dev → Dev) : (m.onDev f).host = m.host := rfl
@[simp] theorem Manager.onDev_fab (m : Manager) (f : Dev → Dev) : (m.onDev f).fab = m.fab := rfl
@[simp] theorem Manager.onDev_red (m : Manager) (f : Dev → Dev) : (m.onDev f).red = m.red := rfl
@[simp] theorem Manager.onDev_rt (m : Manager) (f : Dev → Dev) : (m.onDev f).rt = m.rt := rfl
@[simp] theorem Manager.onDev_inst (m : Manager) (f : Dev → Dev) : (m.onDev f).inst = m.inst := rfl
@[simp] theorem Manager.onDev_rcv (m : Manager) (f : Dev → Dev) : (m.onDev f).rcv = m.rcv := rfl
@[simp] theorem Manager.onDev_repQ (m : Manager) (f : Dev → Dev) : (m.onDev f).repQ = m.repQ := rfl
@[simp] theorem Manager.onDev_disc (m : Manager) (f : Dev → Dev) : (m.onDev f).disc = m.disc := rfl
@[simp] theorem Manager.onDev_cast (m : Manager) (f : Dev → Dev) : (m.onDev f).cast = m.cast := rfl
@[simp] theorem Manager.onDev_tl (m : Manager) (f : Dev → Dev) : (m.onDev f).tl = m.tl := rfl
@[simp] theorem Manager.onDev_sec (m : Manager) (f : Dev → Dev) : (m.onDev f).sec = m.sec := rfl
@[simp] theorem Manager.onDev_pwr (m : Manager) (f : Dev → Dev) : (m.onDev f).pwr = m.pwr := rfl
@[simp] theorem Manager.onDev_failed (m : Manager) (f : Dev → Dev) : (m.onDev f).failed = m.failed := rfl

/-! ## `Manager.setObj` -/

@[simp] theorem Manager.setObj_dev (m : Manager) (k v : Nat) : (m.setObj k v).dev = m.dev.setObj k v := rfl
@[simp] theorem Manager.setObj_eng (m : Manager) (k v : Nat) : (m.setObj k v).eng = m.eng := rfl
@[simp] theorem Manager.setObj_sl (m : Manager) (k v : Nat) : (m.setObj k v).sl = m.sl := rfl
@[simp] theorem Manager.setObj_host (m : Manager) (k v : Nat) : (m.setObj k v).host = m.host := rfl
@[simp] theorem Manager.setObj_fab (m : Manager) (k v : Nat) : (m.setObj k v).fab = m.fab := rfl
@[simp] theorem Manager.setObj_red (m : Manager) (k v : Nat) : (m.setObj k v).red = m.red := rfl
@[simp] theorem Manager.setObj_rt (m : Manager) (k v : Nat) : (m.setObj k v).rt = m.rt := rfl
@[simp] theorem Manager.setObj_inst (m : Manager) (k v : Nat) : (m.setObj k v).inst = m.inst := rfl
@[simp] theorem Manager.setObj_rcv (m : Manager) (k v : Nat) : (m.setObj k v).rcv = m.rcv := rfl
@[simp] theorem Manager.setObj_repQ (m : Manager) (k v : Nat) : (m.setObj k v).repQ = m.repQ := rfl
@[simp] theorem Manager.setObj_disc (m : Manager) (k v : Nat) : (m.setObj k v).disc = m.disc := rfl
@[simp] theorem Manager.setObj_cast (m : Manager) (k v : Nat) : (m.setObj k v).cast = m.cast := rfl
@[simp] theorem Manager.setObj_tl (m : Manager) (k v : Nat) : (m.setObj k v).tl = m.tl := rfl
@[simp] theorem Manager.setObj_sec (m : Manager) (k v : Nat) : (m.setObj k v).sec = m.sec := rfl
@[simp] theorem Manager.setObj_pwr (m : Manager) (k v : Nat) : (m.setObj k v).pwr = m.pwr := rfl
@[simp] theorem Manager.setObj_failed (m : Manager) (k v : Nat) : (m.setObj k v).failed = m.failed := rfl

/-! ## `Manager.bump` -/

@[simp] theorem Manager.bump_dev (m : Manager) (k : Nat) : (m.bump k).dev = m.dev.bump k := rfl
@[simp] theorem Manager.bump_eng (m : Manager) (k : Nat) : (m.bump k).eng = m.eng := rfl
@[simp] theorem Manager.bump_sl (m : Manager) (k : Nat) : (m.bump k).sl = m.sl := rfl
@[simp] theorem Manager.bump_host (m : Manager) (k : Nat) : (m.bump k).host = m.host := rfl
@[simp] theorem Manager.bump_fab (m : Manager) (k : Nat) : (m.bump k).fab = m.fab := rfl
@[simp] theorem Manager.bump_red (m : Manager) (k : Nat) : (m.bump k).red = m.red := rfl
@[simp] theorem Manager.bump_rt (m : Manager) (k : Nat) : (m.bump k).rt = m.rt := rfl
@[simp] theorem Manager.bump_inst (m : Manager) (k : Nat) : (m.bump k).inst = m.inst := rfl
@[simp] theorem Manager.bump_rcv (m : Manager) (k : Nat) : (m.bump k).rcv = m.rcv := rfl
@[simp] theorem Manager.bump_repQ (m : Manager) (k : Nat) : (m.bump k).repQ = m.repQ := rfl
@[simp] theorem Manager.bump_disc (m : Manager) (k : Nat) : (m.bump k).disc = m.disc := rfl
@[simp] theorem Manager.bump_cast (m : Manager) (k : Nat) : (m.bump k).cast = m.cast := rfl
@[simp] theorem Manager.bump_tl (m : Manager) (k : Nat) : (m.bump k).tl = m.tl := rfl
@[simp] theorem Manager.bump_sec (m : Manager) (k : Nat) : (m.bump k).sec = m.sec := rfl
@[simp] theorem Manager.bump_pwr (m : Manager) (k : Nat) : (m.bump k).pwr = m.pwr := rfl
@[simp] theorem Manager.bump_failed (m : Manager) (k : Nat) : (m.bump k).failed = m.failed := rfl

/-! ## `Manager.bumpBy` -/

@[simp] theorem Manager.bumpBy_dev (m : Manager) (k n : Nat) : (m.bumpBy k n).dev = m.dev.bumpBy k n := rfl
@[simp] theorem Manager.bumpBy_eng (m : Manager) (k n : Nat) : (m.bumpBy k n).eng = m.eng := rfl
@[simp] theorem Manager.bumpBy_sl (m : Manager) (k n : Nat) : (m.bumpBy k n).sl = m.sl := rfl
@[simp] theorem Manager.bumpBy_host (m : Manager) (k n : Nat) : (m.bumpBy k n).host = m.host := rfl
@[simp] theorem Manager.bumpBy_fab (m : Manager) (k n : Nat) : (m.bumpBy k n).fab = m.fab := rfl
@[simp] theorem Manager.bumpBy_red (m : Manager) (k n : Nat) : (m.bumpBy k n).red = m.red := rfl
@[simp] theorem Manager.bumpBy_rt (m : Manager) (k n : Nat) : (m.bumpBy k n).rt = m.rt := rfl
@[simp] theorem Manager.bumpBy_inst (m : Manager) (k n : Nat) : (m.bumpBy k n).inst = m.inst := rfl
@[simp] theorem Manager.bumpBy_rcv (m : Manager) (k n : Nat) : (m.bumpBy k n).rcv = m.rcv := rfl
@[simp] theorem Manager.bumpBy_repQ (m : Manager) (k n : Nat) : (m.bumpBy k n).repQ = m.repQ := rfl
@[simp] theorem Manager.bumpBy_disc (m : Manager) (k n : Nat) : (m.bumpBy k n).disc = m.disc := rfl
@[simp] theorem Manager.bumpBy_cast (m : Manager) (k n : Nat) : (m.bumpBy k n).cast = m.cast := rfl
@[simp] theorem Manager.bumpBy_tl (m : Manager) (k n : Nat) : (m.bumpBy k n).tl = m.tl := rfl
@[simp] theorem Manager.bumpBy_sec (m : Manager) (k n : Nat) : (m.bumpBy k n).sec = m.sec := rfl
@[simp] theorem Manager.bumpBy_pwr (m : Manager) (k n : Nat) : (m.bumpBy k n).pwr = m.pwr := rfl
@[simp] theorem Manager.bumpBy_failed (m : Manager) (k n : Nat) : (m.bumpBy k n).failed = m.failed := rfl

/-! ## `Manager.onEng` -/

@[simp] theorem Manager.onEng_dev (m : Manager) (f : Engine → Engine) : (m.onEng f).dev = m.dev := rfl
@[simp] theorem Manager.onEng_eng (m : Manager) (f : Engine → Engine) : (m.onEng f).eng = f m.eng := rfl
@[simp] theorem Manager.onEng_sl (m : Manager) (f : Engine → Engine) : (m.onEng f).sl = m.sl := rfl
@[simp] theorem Manager.onEng_host (m : Manager) (f : Engine → Engine) : (m.onEng f).host = m.host := rfl
@[simp] theorem Manager.onEng_fab (m : Manager) (f : Engine → Engine) : (m.onEng f).fab = m.fab := rfl
@[simp] theorem Manager.onEng_red (m : Manager) (f : Engine → Engine) : (m.onEng f).red = m.red := rfl
@[simp] theorem Manager.onEng_rt (m : Manager) (f : Engine → Engine) : (m.onEng f).rt = m.rt := rfl
@[simp] theorem Manager.onEng_inst (m : Manager) (f : Engine → Engine) : (m.onEng f).inst = m.inst := rfl
@[simp] theorem Manager.onEng_rcv (m : Manager) (f : Engine → Engine) : (m.onEng f).rcv = m.rcv := rfl
@[simp] theorem Manager.onEng_repQ (m : Manager) (f : Engine → Engine) : (m.onEng f).repQ = m.repQ := rfl
@[simp] theorem Manager.onEng_disc (m : Manager) (f : Engine → Engine) : (m.onEng f).disc = m.disc := rfl
@[simp] theorem Manager.onEng_cast (m : Manager) (f : Engine → Engine) : (m.onEng f).cast = m.cast := rfl
@[simp] theorem Manager.onEng_tl (m : Manager) (f : Engine → Engine) : (m.onEng f).tl = m.tl := rfl
@[simp] theorem Manager.onEng_sec (m : Manager) (f : Engine → Engine) : (m.onEng f).sec = m.sec := rfl
@[simp] theorem Manager.onEng_pwr (m : Manager) (f : Engine → Engine) : (m.onEng f).pwr = m.pwr := rfl
@[simp] theorem Manager.onEng_failed (m : Manager) (f : Engine → Engine) : (m.onEng f).failed = m.failed := rfl

/-! ## `Manager.onRed` -/

@[simp] theorem Manager.onRed_dev (m : Manager) (f : Redundancy → Redundancy) : (m.onRed f).dev = m.dev := rfl
@[simp] theorem Manager.onRed_eng (m : Manager) (f : Redundancy → Redundancy) : (m.onRed f).eng = m.eng := rfl
@[simp] theorem Manager.onRed_sl (m : Manager) (f : Redundancy → Redundancy) : (m.onRed f).sl = m.sl := rfl
@[simp] theorem Manager.onRed_host (m : Manager) (f : Redundancy → Redundancy) : (m.onRed f).host = m.host := rfl
@[simp] theorem Manager.onRed_fab (m : Manager) (f : Redundancy → Redundancy) : (m.onRed f).fab = m.fab := rfl
@[simp] theorem Manager.onRed_red (m : Manager) (f : Redundancy → Redundancy) : (m.onRed f).red = f m.red := rfl
@[simp] theorem Manager.onRed_rt (m : Manager) (f : Redundancy → Redundancy) : (m.onRed f).rt = m.rt := rfl
@[simp] theorem Manager.onRed_inst (m : Manager) (f : Redundancy → Redundancy) : (m.onRed f).inst = m.inst := rfl
@[simp] theorem Manager.onRed_rcv (m : Manager) (f : Redundancy → Redundancy) : (m.onRed f).rcv = m.rcv := rfl
@[simp] theorem Manager.onRed_repQ (m : Manager) (f : Redundancy → Redundancy) : (m.onRed f).repQ = m.repQ := rfl
@[simp] theorem Manager.onRed_disc (m : Manager) (f : Redundancy → Redundancy) : (m.onRed f).disc = m.disc := rfl
@[simp] theorem Manager.onRed_cast (m : Manager) (f : Redundancy → Redundancy) : (m.onRed f).cast = m.cast := rfl
@[simp] theorem Manager.onRed_tl (m : Manager) (f : Redundancy → Redundancy) : (m.onRed f).tl = m.tl := rfl
@[simp] theorem Manager.onRed_sec (m : Manager) (f : Redundancy → Redundancy) : (m.onRed f).sec = m.sec := rfl
@[simp] theorem Manager.onRed_pwr (m : Manager) (f : Redundancy → Redundancy) : (m.onRed f).pwr = m.pwr := rfl
@[simp] theorem Manager.onRed_failed (m : Manager) (f : Redundancy → Redundancy) : (m.onRed f).failed = m.failed := rfl

/-! ## `Manager.onSec` -/

@[simp] theorem Manager.onSec_dev (m : Manager) (f : Security → Security) : (m.onSec f).dev = m.dev := rfl
@[simp] theorem Manager.onSec_eng (m : Manager) (f : Security → Security) : (m.onSec f).eng = m.eng := rfl
@[simp] theorem Manager.onSec_sl (m : Manager) (f : Security → Security) : (m.onSec f).sl = m.sl := rfl
@[simp] theorem Manager.onSec_host (m : Manager) (f : Security → Security) : (m.onSec f).host = m.host := rfl
@[simp] theorem Manager.onSec_fab (m : Manager) (f : Security → Security) : (m.onSec f).fab = m.fab := rfl
@[simp] theorem Manager.onSec_red (m : Manager) (f : Security → Security) : (m.onSec f).red = m.red := rfl
@[simp] theorem Manager.onSec_rt (m : Manager) (f : Security → Security) : (m.onSec f).rt = m.rt := rfl
@[simp] theorem Manager.onSec_inst (m : Manager) (f : Security → Security) : (m.onSec f).inst = m.inst := rfl
@[simp] theorem Manager.onSec_rcv (m : Manager) (f : Security → Security) : (m.onSec f).rcv = m.rcv := rfl
@[simp] theorem Manager.onSec_repQ (m : Manager) (f : Security → Security) : (m.onSec f).repQ = m.repQ := rfl
@[simp] theorem Manager.onSec_disc (m : Manager) (f : Security → Security) : (m.onSec f).disc = m.disc := rfl
@[simp] theorem Manager.onSec_cast (m : Manager) (f : Security → Security) : (m.onSec f).cast = m.cast := rfl
@[simp] theorem Manager.onSec_tl (m : Manager) (f : Security → Security) : (m.onSec f).tl = m.tl := rfl
@[simp] theorem Manager.onSec_sec (m : Manager) (f : Security → Security) : (m.onSec f).sec = f m.sec := rfl
@[simp] theorem Manager.onSec_pwr (m : Manager) (f : Security → Security) : (m.onSec f).pwr = m.pwr := rfl
@[simp] theorem Manager.onSec_failed (m : Manager) (f : Security → Security) : (m.onSec f).failed = m.failed := rfl

/-! ## `Manager.onDisc` -/

@[simp] theorem Manager.onDisc_dev (m : Manager) (f : Discovery → Discovery) : (m.onDisc f).dev = m.dev := rfl
@[simp] theorem Manager.onDisc_eng (m : Manager) (f : Discovery → Discovery) : (m.onDisc f).eng = m.eng := rfl
@[simp] theorem Manager.onDisc_sl (m : Manager) (f : Discovery → Discovery) : (m.onDisc f).sl = m.sl := rfl
@[simp] theorem Manager.onDisc_host (m : Manager) (f : Discovery → Discovery) : (m.onDisc f).host = m.host := rfl
@[simp] theorem Manager.onDisc_fab (m : Manager) (f : Discovery → Discovery) : (m.onDisc f).fab = m.fab := rfl
@[simp] theorem Manager.onDisc_red (m : Manager) (f : Discovery → Discovery) : (m.onDisc f).red = m.red := rfl
@[simp] theorem Manager.onDisc_rt (m : Manager) (f : Discovery → Discovery) : (m.onDisc f).rt = m.rt := rfl
@[simp] theorem Manager.onDisc_inst (m : Manager) (f : Discovery → Discovery) : (m.onDisc f).inst = m.inst := rfl
@[simp] theorem Manager.onDisc_rcv (m : Manager) (f : Discovery → Discovery) : (m.onDisc f).rcv = m.rcv := rfl
@[simp] theorem Manager.onDisc_repQ (m : Manager) (f : Discovery → Discovery) : (m.onDisc f).repQ = m.repQ := rfl
@[simp] theorem Manager.onDisc_disc (m : Manager) (f : Discovery → Discovery) : (m.onDisc f).disc = f m.disc := rfl
@[simp] theorem Manager.onDisc_cast (m : Manager) (f : Discovery → Discovery) : (m.onDisc f).cast = m.cast := rfl
@[simp] theorem Manager.onDisc_tl (m : Manager) (f : Discovery → Discovery) : (m.onDisc f).tl = m.tl := rfl
@[simp] theorem Manager.onDisc_sec (m : Manager) (f : Discovery → Discovery) : (m.onDisc f).sec = m.sec := rfl
@[simp] theorem Manager.onDisc_pwr (m : Manager) (f : Discovery → Discovery) : (m.onDisc f).pwr = m.pwr := rfl
@[simp] theorem Manager.onDisc_failed (m : Manager) (f : Discovery → Discovery) : (m.onDisc f).failed = m.failed := rfl

/-! ## `Manager.onCast` -/

@[simp] theorem Manager.onCast_dev (m : Manager) (f : FwCast → FwCast) : (m.onCast f).dev = m.dev := rfl
@[simp] theorem Manager.onCast_eng (m : Manager) (f : FwCast → FwCast) : (m.onCast f).eng = m.eng := rfl
@[simp] theorem Manager.onCast_sl (m : Manager) (f : FwCast → FwCast) : (m.onCast f).sl = m.sl := rfl
@[simp] theorem Manager.onCast_host (m : Manager) (f : FwCast → FwCast) : (m.onCast f).host = m.host := rfl
@[simp] theorem Manager.onCast_fab (m : Manager) (f : FwCast → FwCast) : (m.onCast f).fab = m.fab := rfl
@[simp] theorem Manager.onCast_red (m : Manager) (f : FwCast → FwCast) : (m.onCast f).red = m.red := rfl
@[simp] theorem Manager.onCast_rt (m : Manager) (f : FwCast → FwCast) : (m.onCast f).rt = m.rt := rfl
@[simp] theorem Manager.onCast_inst (m : Manager) (f : FwCast → FwCast) : (m.onCast f).inst = m.inst := rfl
@[simp] theorem Manager.onCast_rcv (m : Manager) (f : FwCast → FwCast) : (m.onCast f).rcv = m.rcv := rfl
@[simp] theorem Manager.onCast_repQ (m : Manager) (f : FwCast → FwCast) : (m.onCast f).repQ = m.repQ := rfl
@[simp] theorem Manager.onCast_disc (m : Manager) (f : FwCast → FwCast) : (m.onCast f).disc = m.disc := rfl
@[simp] theorem Manager.onCast_cast (m : Manager) (f : FwCast → FwCast) : (m.onCast f).cast = f m.cast := rfl
@[simp] theorem Manager.onCast_tl (m : Manager) (f : FwCast → FwCast) : (m.onCast f).tl = m.tl := rfl
@[simp] theorem Manager.onCast_sec (m : Manager) (f : FwCast → FwCast) : (m.onCast f).sec = m.sec := rfl
@[simp] theorem Manager.onCast_pwr (m : Manager) (f : FwCast → FwCast) : (m.onCast f).pwr = m.pwr := rfl
@[simp] theorem Manager.onCast_failed (m : Manager) (f : FwCast → FwCast) : (m.onCast f).failed = m.failed := rfl

/-! ## `Manager.setCtx` -/

@[simp] theorem Manager.setCtx_dev (m : Manager) (c : Nat) (x : Ctx) : (m.setCtx c x).dev = m.dev := rfl
@[simp] theorem Manager.setCtx_eng (m : Manager) (c : Nat) (x : Ctx) : (m.setCtx c x).eng = m.eng := rfl
@[simp] theorem Manager.setCtx_host (m : Manager) (c : Nat) (x : Ctx) : (m.setCtx c x).host = m.host := rfl
@[simp] theorem Manager.setCtx_fab (m : Manager) (c : Nat) (x : Ctx) : (m.setCtx c x).fab = m.fab := rfl
@[simp] theorem Manager.setCtx_red (m : Manager) (c : Nat) (x : Ctx) : (m.setCtx c x).red = m.red := rfl
@[simp] theorem Manager.setCtx_rt (m : Manager) (c : Nat) (x : Ctx) : (m.setCtx c x).rt = m.rt := rfl
@[simp] theorem Manager.setCtx_inst (m : Manager) (c : Nat) (x : Ctx) : (m.setCtx c x).inst = m.inst := rfl
@[simp] theorem Manager.setCtx_rcv (m : Manager) (c : Nat) (x : Ctx) : (m.setCtx c x).rcv = m.rcv := rfl
@[simp] theorem Manager.setCtx_repQ (m : Manager) (c : Nat) (x : Ctx) : (m.setCtx c x).repQ = m.repQ := rfl
@[simp] theorem Manager.setCtx_disc (m : Manager) (c : Nat) (x : Ctx) : (m.setCtx c x).disc = m.disc := rfl
@[simp] theorem Manager.setCtx_cast (m : Manager) (c : Nat) (x : Ctx) : (m.setCtx c x).cast = m.cast := rfl
@[simp] theorem Manager.setCtx_tl (m : Manager) (c : Nat) (x : Ctx) : (m.setCtx c x).tl = m.tl := rfl
@[simp] theorem Manager.setCtx_sec (m : Manager) (c : Nat) (x : Ctx) : (m.setCtx c x).sec = m.sec := rfl
@[simp] theorem Manager.setCtx_pwr (m : Manager) (c : Nat) (x : Ctx) : (m.setCtx c x).pwr = m.pwr := rfl
@[simp] theorem Manager.setCtx_failed (m : Manager) (c : Nat) (x : Ctx) : (m.setCtx c x).failed = m.failed := rfl

/-! ## `Manager.enter` -/

@[simp] theorem Manager.enter_dev (m : Manager) (c : Nat) (st : CtxSt) : (m.enter c st).dev = m.dev := rfl
@[simp] theorem Manager.enter_eng (m : Manager) (c : Nat) (st : CtxSt) : (m.enter c st).eng = m.eng := rfl
@[simp] theorem Manager.enter_host (m : Manager) (c : Nat) (st : CtxSt) : (m.enter c st).host = m.host := rfl
@[simp] theorem Manager.enter_fab (m : Manager) (c : Nat) (st : CtxSt) : (m.enter c st).fab = m.fab := rfl
@[simp] theorem Manager.enter_red (m : Manager) (c : Nat) (st : CtxSt) : (m.enter c st).red = m.red := rfl
@[simp] theorem Manager.enter_rt (m : Manager) (c : Nat) (st : CtxSt) : (m.enter c st).rt = m.rt := rfl
@[simp] theorem Manager.enter_inst (m : Manager) (c : Nat) (st : CtxSt) : (m.enter c st).inst = m.inst := rfl
@[simp] theorem Manager.enter_rcv (m : Manager) (c : Nat) (st : CtxSt) : (m.enter c st).rcv = m.rcv := rfl
@[simp] theorem Manager.enter_repQ (m : Manager) (c : Nat) (st : CtxSt) : (m.enter c st).repQ = m.repQ := rfl
@[simp] theorem Manager.enter_disc (m : Manager) (c : Nat) (st : CtxSt) : (m.enter c st).disc = m.disc := rfl
@[simp] theorem Manager.enter_cast (m : Manager) (c : Nat) (st : CtxSt) : (m.enter c st).cast = m.cast := rfl
@[simp] theorem Manager.enter_tl (m : Manager) (c : Nat) (st : CtxSt) : (m.enter c st).tl = m.tl := rfl
@[simp] theorem Manager.enter_sec (m : Manager) (c : Nat) (st : CtxSt) : (m.enter c st).sec = m.sec := rfl
@[simp] theorem Manager.enter_pwr (m : Manager) (c : Nat) (st : CtxSt) : (m.enter c st).pwr = m.pwr := rfl
@[simp] theorem Manager.enter_failed (m : Manager) (c : Nat) (st : CtxSt) : (m.enter c st).failed = m.failed := rfl

/-! ## `Manager.setNode` -/

@[simp] theorem Manager.setNode_dev (m : Manager) (nid : Nat) (x : NodeInfo) : (m.setNode nid x).dev = m.dev := rfl
@[simp] theorem Manager.setNode_eng (m : Manager) (nid : Nat) (x : NodeInfo) : (m.setNode nid x).eng = m.eng := rfl
@[simp] theorem Manager.setNode_sl (m : Manager) (nid : Nat) (x : NodeInfo) : (m.setNode nid x).sl = m.sl := rfl
@[simp] theorem Manager.setNode_host (m : Manager) (nid : Nat) (x : NodeInfo) : (m.setNode nid x).host = m.host := rfl
@[simp] theorem Manager.setNode_red (m : Manager) (nid : Nat) (x : NodeInfo) : (m.setNode nid x).red = m.red := rfl
@[simp] theorem Manager.setNode_rt (m : Manager) (nid : Nat) (x : NodeInfo) : (m.setNode nid x).rt = m.rt := rfl
@[simp] theorem Manager.setNode_inst (m : Manager) (nid : Nat) (x : NodeInfo) : (m.setNode nid x).inst = m.inst := rfl
@[simp] theorem Manager.setNode_rcv (m : Manager) (nid : Nat) (x : NodeInfo) : (m.setNode nid x).rcv = m.rcv := rfl
@[simp] theorem Manager.setNode_repQ (m : Manager) (nid : Nat) (x : NodeInfo) : (m.setNode nid x).repQ = m.repQ := rfl
@[simp] theorem Manager.setNode_disc (m : Manager) (nid : Nat) (x : NodeInfo) : (m.setNode nid x).disc = m.disc := rfl
@[simp] theorem Manager.setNode_cast (m : Manager) (nid : Nat) (x : NodeInfo) : (m.setNode nid x).cast = m.cast := rfl
@[simp] theorem Manager.setNode_tl (m : Manager) (nid : Nat) (x : NodeInfo) : (m.setNode nid x).tl = m.tl := rfl
@[simp] theorem Manager.setNode_sec (m : Manager) (nid : Nat) (x : NodeInfo) : (m.setNode nid x).sec = m.sec := rfl
@[simp] theorem Manager.setNode_pwr (m : Manager) (nid : Nat) (x : NodeInfo) : (m.setNode nid x).pwr = m.pwr := rfl
@[simp] theorem Manager.setNode_failed (m : Manager) (nid : Nat) (x : NodeInfo) : (m.setNode nid x).failed = m.failed := rfl

/-! ## `Manager.onStk` -/

@[simp] theorem Manager.onStk_dev (m : Manager) (f : Stacks → Stacks) : (m.onStk f).dev = m.dev := rfl
@[simp] theorem Manager.onStk_sl (m : Manager) (f : Stacks → Stacks) : (m.onStk f).sl = m.sl := rfl
@[simp] theorem Manager.onStk_host (m : Manager) (f : Stacks → Stacks) : (m.onStk f).host = m.host := rfl
@[simp] theorem Manager.onStk_fab (m : Manager) (f : Stacks → Stacks) : (m.onStk f).fab = m.fab := rfl
@[simp] theorem Manager.onStk_red (m : Manager) (f : Stacks → Stacks) : (m.onStk f).red = m.red := rfl
@[simp] theorem Manager.onStk_rt (m : Manager) (f : Stacks → Stacks) : (m.onStk f).rt = m.rt := rfl
@[simp] theorem Manager.onStk_inst (m : Manager) (f : Stacks → Stacks) : (m.onStk f).inst = m.inst := rfl
@[simp] theorem Manager.onStk_rcv (m : Manager) (f : Stacks → Stacks) : (m.onStk f).rcv = m.rcv := rfl
@[simp] theorem Manager.onStk_repQ (m : Manager) (f : Stacks → Stacks) : (m.onStk f).repQ = m.repQ := rfl
@[simp] theorem Manager.onStk_disc (m : Manager) (f : Stacks → Stacks) : (m.onStk f).disc = m.disc := rfl
@[simp] theorem Manager.onStk_cast (m : Manager) (f : Stacks → Stacks) : (m.onStk f).cast = m.cast := rfl
@[simp] theorem Manager.onStk_tl (m : Manager) (f : Stacks → Stacks) : (m.onStk f).tl = m.tl := rfl
@[simp] theorem Manager.onStk_sec (m : Manager) (f : Stacks → Stacks) : (m.onStk f).sec = m.sec := rfl
@[simp] theorem Manager.onStk_pwr (m : Manager) (f : Stacks → Stacks) : (m.onStk f).pwr = m.pwr := rfl
@[simp] theorem Manager.onStk_failed (m : Manager) (f : Stacks → Stacks) : (m.onStk f).failed = m.failed := rfl

/-! ## `Manager.setFn` -/

@[simp] theorem Manager.setFn_dev (m : Manager) (fn : Nat) (x : HostFn) : (m.setFn fn x).dev = m.dev := rfl
@[simp] theorem Manager.setFn_eng (m : Manager) (fn : Nat) (x : HostFn) : (m.setFn fn x).eng = m.eng := rfl
@[simp] theorem Manager.setFn_sl (m : Manager) (fn : Nat) (x : HostFn) : (m.setFn fn x).sl = m.sl := rfl
@[simp] theorem Manager.setFn_fab (m : Manager) (fn : Nat) (x : HostFn) : (m.setFn fn x).fab = m.fab := rfl
@[simp] theorem Manager.setFn_red (m : Manager) (fn : Nat) (x : HostFn) : (m.setFn fn x).red = m.red := rfl
@[simp] theorem Manager.setFn_rt (m : Manager) (fn : Nat) (x : HostFn) : (m.setFn fn x).rt = m.rt := rfl
@[simp] theorem Manager.setFn_inst (m : Manager) (fn : Nat) (x : HostFn) : (m.setFn fn x).inst = m.inst := rfl
@[simp] theorem Manager.setFn_rcv (m : Manager) (fn : Nat) (x : HostFn) : (m.setFn fn x).rcv = m.rcv := rfl
@[simp] theorem Manager.setFn_repQ (m : Manager) (fn : Nat) (x : HostFn) : (m.setFn fn x).repQ = m.repQ := rfl
@[simp] theorem Manager.setFn_disc (m : Manager) (fn : Nat) (x : HostFn) : (m.setFn fn x).disc = m.disc := rfl
@[simp] theorem Manager.setFn_cast (m : Manager) (fn : Nat) (x : HostFn) : (m.setFn fn x).cast = m.cast := rfl
@[simp] theorem Manager.setFn_tl (m : Manager) (fn : Nat) (x : HostFn) : (m.setFn fn x).tl = m.tl := rfl
@[simp] theorem Manager.setFn_sec (m : Manager) (fn : Nat) (x : HostFn) : (m.setFn fn x).sec = m.sec := rfl
@[simp] theorem Manager.setFn_pwr (m : Manager) (fn : Nat) (x : HostFn) : (m.setFn fn x).pwr = m.pwr := rfl
@[simp] theorem Manager.setFn_failed (m : Manager) (fn : Nat) (x : HostFn) : (m.setFn fn x).failed = m.failed := rfl

/-! ## `Manager.setSync` -/

@[simp] theorem Manager.setSync_dev (m : Manager) (n : Nat) (o : SyncObj) : (m.setSync n o).dev = m.dev := rfl
@[simp] theorem Manager.setSync_eng (m : Manager) (n : Nat) (o : SyncObj) : (m.setSync n o).eng = m.eng := rfl
@[simp] theorem Manager.setSync_sl (m : Manager) (n : Nat) (o : SyncObj) : (m.setSync n o).sl = m.sl := rfl
@[simp] theorem Manager.setSync_fab (m : Manager) (n : Nat) (o : SyncObj) : (m.setSync n o).fab = m.fab := rfl
@[simp] theorem Manager.setSync_red (m : Manager) (n : Nat) (o : SyncObj) : (m.setSync n o).red = m.red := rfl
@[simp] theorem Manager.setSync_rt (m : Manager) (n : Nat) (o : SyncObj) : (m.setSync n o).rt = m.rt := rfl
@[simp] theorem Manager.setSync_inst (m : Manager) (n : Nat) (o : SyncObj) : (m.setSync n o).inst = m.inst := rfl
@[simp] theorem Manager.setSync_rcv (m : Manager) (n : Nat) (o : SyncObj) : (m.setSync n o).rcv = m.rcv := rfl
@[simp] theorem Manager.setSync_repQ (m : Manager) (n : Nat) (o : SyncObj) : (m.setSync n o).repQ = m.repQ := rfl
@[simp] theorem Manager.setSync_disc (m : Manager) (n : Nat) (o : SyncObj) : (m.setSync n o).disc = m.disc := rfl
@[simp] theorem Manager.setSync_cast (m : Manager) (n : Nat) (o : SyncObj) : (m.setSync n o).cast = m.cast := rfl
@[simp] theorem Manager.setSync_tl (m : Manager) (n : Nat) (o : SyncObj) : (m.setSync n o).tl = m.tl := rfl
@[simp] theorem Manager.setSync_sec (m : Manager) (n : Nat) (o : SyncObj) : (m.setSync n o).sec = m.sec := rfl
@[simp] theorem Manager.setSync_pwr (m : Manager) (n : Nat) (o : SyncObj) : (m.setSync n o).pwr = m.pwr := rfl
@[simp] theorem Manager.setSync_failed (m : Manager) (n : Nat) (o : SyncObj) : (m.setSync n o).failed = m.failed := rfl

/-! ## `Manager.onMbox` -/

@[simp] theorem Manager.onMbox_dev (m : Manager) (b : Nat) (f : Mailbox → Mailbox) : (m.onMbox b f).dev = m.dev := rfl
@[simp] theorem Manager.onMbox_eng (m : Manager) (b : Nat) (f : Mailbox → Mailbox) : (m.onMbox b f).eng = m.eng := rfl
@[simp] theorem Manager.onMbox_sl (m : Manager) (b : Nat) (f : Mailbox → Mailbox) : (m.onMbox b f).sl = m.sl := rfl
@[simp] theorem Manager.onMbox_fab (m : Manager) (b : Nat) (f : Mailbox → Mailbox) : (m.onMbox b f).fab = m.fab := rfl
@[simp] theorem Manager.onMbox_red (m : Manager) (b : Nat) (f : Mailbox → Mailbox) : (m.onMbox b f).red = m.red := rfl
@[simp] theorem Manager.onMbox_rt (m : Manager) (b : Nat) (f : Mailbox → Mailbox) : (m.onMbox b f).rt = m.rt := rfl
@[simp] theorem Manager.onMbox_inst (m : Manager) (b : Nat) (f : Mailbox → Mailbox) : (m.onMbox b f).inst = m.inst := rfl
@[simp] theorem Manager.onMbox_rcv (m : Manager) (b : Nat) (f : Mailbox → Mailbox) : (m.onMbox b f).rcv = m.rcv := rfl
@[simp] theorem Manager.onMbox_repQ (m : Manager) (b : Nat) (f : Mailbox → Mailbox) : (m.onMbox b f).repQ = m.repQ := rfl
@[simp] theorem Manager.onMbox_disc (m : Manager) (b : Nat) (f : Mailbox → Mailbox) : (m.onMbox b f).disc = m.disc := rfl
@[simp] theorem Manager.onMbox_cast (m : Manager) (b : Nat) (f : Mailbox → Mailbox) : (m.onMbox b f).cast = m.cast := rfl
@[simp] theorem Manager.onMbox_tl (m : Manager) (b : Nat) (f : Mailbox → Mailbox) : (m.onMbox b f).tl = m.tl := rfl
@[simp] theorem Manager.onMbox_sec (m : Manager) (b : Nat) (f : Mailbox → Mailbox) : (m.onMbox b f).sec = m.sec := rfl
@[simp] theorem Manager.onMbox_pwr (m : Manager) (b : Nat) (f : Mailbox → Mailbox) : (m.onMbox b f).pwr = m.pwr := rfl
@[simp] theorem Manager.onMbox_failed (m : Manager) (b : Nat) (f : Mailbox → Mailbox) : (m.onMbox b f).failed = m.failed := rfl

/-! ## `Manager.setSwInst` -/

@[simp] theorem Manager.setSwInst_dev (m : Manager) (s : Nat) (x : SwInst) : (m.setSwInst s x).dev = m.dev := rfl
@[simp] theorem Manager.setSwInst_eng (m : Manager) (s : Nat) (x : SwInst) : (m.setSwInst s x).eng = m.eng := rfl
@[simp] theorem Manager.setSwInst_sl (m : Manager) (s : Nat) (x : SwInst) : (m.setSwInst s x).sl = m.sl := rfl
@[simp] theorem Manager.setSwInst_host (m : Manager) (s : Nat) (x : SwInst) : (m.setSwInst s x).host = m.host := rfl
@[simp] theorem Manager.setSwInst_fab (m : Manager) (s : Nat) (x : SwInst) : (m.setSwInst s x).fab = m.fab := rfl
@[simp] theorem Manager.setSwInst_red (m : Manager) (s : Nat) (x : SwInst) : (m.setSwInst s x).red = m.red := rfl
@[simp] theorem Manager.setSwInst_rt (m : Manager) (s : Nat) (x : SwInst) : (m.setSwInst s x).rt = m.rt := rfl
@[simp] theorem Manager.setSwInst_rcv (m : Manager) (s : Nat) (x : SwInst) : (m.setSwInst s x).rcv = m.rcv := rfl
@[simp] theorem Manager.setSwInst_repQ (m : Manager) (s : Nat) (x : SwInst) : (m.setSwInst s x).repQ = m.repQ := rfl
@[simp] theorem Manager.setSwInst_disc (m : Manager) (s : Nat) (x : SwInst) : (m.setSwInst s x).disc = m.disc := rfl
@[simp] theorem Manager.setSwInst_cast (m : Manager) (s : Nat) (x : SwInst) : (m.setSwInst s x).cast = m.cast := rfl
@[simp] theorem Manager.setSwInst_tl (m : Manager) (s : Nat) (x : SwInst) : (m.setSwInst s x).tl = m.tl := rfl
@[simp] theorem Manager.setSwInst_sec (m : Manager) (s : Nat) (x : SwInst) : (m.setSwInst s x).sec = m.sec := rfl
@[simp] theorem Manager.setSwInst_pwr (m : Manager) (s : Nat) (x : SwInst) : (m.setSwInst s x).pwr = m.pwr := rfl
@[simp] theorem Manager.setSwInst_failed (m : Manager) (s : Nat) (x : SwInst) : (m.setSwInst s x).failed = m.failed := rfl

/-! ## `Manager.performed` -/

@[simp] theorem Manager.performed_dev (m : Manager) (r : Req) : (m.performed r).dev = m.dev := rfl
@[simp] theorem Manager.performed_eng (m : Manager) (r : Req) : (m.performed r).eng = m.eng := rfl
@[simp] theorem Manager.performed_sl (m : Manager) (r : Req) : (m.performed r).sl = m.sl := rfl
@[simp] theorem Manager.performed_fab (m : Manager) (r : Req) : (m.performed r).fab = m.fab := rfl
@[simp] theorem Manager.performed_red (m : Manager) (r : Req) : (m.performed r).red = m.red := rfl
@[simp] theorem Manager.performed_rt (m : Manager) (r : Req) : (m.performed r).rt = m.rt := rfl
@[simp] theorem Manager.performed_inst (m : Manager) (r : Req) : (m.performed r).inst = m.inst := rfl
@[simp] theorem Manager.performed_rcv (m : Manager) (r : Req) : (m.performed r).rcv = m.rcv := rfl
@[simp] theorem Manager.performed_repQ (m : Manager) (r : Req) : (m.performed r).repQ = m.repQ := rfl
@[simp] theorem Manager.performed_disc (m : Manager) (r : Req) : (m.performed r).disc = m.disc := rfl
@[simp] theorem Manager.performed_cast (m : Manager) (r : Req) : (m.performed r).cast = m.cast := rfl
@[simp] theorem Manager.performed_tl (m : Manager) (r : Req) : (m.performed r).tl = m.tl := rfl
@[simp] theorem Manager.performed_sec (m : Manager) (r : Req) : (m.performed r).sec = m.sec := rfl
@[simp] theorem Manager.performed_pwr (m : Manager) (r : Req) : (m.performed r).pwr = m.pwr := rfl
@[simp] theorem Manager.performed_failed (m : Manager) (r : Req) : (m.performed r).failed = m.failed := rfl

/-! ## `Manager.toLeader` -/

@[simp] theorem Manager.toLeader_dev (m : Manager) (r : Req) (i : Instr) : (m.toLeader r i).dev = m.dev := rfl
@[simp] theorem Manager.toLeader_eng (m : Manager) (r : Req) (i : Instr) : (m.toLeader r i).eng = m.eng := rfl
@[simp] theorem Manager.toLeader_sl (m : Manager) (r : Req) (i : Instr) : (m.toLeader r i).sl = m.sl := rfl
@[simp] theorem Manager.toLeader_fab (m : Manager) (r : Req) (i : Instr) : (m.toLeader r i).fab = m.fab := rfl
@[simp] theorem Manager.toLeader_rt (m : Manager) (r : Req) (i : Instr) : (m.toLeader r i).rt = m.rt := rfl
@[simp] theorem Manager.toLeader_inst (m : Manager) (r : Req) (i : Instr) : (m.toLeader r i).inst = m.inst := rfl
@[simp] theorem Manager.toLeader_rcv (m : Manager) (r : Req) (i : Instr) : (m.toLeader r i).rcv = m.rcv := rfl
@[simp] theorem Manager.toLeader_repQ (m : Manager) (r : Req) (i : Instr) : (m.toLeader r i).repQ = m.repQ := rfl
@[simp] theorem Manager.toLeader_disc (m : Manager) (r : Req) (i : Instr) : (m.toLeader r i).disc = m.disc := rfl
@[simp] theorem Manager.toLeader_cast (m : Manager) (r : Req) (i : Instr) : (m.toLeader r i).cast = m.cast := rfl
@[simp] theorem Manager.toLeader_tl (m : Manager) (r : Req) (i : Instr) : (m.toLeader r i).tl = m.tl := rfl
@[simp] theorem Manager.toLeader_sec (m : Manager) (r : Req) (i : Instr) : (m.toLeader r i).sec = m.sec := rfl
@[simp] theorem Manager.toLeader_pwr (m : Manager) (r : Req) (i : Instr) : (m.toLeader r i).pwr = m.pwr := rfl
@[simp] theorem Manager.toLeader_failed (m : Manager) (r : Req) (i : Instr) : (m.toLeader r i).failed = m.failed := rfl

/-! ## `Agent.onDev` -/

@[simp] theorem Agent.onDev_dev (a : Agent) (f : Dev → Dev) : (a.onDev f).dev = f a.dev := rfl
@[simp] theorem Agent.onDev_node (a : Agent) (f : Dev → Dev) : (a.onDev f).node = a.node := rfl
@[simp] theorem Agent.onDev_store (a : Agent) (f : Dev → Dev) : (a.onDev f).store = a.store := rfl
@[simp] theorem Agent.onDev_ptable (a : Agent) (f : Dev → Dev) : (a.onDev f).ptable = a.ptable := rfl
@[simp] theorem Agent.onDev_keyQ (a : Agent) (f : Dev → Dev) : (a.onDev f).keyQ = a.keyQ := rfl
@[simp] theorem Agent.onDev_rep (a : Agent) (f : Dev → Dev) : (a.onDev f).rep = a.rep := rfl
@[simp] theorem Agent.onDev_tl (a : Agent) (f : Dev → Dev) : (a.onDev f).tl = a.tl := rfl
@[simp] theorem Agent.onDev_neigh (a : Agent) (f : Dev → Dev) : (a.onDev f).neigh = a.neigh := rfl
@[simp] theorem Agent.onDev_peers (a : Agent) (f : Dev → Dev) : (a.onDev f).peers = a.peers := rfl
@[simp] theorem Agent.onDev_restart (a : Agent) (f : Dev → Dev) : (a.onDev f).restart = a.restart := rfl
@[simp] theorem Agent.onDev_bulk (a : Agent) (f : Dev → Dev) : (a.onDev f).bulk = a.bulk := rfl
@[simp] theorem Agent.onDev_link (a : Agent) (f : Dev → Dev) : (a.onDev f).link = a.link := rfl
@[simp] theorem Agent.onDev_manager (a : Agent) (f : Dev → Dev) : (a.onDev f).manager = a.manager := rfl

/-! ## `Agent.setObj` -/

@[simp] theorem Agent.setObj_dev (a : Agent) (k v : Nat) : (a.setObj k v).dev = a.dev.setObj k v := rfl
@[simp] theorem Agent.setObj_node (a : Agent) (k v : Nat) : (a.setObj k v).node = a.node := rfl
@[simp] theorem Agent.setObj_store (a : Agent) (k v : Nat) : (a.setObj k v).store = a.store := rfl
@[simp] theorem Agent.setObj_ptable (a : Agent) (k v : Nat) : (a.setObj k v).ptable = a.ptable := rfl
@[simp] theorem Agent.setObj_keyQ (a : Agent) (k v : Nat) : (a.setObj k v).keyQ = a.keyQ := rfl
@[simp] theorem Agent.setObj_rep (a : Agent) (k v : Nat) : (a.setObj k v).rep = a.rep := rfl
@[simp] theorem Agent.setObj_tl (a : Agent) (k v : Nat) : (a.setObj k v).tl = a.tl := rfl
@[simp] theorem Agent.setObj_neigh (a : Agent) (k v : Nat) : (a.setObj k v).neigh = a.neigh := rfl
@[simp] theorem Agent.setObj_peers (a : Agent) (k v : Nat) : (a.setObj k v).peers = a.peers := rfl
@[simp] theorem Agent.setObj_restart (a : Agent) (k v : Nat) : (a.setObj k v).restart = a.restart := rfl
@[simp] theorem Agent.setObj_bulk (a : Agent) (k v : Nat) : (a.setObj k v).bulk = a.bulk := rfl
@[simp] theorem Agent.setObj_link (a : Agent) (k v : Nat) : (a.setObj k v).link = a.link := rfl
@[simp] theorem Agent.setObj_manager (a : Agent) (k v : Nat) : (a.setObj k v).manager = a.manager := rfl

/-! ## `Agent.bump` -/

@[simp] theorem Agent.bump_dev (a : Agent) (k : Nat) : (a.bump k).dev = a.dev.bump k := rfl
@[simp] theorem Agent.bump_node (a : Agent) (k : Nat) : (a.bump k).node = a.node := rfl
@[simp] theorem Agent.bump_store (a : Agent) (k : Nat) : (a.bump k).store = a.store := rfl
@[simp] theorem Agent.bump_ptable (a : Agent) (k : Nat) : (a.bump k).ptable = a.ptable := rfl
@[simp] theorem Agent.bump_keyQ (a : Agent) (k : Nat) : (a.bump k).keyQ = a.keyQ := rfl
@[simp] theorem Agent.bump_rep (a : Agent) (k : Nat) : (a.bump k).rep = a.rep := rfl
@[simp] theorem Agent.bump_tl (a : Agent) (k : Nat) : (a.bump k).tl = a.tl := rfl
@[simp] theorem Agent.bump_neigh (a : Agent) (k : Nat) : (a.bump k).neigh = a.neigh := rfl
@[simp] theorem Agent.bump_peers (a : Agent) (k : Nat) : (a.bump k).peers = a.peers := rfl
@[simp] theorem Agent.bump_restart (a : Agent) (k : Nat) : (a.bump k).restart = a.restart := rfl
@[simp] theorem Agent.bump_bulk (a : Agent) (k : Nat) : (a.bump k).bulk = a.bulk := rfl
@[simp] theorem Agent.bump_link (a : Agent) (k : Nat) : (a.bump k).link = a.link := rfl
@[simp] theorem Agent.bump_manager (a : Agent) (k : Nat) : (a.bump k).manager = a.manager := rfl

/-! ## `Agent.event` -/

@[simp] theorem Agent.event_dev (a : Agent) (code c : Nat) : (a.event code c).dev = a.dev.event code c := rfl
@[simp] theorem Agent.event_node (a : Agent) (code c : Nat) : (a.event code c).node = a.node := rfl
@[simp] theorem Agent.event_store (a : Agent) (code c : Nat) : (a.event code c).store = a.store := rfl
@[simp] theorem Agent.event_ptable (a : Agent) (code c : Nat) : (a.event code c).ptable = a.ptable := rfl
@[simp] theorem Agent.event_keyQ (a : Agent) (code c : Nat) : (a.event code c).keyQ = a.keyQ := rfl
@[simp] theorem Agent.event_rep (a : Agent) (code c : Nat) : (a.event code c).rep = a.rep := rfl
@[simp] theorem Agent.event_tl (a : Agent) (code c : Nat) : (a.event code c).tl = a.tl := rfl
@[simp] theorem Agent.event_neigh (a : Agent) (code c : Nat) : (a.event code c).neigh = a.neigh := rfl
@[simp] theorem Agent.event_peers (a : Agent) (code c : Nat) : (a.event code c).peers = a.peers := rfl
@[simp] theorem Agent.event_restart (a : Agent) (code c : Nat) : (a.event code c).restart = a.restart := rfl
@[simp] theorem Agent.event_bulk (a : Agent) (code c : Nat) : (a.event code c).bulk = a.bulk := rfl
@[simp] theorem Agent.event_link (a : Agent) (code c : Nat) : (a.event code c).link = a.link := rfl
@[simp] theorem Agent.event_manager (a : Agent) (code c : Nat) : (a.event code c).manager = a.manager := rfl

/-! ## `Agent.setSide` -/

@[simp] theorem Agent.setSide_dev (a : Agent) (q : Nat) (p : Plate) : (a.setSide q p).dev = a.dev := rfl
@[simp] theorem Agent.setSide_node (a : Agent) (q : Nat) (p : Plate) : (a.setSide q p).node = a.node := rfl
@[simp] theorem Agent.setSide_ptable (a : Agent) (q : Nat) (p : Plate) : (a.setSide q p).ptable = a.ptable := rfl
@[simp] theorem Agent.setSide_keyQ (a : Agent) (q : Nat) (p : Plate) : (a.setSide q p).keyQ = a.keyQ := rfl
@[simp] theorem Agent.setSide_rep (a : Agent) (q : Nat) (p : Plate) : (a.setSide q p).rep = a.rep := rfl
@[simp] theorem Agent.setSide_tl (a : Agent) (q : Nat) (p : Plate) : (a.setSide q p).tl = a.tl := rfl
@[simp] theorem Agent.setSide_neigh (a : Agent) (q : Nat) (p : Plate) : (a.setSide q p).neigh = a.neigh := rfl
@[simp] theorem Agent.setSide_peers (a : Agent) (q : Nat) (p : Plate) : (a.setSide q p).peers = a.peers := rfl
@[simp] theorem Agent.setSide_restart (a : Agent) (q : Nat) (p : Plate) : (a.setSide q p).restart = a.restart := rfl
@[simp] theorem Agent.setSide_bulk (a : Agent) (q : Nat) (p : Plate) : (a.setSide q p).bulk = a.bulk := rfl
@[simp] theorem Agent.setSide_link (a : Agent) (q : Nat) (p : Plate) : (a.setSide q p).link = a.link := rfl
@[simp] theorem Agent.setSide_manager (a : Agent) (q : Nat) (p : Plate) : (a.setSide q p).manager = a.manager := rfl

/-! ## `Agent.setPort` -/

@[simp] theorem Agent.setPort_dev (a : Agent) (p : Nat) (w : PortWatch) : (a.setPort p w).dev = a.dev := rfl
@[simp] theorem Agent.setPort_store (a : Agent) (p : Nat) (w : PortWatch) : (a.setPort p w).store = a.store := rfl
@[simp] theorem Agent.setPort_ptable (a : Agent) (p : Nat) (w : PortWatch) : (a.setPort p w).ptable = a.ptable := rfl
@[simp] theorem Agent.setPort_keyQ (a : Agent) (p : Nat) (w : PortWatch) : (a.setPort p w).keyQ = a.keyQ := rfl
@[simp] theorem Agent.setPort_rep (a : Agent) (p : Nat) (w : PortWatch) : (a.setPort p w).rep = a.rep := rfl
@[simp] theorem Agent.setPort_tl (a : Agent) (p : Nat) (w : PortWatch) : (a.setPort p w).tl = a.tl := rfl
@[simp] theorem Agent.setPort_neigh (a : Agent) (p : Nat) (w : PortWatch) : (a.setPort p w).neigh = a.neigh := rfl
@[simp] theorem Agent.setPort_peers (a : Agent) (p : Nat) (w : PortWatch) : (a.setPort p w).peers = a.peers := rfl
@[simp] theorem Agent.setPort_restart (a : Agent) (p : Nat) (w : PortWatch) : (a.setPort p w).restart = a.restart := rfl
@[simp] theorem Agent.setPort_bulk (a : Agent) (p : Nat) (w : PortWatch) : (a.setPort p w).bulk = a.bulk := rfl
@[simp] theorem Agent.setPort_link (a : Agent) (p : Nat) (w : PortWatch) : (a.setPort p w).link = a.link := rfl
@[simp] theorem Agent.setPort_manager (a : Agent) (p : Nat) (w : PortWatch) : (a.setPort p w).manager = a.manager := rfl

/-! ## `Agent.sendMgr` -/

@[simp] theorem Agent.sendMgr_dev (a : Agent) (nid : Nat) (x : Msg) : (a.sendMgr nid x).dev = a.dev.sendTo nid 1 x := rfl
@[simp] theorem Agent.sendMgr_node (a : Agent) (nid : Nat) (x : Msg) : (a.sendMgr nid x).node = a.node := rfl
@[simp] theorem Agent.sendMgr_store (a : Agent) (nid : Nat) (x : Msg) : (a.sendMgr nid x).store = a.store := rfl
@[simp] theorem Agent.sendMgr_ptable (a : Agent) (nid : Nat) (x : Msg) : (a.sendMgr nid x).ptable = a.ptable := rfl
@[simp] theorem Agent.sendMgr_keyQ (a : Agent) (nid : Nat) (x : Msg) : (a.sendMgr nid x).keyQ = a.keyQ := rfl
@[simp] theorem Agent.sendMgr_rep (a : Agent) (nid : Nat) (x : Msg) : (a.sendMgr nid x).rep = a.rep := rfl
@[simp] theorem Agent.sendMgr_tl (a : Agent) (nid : Nat) (x : Msg) : (a.sendMgr nid x).tl = a.tl := rfl
@[simp] theorem Agent.sendMgr_neigh (a : Agent) (nid : Nat) (x : Msg) : (a.sendMgr nid x).neigh = a.neigh := rfl
@[simp] theorem Agent.sendMgr_peers (a : Agent) (nid : Nat) (x : Msg) : (a.sendMgr nid x).peers = a.peers := rfl
@[simp] theorem Agent.sendMgr_restart (a : Agent) (nid : Nat) (x : Msg) : (a.sendMgr nid x).restart = a.restart := rfl
@[simp] theorem Agent.sendMgr_bulk (a : Agent) (nid : Nat) (x : Msg) : (a.sendMgr nid x).bulk = a.bulk := rfl
@[simp] theorem Agent.sendMgr_link (a : Agent) (nid : Nat) (x : Msg) : (a.sendMgr nid x).link = a.link := rfl
@[simp] theorem Agent.sendMgr_manager (a : Agent) (nid : Nat) (x : Msg) : (a.sendMgr nid x).manager = a.manager := rfl

/-! ## `Dev` -/

@[simp] theorem Dev.setObj_agentPart (d : Dev) (k v : Nat) : (d.setObj k v).agentPart = d.agentPart := rfl
@[simp] theorem Dev.setObj_key (d : Dev) (k v : Nat) : (d.setObj k v).key = d.key := rfl
@[simp] theorem Dev.setObj_free (d : Dev) (k v : Nat) : (d.setObj k v).free = d.free := rfl
@[simp] theorem Dev.setObj_blobs (d : Dev) (k v : Nat) : (d.setObj k v).blobs = d.blobs := rfl
@[simp] theorem Dev.setObj_time (d : Dev) (k v : Nat) : (d.setObj k v).time = d.time := rfl
@[simp] theorem Dev.setObj_net (d : Dev) (k v : Nat) : (d.setObj k v).net = d.net := rfl
@[simp] theorem Dev.setObj_log (d : Dev) (k v : Nat) : (d.setObj k v).log = d.log := rfl
@[simp] theorem Dev.setObj_out (d : Dev) (k v : Nat) : (d.setObj k v).out = d.out := rfl
@[simp] theorem Dev.setObj_health (d : Dev) (k v : Nat) : (d.setObj k v).health = d.health := rfl
@[simp] theorem Dev.setObj_fw (d : Dev) (k v : Nat) : (d.setObj k v).fw = d.fw := rfl
@[simp] theorem Dev.setObj_nextFw (d : Dev) (k v : Nat) : (d.setObj k v).nextFw = d.nextFw := rfl
@[simp] theorem Dev.setObj_fwVers (d : Dev) (k v : Nat) : (d.setObj k v).fwVers = d.fwVers := rfl
@[simp] theorem Dev.setObj_floor (d : Dev) (k v : Nat) : (d.setObj k v).floor = d.floor := rfl
@[simp] theorem Dev.setObj_resets (d : Dev) (k v : Nat) : (d.setObj k v).resets = d.resets := rfl
@[simp] theorem Dev.setObj_since (d : Dev) (k v : Nat) : (d.setObj k v).since = d.since := rfl
@[simp] theorem Dev.setObj_domains (d : Dev) (k v : Nat) : (d.setObj k v).domains = d.domains := rfl
@[simp] theorem Dev.setObj_waking (d : Dev) (k v : Nat) : (d.setObj k v).waking = d.waking := rfl
@[simp] theorem Dev.setBlob_agentPart (d : Dev) (k : Nat) (v : List Byte) : (d.setBlob k v).agentPart = d.agentPart := rfl
@[simp] theorem Dev.setBlob_key (d : Dev) (k : Nat) (v : List Byte) : (d.setBlob k v).key = d.key := rfl
@[simp] theorem Dev.setBlob_free (d : Dev) (k : Nat) (v : List Byte) : (d.setBlob k v).free = d.free := rfl
@[simp] theorem Dev.setBlob_objs (d : Dev) (k : Nat) (v : List Byte) : (d.setBlob k v).objs = d.objs := rfl
@[simp] theorem Dev.setBlob_time (d : Dev) (k : Nat) (v : List Byte) : (d.setBlob k v).time = d.time := rfl
@[simp] theorem Dev.setBlob_net (d : Dev) (k : Nat) (v : List Byte) : (d.setBlob k v).net = d.net := rfl
@[simp] theorem Dev.setBlob_log (d : Dev) (k : Nat) (v : List Byte) : (d.setBlob k v).log = d.log := rfl
@[simp] theorem Dev.setBlob_out (d : Dev) (k : Nat) (v : List Byte) : (d.setBlob k v).out = d.out := rfl
@[simp] theorem Dev.setBlob_health (d : Dev) (k : Nat) (v : List Byte) : (d.setBlob k v).health = d.health := rfl
@[simp] theorem Dev.setBlob_fw (d : Dev) (k : Nat) (v : List Byte) : (d.setBlob k v).fw = d.fw := rfl
@[simp] theorem Dev.setBlob_nextFw (d : Dev) (k : Nat) (v : List Byte) : (d.setBlob k v).nextFw = d.nextFw := rfl
@[simp] theorem Dev.setBlob_fwVers (d : Dev) (k : Nat) (v : List Byte) : (d.setBlob k v).fwVers = d.fwVers := rfl
@[simp] theorem Dev.setBlob_floor (d : Dev) (k : Nat) (v : List Byte) : (d.setBlob k v).floor = d.floor := rfl
@[simp] theorem Dev.setBlob_resets (d : Dev) (k : Nat) (v : List Byte) : (d.setBlob k v).resets = d.resets := rfl
@[simp] theorem Dev.setBlob_since (d : Dev) (k : Nat) (v : List Byte) : (d.setBlob k v).since = d.since := rfl
@[simp] theorem Dev.setBlob_domains (d : Dev) (k : Nat) (v : List Byte) : (d.setBlob k v).domains = d.domains := rfl
@[simp] theorem Dev.setBlob_waking (d : Dev) (k : Nat) (v : List Byte) : (d.setBlob k v).waking = d.waking := rfl
@[simp] theorem Dev.bumpBy_agentPart (d : Dev) (k n : Nat) : (d.bumpBy k n).agentPart = d.agentPart := rfl
@[simp] theorem Dev.bumpBy_key (d : Dev) (k n : Nat) : (d.bumpBy k n).key = d.key := rfl
@[simp] theorem Dev.bumpBy_free (d : Dev) (k n : Nat) : (d.bumpBy k n).free = d.free := rfl
@[simp] theorem Dev.bumpBy_blobs (d : Dev) (k n : Nat) : (d.bumpBy k n).blobs = d.blobs := rfl
@[simp] theorem Dev.bumpBy_time (d : Dev) (k n : Nat) : (d.bumpBy k n).time = d.time := rfl
@[simp] theorem Dev.bumpBy_net (d : Dev) (k n : Nat) : (d.bumpBy k n).net = d.net := rfl
@[simp] theorem Dev.bumpBy_log (d : Dev) (k n : Nat) : (d.bumpBy k n).log = d.log := rfl
@[simp] theorem Dev.bumpBy_out (d : Dev) (k n : Nat) : (d.bumpBy k n).out = d.out := rfl
@[simp] theorem Dev.bumpBy_health (d : Dev) (k n : Nat) : (d.bumpBy k n).health = d.health := rfl
@[simp] theorem Dev.bumpBy_fw (d : Dev) (k n : Nat) : (d.bumpBy k n).fw = d.fw := rfl
@[simp] theorem Dev.bumpBy_nextFw (d : Dev) (k n : Nat) : (d.bumpBy k n).nextFw = d.nextFw := rfl
@[simp] theorem Dev.bumpBy_fwVers (d : Dev) (k n : Nat) : (d.bumpBy k n).fwVers = d.fwVers := rfl
@[simp] theorem Dev.bumpBy_floor (d : Dev) (k n : Nat) : (d.bumpBy k n).floor = d.floor := rfl
@[simp] theorem Dev.bumpBy_resets (d : Dev) (k n : Nat) : (d.bumpBy k n).resets = d.resets := rfl
@[simp] theorem Dev.bumpBy_since (d : Dev) (k n : Nat) : (d.bumpBy k n).since = d.since := rfl
@[simp] theorem Dev.bumpBy_domains (d : Dev) (k n : Nat) : (d.bumpBy k n).domains = d.domains := rfl
@[simp] theorem Dev.bumpBy_waking (d : Dev) (k n : Nat) : (d.bumpBy k n).waking = d.waking := rfl
@[simp] theorem Dev.bump_agentPart (d : Dev) (k : Nat) : (d.bump k).agentPart = d.agentPart := rfl
@[simp] theorem Dev.bump_key (d : Dev) (k : Nat) : (d.bump k).key = d.key := rfl
@[simp] theorem Dev.bump_free (d : Dev) (k : Nat) : (d.bump k).free = d.free := rfl
@[simp] theorem Dev.bump_blobs (d : Dev) (k : Nat) : (d.bump k).blobs = d.blobs := rfl
@[simp] theorem Dev.bump_time (d : Dev) (k : Nat) : (d.bump k).time = d.time := rfl
@[simp] theorem Dev.bump_net (d : Dev) (k : Nat) : (d.bump k).net = d.net := rfl
@[simp] theorem Dev.bump_log (d : Dev) (k : Nat) : (d.bump k).log = d.log := rfl
@[simp] theorem Dev.bump_out (d : Dev) (k : Nat) : (d.bump k).out = d.out := rfl
@[simp] theorem Dev.bump_health (d : Dev) (k : Nat) : (d.bump k).health = d.health := rfl
@[simp] theorem Dev.bump_fw (d : Dev) (k : Nat) : (d.bump k).fw = d.fw := rfl
@[simp] theorem Dev.bump_nextFw (d : Dev) (k : Nat) : (d.bump k).nextFw = d.nextFw := rfl
@[simp] theorem Dev.bump_fwVers (d : Dev) (k : Nat) : (d.bump k).fwVers = d.fwVers := rfl
@[simp] theorem Dev.bump_floor (d : Dev) (k : Nat) : (d.bump k).floor = d.floor := rfl
@[simp] theorem Dev.bump_resets (d : Dev) (k : Nat) : (d.bump k).resets = d.resets := rfl
@[simp] theorem Dev.bump_since (d : Dev) (k : Nat) : (d.bump k).since = d.since := rfl
@[simp] theorem Dev.bump_domains (d : Dev) (k : Nat) : (d.bump k).domains = d.domains := rfl
@[simp] theorem Dev.bump_waking (d : Dev) (k : Nat) : (d.bump k).waking = d.waking := rfl
@[simp] theorem Dev.drawn_agentPart (d : Dev) : (d.drawn).agentPart = d.agentPart := rfl
@[simp] theorem Dev.drawn_key (d : Dev) : (d.drawn).key = d.key := rfl
@[simp] theorem Dev.drawn_objs (d : Dev) : (d.drawn).objs = d.objs := rfl
@[simp] theorem Dev.drawn_blobs (d : Dev) : (d.drawn).blobs = d.blobs := rfl
@[simp] theorem Dev.drawn_time (d : Dev) : (d.drawn).time = d.time := rfl
@[simp] theorem Dev.drawn_net (d : Dev) : (d.drawn).net = d.net := rfl
@[simp] theorem Dev.drawn_log (d : Dev) : (d.drawn).log = d.log := rfl
@[simp] theorem Dev.drawn_out (d : Dev) : (d.drawn).out = d.out := rfl
@[simp] theorem Dev.drawn_health (d : Dev) : (d.drawn).health = d.health := rfl
@[simp] theorem Dev.drawn_fw (d : Dev) : (d.drawn).fw = d.fw := rfl
@[simp] theorem Dev.drawn_nextFw (d : Dev) : (d.drawn).nextFw = d.nextFw := rfl
@[simp] theorem Dev.drawn_fwVers (d : Dev) : (d.drawn).fwVers = d.fwVers := rfl
@[simp] theorem Dev.drawn_floor (d : Dev) : (d.drawn).floor = d.floor := rfl
@[simp] theorem Dev.drawn_resets (d : Dev) : (d.drawn).resets = d.resets := rfl
@[simp] theorem Dev.drawn_since (d : Dev) : (d.drawn).since = d.since := rfl
@[simp] theorem Dev.drawn_domains (d : Dev) : (d.drawn).domains = d.domains := rfl
@[simp] theorem Dev.drawn_waking (d : Dev) : (d.drawn).waking = d.waking := rfl
@[simp] theorem Dev.tick_agentPart (d : Dev) : (d.tick).agentPart = d.agentPart := rfl
@[simp] theorem Dev.tick_key (d : Dev) : (d.tick).key = d.key := rfl
@[simp] theorem Dev.tick_objs (d : Dev) : (d.tick).objs = d.objs := rfl
@[simp] theorem Dev.tick_blobs (d : Dev) : (d.tick).blobs = d.blobs := rfl
@[simp] theorem Dev.tick_net (d : Dev) : (d.tick).net = d.net := rfl
@[simp] theorem Dev.tick_log (d : Dev) : (d.tick).log = d.log := rfl
@[simp] theorem Dev.tick_out (d : Dev) : (d.tick).out = d.out := rfl
@[simp] theorem Dev.tick_health (d : Dev) : (d.tick).health = d.health := rfl
@[simp] theorem Dev.tick_fw (d : Dev) : (d.tick).fw = d.fw := rfl
@[simp] theorem Dev.tick_nextFw (d : Dev) : (d.tick).nextFw = d.nextFw := rfl
@[simp] theorem Dev.tick_fwVers (d : Dev) : (d.tick).fwVers = d.fwVers := rfl
@[simp] theorem Dev.tick_floor (d : Dev) : (d.tick).floor = d.floor := rfl
@[simp] theorem Dev.tick_resets (d : Dev) : (d.tick).resets = d.resets := rfl
@[simp] theorem Dev.tick_since (d : Dev) : (d.tick).since = d.since := rfl
@[simp] theorem Dev.tick_domains (d : Dev) : (d.tick).domains = d.domains := rfl
@[simp] theorem Dev.tick_waking (d : Dev) : (d.tick).waking = d.waking := rfl
@[simp] theorem Dev.drawn_free (d : Dev) : (d.drawn).free = d.free + 1 := rfl

/-! ## `Manager.onStk`, `Manager.stackWrite` and `Manager.onRed`: the parts they change -/

@[simp] theorem Manager.onStk_stk (m : Manager) (f : Stacks → Stacks) : (m.onStk f).eng.stk = f m.eng.stk := rfl
@[simp] theorem Manager.onStk_mem (m : Manager) (f : Stacks → Stacks) : (m.onStk f).eng.mem = m.eng.mem := rfl
@[simp] theorem Manager.stackWrite_mem (m : Manager) (a : Nat) (bs : List Byte) : (m.stackWrite a bs).eng.mem = memWriteN m.eng.mem a bs := rfl
@[simp] theorem Manager.stackWrite_dev (m : Manager) (a : Nat) (bs : List Byte) : (m.stackWrite a bs).dev = m.dev := rfl
@[simp] theorem Manager.stackWrite_sl (m : Manager) (a : Nat) (bs : List Byte) : (m.stackWrite a bs).sl = m.sl := rfl
@[simp] theorem Manager.stackWrite_host (m : Manager) (a : Nat) (bs : List Byte) : (m.stackWrite a bs).host = m.host := rfl
@[simp] theorem Manager.stackWrite_fab (m : Manager) (a : Nat) (bs : List Byte) : (m.stackWrite a bs).fab = m.fab := rfl
@[simp] theorem Manager.stackWrite_red (m : Manager) (a : Nat) (bs : List Byte) : (m.stackWrite a bs).red = m.red := rfl
@[simp] theorem Manager.stackWrite_rt (m : Manager) (a : Nat) (bs : List Byte) : (m.stackWrite a bs).rt = m.rt := rfl
@[simp] theorem Manager.stackWrite_inst (m : Manager) (a : Nat) (bs : List Byte) : (m.stackWrite a bs).inst = m.inst := rfl
@[simp] theorem Manager.stackWrite_rcv (m : Manager) (a : Nat) (bs : List Byte) : (m.stackWrite a bs).rcv = m.rcv := rfl
@[simp] theorem Manager.stackWrite_repQ (m : Manager) (a : Nat) (bs : List Byte) : (m.stackWrite a bs).repQ = m.repQ := rfl
@[simp] theorem Manager.stackWrite_disc (m : Manager) (a : Nat) (bs : List Byte) : (m.stackWrite a bs).disc = m.disc := rfl
@[simp] theorem Manager.stackWrite_cast (m : Manager) (a : Nat) (bs : List Byte) : (m.stackWrite a bs).cast = m.cast := rfl
@[simp] theorem Manager.stackWrite_tl (m : Manager) (a : Nat) (bs : List Byte) : (m.stackWrite a bs).tl = m.tl := rfl
@[simp] theorem Manager.stackWrite_sec (m : Manager) (a : Nat) (bs : List Byte) : (m.stackWrite a bs).sec = m.sec := rfl
@[simp] theorem Manager.stackWrite_pwr (m : Manager) (a : Nat) (bs : List Byte) : (m.stackWrite a bs).pwr = m.pwr := rfl
@[simp] theorem Manager.stackWrite_failed (m : Manager) (a : Nat) (bs : List Byte) : (m.stackWrite a bs).failed = m.failed := rfl

/-! ## `State.setAgent` -/

@[simp] theorem State.setAgent_mgr (s : State) (die : Nat) (a : Agent) : (s.setAgent die a).mgr = s.mgr := rfl
@[simp] theorem State.setAgent_pending (s : State) (die : Nat) (a : Agent) : (s.setAgent die a).pending = s.pending := rfl
@[simp] theorem State.setAgent_agents (s : State) (die : Nat) (a : Agent) : (s.setAgent die a).agents = mapSet s.agents die a := rfl

end Sys2Proof.Machine
end

