-- ==== Sys2Proof/Laws/Devices.lean ====
section
/-! SUPPORT. Sys2Proof/Laws/Devices.lean: what the shared operations of a device do: objects, the recorder, sending a frame. -/

namespace Sys2Proof.Machine

/-! ## Objects -/

/-- An object written reads back, where the table's numbers rise. -/
theorem Dev.obj_setObj_self (d : Dev) (k v : Nat) (h : mapWf d.objs = true) : (d.setObj k v).obj k = v := by
  unfold Dev.setObj Dev.obj
  split
  · rename_i hv; simp [mapGet_mapDel_self d.objs k h, ← hv]
  · simp

/-- An object written leaves every other alone. -/
theorem Dev.obj_setObj_ne (d : Dev) (k j v : Nat) (h : j ≠ k) : (d.setObj k v).obj j = d.obj j := by
  unfold Dev.setObj Dev.obj
  dsimp only
  split
  · rw [mapGet_mapDel_ne _ _ _ h]
  · rw [mapGet_mapSet_ne _ _ _ _ h]

/-- A write keeps the table's numbers rising. -/
theorem Dev.wf_setObj (d : Dev) (k v : Nat) (h : mapWf d.objs = true) : mapWf (d.setObj k v).objs = true := by
  unfold Dev.setObj
  dsimp only
  split
  · exact mapWf_mapDel _ _ h
  · exact mapWf_mapSet _ _ _ h

theorem Dev.obj_bumpBy_ne (d : Dev) (k j n : Nat) (h : j ≠ k) : (d.bumpBy k n).obj j = d.obj j := d.obj_setObj_ne k j _ h
theorem Dev.obj_bump_ne (d : Dev) (k j : Nat) (h : j ≠ k) : (d.bump k).obj j = d.obj j := d.obj_bumpBy_ne k j 1 h

/-- A counter advances by the amount, or stops at its greatest value (R126, R429). -/
theorem Dev.obj_bumpBy_self (d : Dev) (k n : Nat) (h : mapWf d.objs = true) :
    (d.bumpBy k n).obj k = min (d.obj k + n) (2 ^ objWidth k - 1) := by
  simp [Dev.bumpBy, Dev.obj_setObj_self d k _ h, satAdd]

theorem Dev.wf_bump (d : Dev) (k : Nat) (h : mapWf d.objs = true) : mapWf (d.bump k).objs = true := d.wf_setObj k _ h

theorem Manager.obj_setObj_ne (m : Manager) (k j v : Nat) (h : j ≠ k) : (m.setObj k v).obj j = m.obj j := m.dev.obj_setObj_ne k j v h
theorem Manager.obj_setObj_self (m : Manager) (k v : Nat) (h : mapWf m.dev.objs = true) : (m.setObj k v).obj k = v :=
  m.dev.obj_setObj_self k v h
theorem Manager.obj_bump_ne (m : Manager) (k j : Nat) (h : j ≠ k) : (m.bump k).obj j = m.obj j := m.dev.obj_bump_ne k j h
theorem Agent.obj_setObj_ne (a : Agent) (k j v : Nat) (h : j ≠ k) : (a.setObj k v).obj j = a.obj j := a.dev.obj_setObj_ne k j v h
theorem Agent.obj_setObj_self (a : Agent) (k v : Nat) (h : mapWf a.dev.objs = true) : (a.setObj k v).obj k = v :=
  a.dev.obj_setObj_self k v h
theorem Agent.obj_bump_ne (a : Agent) (k j : Nat) (h : j ≠ k) : (a.bump k).obj j = a.obj j := a.dev.obj_bump_ne k j h

/-! ## The recorder -/

/-- From one device to another nothing has changed but the log, EV_WRITTEN, DV_HEALTH and the count of free values. -/
def Dev.LogsOnly (d e : Dev) : Prop :=
  e = { d with objs := e.objs, log := e.log, health := e.health, free := e.free } ∧ ∀ j, j ≠ Obj.EV_WRITTEN → e.obj j = d.obj j

theorem Dev.LogsOnly.trans {d e f : Dev} (h : d.LogsOnly e) (g : e.LogsOnly f) : d.LogsOnly f := by
  refine ⟨?_, fun j hj => (g.2 j hj).trans (h.2 j hj)⟩
  rw [g.1, h.1]

theorem Dev.ringPut_logs (d : Dev) (r : EvRec) : d.LogsOnly (d.ringPut r) := ⟨rfl, fun j hj => d.obj_bump_ne Obj.EV_WRITTEN j hj⟩

theorem Dev.padFor_logs (d : Dev) (n : Nat) : d.LogsOnly (d.padFor n) := by
  unfold Dev.padFor
  dsimp only
  split
  · exact ⟨rfl, fun _ _ => rfl⟩
  · split
    · exact d.ringPut_logs _
    · exact (d.ringPut_logs _).trans ((d.ringPut _).ringPut_logs _)

/-- Everything a record can change. -/
theorem Dev.writeRec_logs (d : Dev) (sev code c : Nat) (p : List Byte) : d.LogsOnly (d.writeRec sev code c p) := by
  unfold Dev.writeRec
  dsimp only
  refine (d.padFor_logs (24 + p.length)).trans ?_
  generalize d.padFor (24 + p.length) = e
  refine (e.ringPut_logs { seq := e.log.seq, time := e.time, sev := sev, code := code, ctx := c, payload := p,
                           off := e.log.nextOff }).trans ?_
  generalize e.ringPut { seq := e.log.seq, time := e.time, sev := sev, code := code, ctx := c, payload := p,
                         off := e.log.nextOff } = f
  exact ⟨rfl, fun _ _ => rfl⟩

theorem Dev.record_logs (d : Dev) (sev code c : Nat) (p : List Byte) : d.LogsOnly (d.record sev code c p) := by
  unfold Dev.record
  dsimp only
  split
  · exact Dev.LogsOnly.trans (e := { d with log := _ }) ⟨rfl, fun _ _ => rfl⟩ (Dev.writeRec_logs _ sev code c p)
  · exact ⟨rfl, fun _ _ => rfl⟩

/-- Everything an event can change (R483, R489). -/
theorem Dev.event_logs (d : Dev) (code c : Nat) : d.LogsOnly (d.event code c) :=
  Dev.LogsOnly.trans (e := d.drawn) ⟨rfl, fun _ _ => rfl⟩ (Dev.record_logs _ _ _ _ _)

/-! ## Sending -/

/-- Where a frame's addresses change nothing of what its sender gives. -/
theorem Dev.addressed_frame (d : Dev) (f : Sent) :
    (d.addressed f).msg = f.msg ∧ (d.addressed f).dst = f.dst ∧ (d.addressed f).claim = f.claim := ⟨rfl, rfl, rfl⟩

/-- A frame handed to egress under a key: it joins those sent as FC_TX and the key's counter advance, or, at the counter limit, those
that wait (R417). -/
theorem Dev.sendUnder_frame (d : Dev) (pk : Nat) (f : Sent) :
    ∃ o n l, d.sendUnder pk f = { d with objs := o, net := n, out := d.out ++ l } ∧ (∀ g ∈ l, g.msg = f.msg ∧ g.dst = f.dst ∧ g.claim = f.claim) ∧
      (l.length = 1 ∨ (2 ^ 48 ≤ (mapGetD d.net.tx pk {}).counter ∧ n.held = d.net.held ++ [f])) ∧
      (∀ j, j ≠ Obj.FC_TX → (d.sendUnder pk f).obj j = d.obj j) := by
  unfold Dev.sendUnder
  dsimp only
  split
  · rename_i h
    exact ⟨d.objs, _, [], by simp only [List.append_nil]; rfl, by simp, .inr ⟨h, rfl⟩, fun _ _ => rfl⟩
  · refine ⟨_, _, [_], rfl, ?_, .inl rfl, fun j hj => d.obj_bump_ne Obj.FC_TX j hj⟩
    intro g hg
    simp only [List.mem_singleton] at hg
    subst hg
    exact ⟨rfl, rfl, rfl⟩

/-- A frame sent: it joins those sent, or those that wait at the counter limit. -/
theorem Dev.send_frame (d : Dev) (f : Sent) :
    ∃ o n l, d.send f = { d with objs := o, net := n, out := d.out ++ l } ∧ (∀ g ∈ l, g.msg = f.msg ∧ g.dst = f.dst ∧ g.claim = f.claim) ∧
      (l.length = 1 ∨ (2 ^ 48 ≤ (mapGetD d.net.tx (sentPair f) {}).counter ∧ n.held = d.net.held ++ [f])) ∧
      (∀ j, j ≠ Obj.FC_TX → (d.send f).obj j = d.obj j) := by
  unfold Dev.send
  split
  · refine ⟨_, _, [_], rfl, ?_, .inl rfl, fun j hj => d.obj_bump_ne Obj.FC_TX j hj⟩
    intro g hg
    simp only [List.mem_singleton] at hg
    subst hg
    exact d.addressed_frame f
  · exact d.sendUnder_frame _ f

theorem Dev.obj_sendTo_ne (d : Dev) (dst assoc j : Nat) (x : Msg) (h : j ≠ Obj.FC_TX) : (d.sendTo dst assoc x).obj j = d.obj j :=
  (d.send_frame { dst := dst, assoc := assoc, msg := x }).choose_spec.choose_spec.choose_spec.2.2.2 j h

/-! ## Ingress -/

/-- From one device to another nothing has changed but counters among the objects and the field network's state. -/
def Dev.NetOnly (d e : Dev) : Prop := e = { d with objs := e.objs, net := e.net }

theorem Dev.NetOnly.trans {d e f : Dev} (h : d.NetOnly e) (g : e.NetOnly f) : d.NetOnly f := by unfold Dev.NetOnly at *; rw [g, h]

theorem Dev.learnMac_net (d : Dev) (h : Hdr) : d.NetOnly (d.learnMac h) := by
  unfold Dev.learnMac
  split <;> rfl

theorem Dev.ingressPlain_net (d : Dev) (k : FrameKind) (h : Hdr) (off : Option Nat) : d.NetOnly (d.ingressPlain k h off).dev := by
  unfold Dev.ingressPlain
  split
  · rfl
  · split
    · rfl
    · split
      · rfl
      · exact d.learnMac_net h

theorem Dev.ingressKeyed_net (d : Dev) (k : FrameKind) (h : Hdr) (gen : Nat → Option Nat) (off : Option Nat) :
    d.NetOnly (d.ingressKeyed k h gen off).dev := by
  unfold Dev.ingressKeyed
  split
  · rfl
  · split
    · rfl
    · split
      · rfl
      · rename_i w _
        refine Dev.NetOnly.trans (e := d.verified h w) (Dev.NetOnly.trans (e := { d with net := _ }) rfl (Dev.learnMac_net _ h)) ?_
        dsimp only
        split
        · rfl
        · split
          · rfl
          · split <;> rfl

/-- Whatever a frame is, its ingress touches only counters, windows and what the key exchange keeps (R420). -/
theorem Dev.ingress_net (d : Dev) (k : FrameKind) (h : Hdr) (gen : Nat → Option Nat) (off : Option Nat) :
    d.NetOnly (d.ingress k h gen off).dev := by
  unfold Dev.ingress
  split
  · rfl
  · split
    · rfl
    · refine Dev.NetOnly.trans (e := d.bump Obj.FC_RX) rfl ?_
      dsimp only
      split
      · rfl
      · split
        · exact Dev.ingressPlain_net _ k h off
        · exact Dev.ingressKeyed_net _ k h gen off

/-- A frame under a key is taken only with the key held and its ICV intact, and only a counter the window accepts (R418). -/
theorem Dev.ingressKeyed_ok (d : Dev) (k : FrameKind) (h : Hdr) (gen : Nat → Option Nat) (off : Option Nat)
    (hok : (d.ingressKeyed k h gen off).ok = true) :
    d.net.keyFor h = some h.key ∧ h.intact = true ∧
    ∃ w, Window.accept (mapGet d.net.windows (slotKey h.src h.assoc h.phase)) h.counter = some w ∧
      (d.ingressKeyed k h gen off).dev = d.verified h w := by
  revert hok
  unfold Dev.ingressKeyed
  split
  · simp
  · rename_i key hkey
    split
    · simp
    · rename_i hne
      have hne : key = h.key ∧ h.intact = true := by simpa using hne
      split
      · simp
      · rename_i w hw
        dsimp only
        split
        · simp
        · split
          · simp
          · split
            · simp
            · intro _
              exact ⟨by rw [hkey, hne.1], hne.2, w, hw, rfl⟩

/-- A frame whose key is not held or whose ICV does not verify moves no window (R418). -/
theorem Dev.ingressKeyed_unverified (d : Dev) (k : FrameKind) (h : Hdr) (gen : Nat → Option Nat) (off : Option Nat)
    (hn : d.net.keyFor h ≠ some h.key ∨ h.intact = false) :
    (d.ingressKeyed k h gen off).dev.net.windows = d.net.windows ∧ (d.ingressKeyed k h gen off).ok = false := by
  unfold Dev.ingressKeyed
  split
  · exact ⟨rfl, rfl⟩
  · rename_i key hkey
    have : key ≠ h.key ∨ h.intact = false := by
      rcases hn with hn | hn
      · exact .inl (fun he => hn (by rw [hkey, he]))
      · exact .inr hn
    rw [if_pos this]
    exact ⟨rfl, rfl⟩

end Sys2Proof.Machine
end

