-- ==== Sys2Proof/Laws/Events.lean ====
section
/-! SUPPORT. Sys2Proof/Laws/Events.lean: interrupts raised and events recorded at the manager change its host side and its
device alone. -/

namespace Sys2Proof.Machine

/-- From one manager to another nothing has changed but the host side. -/
def Manager.HostOnly (m n : Manager) : Prop := n = { m with host := n.host }

theorem Manager.HostOnly.refl (m : Manager) : m.HostOnly m := rfl
theorem Manager.HostOnly.trans {m n k : Manager} (h : m.HostOnly n) (g : n.HostOnly k) : m.HostOnly k := by
  unfold Manager.HostOnly at *; rw [g, h]

theorem Manager.msi_host (m : Manager) (fn vec : Nat) : m.HostOnly (m.msi fn vec) := by
  unfold Manager.msi
  dsimp only
  split <;> rfl

theorem Manager.raiseInt_host (m : Manager) (fn cause : Nat) : m.HostOnly (m.raiseInt fn cause) := by
  unfold Manager.raiseInt
  dsimp only
  repeat' split
  all_goals first
    | rfl
    | exact Manager.HostOnly.trans (n := m.setFn fn _) rfl (Manager.msi_host _ _ _)

theorem Manager.raiseCtx_host (m : Manager) (c cause : Nat) : m.HostOnly (m.raiseCtx c cause) := by
  unfold Manager.raiseCtx
  repeat' split
  all_goals first
    | rfl
    | exact Manager.raiseInt_host _ _ _

/-- Everything an event at the manager can change: its log, EV_WRITTEN, DV_HEALTH, its count of free values, its host side. -/
theorem Manager.event_frame (m : Manager) (code c : Nat) :
    ∃ d h, m.event code c = { m with dev := d, host := h } ∧ m.dev.LogsOnly d := by
  unfold Manager.event Manager.afterRecord
  dsimp only
  split
  · have h := Manager.raiseCtx_host { m with dev := m.dev.event code c } c 4
    exact ⟨_, _, h, m.dev.event_logs code c⟩
  · exact ⟨_, _, rfl, m.dev.event_logs code c⟩

theorem Manager.obj_event_ne (m : Manager) (code c k : Nat) (hk : k ≠ Obj.EV_WRITTEN) : (m.event code c).obj k = m.obj k := by
  obtain ⟨d, h, e, l⟩ := m.event_frame code c
  rw [e]
  exact l.2 k hk

@[simp] theorem Manager.event_eng (m : Manager) (code c : Nat) : (m.event code c).eng = m.eng := by
  obtain ⟨d, h, e, _⟩ := m.event_frame code c; rw [e]
@[simp] theorem Manager.event_sl (m : Manager) (code c : Nat) : (m.event code c).sl = m.sl := by
  obtain ⟨d, h, e, _⟩ := m.event_frame code c; rw [e]
@[simp] theorem Manager.event_fab (m : Manager) (code c : Nat) : (m.event code c).fab = m.fab := by
  obtain ⟨d, h, e, _⟩ := m.event_frame code c; rw [e]
@[simp] theorem Manager.event_red (m : Manager) (code c : Nat) : (m.event code c).red = m.red := by
  obtain ⟨d, h, e, _⟩ := m.event_frame code c; rw [e]
@[simp] theorem Manager.event_rt (m : Manager) (code c : Nat) : (m.event code c).rt = m.rt := by
  obtain ⟨d, h, e, _⟩ := m.event_frame code c; rw [e]
@[simp] theorem Manager.event_inst (m : Manager) (code c : Nat) : (m.event code c).inst = m.inst := by
  obtain ⟨d, h, e, _⟩ := m.event_frame code c; rw [e]
@[simp] theorem Manager.event_rcv (m : Manager) (code c : Nat) : (m.event code c).rcv = m.rcv := by
  obtain ⟨d, h, e, _⟩ := m.event_frame code c; rw [e]
@[simp] theorem Manager.event_disc (m : Manager) (code c : Nat) : (m.event code c).disc = m.disc := by
  obtain ⟨d, h, e, _⟩ := m.event_frame code c; rw [e]
@[simp] theorem Manager.event_cast (m : Manager) (code c : Nat) : (m.event code c).cast = m.cast := by
  obtain ⟨d, h, e, _⟩ := m.event_frame code c; rw [e]
@[simp] theorem Manager.event_tl (m : Manager) (code c : Nat) : (m.event code c).tl = m.tl := by
  obtain ⟨d, h, e, _⟩ := m.event_frame code c; rw [e]
@[simp] theorem Manager.event_sec (m : Manager) (code c : Nat) : (m.event code c).sec = m.sec := by
  obtain ⟨d, h, e, _⟩ := m.event_frame code c; rw [e]
@[simp] theorem Manager.event_pwr (m : Manager) (code c : Nat) : (m.event code c).pwr = m.pwr := by
  obtain ⟨d, h, e, _⟩ := m.event_frame code c; rw [e]
@[simp] theorem Manager.event_failed (m : Manager) (code c : Nat) : (m.event code c).failed = m.failed := by
  obtain ⟨d, h, e, _⟩ := m.event_frame code c; rw [e]
@[simp] theorem Manager.raiseInt_dev (m : Manager) (fn k : Nat) : (m.raiseInt fn k).dev = m.dev := by
  rw [m.raiseInt_host fn k]
@[simp] theorem Manager.raiseInt_eng (m : Manager) (fn k : Nat) : (m.raiseInt fn k).eng = m.eng := by
  rw [m.raiseInt_host fn k]
@[simp] theorem Manager.raiseInt_sl (m : Manager) (fn k : Nat) : (m.raiseInt fn k).sl = m.sl := by
  rw [m.raiseInt_host fn k]
@[simp] theorem Manager.raiseInt_fab (m : Manager) (fn k : Nat) : (m.raiseInt fn k).fab = m.fab := by
  rw [m.raiseInt_host fn k]
@[simp] theorem Manager.raiseInt_red (m : Manager) (fn k : Nat) : (m.raiseInt fn k).red = m.red := by
  rw [m.raiseInt_host fn k]
@[simp] theorem Manager.raiseInt_rt (m : Manager) (fn k : Nat) : (m.raiseInt fn k).rt = m.rt := by
  rw [m.raiseInt_host fn k]
@[simp] theorem Manager.raiseInt_inst (m : Manager) (fn k : Nat) : (m.raiseInt fn k).inst = m.inst := by
  rw [m.raiseInt_host fn k]
@[simp] theorem Manager.raiseInt_rcv (m : Manager) (fn k : Nat) : (m.raiseInt fn k).rcv = m.rcv := by
  rw [m.raiseInt_host fn k]
@[simp] theorem Manager.raiseInt_disc (m : Manager) (fn k : Nat) : (m.raiseInt fn k).disc = m.disc := by
  rw [m.raiseInt_host fn k]
@[simp] theorem Manager.raiseInt_cast (m : Manager) (fn k : Nat) : (m.raiseInt fn k).cast = m.cast := by
  rw [m.raiseInt_host fn k]
@[simp] theorem Manager.raiseInt_tl (m : Manager) (fn k : Nat) : (m.raiseInt fn k).tl = m.tl := by
  rw [m.raiseInt_host fn k]
@[simp] theorem Manager.raiseInt_sec (m : Manager) (fn k : Nat) : (m.raiseInt fn k).sec = m.sec := by
  rw [m.raiseInt_host fn k]
@[simp] theorem Manager.raiseInt_pwr (m : Manager) (fn k : Nat) : (m.raiseInt fn k).pwr = m.pwr := by
  rw [m.raiseInt_host fn k]
@[simp] theorem Manager.raiseInt_failed (m : Manager) (fn k : Nat) : (m.raiseInt fn k).failed = m.failed := by
  rw [m.raiseInt_host fn k]
@[simp] theorem Manager.raiseCtx_dev (m : Manager) (c k : Nat) : (m.raiseCtx c k).dev = m.dev := by
  rw [m.raiseCtx_host c k]
@[simp] theorem Manager.raiseCtx_eng (m : Manager) (c k : Nat) : (m.raiseCtx c k).eng = m.eng := by
  rw [m.raiseCtx_host c k]
@[simp] theorem Manager.raiseCtx_sl (m : Manager) (c k : Nat) : (m.raiseCtx c k).sl = m.sl := by
  rw [m.raiseCtx_host c k]
@[simp] theorem Manager.raiseCtx_fab (m : Manager) (c k : Nat) : (m.raiseCtx c k).fab = m.fab := by
  rw [m.raiseCtx_host c k]
@[simp] theorem Manager.raiseCtx_red (m : Manager) (c k : Nat) : (m.raiseCtx c k).red = m.red := by
  rw [m.raiseCtx_host c k]
@[simp] theorem Manager.raiseCtx_rt (m : Manager) (c k : Nat) : (m.raiseCtx c k).rt = m.rt := by
  rw [m.raiseCtx_host c k]
@[simp] theorem Manager.raiseCtx_inst (m : Manager) (c k : Nat) : (m.raiseCtx c k).inst = m.inst := by
  rw [m.raiseCtx_host c k]
@[simp] theorem Manager.raiseCtx_rcv (m : Manager) (c k : Nat) : (m.raiseCtx c k).rcv = m.rcv := by
  rw [m.raiseCtx_host c k]
@[simp] theorem Manager.raiseCtx_disc (m : Manager) (c k : Nat) : (m.raiseCtx c k).disc = m.disc := by
  rw [m.raiseCtx_host c k]
@[simp] theorem Manager.raiseCtx_cast (m : Manager) (c k : Nat) : (m.raiseCtx c k).cast = m.cast := by
  rw [m.raiseCtx_host c k]
@[simp] theorem Manager.raiseCtx_tl (m : Manager) (c k : Nat) : (m.raiseCtx c k).tl = m.tl := by
  rw [m.raiseCtx_host c k]
@[simp] theorem Manager.raiseCtx_sec (m : Manager) (c k : Nat) : (m.raiseCtx c k).sec = m.sec := by
  rw [m.raiseCtx_host c k]
@[simp] theorem Manager.raiseCtx_pwr (m : Manager) (c k : Nat) : (m.raiseCtx c k).pwr = m.pwr := by
  rw [m.raiseCtx_host c k]
@[simp] theorem Manager.raiseCtx_failed (m : Manager) (c k : Nat) : (m.raiseCtx c k).failed = m.failed := by
  rw [m.raiseCtx_host c k]
@[simp] theorem Manager.msi_dev (m : Manager) (fn v : Nat) : (m.msi fn v).dev = m.dev := by
  rw [m.msi_host fn v]
@[simp] theorem Manager.msi_eng (m : Manager) (fn v : Nat) : (m.msi fn v).eng = m.eng := by
  rw [m.msi_host fn v]
@[simp] theorem Manager.msi_sl (m : Manager) (fn v : Nat) : (m.msi fn v).sl = m.sl := by
  rw [m.msi_host fn v]
@[simp] theorem Manager.msi_fab (m : Manager) (fn v : Nat) : (m.msi fn v).fab = m.fab := by
  rw [m.msi_host fn v]
@[simp] theorem Manager.msi_red (m : Manager) (fn v : Nat) : (m.msi fn v).red = m.red := by
  rw [m.msi_host fn v]
@[simp] theorem Manager.msi_rt (m : Manager) (fn v : Nat) : (m.msi fn v).rt = m.rt := by
  rw [m.msi_host fn v]
@[simp] theorem Manager.msi_inst (m : Manager) (fn v : Nat) : (m.msi fn v).inst = m.inst := by
  rw [m.msi_host fn v]
@[simp] theorem Manager.msi_rcv (m : Manager) (fn v : Nat) : (m.msi fn v).rcv = m.rcv := by
  rw [m.msi_host fn v]
@[simp] theorem Manager.msi_disc (m : Manager) (fn v : Nat) : (m.msi fn v).disc = m.disc := by
  rw [m.msi_host fn v]
@[simp] theorem Manager.msi_cast (m : Manager) (fn v : Nat) : (m.msi fn v).cast = m.cast := by
  rw [m.msi_host fn v]
@[simp] theorem Manager.msi_tl (m : Manager) (fn v : Nat) : (m.msi fn v).tl = m.tl := by
  rw [m.msi_host fn v]
@[simp] theorem Manager.msi_sec (m : Manager) (fn v : Nat) : (m.msi fn v).sec = m.sec := by
  rw [m.msi_host fn v]
@[simp] theorem Manager.msi_pwr (m : Manager) (fn v : Nat) : (m.msi fn v).pwr = m.pwr := by
  rw [m.msi_host fn v]
@[simp] theorem Manager.msi_failed (m : Manager) (fn v : Nat) : (m.msi fn v).failed = m.failed := by
  rw [m.msi_host fn v]

end Sys2Proof.Machine
end

