-- ==== Sys2Proof/Laws/Requests.lean ====
section
/-! SUPPORT. Sys2Proof/Laws/Requests.lean: what the shared operations over requests do: answers, entries of the input stream,
the gate of command objects. -/

namespace Sys2Proof.Machine

@[simp] theorem Manager.answer_dev (m : Manager) (r : Req) (v : Nat) (d : List Byte) : (m.answer r v d).dev = m.dev := by
  unfold Manager.answer; split <;> rfl
@[simp] theorem Manager.answer_eng (m : Manager) (r : Req) (v : Nat) (d : List Byte) : (m.answer r v d).eng = m.eng := by
  unfold Manager.answer; split <;> rfl
@[simp] theorem Manager.answer_sl (m : Manager) (r : Req) (v : Nat) (d : List Byte) : (m.answer r v d).sl = m.sl := by
  unfold Manager.answer; split <;> rfl
@[simp] theorem Manager.answer_fab (m : Manager) (r : Req) (v : Nat) (d : List Byte) : (m.answer r v d).fab = m.fab := by
  unfold Manager.answer; split <;> rfl
@[simp] theorem Manager.answer_red (m : Manager) (r : Req) (v : Nat) (d : List Byte) : (m.answer r v d).red = m.red := by
  unfold Manager.answer; split <;> rfl
@[simp] theorem Manager.answer_rt (m : Manager) (r : Req) (v : Nat) (d : List Byte) : (m.answer r v d).rt = m.rt := by
  unfold Manager.answer; split <;> rfl
@[simp] theorem Manager.answer_inst (m : Manager) (r : Req) (v : Nat) (d : List Byte) : (m.answer r v d).inst = m.inst := by
  unfold Manager.answer; split <;> rfl
@[simp] theorem Manager.answer_rcv (m : Manager) (r : Req) (v : Nat) (d : List Byte) : (m.answer r v d).rcv = m.rcv := by
  unfold Manager.answer; split <;> rfl
@[simp] theorem Manager.answer_disc (m : Manager) (r : Req) (v : Nat) (d : List Byte) : (m.answer r v d).disc = m.disc := by
  unfold Manager.answer; split <;> rfl
@[simp] theorem Manager.answer_cast (m : Manager) (r : Req) (v : Nat) (d : List Byte) : (m.answer r v d).cast = m.cast := by
  unfold Manager.answer; split <;> rfl
@[simp] theorem Manager.answer_tl (m : Manager) (r : Req) (v : Nat) (d : List Byte) : (m.answer r v d).tl = m.tl := by
  unfold Manager.answer; split <;> rfl
@[simp] theorem Manager.answer_sec (m : Manager) (r : Req) (v : Nat) (d : List Byte) : (m.answer r v d).sec = m.sec := by
  unfold Manager.answer; split <;> rfl
@[simp] theorem Manager.answer_pwr (m : Manager) (r : Req) (v : Nat) (d : List Byte) : (m.answer r v d).pwr = m.pwr := by
  unfold Manager.answer; split <;> rfl
@[simp] theorem Manager.answer_failed (m : Manager) (r : Req) (v : Nat) (d : List Byte) : (m.answer r v d).failed = m.failed := by
  unfold Manager.answer; split <;> rfl

@[simp] theorem Manager.answerWrite_dev (m : Manager) (r : Req) (v : Nat) : (m.answerWrite r v).dev = m.dev := by
  unfold Manager.answerWrite; split <;> simp
@[simp] theorem Manager.answerWrite_eng (m : Manager) (r : Req) (v : Nat) : (m.answerWrite r v).eng = m.eng := by
  unfold Manager.answerWrite; split <;> simp
@[simp] theorem Manager.answerWrite_sl (m : Manager) (r : Req) (v : Nat) : (m.answerWrite r v).sl = m.sl := by
  unfold Manager.answerWrite; split <;> simp
@[simp] theorem Manager.answerWrite_fab (m : Manager) (r : Req) (v : Nat) : (m.answerWrite r v).fab = m.fab := by
  unfold Manager.answerWrite; split <;> simp
@[simp] theorem Manager.answerWrite_rt (m : Manager) (r : Req) (v : Nat) : (m.answerWrite r v).rt = m.rt := by
  unfold Manager.answerWrite; split <;> simp
@[simp] theorem Manager.answerWrite_inst (m : Manager) (r : Req) (v : Nat) : (m.answerWrite r v).inst = m.inst := by
  unfold Manager.answerWrite; split <;> simp
@[simp] theorem Manager.answerWrite_rcv (m : Manager) (r : Req) (v : Nat) : (m.answerWrite r v).rcv = m.rcv := by
  unfold Manager.answerWrite; split <;> simp
@[simp] theorem Manager.answerWrite_disc (m : Manager) (r : Req) (v : Nat) : (m.answerWrite r v).disc = m.disc := by
  unfold Manager.answerWrite; split <;> simp
@[simp] theorem Manager.answerWrite_cast (m : Manager) (r : Req) (v : Nat) : (m.answerWrite r v).cast = m.cast := by
  unfold Manager.answerWrite; split <;> simp
@[simp] theorem Manager.answerWrite_tl (m : Manager) (r : Req) (v : Nat) : (m.answerWrite r v).tl = m.tl := by
  unfold Manager.answerWrite; split <;> simp
@[simp] theorem Manager.answerWrite_sec (m : Manager) (r : Req) (v : Nat) : (m.answerWrite r v).sec = m.sec := by
  unfold Manager.answerWrite; split <;> simp
@[simp] theorem Manager.answerWrite_pwr (m : Manager) (r : Req) (v : Nat) : (m.answerWrite r v).pwr = m.pwr := by
  unfold Manager.answerWrite; split <;> simp
@[simp] theorem Manager.answerWrite_failed (m : Manager) (r : Req) (v : Nat) : (m.answerWrite r v).failed = m.failed := by
  unfold Manager.answerWrite; split <;> simp

/-- A pushed entry changes the device and the redundancy state alone. -/
theorem Manager.pushEntry_frame (m : Manager) (e : StreamEntry) : ∃ d r, m.pushEntry e = { m with dev := d, red := r } := by
  obtain ⟨dev, eng, sl, host, fab, red, rt, inst, rcv, disc, cast, tl, sec, pwr, failed⟩ := m
  obtain ⟨slot, peersIn, misses, nextSeq, applied, entries, acked, heldAns, heldOut, cmdQ, triadOut, digests, trio, runs, standby, inSync⟩ := red
  cases slot <;> cases standby <;> exact ⟨_, _, rfl⟩


@[simp] theorem Manager.pushEntry_eng (m : Manager) (e : StreamEntry) : (m.pushEntry e).eng = m.eng := by
  obtain ⟨d, r, h⟩ := m.pushEntry_frame e; rw [h]
@[simp] theorem Manager.pushEntry_sl (m : Manager) (e : StreamEntry) : (m.pushEntry e).sl = m.sl := by
  obtain ⟨d, r, h⟩ := m.pushEntry_frame e; rw [h]
@[simp] theorem Manager.pushEntry_host (m : Manager) (e : StreamEntry) : (m.pushEntry e).host = m.host := by
  obtain ⟨d, r, h⟩ := m.pushEntry_frame e; rw [h]
@[simp] theorem Manager.pushEntry_fab (m : Manager) (e : StreamEntry) : (m.pushEntry e).fab = m.fab := by
  obtain ⟨d, r, h⟩ := m.pushEntry_frame e; rw [h]
@[simp] theorem Manager.pushEntry_rt (m : Manager) (e : StreamEntry) : (m.pushEntry e).rt = m.rt := by
  obtain ⟨d, r, h⟩ := m.pushEntry_frame e; rw [h]
@[simp] theorem Manager.pushEntry_inst (m : Manager) (e : StreamEntry) : (m.pushEntry e).inst = m.inst := by
  obtain ⟨d, r, h⟩ := m.pushEntry_frame e; rw [h]
@[simp] theorem Manager.pushEntry_rcv (m : Manager) (e : StreamEntry) : (m.pushEntry e).rcv = m.rcv := by
  obtain ⟨d, r, h⟩ := m.pushEntry_frame e; rw [h]
@[simp] theorem Manager.pushEntry_disc (m : Manager) (e : StreamEntry) : (m.pushEntry e).disc = m.disc := by
  obtain ⟨d, r, h⟩ := m.pushEntry_frame e; rw [h]
@[simp] theorem Manager.pushEntry_cast (m : Manager) (e : StreamEntry) : (m.pushEntry e).cast = m.cast := by
  obtain ⟨d, r, h⟩ := m.pushEntry_frame e; rw [h]
@[simp] theorem Manager.pushEntry_tl (m : Manager) (e : StreamEntry) : (m.pushEntry e).tl = m.tl := by
  obtain ⟨d, r, h⟩ := m.pushEntry_frame e; rw [h]
@[simp] theorem Manager.pushEntry_sec (m : Manager) (e : StreamEntry) : (m.pushEntry e).sec = m.sec := by
  obtain ⟨d, r, h⟩ := m.pushEntry_frame e; rw [h]
@[simp] theorem Manager.pushEntry_pwr (m : Manager) (e : StreamEntry) : (m.pushEntry e).pwr = m.pwr := by
  obtain ⟨d, r, h⟩ := m.pushEntry_frame e; rw [h]
@[simp] theorem Manager.pushEntry_failed (m : Manager) (e : StreamEntry) : (m.pushEntry e).failed = m.failed := by
  obtain ⟨d, r, h⟩ := m.pushEntry_frame e; rw [h]

@[simp] theorem Manager.putEntry_eng (m : Manager) (e : StreamEntry) : (m.putEntry e).eng = m.eng := by
  unfold Manager.putEntry; split <;> simp
@[simp] theorem Manager.putEntry_sl (m : Manager) (e : StreamEntry) : (m.putEntry e).sl = m.sl := by
  unfold Manager.putEntry; split <;> simp
@[simp] theorem Manager.putEntry_host (m : Manager) (e : StreamEntry) : (m.putEntry e).host = m.host := by
  unfold Manager.putEntry; split <;> simp
@[simp] theorem Manager.putEntry_fab (m : Manager) (e : StreamEntry) : (m.putEntry e).fab = m.fab := by
  unfold Manager.putEntry; split <;> simp
@[simp] theorem Manager.putEntry_rt (m : Manager) (e : StreamEntry) : (m.putEntry e).rt = m.rt := by
  unfold Manager.putEntry; split <;> simp
@[simp] theorem Manager.putEntry_inst (m : Manager) (e : StreamEntry) : (m.putEntry e).inst = m.inst := by
  unfold Manager.putEntry; split <;> simp
@[simp] theorem Manager.putEntry_rcv (m : Manager) (e : StreamEntry) : (m.putEntry e).rcv = m.rcv := by
  unfold Manager.putEntry; split <;> simp
@[simp] theorem Manager.putEntry_disc (m : Manager) (e : StreamEntry) : (m.putEntry e).disc = m.disc := by
  unfold Manager.putEntry; split <;> simp
@[simp] theorem Manager.putEntry_cast (m : Manager) (e : StreamEntry) : (m.putEntry e).cast = m.cast := by
  unfold Manager.putEntry; split <;> simp
@[simp] theorem Manager.putEntry_tl (m : Manager) (e : StreamEntry) : (m.putEntry e).tl = m.tl := by
  unfold Manager.putEntry; split <;> simp
@[simp] theorem Manager.putEntry_sec (m : Manager) (e : StreamEntry) : (m.putEntry e).sec = m.sec := by
  unfold Manager.putEntry; split <;> simp
@[simp] theorem Manager.putEntry_pwr (m : Manager) (e : StreamEntry) : (m.putEntry e).pwr = m.pwr := by
  unfold Manager.putEntry; split <;> simp
@[simp] theorem Manager.putEntry_failed (m : Manager) (e : StreamEntry) : (m.putEntry e).failed = m.failed := by
  unfold Manager.putEntry; split <;> simp

@[simp] theorem Manager.entry_eng (m : Manager) (i : Instr) : (m.entry i).eng = m.eng := by
  unfold Manager.entry; simp
@[simp] theorem Manager.entry_sl (m : Manager) (i : Instr) : (m.entry i).sl = m.sl := by
  unfold Manager.entry; simp
@[simp] theorem Manager.entry_host (m : Manager) (i : Instr) : (m.entry i).host = m.host := by
  unfold Manager.entry; simp
@[simp] theorem Manager.entry_fab (m : Manager) (i : Instr) : (m.entry i).fab = m.fab := by
  unfold Manager.entry; simp
@[simp] theorem Manager.entry_rt (m : Manager) (i : Instr) : (m.entry i).rt = m.rt := by
  unfold Manager.entry; simp
@[simp] theorem Manager.entry_inst (m : Manager) (i : Instr) : (m.entry i).inst = m.inst := by
  unfold Manager.entry; simp
@[simp] theorem Manager.entry_rcv (m : Manager) (i : Instr) : (m.entry i).rcv = m.rcv := by
  unfold Manager.entry; simp
@[simp] theorem Manager.entry_disc (m : Manager) (i : Instr) : (m.entry i).disc = m.disc := by
  unfold Manager.entry; simp
@[simp] theorem Manager.entry_cast (m : Manager) (i : Instr) : (m.entry i).cast = m.cast := by
  unfold Manager.entry; simp
@[simp] theorem Manager.entry_tl (m : Manager) (i : Instr) : (m.entry i).tl = m.tl := by
  unfold Manager.entry; simp
@[simp] theorem Manager.entry_sec (m : Manager) (i : Instr) : (m.entry i).sec = m.sec := by
  unfold Manager.entry; simp
@[simp] theorem Manager.entry_pwr (m : Manager) (i : Instr) : (m.entry i).pwr = m.pwr := by
  unfold Manager.entry; simp
@[simp] theorem Manager.entry_failed (m : Manager) (i : Instr) : (m.entry i).failed = m.failed := by
  unfold Manager.entry; simp

/-- An entry changes no object but TR_SEQ, RD_REPL_LAG and FC_TX. -/
theorem Manager.obj_pushEntry_ne (m : Manager) (e : StreamEntry) (k : Nat) (h1 : k ≠ Obj.TR_SEQ) (h2 : k ≠ Obj.RD_REPL_LAG) (h3 : k ≠ Obj.FC_TX) :
    (m.pushEntry e).obj k = m.obj k := by
  have hs : ∀ (x : Manager) (v : Nat), (x.setObj Obj.TR_SEQ v).obj k = x.obj k := fun x v => x.dev.obj_setObj_ne _ _ _ h1
  have hb : ∀ (x : Manager) (d a : Nat) (c : Msg), ((x.bump Obj.RD_REPL_LAG).onDev (fun y => y.sendTo d a c)).obj k = x.obj k := fun x d a c => by
    show ((x.dev.bump Obj.RD_REPL_LAG).sendTo d a c).obj k = x.dev.obj k
    rw [Dev.obj_sendTo_ne _ _ _ _ _ h3, Dev.obj_bump_ne _ _ _ h2]
  obtain ⟨dev, eng, sl, host, fab, red, rt, inst, rcv, disc, cast, tl, sec, pwr, failed⟩ := m
  obtain ⟨slot, peersIn, misses, nextSeq, applied, entries, acked, heldAns, heldOut, cmdQ, triadOut, digests, trio, runs, standby, inSync⟩ := red
  cases slot <;> cases standby
  · rfl
  · exact hb _ _ _ _
  · exact hs _ _
  · exact (hb _ _ _ _).trans (hs _ _)

theorem Manager.obj_entry_ne (m : Manager) (i : Instr) (k : Nat) (h1 : k ≠ Obj.TR_SEQ) (h2 : k ≠ Obj.RD_REPL_LAG) (h3 : k ≠ Obj.FC_TX) :
    (m.entry i).obj k = m.obj k := by
  unfold Manager.entry Manager.putEntry
  split
  · rfl
  · exact m.obj_pushEntry_ne _ k h1 h2 h3

/-- An entry leaves the contexts as they are. -/
@[simp] theorem Manager.ctx_entry (m : Manager) (i : Instr) (c : Nat) : (m.entry i).ctx c = m.ctx c := by
  unfold Manager.ctx; rw [Manager.entry_sl]

/-! ## The gate -/

/-- A WRITE of a listed value that passes every check of a leading module is carried out: its entry, its effect, its answer OK
(R341, R348). -/
theorem Manager.cmd_granted (m : Manager) (i : Instr) (r : Req) (key v : Nat) (listed : List Nat) (busy : Bool)
    (eff : Manager → Nat → Manager) (h : m.grants r key v) (hl : listed.contains v = true) (hb : busy = false) :
    m.cmd i r key v listed busy eff = (eff (m.entry i) (m.reached r)).answerWrite r 0 := by
  obtain ⟨h1, h2, h3⟩ := h
  unfold Manager.cmd; simp only [h1, h2, h3, hl, hb]; rfl

/-- A refused WRITE has no effect but its answer: the first check that fails gives the result (R341). -/
theorem Manager.cmd_refused (m : Manager) (i : Instr) (r : Req) (key v : Nat) (listed : List Nat) (busy : Bool)
    (eff : Manager → Nat → Manager) (hk : listed.contains v = true ∨ (objRow key).any (fun x => x.perCtx) = false) (h : ¬(m.gateReach r key true v = 0 ∧ m.gateState r key true = 0 ∧ listed.contains v = true ∧ busy = false)) :
    ∃ n, n ≠ 0 ∧ m.cmd i r key v listed busy eff = m.answer r n := by
  unfold Manager.cmd
  dsimp only
  split
  · exact ⟨_, ‹_›, rfl⟩
  · split
    · exact ⟨_, ‹_›, rfl⟩
    · split
      · obtain hk | hk := hk
        · simp_all
        · exact ⟨7, by decide, by unfold Manager.unlisted; rw [hk]; rfl⟩
      · split
        · exact ⟨8, by decide, rfl⟩
        · simp_all

/-- Everything a command object's WRITE can do. -/
theorem Manager.cmd_cases (m : Manager) (i : Instr) (r : Req) (key v : Nat) (listed : List Nat) (busy : Bool)
    (eff : Manager → Nat → Manager) :
    (∃ n, n ≠ 0 ∧ m.cmd i r key v listed busy eff = m.answer r n) ∨
    (listed.contains v = false ∧ m.cmd i r key v listed busy eff = (m.onDev Dev.drawn).answer r (m.dev.openNat % 2 ^ 16)) ∨
    (m.leads = false ∧ m.cmd i r key v listed busy eff = m.toLeader r i) ∨
    (m.grants r key v ∧ listed.contains v = true ∧ busy = false ∧
      m.cmd i r key v listed busy eff = (eff (m.entry i) (m.reached r)).answerWrite r 0) := by
  by_cases h : m.gateReach r key true v = 0 ∧ m.gateState r key true = 0 ∧ listed.contains v = true ∧ busy = false
  · obtain ⟨h1, h2, h3, h4⟩ := h
    cases hl : m.leads
    · exact .inr (.inr (.inl ⟨rfl, by unfold Manager.cmd; simp only [h1, h2, h3, h4, hl]; rfl⟩))
    · exact .inr (.inr (.inr ⟨⟨h1, h2, hl⟩, h3, h4, m.cmd_granted i r key v listed busy eff ⟨h1, h2, hl⟩ h3 h4⟩))
  · by_cases hk : listed.contains v = true ∨ (objRow key).any (fun x => x.perCtx) = false
    · exact .inl (m.cmd_refused i r key v listed busy eff hk h)
    · simp only [not_or, Bool.not_eq_true, Bool.not_eq_false] at hk
      unfold Manager.cmd
      dsimp only
      split
      · exact .inl ⟨_, ‹_›, rfl⟩
      · split
        · exact .inl ⟨_, ‹_›, rfl⟩
        · rw [if_pos (by rw [hk.1]; rfl)]
          exact .inr (.inl ⟨hk.1, by unfold Manager.unlisted; rw [hk.2]; rfl⟩)

/-- A WRITE of a module's own command object that passes every check is carried out (R361). -/
theorem Manager.ownCmd_granted (m : Manager) (r : Req) (key v : Nat) (listed : List Nat) (busy : Bool)
    (eff : Manager → Nat → Manager) (h : m.admits r key v) (hl : listed.contains v = true) (hb : busy = false) :
    m.ownCmd r key v listed busy eff = (eff m (m.reached r)).answer r 0 := by
  obtain ⟨h1, h2⟩ := h
  unfold Manager.ownCmd; simp only [h1, h2, hl, hb]; rfl

/-- Everything such a WRITE can do. -/
theorem Manager.ownCmd_cases (m : Manager) (r : Req) (key v : Nat) (listed : List Nat) (busy : Bool) (eff : Manager → Nat → Manager) :
    (∃ n, n ≠ 0 ∧ m.ownCmd r key v listed busy eff = m.answer r n) ∨
    (listed.contains v = false ∧ m.ownCmd r key v listed busy eff = (m.onDev Dev.drawn).answer r (m.dev.openNat % 2 ^ 16)) ∨
    (m.admits r key v ∧ listed.contains v = true ∧ busy = false ∧
      m.ownCmd r key v listed busy eff = (eff m (m.reached r)).answer r 0) := by
  by_cases h : m.gateReach r key true v = 0 ∧ m.gateState r key true = 0 ∧ listed.contains v = true ∧ busy = false
  · obtain ⟨h1, h2, h3, h4⟩ := h
    exact .inr (.inr ⟨⟨h1, h2⟩, h3, h4, m.ownCmd_granted r key v listed busy eff ⟨h1, h2⟩ h3 h4⟩)
  · unfold Manager.ownCmd
    dsimp only
    split
    · exact .inl ⟨_, ‹_›, rfl⟩
    · split
      · exact .inl ⟨_, ‹_›, rfl⟩
      · split
        · rename_i hl
          unfold Manager.unlisted
          cases hk : (objRow key).any (fun x => x.perCtx)
          · exact .inl ⟨7, by decide, rfl⟩
          · exact .inr (.inl ⟨by simpa using hl, rfl⟩)
        · split
          · exact .inl ⟨8, by decide, rfl⟩
          · simp_all

/-- A WRITE of bytes that passes every check of a leading module is carried out. -/
theorem Manager.hostWrite_granted (m : Manager) (i : Instr) (r : Req) (key : Nat) (data : List Byte) (busy : Bool)
    (eff : Manager → Nat → Manager) (h : m.passes r key data) (hb : busy = false) :
    m.hostWrite i r key data busy eff = (eff (m.entry i) (m.reached r)).answerWrite r 0 := by
  obtain ⟨h1, h2⟩ := h
  simp [Manager.hostWrite, hb, h1, h2, Manager.reached]

/-- Everything a WRITE of bytes can do. -/
theorem Manager.hostWrite_cases (m : Manager) (i : Instr) (r : Req) (key : Nat) (data : List Byte) (busy : Bool)
    (eff : Manager → Nat → Manager) :
    (∃ n, n ≠ 0 ∧ m.hostWrite i r key data busy eff = m.answer r n) ∨
    m.hostWrite i r key data busy eff = m.toLeader r i ∨
    m.hostWrite i r key data busy eff = (eff (m.entry i) (m.reached r)).answerWrite r 0 := by
  by_cases h : dictResult false key true data (m.gateReach r key true (leNat data)) 0 (m.gateState r key true) (if busy then 0x0008 else 0) = 0
  · refine .inr ?_
    unfold Manager.hostWrite
    cases hl : m.leads
    · exact .inl (by simp [h])
    · exact .inr (by simp [h, Manager.reached])
  · exact .inl ⟨_, h, by unfold Manager.hostWrite; simp [h]⟩

end Sys2Proof.Machine
end

