-- ==== Sys2Proof/Tests/Slice0.lean ====
section
/-! SUPPORT. Sys2Proof/Tests/Slice0.lean: tests of the model's own: states that meet the hypotheses of each statement, commands
that well-formedness refuses, and worked examples of the spec. -/

namespace Sys2Proof.Machine

set_option Elab.async false

theorem test_reset_idles : (nextOf (step State.reset)).isSome = true := rfl

/-! ## Small states and operands for the witnesses -/

/-- The physical function's request. -/
def tR : Req := { fn := 0, tag := 0 }

/-- A frame of agent 5 to the manager, and one of the manager to agent 5, under association 1 and the key 7. -/
def tUp (claim : Option Nat) : Hdr := { src := 5, dst := 0x3FF00, key := 7, counter := 1, claim := claim }
def tDown (claim : Option Nat) : Hdr := { src := 0x3FF00, dst := 5, key := 7, counter := 1, claim := claim }

/-- A manager module with registers; `tAct` is an active one. -/
def tM (objs : SMap Nat) : Manager :=
  { dev := { objs := objs, net := { nid := 0x3FF00, keys := [(slotKey 5 1 false, 7)] } } }
def tAct : Manager := tM [(Obj.RD_STATE, 2)]

/-- Agent 5 at die 9, with registers. -/
def tA (objs : SMap Nat) : Agent :=
  { dev := { agentPart := true, key := 10, objs := objs, log := { pending := 256 }, net := { nid := 5, keys := [(slotKey 0x3FF00 1 false, 7)] } } }

/-- The states of a manager alone and of an agent alone. -/
def tS (m : Manager) : State := { mgr := m }
def tSA (a : Agent) : State := { agents := [(9, a)] }

/-- A line, a program and a run of it in context 0. -/
def tDesc : LineDesc :=
  { id := 1, imm := 0, waitValue := 0, waitObj := 0, waitMode := 0, signalObj := 0, signalMode := 0, strO := 0xFF, strM := 0xFF, strC := 0xFF
    strB := 0xFF, strA := 0xFF, stages := [0x20, 0x40], after := 0xFFFF, cell := 0, priority := 0, restart := false, k := 2, semiring := 1
    fmtIn := 0, fmtAcc := 0, fmtOut := 0 }
def tLine : LineRun := { desc := tDesc, cell := 0 }
def tProg : Program := { tag := 0, sramKib := 0, dramKib := 0, cells := 1, streams := [], lines := [tDesc] }
def tRun (l : LineRun) : Manager := { tAct with eng := { runs := [(0, { cells := [0], lines := [l] })], programs := [(0, tProg)] } }

/-- A running context 3 with a state. -/
def tCtx (x : Ctx) : Manager := { tAct with sl := { ctxs := [(3, x)] } }

/-! ## States that meet the hypotheses of the statements -/

theorem witness_IdleStepOnlyPassesTime : State.reset.pending = [] := rfl

theorem witness_LinesRun :
    ((mapGet (tRun tLine).eng.runs 0).isSome = true ∧ (mapGet (tRun tLine).eng.programs 0).isSome = true ∧
      (tRun tLine).lineReady { cells := [0], lines := [tLine] } tLine = true ∧ (tRun tLine).eng.slotsTaken 0 < 4) ∧
    (let l : LineRun := { tLine with phase := .running, stage := 1, a := { fmt := 0, elems := [1] }, b := { fmt := 0, elems := [1] }, acc := { fmt := 0, elems := [5] } }
     let r : Run := { cells := [0], lines := [l] }
     mapGet (tRun l).eng.runs 0 = some r ∧ r.line 1 = some l ∧ l.out = false ∧ (tRun l).eng.cellRuns 0 = true ∧ (stagesOf tDesc).getD 1 0 = 0x40 ∧
      burinSuits tDesc 0 = true ∧ granted (tRun l).eng ((tRun l).obj Obj.ENG_BG_SHARE) 0 2 r l = true ∧ l.acc.elems.isEmpty = false) ∧
    (let l : LineRun := { tLine with phase := .draining }
     mapGet (tRun l).eng.runs 0 = some { cells := [0], lines := [l] } ∧ l.buffer.length ≤ 8) := by decide +kernel

theorem witness_ArrayWordsRead :
    (let t : MemTag := { ctx := 0, gen := 1, line := 0, space := 2, addr := 0, size := 64 }
     let m : Manager := { tAct with eng := { tags := [(5, t)] } }
     mapGet m.eng.tags (0 * 512 + 5) = some t ∧ (m.ctx 0).gen ≠ 1 ∧ (m.ctx 0).st ≠ .draining ∧ firstFailing m t.space t.addr t.size = none) ∧
    (let t : MemTag := { ctx := 0, gen := 0, line := 1, space := 2, addr := 0, size := 64 }
     let l : LineRun := { tLine with phase := .waitMem, tags := [5] }
     let m := (tRun l).onEng (fun e => { e with tags := [(5, t)] })
     mapGet m.eng.tags (0 * 512 + 5) = some t ∧ (m.ctx 0).gen = 0 ∧ (m.eng.runs.map (fun r => r.2.line 1)) = [some l] ∧
      (mapGet m.eng.programs 0).isSome = true ∧ l.phase = .waitMem ∧ l.tags.contains 5 = true ∧ firstFailing m t.space t.addr t.size = none) ∧
    (let t : MemTag := { ctx := 0, gen := 0, line := 1, space := 2, addr := 0, size := 64, ahead := true }
     let m : Manager := { tAct with eng := { tags := [(5, t)] } }
     mapGet m.eng.tags (0 * 512 + 5) = some t ∧ (m.ctx 0).gen = 0 ∧ t.store = false ∧ firstFailing m t.space t.addr t.size = none) ∧
    inTable (.linkTable 0) = true ∧ inTable (.dram 0 0) = false ∧
    (let e : Engine := ({} : Engine).setCell 3 { logical := 3, st := .retiring }
     (e.cell 3).st = .retiring ∧ e.runs = [] ∧ 48 ≤ tAct.obj Obj.ENG_CELLS ∧
      (upTo 68).find? (fun k => decide ((e.cell k).st = .spare)) = some 64) ∧
    (let e := [64, 65, 66, 67].foldl (fun (e : Engine) k => e.setCell k { logical := 0xFF, st := .retired })
      (({} : Engine).setCell 3 { logical := 3, st := .retiring })
     (e.cell 3).st = .retiring ∧ (upTo 68).find? (fun k => decide ((e.cell k).st = .spare)) = none) ∧
    (State.reset.mgr.eng.cell 0).st ≠ .retiring := by decide +kernel

theorem witness_HostPrograms :
    tAct.passes tR Obj.LP_IMAGE [] ∧ tAct.passes tR Obj.LP_IMAGE (List.replicate 64 0) ∧ mapGet tAct.eng.runs (tAct.reached tR) = none ∧
    tAct.grants tR Obj.LP_LOAD 1 ∧ tAct.grants tR Obj.LP_RUN 1 ∧ (tAct.ctx (tAct.reached tR)).st = .active ∧ tAct.grants tR Obj.LP_RUN 2 := by
  unfold Manager.passes Manager.grants; decide +kernel

/-- The manager with agent 5, of switch 3, attested. -/
def tNode : Manager := { tAct with fab := { nodes := [(5, { die := 9, fwd := 0x20003 })] } }
/-- A candidate that awaits switch 3, in a phase of installing. -/
def tCand : Cand := { imp := { number := 1, plates := [(3, {})] }, awaits := [3] }
def tInst (phase : Nat) : Manager := { tNode with inst := { cand := some tCand, phase := phase } }
/-- An active manager in READY. -/
def tReady : Manager := tM [(Obj.DS_STATE, 4), (Obj.RD_STATE, 2)]
/-- A computation. -/
def tComp (hook : Bool) : Comp :=
  { snap := [], start := 0, number := 1, plates := [(3, {})], excMax := 0, stats := [], hook := hook, ran := hook }

theorem witness_ComputationsRun :
    ({ tAct with rt := { window := true } } : Manager).rt.window = true ∧
    (let m : Manager := { tAct with rt := { waiting := some [] } }
     m.rt.waiting = some [] ∧ m.rt.comp = none ∧ m.compWaits [] = false) ∧
    (tComp true).ran = true ∧ (tComp true).owes = false ∧ (tComp true).ended = none ∧
    (let m : Manager := { tAct with rt := { comp := some (tComp false) } }
     m.rt.comp = some (tComp false) ∧ m.hookLeft (tComp false) = some (tComp false).plates) ∧
    ({ tAct with rt := { pcount := some 1 } } : Manager).rt.pcount = some 1 ∧
    ({ tAct with rt := { wide := [3] } } : Manager).rt.wide.contains 3 = true := by decide +kernel

theorem witness_LoadsAndBalance :
    State.reset.mgr.obj Obj.LD_PERIOD_MS ≠ 0 ∧ (tAct.grants tR Obj.LD_RUN 1 ∧ tAct.obj Obj.LD_RUN ≠ 1) ∧
    ({ tAct with rt := { load := true } } : Manager).rt.load = true ∧
    (let m : Manager := { tAct with rt := { rebal := true } }; m.rt.rebal = true ∧ m.active = true ∧ m.leads = true) ∧
    (tAct.grants tR Obj.RB_CLEAR 1 ∧ tAct.obj Obj.RB_CLEAR ≠ 1) ∧
    (tAct.active = true ∧ tAct.leads = true) ∧
    (tAct.obj Obj.RB_HOT_CLEAR_S ≠ 0 ∧
      (mapGetD ({ tAct with rt := { sw := [(3, { below := some 0 })] } } : Manager).rt.sw 3 {}).below.isSome = true) := by
  unfold Manager.grants; decide +kernel

theorem witness_InterleaveRedraws :
    tAct.grants tR Obj.IL_REDRAW 1 ∧ (tAct.onStk (fun k => { k with next := some 7 })).eng.stk.next = some 7 := by
  unfold Manager.grants; decide +kernel

theorem witness_ManagerInstalls :
    ((tInst 2).takes stageFrame (tUp none) ∧ ((tInst 2).after stageFrame (tUp none)).switchOf 5 = 3 ∧ (tInst 2).inst.cand = some tCand ∧
      (tInst 2).inst.phase = 2 ∧ tCand.imp.number = 1 ∧ tCand.awaits.contains 3 = true) ∧
    ((tInst 2).node ((tInst 2).agentOf 3)).stageHeld = none ∧
    ((tInst 4).takes commitFrame (tUp none) ∧ ((tInst 4).after commitFrame (tUp none)).switchOf 5 = 3 ∧ (tInst 4).inst.cand = some tCand ∧
      (tInst 4).inst.phase = 4) ∧ tCand.awaits.isEmpty = false ∧
    mapGet ({ tAct with inst := { isolating := [(3, { peers := [4], since := 0 })] } } : Manager).inst.isolating 3 = some { peers := [4], since := 0 } ∧
    (tInst 4).inst.phase ≠ 5 ∧ (tInst 5).inst.phase = 5 ∧ (tReady.grants tR Obj.IMP_FULL 1 ∧ tReady.obj Obj.DS_STATE = 4 ∧ tReady.obj Obj.IMP_FULL ≠ 1) ∧ (tAct.grants tR Obj.IS_READMIT 1 ∧
      tAct.red.readmits.contains (tAct.obj Obj.SW_SEL) = false) ∧
    (let m : Manager := { tAct with inst := { archive := [{ imp := { number := tAct.obj Obj.IA_SEL } }] } }
     m.grants tR Obj.IA_RESTORE 1 ∧ m.obj Obj.IA_RESTORE ≠ 1 ∧
      (m.entry (.iaRestore tR 1)).inst.archive.find? (fun a => a.imp.number == (m.entry (.iaRestore tR 1)).obj Obj.IA_SEL && a.available) =
        some { imp := { number := tAct.obj Obj.IA_SEL } } ∧
      (([] : SMap Plate).all (restorable m.rt.snap)) = true) ∧
    (tAct.entry (.iaRestore tR 1)).inst.archive = [] := by
  unfold Manager.grants Manager.takes; decide +kernel

theorem witness_CarvesAndKeys :
    (tReady.grants tR Obj.CV_GO 1 ∧ tReady.obj Obj.DS_STATE = 4 ∧ tReady.sl.placing = none) ∧ tAct.grants tR Obj.CV_CANCEL 6 ∧
    (let m : Manager := { tAct with sl := { placing := some { req := {}, ctx := 3 } } }
     m.sl.placing = some { req := {}, ctx := 3 } ∧ m.active = true ∧ m.leads = true ∧
      (m.putEntry { kind := .centre (m.placeFor {}) }).sl.placing = some { req := {}, ctx := 3 }) ∧
    ({ tAct with sl := { queue := [{ req := { tag := 6 }, ctx := 0, since := 0 }] } } : Manager).sl.queue.find?
      (fun q => q.req.tag == 6 && q.req.waitMs != 0) = some { req := { tag := 6 }, ctx := 0, since := 0 } ∧
    tAct.takes dictFrame (tUp none) ∧
    (let m := tCtx { st := .carving }; (m.ctx 3).st = .carving ∧ (m.ctx 3).rejoin = none) ∧
    (let m := tCtx { st := .active, rejoin := some { barred := false, lost := [] } }
     (m.ctx 3).st ≠ .carving ∧ (m.ctx 3).rejoin = some { barred := false, lost := [] }) ∧
    (let x := (tCtx { st := .carving, carve := some {}, setKeys := [(5, { acked := true })] }).ctx 3
     x.st = .carving ∧ x.waiting = false ∧ x.carve.isSome = true ∧ x.installed = true ∧ allAcked x.setKeys = true) := by
  unfold Manager.grants Manager.takes; decide +kernel

/-- Context 3, active and bound to virtual function 1, in a manager that selects it, or through its function. -/
def tV : Req := { fn := 1, tag := 0 }
def tVf : Manager := { tCtx { st := .active, vf := 1, eps := [5] } with host := { numVfs := 1 } }

theorem witness_ReleaseAndPurge :
    (tVf.reached tV = 3 ∧ tVf.grants tV Obj.CX_RELEASE 1 ∧ (tVf.ctx 3).st = .active) ∧ tVf.grants tV Obj.CX_RELEASE 2 ∧
    ((tCtx { st := .draining }).ctx 3).st = .draining ∧
    (let m := tCtx { st := .purging, purge := some {} }
     (m.ctx 3).purge = some {} ∧ ({} : PurgeSt).tags = false ∧ m.eng.tags.any (fun t => t.2.ctx == 3) = false) ∧
    ((tCtx { st := .quarantine }).ctx 3).st = .quarantine ∧
    ({ tAct with host := { held := [{ req := tV, result := 0 }] } } : Manager).host.held.find? (fun a => a.req == tV) =
      some { req := tV, result := 0 } ∧
    (let m : Manager := { tAct with host := { proxied := [{ req := tV, num := 1, nid := 5, index := 0x6000, sub := 1, write := false, ctx := 3, gen := 0 }] } }
     m.host.held.find? (fun a => a.req == tV) = none ∧ m.host.proxied.any (fun p => p.req == tV) = true ∧ m.host.late.contains tV = false) := by
  unfold Manager.grants; decide +kernel

/-- A switch agent, an endpoint agent, and an agent whose node describes watch input 0. -/
def tSw : Agent := tA [(Obj.AG_NID, 5), (Obj.AG_KIND, 0)]
def tEp : Agent := tA [(Obj.AG_NID, 5), (Obj.AG_KIND, 1)]
def tWatch (kind : Byte) : Agent :=
  { tA [(Obj.AG_NID, 5), (Obj.WF_ENABLE, 1)] with node := { desc := List.replicate 0x50 0 ++ [kind, 0, 0, 0] ++ List.replicate 172 0 } }
/-- The manager's claim 1. -/
def tCmd : Hdr := tDown (some 1)
/-- The second of two fragments of a stage of impression 1, without records. -/
def tStage : List Byte := [0, 0, 0, 0, 2, 0, 1, 0, 0, 0, 0, 0, 1, 0, 0, 0]

theorem witness_AgentTakesStages :
    (tSw.takes stageCmd tCmd none ∧ (tSw.after stageCmd tCmd none).accepts tCmd = true ∧ (parseStageHdr tStage).toOption.isSome = true ∧
      ((parseStageHdr tStage).toOption.map (fun h => (stageRecs h tStage).toOption)) = some (some [])) ∧
    (let a : Agent := { tSw with store := { pend := some { imp := 1, claim := 1, from_ := 0x3FF00, range := false, plate := {} } } }
     a.store.pend.isSome = true ∧ a.runs = true) ∧
    (tSw.takes commitCmd tCmd none ∧ (tSw.after commitCmd tCmd none).accepts tCmd = true ∧ (tSw.after commitCmd tCmd none).obj Obj.AG_COMMITTED = 0 ∧
      newer 1 0 = true ∧
      (let a : Agent := { tA [(Obj.AG_NID, 5), (Obj.AG_KIND, 0), (Obj.AG_STAGED, 1)] with store := { stagedBy := some (1, 0x3FF00) } }
       a.takes commitCmd tCmd none ∧ (a.after commitCmd tCmd none).accepts tCmd = true ∧
        (a.after commitCmd tCmd none).store.stagedBy = some (a.after commitCmd tCmd none).pair ∧ (a.after commitCmd tCmd none).obj Obj.AG_STAGED = 1)) := by
  unfold Agent.takes Agent.after; decide +kernel

theorem witness_AgentTakesKeys :
    (tEp.takes dictCmd tCmd none ∧ (tEp.after dictCmd tCmd none).accepts tCmd = true ∧ mapGet (tEp.after dictCmd tCmd none).ptable 3 = none) ∧
    (let a : Agent := { tEp with ptable := [(3, { role := 2, gen := 1, key := 49 })] }
     a.takes dictCmd tCmd none ∧ (a.after dictCmd tCmd none).accepts tCmd = true ∧
      mapGet (a.after dictCmd tCmd none).ptable 3 = some { role := 2, gen := 1, key := 49 }) ∧
    (let a : Agent := { tEp with keyQ := some (49, []) }; a.keyQ = some (49, []) ∧ a.runs = true) := by
  unfold Agent.takes Agent.after; decide +kernel

/-- A message header word: counter 0, a code and a length. -/
def tMsg (code len : Nat) : Nat := code * 2 ^ 16 + len

/-- What the endpoint agent makes of a message on a mailbox. -/
def tRecv (box : Nat) (x : NodeMsg) (f : Nat → List Byte → Nat) : Agent × Nat := (tEp.putMessage box x.1 x.2.1 x.2.2).receive box x f

theorem witness_AgentServesItsNode :
    ([0, 1, 2].all (fun box => (mapGetD tEp.node.inBoxes box {}).held.isNone) = true ∧ tEp.hears = true ∧ tEp.runs = true) ∧
    (let a : Agent := { tEp with node := { ltWants := true } }; a.hears = true ∧ a.node.ltWants = true ∧ a.runs = true) ∧
    (tRecv 0 (tMsg 0 0, [], tEp.mbCheck (tMsg 0 0) []) (formCode 0)).2 = 0 ∧ bitsOf (tMsg 0 0) 23 16 = 0 ∧
    (let d := List.replicate 8 (0 : Byte); (tRecv 0 (tMsg 1 8, d, tEp.mbCheck (tMsg 1 8) d) (formCode 0)).2 = 0 ∧ bitsOf (tMsg 1 8) 23 16 = 1) ∧
    (let d : List Byte := 4 :: List.replicate 15 0
     (tRecv 1 (tMsg 2 16, d, tEp.mbCheck (tMsg 2 16) d) (formCode 1)).2 = 0 ∧ fieldAt (d.take 16) 0 1 ≠ 1) ∧
    (let d : List Byte := 1 :: List.replicate 11 0
     (tRecv 1 (tMsg 2 12, d, tEp.mbCheck (tMsg 2 12) d) (formCode 1)).2 = 0 ∧ fieldAt (d.take 12) 0 1 = 1) ∧
    (let d := List.replicate 8 (0 : Byte); (tRecv 2 (tMsg 3 8, d, tEp.mbCheck (tMsg 3 8) d) (formCode 2)).2 = 0) ∧
    (mapGetD ({ tEp with node := { outBoxes := [(4, { posted := some (0x10, []) })] } } : Agent).node.outBoxes 4 {}).posted = some (0x10, []) := by
  decide +kernel

theorem witness_AgentReportsPorts :
    ((tWatch 1).link.held = false ∧ (tWatch 1).inputPort 0 = some 0) ∧ tEp.takes withdrawFrame (tDown none) (some (.eventAck 0x21 1)) ∧
    tEp.runs = true ∧ tEp.takes withdrawFrame (tDown none) (some (.withdraw 1 0x20003 0 [])) ∧
    (let a := tEp.onDev (fun d => { d with net := { d.net with ports := mapSet d.net.ports 0 0xFF } })
     tEp.hears = true ∧ tEp.link.refLost = false ∧ a.dev.txPort ≠ tEp.dev.txPort ∧ a.dev.txPort.isSome = true ∧ a.dev.net.nid ≠ nidNone) := by
  unfold Agent.takes; decide +kernel

/-- The link entry of switch 3's port 4, and the report of agent 5 after its ingress. -/
def tLinked (l : LinkEntry) : Manager := { tNode with fab := { tNode.fab with links := [(3 * 128 + 4, l)] } }

/-- The window of a sender whose first report is number 1. -/
def tWin1 : Window := { high := 1, bits := 1 }

theorem witness_ManagerTakesFaultReports :
    (tNode.takes withdrawFrame (tUp none) ∧ (tNode.after withdrawFrame (tUp none)).active = true ∧ (tNode.after withdrawFrame (tUp none)).leads = true ∧
      (tNode.after withdrawFrame (tUp none)).repQ.length < 65536 ∧ tNode.canReport withdrawFrame (tUp none) ∧
      takeNumber (mapGet tNode.rcv.reports 5) 1 = some tWin1 ∧
      ((tNode.reported1 withdrawFrame (tUp none) 0x21 1 tWin1).entry (.linkEvent (tUp none) 0x20003 4 false true 1 0 false)).reported 0x20003 4 false = some 388) ∧
    (tNode.takes dictPlain (tUp none) ∧ (mapGet tNode.fab.nodes 5).isSome = true ∧ (tNode.after dictPlain (tUp none)).disc.nbr 9 (portNo false 4) = none) ∧
    (tAct.active = true ∧ tAct.leads = true) ∧
    (tNode.canReport dictPlain (tUp none) ∧
      (let m := ((tNode.reported1 dictPlain (tUp none) 0x36 1 tWin1).entry (.nodeReady (tUp none) 5 1 false)).endDetour 5
       (m.node 5).fenced = false ∧ (m.ctx (m.epCtx 5)).rejoin = none)) ∧
    (let m := (tNode.reported1 dictPlain (tUp none) 0x39 1 tWin1).entry (.resetReq (tUp none) 5 0x20003 1 false)
     entriesOf m.fab.links 3 = [] ∧ tNode.sl.queue = []) ∧
    (let m : Manager := { tAct with fab := { nodes := [(tAct.obj Obj.EP_SEL, { kind := 1, fenced := true })] } }
     m.grants tR Obj.EP_READMIT 1 ∧ (m.node (m.obj Obj.EP_SEL)).fenced = true ∧ (m.node (m.obj Obj.EP_SEL)).gone = false ∧
      (m.node (m.obj Obj.EP_SEL)).readmit = false) ∧
    (let m : Manager := { tAct with fab := { links := [(tAct.obj Obj.LK_SEL, { st := .adminDown })] } }
     m.grants tR Obj.LK_READMIT 1 ∧ (linkOf m.fab.links (m.obj Obj.LK_SEL)).st = .adminDown ∧
      bothEnds m.fab.links (m.obj Obj.LK_SEL) = [m.obj Obj.LK_SEL]) ∧
    (tAct.grants tR Obj.RS_COMMIT 1 ∧ tAct.obj Obj.RS_COMMIT ≠ 1) := by
  unfold Manager.canReport Manager.takes Manager.grants; decide +kernel

theorem witness_AgentSeesResets :
    ((tWatch 2).link.held = false ∧ (tWatch 2).watchOf 0 % 8 = 2 ∧ bitOf ((tWatch 2).obj Obj.WF_ENABLE) 0 = true) ∧
    (let a : Agent := { tSw with node := { linkDown := some 0 } }
     a.node.linkDown.isSome = true ∧ a.node.lostSent = false ∧ a.isSwitch = true ∧ a.hears = true ∧ a.restart = none) ∧
    (tEp.hears = true ∧ tEp.restart = none) ∧
    (tEp.takes dictCmd tCmd none ∧ (tEp.after dictCmd tCmd none).accepts tCmd = true ∧ (tEp.after dictCmd tCmd none).obj Obj.AG_NID = 5) ∧
    (let a : Agent := { tEp with node := { asked := some 0 } }; a.node.asked.isSome = true ∧ a.runs = true) ∧
    (let a : Agent := { tA [(Obj.AG_NID, 5), (Obj.AG_KIND, 0), (Obj.AP_NODE_HB_US, 100)] with node := { hbRuns := true } }
     a.node.hbRuns = true ∧ a.obj Obj.AP_NODE_HB_US ≠ 0 ∧ a.runs = true ∧ a.isEndpoint = false) ∧
    tEp.takes withdrawFrame (tDown none) (some (.gone 6)) ∧
    (let a : Agent := { tEp with node := { gone := [6] } }
     a.takes dictCmd tCmd none ∧ (a.after dictCmd tCmd none).accepts tCmd = true ∧ 6 ≠ (a.after dictCmd tCmd none).obj Obj.AG_NID ∧
      (a.after dictCmd tCmd none).node.gone.contains 6 = true) ∧
    tEp.takes withdrawFrame (tDown none) (some (.memberLost 6 0 3 1 0 0)) ∧ tEp.takes dictPlain (tDown none) none := by
  unfold Agent.takes Agent.after; decide +kernel

/-- A run of context 3 on cell 0, and that cell's last steps. -/
def tHang : Manager :=
  { tM [(Obj.RD_STATE, 2), (Obj.HANG_TILE_US, 5)] with
    eng := ({ runs := [(3, { cells := [0], lines := [tLine] })] } : Engine).setCell 0 { logical := 0, st := .enabled, steps := [(4, 0)] } }

theorem witness_HeartbeatsAndHangs :
    (let m := tAct.onDev (fun d => { d with net := { d.net with round := some 1 } }); m.active = true ∧ m.leads = true ∧ m.dev.net.round = some 1) ∧
    tAct.hbNews 5 none = false ∧
    (let m : Manager := { tAct with fab := { nodes := [(5, { misses := 3 })] } }; 3 ≤ (m.node 5).misses ∧ (m.node 5).silent = false) ∧
    (let m : Manager := { tAct with fab := { nodes := [(5, { kind := 1, silent := true }), (6, { silent := true })] } }
     m.obj Obj.FR_SILENT_MS ≠ 0 ∧ (m.node 5).silent = true ∧ (m.node 5).kind = 1 ∧ (m.node 6).silent = true ∧ (m.node 6).kind = 0) ∧
    (mapGet tNode.fab.nodes 5).isSome = true ∧
    (let m := tCtx { st := .carving, rejoin := some { barred := true, lost := [5] } }
     (m.ctx 3).rejoin = some { barred := true, lost := [5] } ∧ m.keyFree 3 (((m.ctx 3).gen + 1) % 256) = true ∧ m.obj Obj.FR_REJOIN_MS ≠ 0) ∧
    (let run : Run := { cells := [0], lines := [tLine] }
     let cells := (sortNat ((run.lines.filter LineRun.unfinished).map (fun l => l.cell))).filterMap tHang.eng.phys
     mapGet tHang.eng.runs 3 = some run ∧ tHang.hangNs 3 = some 5000 ∧ cells.isEmpty = false ∧
      cells.any (fun p => (tHang.eng.cell p).steps.any (fun x => x.1 == 3 && decide (tHang.dev.time < x.2 + 5000))) = false ∧
      cells.all (fun p => (tHang.eng.cell p).steps.any (fun x => x.1 != 3 && decide (tHang.dev.time < x.2 + 5000))) = true) ∧
    (let m : Manager := { tM [(Obj.RD_STATE, 2), (committedKey Obj.CELL_RESET_WINDOW, 0)] with eng := ({} : Engine).setCell 3 { logical := 3, st := .resetting } }
     (m.eng.cell 3).st = .resetting ∧ m.eng.linesOn (m.eng.cell 3).logical = [] ∧ m.rt.comp = none ∧ m.dev.objC Obj.CELL_RESET_WINDOW = 0) ∧
    (tEp.restart = none ∧ tEp.link.asleep = false ∧ tEp.link.held = false) := by decide +kernel

theorem witness_AgentHeartbeatsAndTime :
    tSw.takes hbFrame tCmd none ∧
    (tSw.takes commitCmd tCmd none ∧ (tSw.after commitCmd tCmd none).accepts tCmd = true ∧ (tSw.after commitCmd tCmd none).isSwitch = true) ∧
    (tSw.after hbFrame tCmd none).home = tCmd.src ∧ (tNode.leads = true ∧ (mapGet tNode.fab.nodes 5).isSome = true) ∧
    (tNode.takes hbReplyFrame (tUp none) ∧ tNode.dev.net.replay = false) ∧
    (let a := tA [(Obj.FN_P1_MODE, 1)]; a.obj Obj.FN_P1_MODE = 1 ∧ a.dev.net.lane = false ∧ a.hears = true ∧ a.runs = true) ∧
    (let a := (tA [(Obj.FN_P1_MODE, 1)]).onDev (fun d => { d with net := { d.net with ports := mapSet d.net.ports 0 0xFF } })
     a.obj Obj.FN_P1_MODE = 1 ∧ a.hears = true ∧ 6 ≠ a.dev.net.nid ∧ a.dev.portUp 0 = true ∧ 0 < a.obj Obj.FN_RELAY_RATE) ∧ tSw.tl.changed = false := by
  unfold Manager.takes Agent.takes Agent.after; decide +kernel

/-- The frame of the worked example "one WITHDRAW on the wire": addresses and header (spec/13). -/
def tWire : Dev := { agentPart := true, key := 1, net := { nid := 0x20390, tx := [(peerKey 0x20311 2, { counter := 0x1F4A })] } }
theorem test_worked_example_header :
    (let f := (tWire.sendTo 0x20311 2 (.withdraw 0 0 0 [1, 2])).out.headD { dst := 0, assoc := 0, msg := .gone 0 }
     beBytes 6 f.dstMac ++ beBytes 6 f.srcMac ++ headerBytes f ((tWire.payload f).length) ++ beBytes 1 (tWire.pcp (msgClass f.msg))) =
    [0x02, 0x4E, 0x44, 0x02, 0x03, 0x11, 0x02, 0x4E, 0x44, 0x02, 0x03, 0x90, 0x01, 0x02, 0x80, 0x02, 0x00, 0x00, 0x00, 0x90,
     0x03, 0x46, 0x0C, 0x08, 0x00, 0x00, 0x02, 0x00, 0x4A, 0x1F, 0x00, 0x00, 0x00, 0x00, 0x00, 0x00, 7] := by decide +kernel

/-- AES-256 on the example of FIPS 197, appendix C.3. -/
theorem test_aes_fips197 :
    aesBlock ((upTo 32).map (BitVec.ofNat 8)) ((upTo 16).map (fun i => BitVec.ofNat 8 (17 * i))) =
    [0x8e, 0xa2, 0xb7, 0xca, 0x51, 0x67, 0x45, 0xbf, 0xea, 0xfc, 0x49, 0x90, 0x4b, 0x49, 0x60, 0x89] := by decide +kernel

/-- A manager module of a triad, in slot 0, in service with slot 1; `lead` is the leader's slot. -/
def tTriad (lead : Nat) : Manager :=
  { tM [(Obj.RD_STATE, 2), (Obj.TR_LEADER, lead)] with red := { slot := some 0, peersIn := [1], trio := [(1, 5), (2, 6)] } }
/-- A manager of a unit in an RD_STATE. -/
def tRd (st : Nat) : Manager := tM [(Obj.RD_STATE, st)]
/-- A claim frame of the peer 5. -/
def tPeer : Hdr := tUp (some 7)

theorem witness_UnitsClaimAndHandOver :
    ((tTriad 1).takes commitCmd tPeer ∧ ((tTriad 1).after commitCmd tPeer).red.trio.find? (fun x => x.2 == tPeer.src) = some (1, 5)) ∧
    (tNode.takes commitFrame (tUp none) ∧ (mapGet tNode.fab.nodes 5).isSome = true ∧ tNode.red.gain = .none ∧ tNode.disc.atts = [] ∧
      mapGet tNode.red.claimTry ((tNode.after commitFrame (tUp none)).switchOf 5) = none ∧ tNode.obj Obj.IMP_COMMITTED = 0) ∧
    (let m : Manager := { tAct with red := { claimTry := [(3, 1)] } }; m.red.claimTry.isEmpty = false ∧ m.leads = true) ∧
    (let m : Manager := { tRd 1 with red := { heard := true } }; m.obj Obj.RD_STATE = 1 ∧ m.red.heard = true ∧ m.obj Obj.RD_PEER = 0) ∧
    (let m : Manager := { tM [(Obj.RD_STATE, 1), (Obj.RD_PEER, 0x3FF01)] with red := { heard := true } }
     m.obj Obj.RD_STATE = 1 ∧ m.red.heard = true ∧ m.obj Obj.RD_PEER ≠ 0) ∧
    ((tRd 1).obj Obj.RD_STATE = 1 ∧ (tRd 1).red.heard = false ∧ (tRd 1).leads = true ∧ (tRd 1).obj Obj.RD_ROLE = 0) ∧
    (let m := tM [(Obj.RD_ROLE, 1), (Obj.RD_STATE, 1)]; m.obj Obj.RD_STATE = 1 ∧ m.red.heard = false ∧ m.leads = true ∧ m.obj Obj.RD_ROLE ≠ 0) ∧
    ((tRd 3).obj Obj.RD_STATE = 3 ∧ (tRd 3).leads = true ∧ (tRd 3).takes commitCmd tPeer ∧ ((tRd 3).after commitCmd tPeer).obj Obj.RD_STATE = 3 ∧
      ((tRd 3).after commitCmd tPeer).leads = true ∧ ((tRd 3).after commitCmd tPeer).red.applied < 1) ∧
    (tAct.grants tR Obj.RD_HANDOVER 1 ∧ tAct.grants tR Obj.P_HA_SWITCHOVER 1 ∧ tAct.obj Obj.RD_HANDOVER ≠ 1) := by
  unfold Manager.takes Manager.grants; decide +kernel

theorem witness_TriadsAndReplicas :
    ((tTriad 1).red.slot.isSome = true ∧ (tTriad 1).leads = false) ∧
    ((tRd 3).takes stageFrame (tUp none) ∧ ((tRd 3).after stageFrame (tUp none)).obj Obj.RD_STATE = 3 ∧
      ((tRd 3).after stageFrame (tUp none)).leads = true ∧
      (let u := takeEntry (tS ((tRd 3).after stageFrame (tUp none))) 1 (.input 0 0) .loadPeriod
       (u.mgr.passOn 1 { kind := .input 0 0, input := some .loadPeriod }).red.resync = none)) ∧
    ((tTriad 0).red.slot.isSome = true ∧ (tTriad 0).red.gather = none ∧ (tTriad 0).leads = true ∧ (tTriad 0).red.peersIn.contains 1 = true) ∧
    (let m : Manager := { tAct with red := { standby := some 5, inSync := true, nextSeq := 3 } }
     m.takes stageFrame (tUp none) ∧ m.red.standby = some 5 ∧ m.red.inSync = true ∧ mapGetD m.red.acked 5 0 < 1 ∧ 1 < m.red.nextSeq ∧
      m.active = true ∧ m.leads = true ∧ m.red.standby.getD (m.obj Obj.RD_PEER) ≠ 0) ∧
    tAct.takes hbFrame tPeer ∧
    ((tTriad 0).red.slot = some 0 ∧ (tTriad 0).red.outOfService = false ∧ (tTriad 0).red.misses = [] ∧
      (∀ k, k ∈ (tTriad 0).red.peersIn → ([(1, false)].map (fun x => x.1)).contains k = true ∧ [(1, false)].contains (k, true) = false) ∧ (tTriad 0).leads = true) ∧
    (tAct.gateReach tR Obj.TR_RESYNC true 1 = 0 ∧ tAct.red.slot = none ∧ tAct.red.resync = none) ∧
    ((tTriad 0).gateReach tR Obj.TR_RESYNC true 1 = 0 ∧ (tTriad 0).red.slot.isSome = true ∧ (tTriad 0).red.resync = none) ∧
    (let m : Manager := { tRd 6 with red := { resync := some 5 } }; m.red.resync = some 5 ∧ m.red.slot = none ∧ m.red.entries = []) := by
  unfold Manager.takes; decide +kernel

/-- A KEY_OFFER to agent 5 of the key of association 1. -/
def tOffer : Offer := { nid := 5, assoc := 1, key := 1, phase := true, msg := .hello [] }
def tOffered : Manager := { tAct with fab := { offers := [tOffer] } }

theorem witness_KeysAreExchanged :
    ((tOffered.pairSlot (tUp none)).takes dictPlain (tUp none) ∧
      ((tOffered.pairSlot (tUp none)).after dictPlain (tUp none)).fab.offers.find? (fun o => o.nid == 5 && o.key == 1 && o.phase == true) = some tOffer) ∧
    (let m := tAct.onDev (fun d => { d with net := { d.net with tx := [(peerKey 5 1, { key := 7 })] } })
     m.obj Obj.FN_REKEY_S ≠ 0 ∧ m.leads = true ∧ (mapGet m.dev.net.tx (peerKey 5 1)).isSome = true) := by
  unfold Manager.takes; decide +kernel

theorem witness_AttestationAndImages :
    (let a : Agent := { tSw.onDev (fun d => { d with net := { d.net with ports := [(0, 0xFF)] } }) with link := { helloOn := true } }
     a.runs = true ∧ a.hears = true ∧ a.link.helloOn = true ∧ a.anyPort = true) ∧
    (let a : Agent := { tSw.onDev (fun d => { d with net := { d.net with nid := nidNone } }) with link := { reported := true } }
     a.runs = true ∧ a.hears = true ∧ a.link.helloOn = false ∧ a.link.reported = true ∧ a.dev.net.nid = nidNone) ∧
    tSw.takes attestFrame (tDown none) none ∧
    (tSw.takes bulkFrame (tDown none) none ∧ ((tSw.after bulkFrame (tDown none) none).turnTo 77 2).bulk.held ≠ some 77) ∧
    (let a : Agent := { tSw with bulk := { due := true } }; a.bulk.due = true ∧ a.runs = true ∧ a.hears = true) ∧
    (tSw.takes dictCmd tCmd none ∧ (tSw.after dictCmd tCmd none).accepts tCmd = true ∧ (tSw.after dictCmd tCmd none).bulk.held ≠ some 77) ∧
    (let a : Agent := { tSw with bulk := { held := some 77, state := 1 } }
     a.takes dictCmd tCmd none ∧ (a.after dictCmd tCmd none).accepts tCmd = true ∧ (a.after dictCmd tCmd none).bulk.held = some 77 ∧
      (a.after dictCmd tCmd none).bulk.state = 1) := by
  unfold Agent.takes Agent.after; decide +kernel

theorem witness_AgentAnswersRequests :
    (tSw.takes (dictReqFrame false) (tDown none) none ∧ (tSw.after (dictReqFrame false) (tDown none) none).reaches 0 0 Obj.AG_NID = true ∧
      dictResult true Obj.AG_NID false [] 0 0 0 0 = 0) ∧
    (tSw.takes (dictReqFrame true) tCmd none ∧ (tSw.after (dictReqFrame true) tCmd none).accepts tCmd = true ∧
      (tSw.after (dictReqFrame true) tCmd none).reaches 0 0 Obj.AP_DRAIN_US = true ∧ dictResult true Obj.AP_DRAIN_US true [1, 0, 0, 0] 0 0 0 0 = 0 ∧
      agentValueBad Obj.AP_DRAIN_US [1, 0, 0, 0] = false ∧ tCmd.ctx = 0) ∧
    (let a := tA [(Obj.AG_NID, 5), (Obj.AG_CLAIM, 9)]
     a.takes (dictReqFrame true) tCmd none ∧ (a.after (dictReqFrame true) tCmd none).accepts tCmd = false) ∧
    ((tSw.after (dictReqFrame true) tCmd none).reaches 0 0 Obj.HM_SEND = true ∧
      dictResult true Obj.HM_SEND true (List.replicate 8 0) 0 0 0 0 = 0) := by
  unfold Agent.takes Agent.after; decide +kernel

theorem witness_AgentRestartsAndSleeps :
    (let a : Agent := { tSw with restart := some { since := 0, prev := 0, announced := true } }
     a.restart = some { since := 0, prev := 0, announced := true }) ∧
    (let a : Agent := { tA [(Obj.PWB_ENGINE, 60000), (Obj.PWB_TABLE, 60000), (Obj.PWB_STACKS, 60000), (Obj.AG_NID, 5)] with
                          node := { linkDown := some 0 } }
     a.hears = true ∧ a.maySleep = true) ∧
    (let a : Agent := { tSw with link := { asleep := true } }; a.link.asleep = true ∧ a.link.thermal = false) := by decide +kernel

theorem witness_DictionaryIsServed :
    (tAct.turn tR Obj.RD_STATE false [] = true ∧ tAct.turn tR Obj.FR_SILENT_MS true [1, 0, 0, 0] = true) ∧
    (let m : Manager := { tAct with host := { accepted := [{ req := tR, nid := 0, key := Obj.DV_TIME, write := false, len := 0, data := [] }] } }
     m.turn tR Obj.RD_STATE false [] = false ∧ m.turn tR Obj.DV_TIME true [] = false ∧ m.turn tR Obj.DV_TIME false [] = true) ∧
    (tAct.readResult tV Obj.RD_STATE ≠ 0 ∧ tAct.writeResult tR Obj.RD_STATE [] ≠ 0) ∧
    (tAct.readResult tR Obj.RD_STATE = 0 ∧ rowReads.contains Obj.RD_STATE = false ∧ sweepKeys.contains Obj.RD_STATE = false ∧
      (objRow Obj.RD_STATE).isSome = true) ∧
    (tAct.writeResult tR Obj.FR_SILENT_MS [1, 0, 0, 0] = 0 ∧ rowObjs.contains Obj.FR_SILENT_MS = false ∧
      (objRow Obj.FR_SILENT_MS).isSome = true ∧ (objRow Obj.FR_SILENT_MS).map (fun r => r.acc) ≠ some .cmd ∧ tAct.leads = true ∧ tAct.dev.net.replay = false) ∧
    (let m : Manager := { tAct with host := { proxied := [{ req := tR, num := 1, nid := 5, index := 0x6000, sub := 1, write := false, ctx := 0, gen := 0 }] } }
     m.takes dictReplyFrame (tUp none) ∧ ((m.after dictReplyFrame (tUp none)).host.proxied.find? (fun p => p.num == 1 && p.nid == 5)).isSome = true) ∧
    (tReady.grants tR Obj.P_PART_CREATE 1 ∧ tReady.obj Obj.DS_STATE = 4 ∧ tReady.sl.placing = none ∧ tReady.grants tR Obj.P_RECOMPUTE 1) ∧
    (let m := tM [(Obj.LP_SEL_CTX, 3), (Obj.RD_STATE, 2)]; m.grants tR Obj.P_PART_DELETE 1 ∧ m.obj Obj.LP_SEL_CTX ≠ 0) := by
  unfold Manager.takes Manager.grants; decide +kernel

theorem witness_AccessesActAsTheirRows :
    (tAct.turn tR Obj.CV_GO true [1] = true ∧ tAct.turn tR Obj.SC_NONCE false [] = true) ∧ (tAct.writeResult tR Obj.EV_CLEAR [3] = 0 ∧ tReady.writeResult tR Obj.CV_GO [1] = 0 ∧ tAct.writeResult tR Obj.RS_COMMIT [1] = 0) ∧
    (tAct.writeResult tR Obj.FW_GO [3] = 0 ∧ leNat [(3 : Byte)] = 3) ∧
    tAct.writeResult tR Obj.FW_IMAGE [] = 0 ∧ tAct.readResult tR Obj.ER_READ = 0 ∧ tAct.readResult tR Obj.SC_NONCE = 0 := by
  decide +kernel

/-- A manager with the host link and the barrier up; a second one with function 1 bound to context 3. -/
def tHost (h : HostSide) : Manager := { tAct with host := { h with barrier := true } }

theorem witness_HostRequestsCross :
    (tAct.host.perst = false ∧ (mapGetD (tAct.fnSt 0).slots 0 {}).go = false) ∧
    (let m := tHost { fns := [(0, { slots := [(0, { go := true })] })] }; m.host.perst = false ∧ (mapGetD (m.fnSt 0).slots 0 {}).go = true) ∧
    (let m := tHost { answers := [{ req := tR, result := 0 }] }; m.host.barrier = true ∧ (m.takeAnswer ⟨0, 0⟩).isSome = true) ∧
    ((1 + 2 ^ 32 - (tAct.fnSt 0).dqHead) % 2 ^ 32 ≤ 255 ∧
      ((tAct.fnSt 0).dqTail + 2 ^ 32 - (tAct.fnSt 0).dqHead) % 2 ^ 32 ≤ (1 + 2 ^ 32 - (tAct.fnSt 0).dqHead) % 2 ^ 32) ∧
    255 < (256 + 2 ^ 32 - (tAct.fnSt 0).dqHead) % 2 ^ 32 ∧
    (let m := tHost { fns := [(0, { dqTail := 1 })], answers := [{ req := ⟨0, descTag 0⟩, result := 0 }] }
     m.host.barrier = true ∧ (m.fnSt 0).dqHead ≠ (m.fnSt 0).dqTail ∧ (m.takeAnswer ⟨0, descTag 0⟩).isSome = true) ∧
    tVf.fnCtx 1 = some 3 := by decide +kernel

theorem witness_MailboxesDoorbellsInterrupts :
    (tVf.host.perst = false ∧ tVf.ideBlock = false ∧ tVf.mayPost 1 8 = false) ∧
    ((tHost {}).mayPost 0 8 = true ∧ ((tHost {}).mbox 8).go = false ∧ (tHost {}).host.barrier = true) ∧
    (tAct.mayPost 0 8 = true ∧ (tAct.mbox 8).go = false ∧ tAct.host.barrier = false) ∧
    ([0, 1, 2, 3].all (fun c =>
      let m := tHost { mailboxes := [(8, { hdr := c * 2 ^ 16 + 8, posted := true })] }
      (m.mbox 8).posted && m.fwRuns && (m.mbox 8).msgCode == c)) = true ∧
    ((tHost { mailboxes := [(8, { acks := [none, some 0] })] }).mbox 8).acks = [none, some 0] ∧
    ((tHost { mailboxes := [(8, { acks := [some 0] })] }).mbox 8).acks = [some 0] ∧
    tAct.bellsHeld 0 = false ∧ (∀ b ∈ quadBits 0 5, tAct.mayRing 0 b = true) ∧ quadBits 0 5 = [0, 2] ∧
    (tVf.host.perst = false ∧ tVf.bound 1 = true) ∧ (mapGetD tAct.host.feeds 0 {}).code < 4 := by decide +kernel

/-- The manager with sync object 7. -/
def tSync (o : SyncObj) : Manager := tHost { syncs := [(7, o)] }

theorem witness_SyncObjectsRun :
    (let m := tSync { cfg := 2, holder := some 9 }
     m.bound 0 = true ∧ syncKind (m.sync 7).cfg = .lock ∧ bitOf (m.sync 7).cfg 2 = false ∧ (m.sync 7).holder = some 9 ∧
     m.hostRead 0 0 0x2001C8 8 = some (m.bump Obj.SY_OPS, 0x10009)) ∧
    ((tSync { cfg := 2 }).sync 7).holder = none ∧
    ((tSync {}).host.perst = false ∧ (tSync {}).host.barrier = true ∧ (tSync {}).ideBlock = false ∧ (tSync {}).reachesSync 0 7 = true) ∧
    syncKind ((tSync { cfg := 0 }).sync 7).cfg = .counter ∧ syncKind ((tSync { cfg := 1 }).sync 7).cfg = .semaphore ∧
    syncKind ((tSync { cfg := 3 }).sync 7).cfg = .event ∧
    (syncKind ((tSync { cfg := 2 }).sync 7).cfg = .lock ∧ bitOf ((tSync { cfg := 2 }).sync 7).cfg 2 = false ∧
      ((tSync { cfg := 2 }).sync 7).holder = none ∧ ((tSync { cfg := 2, holder := some 9 }).sync 7).holder = some 9) ∧
    (syncKind ((tSync { cfg := 6 }).sync 7).cfg = .lock ∧ bitOf ((tSync { cfg := 6 }).sync 7).cfg 2 = true ∧ ((tSync { cfg := 6 }).sync 7).tickets.length < 64) ∧
    64 ≤ ((tSync { cfg := 6, tickets := (upTo 64).map (fun i => { num := i, rid := 0 }) }).sync 7).tickets.length := by decide +kernel

theorem witness_BarrierAndResets :
    ((tHost {}).hostRead 0 0 0x104000 4 = some (tHost {}, 0x41) ∧ tVf.fnCtx 1 = some 3 ∧ tVf.fnCtx 2 = none ∧ (mapGetD tAct.host.feeds 0 {}).code < 4) ∧
    ((tHost {}).host.barrier = true ∧ (tHost {}).fwRuns = true) ∧ (tAct.host.fwStall = false ∧ tAct.host.perst = false) ∧
    (tAct.host.barrier = false ∧ tAct.pwr.off = false ∧ tAct.pwr.asleep = false) ∧ (16 < tAct.host.lanes ∧ 8 < tAct.host.lanes) ∧
    ({ tAct with host := { perst := true } } : Manager).host.perst = true := by decide +kernel

/-- The manager with domain 0 in IDLE, and with its wake begun. -/
def tRest (waking : List Nat) : Manager := tAct.onDev (fun d => { d with domains := [(0, 1)], waking := waking })
def tARest (waking : List Nat) : Agent := tSw.onDev (fun d => { d with domains := [(0, 1)], waking := waking })

theorem witness_DomainsRestAndWake :
    (tAct.pwr.asleep = false ∧ tAct.pwr.off = false ∧ tAct.dev.waking.contains 0 = false ∧ tAct.dev.domain 0 < tAct.dev.deepest 0 (tAct.permits 0 true)) ∧
    (tSw.hears = true ∧ tSw.dev.waking.contains 7 = false ∧ tSw.dev.domain 7 < tSw.dev.deepest 7 (tSw.permits 7 true)) ∧
    ((tRest []).dev.domain 0 = 1 ∧ (tRest []).pwr.asleep = false) ∧ ((tARest []).dev.domain 0 = 1 ∧ (tARest []).hears = true) ∧
    (tRest [0]).dev.waking.contains 0 = true ∧ (tARest [0]).dev.waking.contains 0 = true ∧
    tAct.writeResult tR (0x130000 + 1) [200, 0, 0, 0] = 0 := by decide +kernel

/-- The manager in SENTINEL. -/
def tAsleep (thermal : Bool) : Manager := { tM [(Obj.PW_WAKE_AT, 5), (Obj.RD_STATE, 4)] with pwr := { asleep := true, thermal := thermal } }

theorem witness_SentinelAndComparators :
    (let m := tM (budgets.map (fun k => (k, 60000)) ++ [(Obj.RD_STATE, 4)])
     m.pwr.asleep = false ∧ m.pwr.off = false ∧ m.dev.net.replay = false ∧ m.maySleep = true ∧ m.leads = true ∧ m.red.slot = none) ∧
    ((tAsleep false).pwr.asleep = true ∧ (tAsleep false).pwr.thermal = false ∧ (tAsleep false).obj Obj.PW_WAKE_AT ≠ 0) ∧
    ((tAsleep true).pwr.asleep = true ∧ (tAsleep true).pwr.thermal = true) ∧ (tAct.pwr.asleep = false ∧ tAct.pwr.off = false) ∧
    (mapGet tNode.fab.nodes 5).isSome = true ∧ tAct.pwr.portsHeld = false ∧
    (let m : Manager := { tAct with pwr := { portsHeld := true } }
     m.pwr.portsHeld = true ∧ m.pwr.off = false ∧ m.pwr.asleep = false ∧ m.pwr.noBoot = false) ∧
    (tSw.link.held = false ∧ tSw.link.asleep = false) := by decide +kernel

theorem witness_ModuleStartsAndTrips :
    (tAct.pwr.opened = false ∧ tAct.pwr.tripped = false) ∧ ({ tAct with pwr := { opened := true } } : Manager).pwr.opened = true ∧
    ((tRd 4).admits tR Obj.DV_RESET 0x5A ∧ (tRd 4).obj Obj.RD_STATE ≠ 2 ∧ (tRd 4).obj Obj.RD_STATE ≠ 5) ∧
    (tAct.admits tR Obj.DV_RESET 0x5A ∧ tAct.obj Obj.RD_STATE = 2) ∧ (tAct.pwr.off = false ∧ tAct.pwr.inReset = false) ∧ tAct.grants tR Obj.BT_FRESH 1 := by
  unfold Manager.admits Manager.grants; decide +kernel

/-- An attestation of die 9 whose report is awaited. -/
def tAtt : Att := { nid := 5, digests := [1], stage := 0 }
def tAtted : Manager := { tAct with disc := { atts := [(9, tAtt)] } }
/-- The payload of a HELLO of die 9 without ports. -/
def tHello : List Byte := 9 :: List.replicate 31 0

theorem witness_DiscoveryAndTheGate :
    (helloOk tHello = true ∧ tAct.takes helloFrame { tUp none with lengthOk := (tUp none).lengthOk && helloOk tHello }) ∧
    (tAtted.takes attestReportFrame (tUp none) ∧ mapGet (tAtted.after attestReportFrame (tUp none)).disc.atts 9 = some tAtt ∧ tAtt.stage = 0 ∧
      tAtt.hello = false ∧ tAtt.digests.contains 1 = true ∧ (tAtted.after attestReportFrame (tUp none)).active = true ∧
      (tAtted.after attestReportFrame (tUp none)).leads = true) ∧
    (let m : Manager := { tAct with disc := { settle := true } }; m.disc.settle = true ∧ m.disc.atts = []) ∧
    (tAct.passes tR Obj.BP_IMAGE [] ∧ tAct.passes tR Obj.BP_IMAGE (List.replicate 64 0) ∧ (bpCheck (List.replicate 64 0)).isSome = true) ∧
    tAct.passes tR (0x304000 + 1) [1, 0, 0, 0] ∧ (tAct.grants tR Obj.DS_RESTART 1 ∧ tAct.inst.phase ≠ 2) := by
  unfold Manager.takes Manager.passes Manager.grants; decide +kernel

/-- A broadcast to agent 5 in FW_STATE `st`. -/
def tFw (st : Nat) (sent : Bool) (batch : List Nat) : Manager :=
  { tM [(Obj.FW_STATE, st), (Obj.RD_STATE, 2)] with cast := { targets := [5], sent := sent, batch := batch } }

theorem witness_FirmwareIsBroadcast :
    tAct.passes tR Obj.FW_IMAGE (List.replicate 64 0) ∧ (tAct.grants tR Obj.FW_GO 1 ∧ tAct.casting = false ∧ tAct.failed.contains Obj.FW_IMAGE = false) ∧
    ((tFw 1 false []).obj Obj.FW_STATE = 1 ∧ (tFw 1 false []).cast.sent = false) ∧
    ((tFw 1 true []).takes bulkFrame (tUp none) ∧ ((tFw 1 true []).after bulkFrame (tUp none)).cast.targets.contains 5 = true) ∧
    ((tFw 1 true []).obj Obj.FW_STATE = 1 ∧ (tFw 1 true []).cast.sent = true) ∧ tAct.grants tR Obj.FW_GO 2 ∧
    ((tFw 3 false [5]).grants tR Obj.FW_GO 3 ∧ ((tFw 3 false [5]).entry (.fwAbort tR)).casting = true) ∧
    ((tFw 3 false [5]).obj Obj.FW_STATE = 3 ∧ (tFw 3 false [5]).cast.batch ≠ []) := by
  unfold Manager.takes Manager.passes Manager.grants; decide +kernel

theorem witness_SecurityCommands :
    (tAct.readResult tR Obj.SC_NONCE = 0 ∧ tAct.rngOut = false) ∧
    (let m : Manager := { tAct with sec := { noRng := true } }; m.readResult tR Obj.SC_NONCE = 0 ∧ m.rngOut = true) ∧
    tAct.admits tR Obj.SC_APPLY 1 ∧
    (let m := (tRd 4).onDev (fun d => d.setBlob Obj.SC_OWNER (List.replicate 384 0)); m.gateReach tR Obj.SC_PROVISION true 1 = 0 ∧ m.provisionState tR = 0) ∧
    tAct.admits tR Obj.SC_DEBUG_REQ 1 ∧ ((tRd 4).admits tR Obj.SC_DEBUG_REQ 2 ∧ (tRd 4).managing = false) ∧
    (let m : Manager := { tM [(Obj.SC_DEBUG, 1)] with sec := { until_ := some 5 } }; m.obj Obj.SC_DEBUG ≠ 0 ∧ m.sec.until_.isSome = true) ∧
    ({ tSw with link := { grant := some 5 } } : Agent).link.grant.isSome = true ∧
    (tAct.admits tR Obj.SC_FUSES_SET 0x10000 ∧ fusesListed 0x10000 = true) ∧ tAct.admits tR Obj.AT_GO 1 ∧
    (tAct.admits tR Obj.PK_ROTATE 1 ∧ tAct.sec.sweep = false ∧ tAct.obj Obj.PK_PERIOD_H ≠ 0 ∧ tAct.pwr.asleep = false) ∧
    ({ tAct with sec := { sweep := true } } : Manager).sec.sweep = true ∧ tAct.sec.noRng = false ∧
    tAct.writeResult tR Obj.SC_SPDM (List.replicate 16 0) = 0 ∧ (tM [(Obj.HL_IDE, 1)]).obj Obj.HL_IDE ≠ 0 := by
  unfold Manager.admits; decide +kernel

/-- A recorder with an episode of code 0x183 whose bucket is full again. -/
def tEpisode (d : Dev) : Dev :=
  { d with log := { d.log with buckets := [(0x183, { episode := [{ ctx := 0, count := 1, first := 0, last := 0, sev := 1 }] })] } }

theorem witness_RecordsAndTelemetry :
    (tAct.onDev tEpisode).dev.bucketFull 0x183 = true ∧ (tSw.onDev tEpisode).dev.bucketFull 0x183 = true ∧ tAct.grants tR Obj.RL_COMMIT 1 ∧
    tAct.admits tR Obj.EV_CLEAR 1 ∧ tAct.admits tR Obj.EV_CLEAR 2 ∧ tAct.admits tR Obj.EV_CLEAR 3 ∧ tAct.host.perst = false ∧
    ((tHost {}).host.barrier = true ∧ (tHost {}).ideBlock = false) ∧ tAct.readResult tR Obj.ER_READ = 0 ∧
    (tM [(Obj.SC_DEBUG, 1), (Obj.RD_STATE, 2)]).readResult tR Obj.TS_READ = 0 ∧ tAct.passes tR Obj.TS_SUBSCRIBE (List.replicate 128 0) ∧
    tAct.takes telFrame (tUp none) ∧ (tAct.active = true ∧ tAct.leads = true) := by
  unfold Manager.takes Manager.passes Manager.admits Manager.grants; decide +kernel

theorem witness_ResiduesDetectChanges : (2 : Nat) = 0 ∨ (2 : Nat) = 2 := by decide
theorem witness_LexAddsFieldsAndMinimises :
    (0 ≤ (0xFE : Nat) / 256 + 0xFE / 256 ∧ 0xFF ≤ (0xFE : Nat) % 256 + 0xFE % 256) ∧
    ¬ ((0x101 : Nat) = 0xFFFF ∨ 0xFF ≤ (0x101 : Nat) / 256 + 0x101 / 256 ∨ 0xFF ≤ (0x101 : Nat) % 256 + 0x101 % 256) ∧
    (0x1FF : Nat) / 256 < 0x200 / 256 ∧ (0x101 : Nat) / 256 = 0x102 / 256 := by decide

/-- A window whose highest counter is 1500 and that holds it alone. -/
def tWin : Window := { high := 1500, bits := 1 }

theorem witness_WindowAcceptsOnce :
    (tWin.high < 1501 ∧ Window.accept (some tWin) 1501 = some { high := 1501, bits := 3 }) ∧
    (477 ≤ tWin.high ∧ tWin.high - 477 < 1024 ∧ tWin.bits.getLsbD (tWin.high - 477) = false) ∧ 1024 ≤ tWin.high - 476 ∧
    tWin.bits.getLsbD (tWin.high - 1500) = true ∧
    (let d : Dev := { tAct.dev with net := { tAct.dev.net with windows := [(slotKey 5 1 false, tWin)] } }
     d.net.keyFor (tUp none) = some 7 ∧ (tUp none).key = 7 ∧ (tUp none).intact = true ∧
      mapGet d.net.windows (slotKey 5 1 false) = some tWin ∧ Window.accept (some tWin) (tUp none).counter = none) ∧
    tAct.dev.net.keyFor { tUp none with key := 8 } ≠ some 8 := by decide +kernel

/-- The manager with the interrupt registers of the physical function. -/
def tInt (f : HostFn) : Manager := tHost { fns := [(0, f)] }

theorem witness_CausesAndMessages :
    (bitOf ((tInt { intStatus := 16 }).fnSt 0).intStatus 4 = true ∧ bitOf ((tInt {}).fnSt 0).intMask 4 = true) ∧
    (let f : HostFn := { intMask := 0, msix := [(19, 0)] }
     bitOf ((tInt f).fnSt 0).intStatus 4 = false ∧ bitOf ((tInt f).fnSt 0).intMask 4 = false ∧ ((tInt f).fnSt 0).vecMasked 4 = false) ∧
    (let f : HostFn := { intMask := 0 }; ((tInt f).fnSt 0).vecMasked 4 = true ∧ bitOf ((tInt f).fnSt 0).intMask 4 = false) ∧
    ((tInt {}).host.perst = false ∧ (tInt {}).bound 0 = true) ∧
    (let f : HostFn := { intStatus := 16, intMask := 16, msix := [(19, 0)] }
     ((tInt f).fnSt 0).intMask = 2 ^ 4 ∧ bitOf ((tInt f).fnSt 0).intStatus 4 = true ∧ ((tInt f).fnSt 0).vecMasked 4 = false) := by decide +kernel

theorem witness_RefusedRequestsHaveNoEffect :
    (objRow Obj.RD_STATE).isSome = true ∧ tAct.turn tV Obj.RD_STATE false [] = true ∧ (tAct.readResult tV Obj.RD_STATE ≠ 0 ∧ tAct.writeResult tR Obj.RD_STATE [] ≠ 0) ∧
    (¬ (tAct.grants tR Obj.LP_RUN 1 ∧ [1, 2].contains 1 = true ∧ true = false) ∧ tAct.leads = true) := by
  unfold Manager.grants; decide +kernel

/-- An agent that knows the pair of claim 9. -/
def tOld : Agent := tA [(Obj.AG_NID, 5), (Obj.AG_KIND, 0), (Obj.AG_CLAIM, 9)]

theorem witness_LowerPairsAreRefused :
    (tOld.takes stageCmd tCmd none ∧ (tOld.after stageCmd tCmd none).accepts tCmd = false) ∧
    (tOld.takes commitCmd tCmd none ∧ (tOld.after commitCmd tCmd none).accepts tCmd = false) ∧
    (tOld.takes dictCmd tCmd none ∧ (tOld.after dictCmd tCmd none).accepts tCmd = false) ∧
    (tOld.takes (dictReqFrame true) tCmd none ∧ (tOld.after (dictReqFrame true) tCmd none).accepts tCmd = false) ∧
    (((1, 5) : Nat × Nat) ≠ (1, 6) ∧ pairHigher 2 0 1 6 = true ∧ pairHigher 1 6 1 5 = true) := by
  unfold Agent.takes Agent.after; decide +kernel

/-- Switch 3 with one link of weight 1 to switch 4 at its port 2. -/
def tRoute : RouteIn := tAct.routeIn [(3 * 128 + 2, { st := .up, peerKind := .switch, peerNid := 0x20004, weight := 1, inBlueprint := true })] []

theorem witness_NextHopsFollowDistances : (tRoute.out 0 3).length = 1 ∧ (∀ o ∈ tRoute.out 0 3, o.1 < 128) ∧ (2 : Nat) < 128 := by decide +kernel

theorem witness_SecondPurgeHasNoEffect :
    ((tCtx { st := .purging }).ctx 3).st = .purging ∧ ((tCtx { st := .active }).ctx 3).st = .active ∧
    (let m : Manager := { tCtx { st := .purging } with dev := { tAct.dev with objs := [(Obj.LP_SEL_CTX, 3), (Obj.RD_STATE, 2)] } }
     m.reached tR = 3 ∧ m.grants tR Obj.CX_RELEASE 2 ∧ (m.ctx (m.reached tR)).st = .purging) := by
  unfold Manager.grants; decide +kernel

theorem witness_NumbersAreSerial :
    (let a : Agent := tA [(Obj.AG_NID, 5), (Obj.AG_KIND, 0), (Obj.AG_COMMITTED, 4)]
     a.takes commitCmd tCmd none ∧ (a.after commitCmd tCmd none).accepts tCmd = true ∧ 3 ≠ (a.after commitCmd tCmd none).obj Obj.AG_COMMITTED ∧
      newer 3 ((a.after commitCmd tCmd none).obj Obj.AG_COMMITTED) = false) ∧ newer 0 (2 ^ 32 - 1) = true := by
  unfold Agent.takes Agent.after; decide +kernel

theorem witness_DoorbellsAreOwned :
    tVf.bellsHeld 1 = false ∧ tVf.mboxOwner 8 ≠ tVf.fnCtx 1 ∧ tAct.host.doorbells.getLsbD 3 = false ∧ tAct.mboxOwner (3 / 4) = some 0 ∧
    (tHost { doorbells := 8 }).host.doorbells.getLsbD 3 = true := by decide +kernel

theorem witness_ClearsLeaveOneRecord :
    0 < tAct.dev.obj Obj.EV_FIRST_SIZE ∧ (tAct.gateReach tR Obj.EV_CLEAR true 1 = 0 ∧ tAct.gateState tR Obj.EV_CLEAR true = 0) ∧
    ((tM [(Obj.SC_MODE, 2)]).acceptedUnder tR).1 = 2 := by decide +kernel

theorem witness_InvasiveIsRefusedToTheManager :
    (tAct.admits tR Obj.SC_DEBUG_REQ 2 ∧ tAct.obj Obj.SC_DEBUG = 0 ∧ tAct.managing = true) ∧ ((tM [(Obj.SC_MODE, 1)]).acceptedUnder tR).1 ≠ 0 := by
  unfold Manager.admits; decide +kernel

theorem witness_MemoryWritesStayInPlace :
    ([1, 2] : List Byte).length = ({ space := 0, addr := sramAddr 0 0 0, size := 2 } : TileRef).size ∧ Memory.wf [] = true := by decide +kernel

theorem witness_HostWindowsLeaveTheRest :
    ∃ t, exec (.dbSet 0 0 1) (tS tAct) = .next t := ⟨_, rfl⟩

theorem witness_LocksHaveOneHolder :
    (let m := tSync { cfg := 2, holder := some 9 }
     m.host.perst = false ∧ m.host.barrier = true ∧ m.ideBlock = false ∧ m.reachesSync 0 7 = true ∧ syncKind (m.sync 7).cfg = .lock ∧
      bitOf (m.sync 7).cfg 2 = false ∧ (m.sync 7).holder = some 9 ∧ 9 ≠ m.ridOf 0) ∧
    ((tSync { cfg := 2, holder := some 0 }).sync 7).holder = some ((tSync {}).ridOf 0) ∧
    (syncKind ((tSync { cfg := 6 }).sync 7).cfg = .lock ∧ bitOf ((tSync { cfg := 6 }).sync 7).cfg 2 = true) := by decide +kernel

theorem witness_OneCommandOneMachine : ∃ t, exec .commitRetry (tS (tInst 4)) = .next t := ⟨_, rfl⟩
theorem witness_CommandsLeaveInOrder : ∃ t, step { tS tAct with pending := [.commitRetry, .loadPeriod] } = .next t := ⟨_, rfl⟩
theorem witness_EveryStepKeepsAgentsApart : mapWf (tSA tSw).agents = true ∧ (mapGet (tSA tSw).agents 9).isSome = true := by decide +kernel
theorem witness_NoStepLeavesAReplayOpen : ∃ t, (tS tAct).mgr.dev.net.replay = false ∧ step { tS tAct with pending := [.commitRetry] } = .next t :=
  ⟨_, by decide +kernel, rfl⟩
theorem witness_EveryStepKeepsMemoryCanonical :
    Memory.wf [(sramAddr 0 0 0, (1 : Byte))] = true ∧ ∃ t, step { tS tAct with pending := [.commitRetry] } = .next t := ⟨by decide +kernel, _, rfl⟩

/-! ## Well-formedness -/

def tIll0 : List Instr := [
  .lineStart (2 ^ 12) 0,
  .lineStart 0 (2 ^ 16),
  .tileStep 0 0 (some { row := 64, col := 0, mask := 0 }) 0 [],
  .tileStep 0 0 (some { row := 0, col := 64, mask := 0 }) 0 [],
  .tileStep 0 0 (some { row := 0, col := 0, product := some 64, mask := 0 }) 0 [],
  .tileStep 0 0 (some { row := 0, col := 0, mask := 2 ^ 32 }) 0 [],
  .tileStep 0 0 none (2 ^ 32) [],
  .tileStep 0 0 none 0 [2 ^ 64],
  .memoryReply (.tag 68 0) .good,
  .memoryReply (.tag 0 512) .good,
  .memoryReply (.word (.context 4096)) .good,
  .tablePatrol (.routeImage 8192) .good,
  .tablePatrol (.linkTable (2 ^ 20)) .good,
  .tablePatrol (.context 4096) .good,
  .tablePatrol (.recorder false (2 ^ 48)) .good,
  .tablePatrol (.dram 4096 0) .good,
  .tablePatrol (.archive (2 ^ 32)) .good,
  .tablePatrol (.telemetry 16) .good,
  .cellRemap (2 ^ 7),
  .lpImageWrite ⟨256, 0⟩ [],
  .lpImageWrite ⟨0, 2048⟩ [],
  .lpImageWrite ⟨0, 0x10100⟩ [],
  .lpLoad ⟨0, 0⟩ (2 ^ 8),
  .hotClear (2 ^ 13),
  .stage (2 ^ 64) { src := 0, dst := 0 } [],
  .stage 0 { src := 0, dst := 0, version := 16 } [],
  .stage 0 { src := 0, dst := 0, ctx := 4096 } [],
  .stage 0 { src := 0, dst := 0, gen := 256 } [],
  .stage 0 { src := 0, dst := 0, assoc := 65536 } [],
  .stage 0 { src := 0, dst := 0, counter := 2 ^ 64 } [],
  .stage 0 { src := 0, dst := 0, claim := some (2 ^ 64) } [],
  .stage 0 { src := 2 ^ 18, dst := 0 } [],
  .stage 0 { src := 0, dst := 2 ^ 18 } [],
  .stage 0 { src := 0, dst := 0 } (List.replicate 65537 0),
  .isolate 0 { src := 0, dst := 0 } 0 (2 ^ 18) 0,
  .setKey 0 { src := 0, dst := 0 } 0 0 (2 ^ 2) 0,
  .watchPortBad 0 (2 ^ 5),
  .watchPortGood 0 (some (2 ^ 5)) false 0,
  .withdraw 0 { src := 0, dst := 0 } 0 0 0 [2 ^ 32],
  .hbReply (some (2 ^ 64)) { src := 0, dst := 0 } 0 0 none]
def tIll1 : List Instr := [
  .scribeWatchdog 0 [⟨256, 0⟩],
  .inputStreamEntry 0 (.adjust [(0, 2 ^ 16)]) .perst,
  .inputStreamEntry 0 (.adjust [(1, 0), (0, 0)]) .perst,
  .inputStreamEntry 0 (.centre (some 8192)) .perst,
  .inputStreamEntry 0 (.hook (2 ^ 32) []) .perst,
  .inputStreamEntry 0 (.seed 8192 0) .perst,
  .inputStreamEntry 0 (.seed 0 (2 ^ 64)) .perst,
  .inputStreamEntry 0 (.runEnd 4096 0) .perst,
  .inputStreamEntry 0 (.runEnd 0 (2 ^ 32)) .perst,
  .inputStreamEntry 0 (.gained 8 [] [] false) .perst,
  .inputStreamEntry 0 (.gained 0 [(0, 2 ^ 32)] [] false) .perst,
  .inputStreamEntry 0 (.gained 0 [] [8192] false) .perst,
  .inputStreamEntry 0 (.silent [8192]) .perst,
  .triadDigest 0 ⟨2 ^ 32, 0⟩ 0,
  .triadDigest 0 ⟨0, 2 ^ 64⟩ 0,
  .inputStreamEntry 0 (.decision (2 ^ 32) 0 [] false) .perst,
  .inputStreamEntry 0 (.claim (2 ^ 64) 0) .perst,
  .inputStreamEntry 0 (.claim 0 (2 ^ 18)) .perst,
  .inputStreamEntry 0 (.input 0 0) (.cellRemap 128),
  .triadHeartbeatMiss 3,
  .triadPresenceLoss 2,
  .descPublish 0 (List.replicate 257 0) false,
  .ltSave 0 (List.replicate 16385 0),
  .agentReset 0 6,
  .dictRead ⟨0, 0⟩ (2 ^ 24),
  .dvReset ⟨0, 0⟩ 0 { pos := 16 },
  .dvReset ⟨0, 0⟩ 0 { slot := 4 },
  .dvReset ⟨0, 0⟩ 0 { peers := [(0, 2 ^ 18)] },
  .dvReset ⟨0, 0⟩ 0 { peers := [(1, 0), (0, 0)] },
  .dvReset ⟨0, 0⟩ 0 { running := some 3 },
  .dvReset ⟨0, 0⟩ 0 { saved := 16 },
  .dvReset ⟨0, 0⟩ 0 { trainMs := 2 ^ 32 },
  .dvReset ⟨0, 0⟩ 0 { ports := [(0, 2 ^ 32)] },
  .dwGo 256 0 false,
  .dwGo 0 2048 false,
  .dbSet 0 4 0,
  .soCfg 0 8192 0,
  .dqTail 0 0 [(1, []), (0, [])],
  .registerWrite 0 (2 ^ 3) 0 0 0,
  .laneFailure (2 ^ 6) 0,
  .keyOffer none { src := 0, dst := 0 } 0 false 0 0 ⟨0, 0⟩ 0 0 false [2 ^ 7] 0,
  .keyOffer none { src := 0, dst := 0 } 2 false 0 0 ⟨0, 1⟩ 0 0 false [] 0,
  .timed 0 { src := 0, dst := 0 } 0 (2 ^ 48) 0,
  .readyToleranceWrite ⟨0, 0⟩ 16 [],
  .bulkReport { src := 0, dst := 0 } 0 0 0 false [(2 ^ 16, 0)],
  .bulkReport { src := 0, dst := 0 } 0 0 0 false [(0, 2 ^ 16)],
  .scSpdm ⟨0, 0⟩ [] (List.replicate 4097 0) none,
  .scSpdm ⟨0, 0⟩ [] [] (some (2 ^ 2)),
  .event { src := 0, dst := 0 } (List.replicate 2049 0),
  .telemetry { src := 0, dst := 0 } 0 0 false [{ group := 16, ctx := 0, nid := 0, first := 0, words := [] }]]
def tIll2 : List Instr := [
  .telemetry { src := 0, dst := 0 } 0 0 false [{ group := 0, ctx := 4096, nid := 0, first := 0, words := [] }],
  .telemetry { src := 0, dst := 0 } 0 0 false [{ group := 0, ctx := 0, nid := 2 ^ 18, first := 0, words := [] }],
  .telemetry { src := 0, dst := 0 } 0 0 false [{ group := 0, ctx := 0, nid := 0, first := 65536, words := [] }],
  .telemetry { src := 0, dst := 0 } 0 0 false [{ group := 0, ctx := 0, nid := 0, first := 0, words := [2 ^ 64] }],
  .domainStateEntry none 96 false,
  .pwrWakeBudget ⟨0, 0⟩ 9 [],
  .triadHeartbeat [(3, false)],
  .interleaveWindow [(0, 2 ^ 32)],
  .interleaveWindow [(64, 0)],
  .moduleStart { highest := 2 ^ 64 },
  .agentStart 0 true true true 0 0 32,
  .referenceRestored none [(0, 2 ^ 32)],
  .referenceRestored none [(1, 0), (1, 0)]]

/-- Each check of well-formedness refuses a command that fails it alone. -/
theorem test_ill_formed : (tIll0 ++ tIll1 ++ tIll2).all (fun i => !i.wf) = true := by decide +kernel

/-- A well-formed command of each shape passes. -/
theorem test_well_formed : ([.perst, .cellRemap 67, .lineStart 4095 65535, .tileStep 0 0 (some { row := 63, col := 63, mask := 1 }) 0 [5],
    .dictRead ⟨255, 2047⟩ 0x100001, .dictRead ⟨0, 0x100FF⟩ 0, .hello { src := 0x3FFFE, dst := 0x3FFFF, assoc := 0 } [], .moduleStart { peers := [(1, 2), (2, 3)] },
    .memoryReply (.tag 67 511) .good] : List Instr).all Instr.wf = true := by decide +kernel

/-! ## Worked examples of the spec -/

/-- The four switches of spec/03 "Worked example: four switches through one cell". -/
def tFour : RouteIn :=
  let up := fun (peer w : Nat) => ({ st := .up, peerKind := .switch, peerNid := 0x20000 + peer, weight := w } : LinkEntry)
  { adj := [], lex := false, lfa := true, sw := [0, 1, 2, 3]
    ls := [(0, up 1 1), (1, up 2 4), (2, up 3 4), (128, up 0 1), (129, up 2 2), (256, up 0 4), (257, up 1 2), (258, up 3 1), (384, up 0 4), (385, up 2 1)] }
def tPass : Pass := tFour.mkPass 0 [] (fun _ => false)

/-- The distances D of the example. -/
theorem test_four_switch_distances :
    [0, 1, 2, 3].map (fun x => [0, 1, 2, 3].map (fun y => distAt tPass.d x y)) =
      [[0, 1, 3, 4], [1, 0, 2, 3], [3, 2, 0, 1], [4, 3, 1, 0]] := by decide +kernel

/-- NH and ALT of switch 0 (spec/05 "Worked example: alternates of switch 0 in the four-switch fabric"). -/
theorem test_four_switch_alternates :
    [1, 2, 3].map (fun b => ((tFour.nh tPass 0 [b]).toNat, (tFour.alt tPass 0 [b] (tFour.nh tPass 0 [b])).toNat)) =
      [(1, 6), (1, 6), (5, 2)] := by decide +kernel

/-- A path-count pair of the example of spec/04. -/
def tPair (metric count : Nat) : Nat := metric * 65536 + count

/-- Products and the sum for block 3, and the saturation (spec/04 "Worked example: path counts, saturation and a caught fault"). -/
theorem test_path_counts :
    semTimes 2 (tPair 1 1) (tPair 3 1) = tPair 4 1 ∧ semTimes 2 (tPair 4 1) (tPair 1 1) = tPair 5 1 ∧
    semPlus 2 (semPlus 2 (tPair 4 1) (tPair 5 1)) (tPair 4 1) = tPair 4 2 ∧ semTimes 2 (tPair 0xFFF0 1) (tPair 0x20 1) = tPair 0xFFFF 0 ∧
    upsetShows 1 (tPair 4 1) (tPair 6 1) = true := by decide +kernel

/-- The lock of spec/12 "Worked example: a contested lock, then a ticket queue". -/
def tLock : Manager :=
  { tAct with sl := { ctxs := [(0x2A0, { st := .active, vf := 12, syncLo := 1024, syncN := 32 })] }
              host := { barrier := true, numVfs := 12, rid := 0x4100, syncs := [(1030, syncInit 0xA), (1031, syncInit 0xE)] } }

/-- What the commands of a list leave, run one after the other. -/
def tRunAll (s : State) (cs : List Instr) : Option State := cs.foldl (fun o c => o.bind (fun s => nextOf (exec c s))) (some s)

theorem test_contested_lock :
    (tRunAll (tS tLock) [.lockAcq 12 1030, .lockAcq 0 1030, .soOpLockRelease 12 1030, .lockAcq 0 1030]).map (fun s => s.mgr.host.readBack) =
      some [0, 0x1410C, 0] := by decide +kernel

theorem test_ticket_queue :
    (tRunAll (tS tLock) [.lockTicket 12 1031, .lockTicket 0 1031, .lockTicket 12 1031, .soOpLockRelease 12 1031]).map
      (fun s => (s.mgr.host.readBack, (s.mgr.sync 1031).serving)) = some ([0, 1, 2], 1) := by decide +kernel

/-- Releasing after the waiting thread's function has been reset: its ticket is passed over. -/
theorem test_void_ticket :
    (tRunAll (tS tLock) [.lockTicket 12 1031, .lockTicket 0 1031, .lockTicket 12 1031, .soOpLockRelease 12 1031, .flr 12, .soOpLockRelease 0 1031]).map
      (fun s => ((s.mgr.sync 1031).serving, (s.mgr.sync 1031).tickets)) = some (3, []) := by decide +kernel

/-- The exchange of spec/02 "Worked example: placing an agent's event in manager time". -/
def tExchange : Exchange := { t1 := 1000000000, t2 := 5400012300, t3 := 5400013100, t4 := 1000020000 }
theorem test_time_map : tExchange.offset = 4400002700 ∧ tExchange.boundAt tExchange.t4 = 9604 := by decide +kernel

/-- The reads of spec/11 "Worked example: changing the escalation pair". -/
theorem test_staged_change :
    (tRunAll (tS tAct) [.dictWrite tR 0x511001 [6], .dictWrite tR 0x511002 [8, 7, 0, 0], .dictRead tR 0x511001, .dictRead tR 0x5110FF, .rsCommit tR 1,
        .dictWrite tR 0x511001 [5], .dictRead tR 0x5110FF, .dictRead tR 0x511001]).map (fun s => s.mgr.host.answers.map (fun a => (a.result, a.data))) =
      some [(0, []), (0, []), (0, [6]), (0, [4, 16, 14, 0, 0, 3, 16, 14, 0, 0, 3, 128, 81, 1, 0]), (0, []), (0, []),
            (0, [6, 8, 7, 0, 0, 3, 16, 14, 0, 0, 3, 128, 81, 1, 0]), (0, [5])] := by decide +kernel

end Sys2Proof.Machine
end

section
/-! SUPPORT. The operations of the device and of the manager module leave the mark that an entry is being applied
(`Net.replay`) as it is, or clear it. Only `replayInput` sets it, and clears it again.
A proof says `-implicitDefEqProofs` where the kernel would otherwise evaluate the key of an object to see an equation by unfolding. -/

namespace Sys2Proof.Machine

@[simp] theorem Manager.dev_ite (c : Prop) [Decidable c] (m n : Manager) :
    (if c then m else n).dev = if c then m.dev else n.dev := apply_ite ..
@[simp] theorem Dev.replay_ite (c : Prop) [Decidable c] (d e : Dev) :
    (if c then d else e).net.replay = if c then d.net.replay else e.net.replay := apply_ite (fun d : Dev => d.net.replay) ..
@[simp] theorem Manager.foldl_dev {α : Type} (f : Manager → α → Manager) (h : ∀ m x, (f m x).dev = m.dev) (l : List α) (m : Manager) :
    (l.foldl f m).dev = m.dev :=
  List.foldlRecOn (motive := fun n : Manager => n.dev = m.dev) l f rfl fun n e x _ => (h n x).trans e
@[simp] theorem Manager.foldl_replay {α : Type} (f : Manager → α → Manager) (h : ∀ m x, (f m x).dev.net.replay = m.dev.net.replay)
    (l : List α) (m : Manager) : (l.foldl f m).dev.net.replay = m.dev.net.replay :=
  List.foldlRecOn (motive := fun n : Manager => n.dev.net.replay = m.dev.net.replay) l f rfl fun n e x _ => (h n x).trans e
@[simp] theorem Dev.foldl_replay {α : Type} (f : Dev → α → Dev) (h : ∀ d x, (f d x).net.replay = d.net.replay) (l : List α) (d : Dev) :
    (l.foldl f d).net.replay = d.net.replay :=
  List.foldlRecOn (motive := fun c : Dev => c.net.replay = d.net.replay) l f rfl fun c e x _ => (h c x).trans e
@[simp] theorem Net.replay_ite (c : Prop) [Decidable c] (n k : Net) :
    (if c then n else k).replay = if c then n.replay else k.replay := apply_ite ..

/-! ### Devices -/

@[simp] theorem Net.startGrace_replay (n : Net) (h : Hdr) (now : Nat) : (n.startGrace h now).replay = n.replay := by
  unfold Net.startGrace; simp
@[simp] theorem Dev.commitObjs_replay (d : Dev) (keys : List Nat) : (d.commitObjs keys).net.replay = d.net.replay :=
  Dev.foldl_replay _ (fun _ _ => by simp) _ _
@[simp] theorem Dev.takeSeq_replay (d : Dev) : d.takeSeq.net.replay = d.net.replay := by rfl
@[simp] theorem Dev.ringPut_replay (d : Dev) (r : EvRec) : (d.ringPut r).net.replay = d.net.replay := by rfl
@[simp] theorem Dev.padFor_replay (d : Dev) (len : Nat) : (d.padFor len).net.replay = d.net.replay := by
  unfold Dev.padFor; simp
@[simp] theorem Dev.writeRec_replay (d : Dev) (sev code ctx : Nat) (payload : List Byte) :
    (d.writeRec sev code ctx payload).net.replay = d.net.replay := by
  unfold Dev.writeRec; simp
@[simp] theorem Dev.record_replay (d : Dev) (sev code ctx : Nat) (payload : List Byte) :
    (d.record sev code ctx payload).net.replay = d.net.replay := by
  unfold Dev.record; simp
@[simp] theorem Dev.event_replay (d : Dev) (code ctx : Nat) : (d.event code ctx).net.replay = d.net.replay := by
  unfold Dev.event; simp
@[simp] theorem Dev.eventOpen_replay (d : Dev) : d.eventOpen.net.replay = d.net.replay := by
  unfold Dev.eventOpen; simp
@[simp] theorem Dev.sendUnder_replay (d : Dev) (pk : Nat) (f : Sent) : (d.sendUnder pk f).net.replay = d.net.replay := by
  unfold Dev.sendUnder; simp
@[simp] theorem Dev.send_replay (d : Dev) (f : Sent) : (d.send f).net.replay = d.net.replay := by
  unfold Dev.send; simp
@[simp] theorem Dev.unhold_replay (d : Dev) (pk : Nat) : (d.unhold pk).net.replay = d.net.replay := by
  unfold Dev.unhold; simp
@[simp] theorem Dev.sendTo_replay (d : Dev) (dst assoc : Nat) (m : Msg) : (d.sendTo dst assoc m).net.replay = d.net.replay := by
  unfold Dev.sendTo; simp
@[simp] theorem Dev.dropFull_replay (d : Dev) (k : FrameKind) : (d.dropFull k).net.replay = d.net.replay := by rfl
@[simp] theorem Dev.learnMac_replay (d : Dev) (h : Hdr) : (d.learnMac h).net.replay = d.net.replay := by
  unfold Dev.learnMac; simp
@[simp] theorem Dev.verified_replay (d : Dev) (h : Hdr) (w : Window) : (d.verified h w).net.replay = d.net.replay := by
  unfold Dev.verified; simp

@[simp] theorem Dev.ingressPlain_replay (d : Dev) (k : FrameKind) (h : Hdr) (offered : Option Nat) :
    (d.ingressPlain k h offered).dev.net.replay = d.net.replay := by
  unfold Dev.ingressPlain
  repeat' split
  all_goals simp

@[simp] theorem Dev.ingressKeyed_replay (d : Dev) (k : FrameKind) (h : Hdr) (gen : Nat → Option Nat) (offered : Option Nat) :
    (d.ingressKeyed k h gen offered).dev.net.replay = d.net.replay := by
  unfold Dev.ingressKeyed
  dsimp only
  repeat' split
  all_goals simp

@[simp] theorem Dev.ingress_replay (d : Dev) (k : FrameKind) (h : Hdr) (gen : Nat → Option Nat) (offered : Option Nat) :
    (d.ingress k h gen offered).dev.net.replay = d.net.replay := by
  unfold Dev.ingress
  dsimp only
  repeat' split
  all_goals simp

@[simp] theorem Dev.burn_replay (d : Dev) (v : Nat) : (d.burn v).net.replay = d.net.replay := by rfl

/-! ### The host side -/

@[simp] theorem Manager.setObj_replay (m : Manager) (k v : Nat) : (m.setObj k v).dev.net.replay = m.dev.net.replay := by rfl
@[simp] theorem Manager.bump_replay (m : Manager) (k : Nat) : (m.bump k).dev.net.replay = m.dev.net.replay := by rfl
@[simp] theorem Manager.bumpBy_replay (m : Manager) (k n : Nat) : (m.bumpBy k n).dev.net.replay = m.dev.net.replay := by rfl
@[simp] theorem Manager.pushEntry_replay (m : Manager) (e : StreamEntry) : (m.pushEntry e).dev.net.replay = m.dev.net.replay := by
  unfold Manager.pushEntry; dsimp only; split <;> simp
@[simp] theorem Manager.putEntry_replay (m : Manager) (e : StreamEntry) : (m.putEntry e).dev.net.replay = m.dev.net.replay := by
  unfold Manager.putEntry; simp
@[simp] theorem Manager.entry_replay (m : Manager) (i : Instr) : (m.entry i).dev.net.replay = m.dev.net.replay := by
  unfold Manager.entry; simp
@[simp] theorem Manager.afterRecord_dev (m : Manager) (d : Dev) (c : Nat) : (m.afterRecord d c).dev = d := by
  unfold Manager.afterRecord; simp
@[simp] theorem Manager.eventWith_replay (m : Manager) (code c : Nat) (payload : List Byte) :
    (m.eventWith code c payload).dev.net.replay = m.dev.net.replay := by
  unfold Manager.eventWith; simp
@[simp] theorem Manager.event_replay (m : Manager) (code c : Nat) : (m.event code c).dev.net.replay = m.dev.net.replay := by
  unfold Manager.event; simp
@[simp] theorem Manager.eventOf_replay (m : Manager) (code c : Nat) (vals : List Nat) :
    (m.eventOf code c vals).dev.net.replay = m.dev.net.replay := by
  unfold Manager.eventOf; simp

@[simp] theorem Manager.dbSet_replay (m : Manager) (bit : Nat) : (m.dbSet bit).dev.net.replay = m.dev.net.replay := by
  unfold Manager.dbSet
  dsimp only
  repeat' split
  all_goals simp -implicitDefEqProofs

@[simp] theorem Manager.dbClear_dev (m : Manager) (bit : Nat) : (m.dbClear bit).dev = m.dev := by rfl
@[simp] theorem Manager.clearBells_dev (m : Manager) (c : Nat) : (m.clearBells c).dev = m.dev := by
  unfold Manager.clearBells; simp
@[simp] theorem Manager.fire_replay (m : Manager) (n : Nat) : (m.fire n).dev.net.replay = m.dev.net.replay := by
  unfold Manager.fire; split <;> simp
@[simp] theorem Manager.syncPut_replay (m : Manager) (n v : Nat) : (m.syncPut n v).dev.net.replay = m.dev.net.replay := by
  unfold Manager.syncPut; simp
@[simp] theorem Manager.syncSignal_replay (m : Manager) (n mode : Nat) : (m.syncSignal n mode).dev.net.replay = m.dev.net.replay := by
  unfold Manager.syncSignal; dsimp only; split <;> simp
@[simp] theorem Manager.syncWaitTake_dev (m : Manager) (n mode : Nat) : (m.syncWaitTake n mode).dev = m.dev := by
  unfold Manager.syncWaitTake; simp
@[simp] theorem Manager.voidLocks_replay (m : Manager) (rid : Nat) : (m.voidLocks rid).dev.net.replay = m.dev.net.replay := by
  unfold Manager.voidLocks; simp
@[simp] theorem Manager.answerProxy_replay (m : Manager) (r : Req) (result : Nat) (data : List Byte) :
    (m.answerProxy r result data).dev.net.replay = m.dev.net.replay := by
  unfold Manager.answerProxy; simp

/-! ### Power domains -/

@[simp] theorem Dev.setDomain_replay (d : Dev) (i st : Nat) : (d.setDomain i st).net.replay = d.net.replay := by rfl
@[simp] theorem Dev.rest_replay (d : Dev) (i : Nat) (permits : List Nat) : (d.rest i permits).net.replay = d.net.replay := by
  unfold Dev.rest; simp
@[simp] theorem Dev.wakeDomain_replay (d : Dev) (i : Nat) : (d.wakeDomain i).net.replay = d.net.replay := by
  unfold Dev.wakeDomain; simp
@[simp] theorem Dev.awake_replay (d : Dev) (i : Nat) : (d.awake i).net.replay = d.net.replay := by
  unfold Dev.awake; simp
@[simp] theorem Dev.wakeDeeper_replay (d : Dev) : d.wakeDeeper.net.replay = d.net.replay := by
  unfold Dev.wakeDeeper; simp
@[simp] theorem Dev.wakeEngine_replay (d : Dev) : d.wakeEngine.net.replay = d.net.replay := by
  unfold Dev.wakeEngine; simp
@[simp] theorem Manager.wakeEngine_replay (m : Manager) : m.wakeEngine.dev.net.replay = m.dev.net.replay := by
  unfold Manager.wakeEngine; simp

/-! ### The fabric -/

@[simp] theorem Manager.reflag_dev (m : Manager) (sw : Nat) : (m.reflag sw).dev = m.dev := by rfl

/-! ### Table memory -/

@[simp] theorem Manager.writeLinks_dev (m : Manager) (a : Nat) (bs : List Byte) : (m.writeLinks a bs).dev = m.dev := by rfl
@[simp] theorem Manager.tableWrite_dev (m : Manager) (a : Nat) (bs : List Byte) : (m.tableWrite a bs).dev = m.dev := by rfl

/-! ### The line engine -/

@[simp] theorem Manager.countPages_dev (m : Manager) (pages : List Nat) : (m.countPages pages).dev = m.dev := by rfl
@[simp] theorem Manager.derivePageKeys_dev (m : Manager) : m.derivePageKeys.dev = m.dev := by rfl
@[simp] theorem Manager.setLine_dev (m : Manager) (c : Nat) (l : LineRun) : (m.setLine c l).dev = m.dev := by
  unfold Manager.setLine; split <;> rfl
@[simp] theorem Manager.takeOwed_dev (m : Manager) (cell : Nat) : (m.takeOwed cell).dev = m.dev := by
  unfold Manager.takeOwed; simp

@[simp] theorem Manager.resume_dev (m : Manager) (cell : Nat) : (m.resume cell).dev = m.dev := by
  unfold Manager.resume
  dsimp only
  repeat' split
  all_goals simp

@[simp] theorem Manager.preempt_dev (m : Manager) (cell : Nat) : (m.preempt cell).1.dev = m.dev := by
  unfold Manager.preempt
  dsimp only
  repeat' split
  all_goals simp

@[simp] theorem Manager.settleOwed_dev (m : Manager) (cell : Nat) : (m.settleOwed cell).dev = m.dev := by
  unfold Manager.settleOwed; simp
@[simp] theorem Manager.stockStart_dev (m : Manager) : m.stockStart.dev = m.dev := by
  unfold Manager.stockStart; simp
@[simp] theorem Manager.stockEnd_dev (m : Manager) : m.stockEnd.dev = m.dev := by
  unfold Manager.stockEnd; simp
@[simp] theorem Manager.hookEnded_dev (m : Manager) (status : Nat) : (m.hookEnded status).dev = m.dev := by rfl
@[simp] theorem Manager.endRun_replay (m : Manager) (c status : Nat) : (m.endRun c status).dev.net.replay = m.dev.net.replay := by
  unfold Manager.endRun; simp -implicitDefEqProofs
@[simp] theorem Manager.checkRun_replay (m : Manager) (c : Nat) : (m.checkRun c).dev.net.replay = m.dev.net.replay := by
  unfold Manager.checkRun; split <;> simp

@[simp] theorem Manager.endLine_replay (m : Manager) (c id status : Nat) : (m.endLine c id status).dev.net.replay = m.dev.net.replay := by
  unfold Manager.endLine
  repeat' split
  all_goals simp

@[simp] theorem Manager.endAllLines_replay (m : Manager) (c status : Nat) : (m.endAllLines c status).dev.net.replay = m.dev.net.replay := by
  unfold Manager.endAllLines; split <;> simp
@[simp] theorem Manager.markRetiring_dev (m : Manager) (p : Nat) : (m.markRetiring p).dev = m.dev := by
  unfold Manager.markRetiring; simp
@[simp] theorem Manager.carryCounts_dev (m : Manager) (c : Nat) : (m.carryCounts c).dev = m.dev := by rfl
@[simp] theorem Manager.startRun_replay (m : Manager) (c : Nat) (hook : Bool) : (m.startRun c hook).dev.net.replay = m.dev.net.replay := by
  unfold Manager.startRun; split <;> simp -implicitDefEqProofs
@[simp] theorem Manager.startHook_replay (m : Manager) : m.startHook.dev.net.replay = m.dev.net.replay := by
  unfold Manager.startHook; simp
@[simp] theorem Manager.hookDue_replay (m : Manager) : m.hookDue.dev.net.replay = m.dev.net.replay := by
  unfold Manager.hookDue; simp

/-! ### Messages and requests -/

@[simp] theorem Manager.drawTile_replay (m : Manager) : m.drawTile.dev.net.replay = m.dev.net.replay := by rfl
@[simp] theorem Manager.stockSteps_replay (m : Manager) : m.stockSteps.dev.net.replay = m.dev.net.replay := by rfl
@[simp] theorem Manager.lag_replay (m : Manager) : m.lag.dev.net.replay = m.dev.net.replay := by rfl
@[simp] theorem Manager.followPeer_replay (m : Manager) : m.followPeer.dev.net.replay = m.dev.net.replay := by rfl
@[simp] theorem Manager.sendAgent_replay (m : Manager) (nid : Nat) (x : Msg) : (m.sendAgent nid x).dev.net.replay = m.dev.net.replay := by
  unfold Manager.sendAgent; simp
@[simp] theorem Manager.sendOffer_replay (m : Manager) (o : Offer) : (m.sendOffer o).dev.net.replay = m.dev.net.replay := by
  unfold Manager.sendOffer; simp
@[simp] theorem Manager.drawSalt_replay (m : Manager) (who : Nat) : (m.drawSalt who).1.dev.net.replay = m.dev.net.replay := by rfl
@[simp] theorem Manager.newSalts_dev (m : Manager) (who : Nat) : (m.newSalts who).dev = m.dev := by rfl
@[simp] theorem Manager.offerGroupKey_replay (m : Manager) (assoc : Nat) (phase : Bool) (key : Key) (nid : Nat) :
    (m.offerGroupKey assoc phase key nid).dev.net.replay = m.dev.net.replay := by
  unfold Manager.offerGroupKey; simp
@[simp] theorem Manager.drawGroupKey_replay (m : Manager) (assoc : Nat) (now : Bool) :
    (m.drawGroupKey assoc now).1.dev.net.replay = m.dev.net.replay := by
  unfold Manager.drawGroupKey; simp
@[simp] theorem Manager.emit_replay (m : Manager) (f : Sent) : (m.emit f).dev.net.replay = m.dev.net.replay := by
  unfold Manager.emit; simp
@[simp] theorem Manager.putCmds_replay (m : Manager) (fs : List Sent) : (m.putCmds fs).dev.net.replay = m.dev.net.replay := by
  unfold Manager.putCmds; simp
@[simp] theorem Manager.drainCmds_replay (m : Manager) : m.drainCmds.dev.net.replay = m.dev.net.replay := by
  unfold Manager.drainCmds; simp
@[simp] theorem Manager.sendCmd_replay (m : Manager) (dst assoc ctx gen : Nat) (x : Msg) :
    (m.sendCmd dst assoc ctx gen x).dev.net.replay = m.dev.net.replay := by
  unfold Manager.sendCmd; simp
@[simp] theorem Manager.sendReq_replay (m : Manager) (p : Proxied) (data : List Byte) :
    (m.sendReq p data).dev.net.replay = m.dev.net.replay := by
  unfold Manager.sendReq; simp
@[simp] theorem Manager.sendDue_replay (m : Manager) : m.sendDue.dev.net.replay = m.dev.net.replay :=
  Manager.foldl_replay _ (fun _ _ => by split <;> simp) _ _
@[simp] theorem Manager.cmdAgent_replay (m : Manager) (nid : Nat) (x : Msg) : (m.cmdAgent nid x).dev.net.replay = m.dev.net.replay := by
  unfold Manager.cmdAgent; simp
@[simp] theorem Manager.unlisted_replay (m : Manager) (r : Req) (key : Nat) : (m.unlisted r key).dev.net.replay = m.dev.net.replay := by
  unfold Manager.unlisted; simp

@[simp] theorem Manager.cmd_replay (m : Manager) (i : Instr) (r : Req) (key v : Nat) (listed : List Nat) (busy : Bool)
    (eff : Manager → Nat → Manager) (h : ∀ n c, (eff n c).dev.net.replay = n.dev.net.replay) :
    (m.cmd i r key v listed busy eff).dev.net.replay = m.dev.net.replay := by
  obtain ⟨_, -, e⟩ | ⟨-, e⟩ | ⟨-, e⟩ | ⟨-, -, -, e⟩ := m.cmd_cases i r key v listed busy eff <;> rw [e] <;> simp [h]

@[simp] theorem Manager.hostWrite_replay (m : Manager) (i : Instr) (r : Req) (key : Nat) (data : List Byte) (busy : Bool)
    (eff : Manager → Nat → Manager) (h : ∀ n c, (eff n c).dev.net.replay = n.dev.net.replay) :
    (m.hostWrite i r key data busy eff).dev.net.replay = m.dev.net.replay := by
  obtain ⟨_, -, e⟩ | e | e := m.hostWrite_cases i r key data busy eff <;> rw [e] <;> simp [h]

@[simp] theorem Manager.takeSnapshot_dev (m : Manager) : m.takeSnapshot.dev = m.dev := by rfl
@[simp] theorem Manager.windowOpens_replay (m : Manager) : m.windowOpens.dev.net.replay = m.dev.net.replay := by
  unfold Manager.windowOpens; simp
@[simp] theorem Manager.snapshotNow_replay (m : Manager) : m.snapshotNow.dev.net.replay = m.dev.net.replay := by
  unfold Manager.snapshotNow; simp
@[simp] theorem Manager.dropComp_dev (m : Manager) : m.dropComp.dev = m.dev := by
  unfold Manager.dropComp; simp
@[simp] theorem Manager.reseed_replay (m : Manager) (k : Nat) : (m.reseed k).dev.net.replay = m.dev.net.replay := by
  unfold Manager.reseed; simp
@[simp] theorem Manager.setHeld_replay (m : Manager) (h : SMap (List Nat)) : (m.setHeld h).dev.net.replay = m.dev.net.replay := by rfl
@[simp] theorem Manager.hold_replay (m : Manager) (e : Nat) (keys : List Nat) : (m.hold e keys).dev.net.replay = m.dev.net.replay := by rfl
@[simp] theorem Manager.carveDone_replay (m : Manager) (tag result c : Nat) :
    (m.carveDone tag result c).dev.net.replay = m.dev.net.replay := by
  unfold Manager.carveDone; simp
@[simp] theorem Manager.sendReady_replay (m : Manager) (e : Nat) : (m.sendReady e).dev.net.replay = m.dev.net.replay := by
  unfold Manager.sendReady; simp
@[simp] theorem Manager.announceReady_replay (m : Manager) (e : Nat) : (m.announceReady e).dev.net.replay = m.dev.net.replay := by
  unfold Manager.announceReady; simp
@[simp] theorem Manager.purgeStart_replay (m : Manager) (c : Nat) : (m.purgeStart c).dev.net.replay = m.dev.net.replay := by
  unfold Manager.purgeStart; simp
@[simp] theorem Manager.drainCheck_replay (m : Manager) (c : Nat) : (m.drainCheck c).dev.net.replay = m.dev.net.replay := by
  unfold Manager.drainCheck; simp

/-! ### Units and triads -/

@[simp] theorem Manager.seeClaim_replay (m : Manager) (c n : Nat) : (m.seeClaim c n).dev.net.replay = m.dev.net.replay := by
  unfold Manager.seeClaim; simp
@[simp] theorem Manager.impState_replay (m : Manager) : m.impState.dev.net.replay = m.dev.net.replay := by rfl
@[simp] theorem Manager.phase_replay (m : Manager) (n : Nat) : (m.phase n).dev.net.replay = m.dev.net.replay := by rfl
@[simp] theorem Manager.abandon_replay (m : Manager) : m.abandon.dev.net.replay = m.dev.net.replay := by rfl
@[simp] theorem Manager.startResync_replay (m : Manager) (src st : Nat) : (m.startResync src st).dev.net.replay = m.dev.net.replay := by
  unfold Manager.startResync; simp
@[simp] theorem Manager.standDown_replay (m : Manager) : m.standDown.dev.net.replay = m.dev.net.replay := by
  unfold Manager.standDown; simp
@[simp] theorem Manager.followMate_replay (m : Manager) (slot c : Nat) : (m.followMate slot c).dev.net.replay = m.dev.net.replay := by rfl

@[simp] theorem Manager.meetPair_replay (m : Manager) (c n : Nat) : (m.meetPair c n).dev.net.replay = m.dev.net.replay := by
  unfold Manager.meetPair
  dsimp only
  repeat' split
  all_goals simp

@[simp] theorem Manager.release_replay (m : Manager) : m.release.dev.net.replay = m.dev.net.replay := by
  unfold Manager.release; simp
@[simp] theorem Manager.notMember_replay (m : Manager) (k : Nat) : (m.notMember k).dev.net.replay = m.dev.net.replay := by rfl
@[simp] theorem Manager.stepAside_replay (m : Manager) : m.stepAside.dev.net.replay = m.dev.net.replay := by
  unfold Manager.stepAside; split <;> simp
@[simp] theorem Manager.yieldTo_replay (m : Manager) (cause : Nat) : (m.yieldTo cause).dev.net.replay = m.dev.net.replay := by
  unfold Manager.yieldTo; split <;> simp
@[simp] theorem Manager.leaveService_replay (m : Manager) : m.leaveService.dev.net.replay = m.dev.net.replay := by rfl
@[simp] theorem Manager.leaveTriad_replay (m : Manager) : m.leaveTriad.dev.net.replay = m.dev.net.replay := by
  unfold Manager.leaveTriad; simp
@[simp] theorem Manager.moduleFault_replay (m : Manager) : m.moduleFault.dev.net.replay = m.dev.net.replay := by
  unfold Manager.moduleFault; simp

/-! ### Carves -/

@[simp] theorem Manager.carveOut_replay (m : Manager) (result c short : Nat) :
    (m.carveOut result c short).dev.net.replay = m.dev.net.replay := by rfl
@[simp] theorem Manager.freeCtx_replay (m : Manager) (c : Nat) : (m.freeCtx c).dev.net.replay = m.dev.net.replay := by
  unfold Manager.freeCtx; simp
@[simp] theorem Manager.offerGroup_replay (m : Manager) (c : Nat) (nids : List Nat) :
    (m.offerGroup c nids).dev.net.replay = m.dev.net.replay := by
  unfold Manager.offerGroup; simp
@[simp] theorem Manager.sendKeys_replay (m : Manager) (c gen : Nat) (eps : List Nat) :
    (m.sendKeys c gen eps).dev.net.replay = m.dev.net.replay := by
  unfold Manager.sendKeys; simp
@[simp] theorem Manager.grantCarve_replay (m : Manager) (q : CarveReq) (c : Nat) (eps : List Nat) (result : Nat) (quota : Quota)
    (sealIdx : List Nat) : (m.grantCarve q c eps result quota sealIdx).dev.net.replay = m.dev.net.replay := by
  unfold Manager.grantCarve; simp
@[simp] theorem Manager.queueCarve_replay (m : Manager) (q : CarveReq) (c : Nat) :
    (m.queueCarve q c).dev.net.replay = m.dev.net.replay := by
  unfold Manager.queueCarve; simp
@[simp] theorem Manager.grantQueued_replay (m : Manager) (q : QueuedCarve) (centre : Option Nat) :
    (m.grantQueued q centre).dev.net.replay = m.dev.net.replay := by
  unfold Manager.grantQueued; split <;> simp
@[simp] theorem Manager.retryCarve_replay (m : Manager) (q : QueuedCarve) : (m.retryCarve q).dev.net.replay = m.dev.net.replay := by
  unfold Manager.retryCarve; dsimp only; split <;> simp
@[simp] theorem Manager.retryQueue_replay (m : Manager) : m.retryQueue.dev.net.replay = m.dev.net.replay := by
  unfold Manager.retryQueue; simp
@[simp] theorem Manager.carveChoose_replay (m : Manager) (q : CarveReq) (c : Nat) (centre : Option Nat) :
    (m.carveChoose q c centre).dev.net.replay = m.dev.net.replay := by
  unfold Manager.carveChoose; split <;> simp
@[simp] theorem Manager.openWindow_replay (m : Manager) : m.openWindow.dev.net.replay = m.dev.net.replay := by
  unfold Manager.openWindow; simp
@[simp] theorem Manager.wantNow_replay (m : Manager) : m.wantNow.dev.net.replay = m.dev.net.replay := by
  unfold Manager.wantNow; simp
@[simp] theorem Manager.retryIfFree_replay (m : Manager) (c : Nat) : (m.retryIfFree c).dev.net.replay = m.dev.net.replay := by
  unfold Manager.retryIfFree; simp
@[simp] theorem Manager.dropQueued_replay (m : Manager) (q : QueuedCarve) (result : Nat) :
    (m.dropQueued q result).dev.net.replay = m.dev.net.replay := by
  unfold Manager.dropQueued; simp
@[simp] theorem Manager.submitCarve_replay (m : Manager) : m.submitCarve.dev.net.replay = m.dev.net.replay := by
  unfold Manager.submitCarve; split <;> simp
@[simp] theorem Manager.goCarve_replay (m : Manager) : m.goCarve.dev.net.replay = m.dev.net.replay := by
  unfold Manager.goCarve; simp
@[simp] theorem Manager.resetFn_replay (m : Manager) (fn result : Nat) : (m.resetFn fn result).dev.net.replay = m.dev.net.replay := by
  unfold Manager.resetFn; simp
@[simp] theorem Manager.rejoinDone_replay (m : Manager) (c : Nat) : (m.rejoinDone c).dev.net.replay = m.dev.net.replay := by
  unfold Manager.rejoinDone; dsimp only; split <;> simp
@[simp] theorem Manager.offerHeld_replay (m : Manager) (c : Nat) (nids : List Nat) :
    (m.offerHeld c nids).dev.net.replay = m.dev.net.replay := by
  unfold Manager.offerHeld; simp
@[simp] theorem Manager.giveTreeKeys_replay (m : Manager) (c : Nat) (sws : List Nat) :
    (m.giveTreeKeys c sws).dev.net.replay = m.dev.net.replay := by
  unfold Manager.giveTreeKeys; simp
@[simp] theorem Manager.renewTreeKeys_replay (m : Manager) (c : Nat) : (m.renewTreeKeys c).dev.net.replay = m.dev.net.replay := by
  unfold Manager.renewTreeKeys; split <;> simp
@[simp] theorem Manager.rejoinTry_replay (m : Manager) (c : Nat) : (m.rejoinTry c).dev.net.replay = m.dev.net.replay := by
  unfold Manager.rejoinTry; dsimp only; split <;> simp
@[simp] theorem Manager.purgeEnd_replay (m : Manager) (c : Nat) : (m.purgeEnd c).dev.net.replay = m.dev.net.replay := by
  unfold Manager.purgeEnd; simp

/-! ### Routes -/

@[simp] theorem Manager.storeDist_dev (m : Manager) (p : Pass) : (m.storeDist p).dev = m.dev := by
  unfold Manager.storeDist; simp -implicitDefEqProofs

/-! ### Links and nodes lost -/

@[simp] theorem Manager.putState_dev (m : Manager) (i : Nat) (st : LinkSt) : (m.putState i st).dev = m.dev := by
  unfold Manager.putState; simp
@[simp] theorem Manager.putBoth_dev (m : Manager) (i : Nat) (st : LinkSt) : (m.putBoth i st).dev = m.dev := by
  unfold Manager.putBoth; simp
@[simp] theorem Manager.memberLoss_replay (m : Manager) (e cause resets time : Nat) (raised : Bool) :
    (m.memberLoss e cause resets time raised).dev.net.replay = m.dev.net.replay := by
  unfold Manager.memberLoss; simp
@[simp] theorem Manager.lostPresence_replay (m : Manager) (before : List Nat) (cause : Nat) :
    (m.lostPresence before cause).dev.net.replay = m.dev.net.replay := by
  unfold Manager.lostPresence; simp
@[simp] theorem Manager.swReports_dev (m : Manager) (s n : Nat) : (m.swReports s n).dev = m.dev := by
  unfold Manager.swReports; simp
@[simp] theorem Manager.sendIsolate_replay (m : Manager) (peer s : Nat) : (m.sendIsolate peer s).dev.net.replay = m.dev.net.replay := by
  unfold Manager.sendIsolate; simp
@[simp] theorem Manager.isolate_replay (m : Manager) (s : Nat) (st : IsSt) : (m.isolate s st).dev.net.replay = m.dev.net.replay := by
  unfold Manager.isolate; simp
@[simp] theorem Manager.tableStore_replay (m : Manager) (a : Nat) (bs : List Byte) :
    (m.tableStore a bs).dev.net.replay = m.dev.net.replay := by
  unfold Manager.tableStore; simp

/-! ### Copies of frames -/

@[simp] theorem Manager.copyFrame_replay (m : Manager) (k : FrameKind) (hdr : Hdr) (assoc : Nat) (x : Msg) :
    (m.copyFrame k hdr assoc x).dev.net.replay = m.dev.net.replay := by
  unfold Manager.copyFrame; simp

/-! ### The dictionary -/

@[simp] theorem Dev.writeStored_replay (d : Dev) (r : ObjRow) (k : Nat) (data : List Byte) :
    (d.writeStored r k data).net.replay = d.net.replay := by
  unfold Dev.writeStored; simp
@[simp] theorem Dev.afterRead_replay (d : Dev) (key : Nat) : (d.afterRead key).net.replay = d.net.replay := by
  unfold Dev.afterRead; simp
@[simp] theorem Dev.stageRate_replay (d : Dev) (key v : Nat) : (d.stageRate key v).net.replay = d.net.replay := by rfl
@[simp] theorem Dev.commitRates_replay (d : Dev) : d.commitRates.net.replay = d.net.replay := by rfl
@[simp] theorem Dev.writeSummary_replay (d : Dev) (code : Nat) (e : Episode) : (d.writeSummary code e).net.replay = d.net.replay := by
  unfold Dev.writeSummary; simp
@[simp] theorem Dev.endEpisode_replay (d : Dev) (code : Nat) : (d.endEpisode code).1.net.replay = d.net.replay := by rfl
@[simp] theorem Dev.summaries_replay (d : Dev) (code : Nat) : (d.summaries code).net.replay = d.net.replay := by
  unfold Dev.summaries; simp
@[simp] theorem Dev.clearLog_replay (d : Dev) (which : Nat) : (d.clearLog which).net.replay = d.net.replay := by
  unfold Dev.clearLog; simp
@[simp] theorem Dev.erRead_replay (d : Dev) (ck lk mk : Nat) (p : EvRec → Bool) : (d.erRead ck lk mk p).1.net.replay = d.net.replay := rfl

/-! ### The field network at an agent -/

@[simp] theorem Dev.hearRound_replay (d : Dev) (round : Nat) : (d.hearRound round).net.replay = d.net.replay := by rfl
@[simp] theorem Dev.askRekey_replay (d : Dev) (peer assoc : Nat) : (d.askRekey peer assoc).net.replay = d.net.replay := by
  unfold Dev.askRekey; split <;> simp

@[simp] theorem Dev.takeOffer_replay (d : Dev) (src assoc : Nat) (phase : Bool) (peer : Nat) (salts : Salts) (expire : Nat) (key : Key)
    (valid : Bool) : (d.takeOffer src assoc phase peer salts expire key valid).1.net.replay = d.net.replay := by
  unfold Dev.takeOffer
  dsimp only
  repeat' split
  all_goals simp

@[simp] theorem Dev.acceptKey_replay (d : Dev) (src assoc : Nat) (phase : Bool) (peer status : Nat) :
    (d.acceptKey src assoc phase peer status).net.replay = d.net.replay := by
  unfold Dev.acceptKey; simp
@[simp] theorem Dev.endGrace_replay (d : Dev) (src assoc : Nat) (phase : Bool) :
    (d.endGrace src assoc phase).net.replay = d.net.replay := by
  unfold Dev.endGrace; simp

/-! ### Contexts -/

@[simp] theorem Manager.placed_replay (m : Manager) (centre : Option Nat) : (m.placed centre).dev.net.replay = m.dev.net.replay := by
  unfold Manager.placed; split <;> simp
@[simp] theorem Manager.heldAnswers_replay (m : Manager) (e c : Nat) : (m.heldAnswers e c).dev.net.replay = m.dev.net.replay := by
  unfold Manager.heldAnswers; simp

@[simp] theorem Manager.keyAcked_replay (m : Manager) (e c gen status : Nat) :
    (m.keyAcked e c gen status).dev.net.replay = m.dev.net.replay := by
  unfold Manager.keyAcked
  dsimp only
  repeat' split
  all_goals simp

@[simp] theorem Manager.shortOf_replay (m : Manager) (c n : Nat) : (m.shortOf c n).dev.net.replay = m.dev.net.replay := by
  unfold Manager.shortOf; simp
@[simp] theorem Manager.membersFailed_replay (m : Manager) (c : Nat) (lost : List Nat) :
    (m.membersFailed c lost).dev.net.replay = m.dev.net.replay := by
  unfold Manager.membersFailed; split <;> simp
@[simp] theorem Manager.selectPart_replay (m : Manager) (c : Nat) : (m.selectPart c).dev.net.replay = m.dev.net.replay := by
  unfold Manager.selectPart; simp
@[simp] theorem Manager.missing_replay (m : Manager) (c : Nat) : (m.missing c).dev.net.replay = m.dev.net.replay := by
  unfold Manager.missing; simp

/-! ### Links -/

@[simp] theorem Manager.offerPair_replay (m : Manager) (a b : Nat) (renew : Bool) :
    (m.offerPair a b renew).dev.net.replay = m.dev.net.replay := by
  unfold Manager.offerPair; simp
@[simp] theorem Manager.bringUp_replay (m : Manager) (i : Nat) : (m.bringUp i).dev.net.replay = m.dev.net.replay := by
  unfold Manager.bringUp; simp
@[simp] theorem Manager.handOver_dev (m : Manager) (s : Nat) (l : List Nat) : (m.handOver s l).dev = m.dev := by
  unfold Manager.handOver; simp -implicitDefEqProofs
@[simp] theorem Manager.readmitSwitch_replay (m : Manager) (s : Nat) : (m.readmitSwitch s).dev.net.replay = m.dev.net.replay := by
  unfold Manager.readmitSwitch; simp

/-! ### Candidates -/

@[simp] theorem Manager.storePlates_dev (m : Manager) (number : Nat) (plates : SMap Plate) :
    (m.storePlates number plates).dev = m.dev := by rfl
@[simp] theorem Manager.moveComp_dev (m : Manager) : m.moveComp.dev = m.dev := by
  unfold Manager.moveComp; split <;> simp
@[simp] theorem Manager.sendStage_replay (m : Manager) (s : Nat) (full : Bool) :
    (m.sendStage s full).dev.net.replay = m.dev.net.replay := by
  unfold Manager.sendStage; split <;> simp
@[simp] theorem Manager.refuse_replay (m : Manager) (imp : Nat) (bad : List (Nat × Nat × Nat × Nat)) :
    (m.refuse imp bad).dev.net.replay = m.dev.net.replay := by
  unfold Manager.refuse; split <;> simp
@[simp] theorem Manager.moveTreeKeys_replay (m : Manager) (plates : SMap Plate) :
    (m.moveTreeKeys plates).dev.net.replay = m.dev.net.replay := by
  unfold Manager.moveTreeKeys; simp
@[simp] theorem Manager.carry_replay (m : Manager) (c : Cand) : (m.carry c).dev.net.replay = m.dev.net.replay := by
  unfold Manager.carry; simp -implicitDefEqProofs
@[simp] theorem Manager.putCommitted_replay (m : Manager) (c : Cand) : (m.putCommitted c).dev.net.replay = m.dev.net.replay := by
  unfold Manager.putCommitted; dsimp only; split <;> simp
@[simp] theorem Manager.commitSend_replay (m : Manager) : m.commitSend.dev.net.replay = m.dev.net.replay := by
  unfold Manager.commitSend; split <;> simp
@[simp] theorem Manager.tryCommit_replay (m : Manager) : m.tryCommit.dev.net.replay = m.dev.net.replay := by
  unfold Manager.tryCommit; split <;> simp
@[simp] theorem Manager.joinLater_replay (m : Manager) : m.joinLater.dev.net.replay = m.dev.net.replay := by
  unfold Manager.joinLater; simp
@[simp] theorem Manager.newCandidate_replay (m : Manager) (c : Cand) : (m.newCandidate c).dev.net.replay = m.dev.net.replay := by
  unfold Manager.newCandidate; split <;> simp
@[simp] theorem Manager.notCompleted_replay (m : Manager) (s : Nat) : (m.notCompleted s).dev.net.replay = m.dev.net.replay := by
  unfold Manager.notCompleted; dsimp only; split <;> simp
@[simp] theorem Manager.stageFailed_replay (m : Manager) (s status : Nat) : (m.stageFailed s status).dev.net.replay = m.dev.net.replay := by
  unfold Manager.stageFailed; simp
@[simp] theorem Manager.checkDrain_replay (m : Manager) : m.checkDrain.dev.net.replay = m.dev.net.replay := by
  unfold Manager.checkDrain; simp
@[simp] theorem Manager.loseSwitch_replay (m : Manager) (s : Nat) : (m.loseSwitch s).dev.net.replay = m.dev.net.replay := by
  unfold Manager.loseSwitch; simp

/-! ### Installation -/

@[simp] theorem Manager.adoptDrained_replay (m : Manager) : m.adoptDrained.dev.net.replay = m.dev.net.replay := by
  unfold Manager.adoptDrained; split <;> simp
@[simp] theorem Manager.isoDone_replay (m : Manager) (s peer : Nat) : (m.isoDone s peer).dev.net.replay = m.dev.net.replay := by
  unfold Manager.isoDone; split <;> simp
@[simp] theorem Manager.grantDetours_replay (m : Manager) : m.grantDetours.dev.net.replay = m.dev.net.replay := by
  unfold Manager.grantDetours; simp

/-! ### The field network at the manager -/

@[simp] theorem Manager.offerOwnKey_replay (m : Manager) (nid key assoc : Nat) :
    (m.offerOwnKey nid key assoc).dev.net.replay = m.dev.net.replay := by
  unfold Manager.offerOwnKey; simp
@[simp] theorem Manager.offerFabric_replay (m : Manager) (assoc nid : Nat) :
    (m.offerFabric assoc nid).dev.net.replay = m.dev.net.replay := by
  unfold Manager.offerFabric; split <;> simp
@[simp] theorem Manager.deliver_replay (m : Manager) (nid : Nat) (vals : List (Nat × Nat)) :
    (m.deliver nid vals).dev.net.replay = m.dev.net.replay := by
  unfold Manager.deliver; simp
@[simp] theorem Manager.deliverAll_replay (m : Manager) : m.deliverAll.dev.net.replay = m.dev.net.replay := by
  unfold Manager.deliverAll; simp
@[simp] theorem Manager.rematch_replay (m : Manager) : m.rematch.dev.net.replay = m.dev.net.replay := by
  unfold Manager.rematch; simp
@[simp] theorem Manager.adopt_replay (m : Manager) : m.adopt.dev.net.replay = m.dev.net.replay := by
  unfold Manager.adopt; simp

@[simp] theorem Manager.evalGate_replay (m : Manager) : m.evalGate.dev.net.replay = m.dev.net.replay := by
  unfold Manager.evalGate
  dsimp only
  repeat' split
  all_goals simp

@[simp] theorem Manager.touchGate_replay (m : Manager) : m.touchGate.dev.net.replay = m.dev.net.replay := by
  unfold Manager.touchGate; simp
@[simp] theorem Manager.probe_dev (m : Manager) (i peer port : Nat) (kind : PeerKind) : (m.probe i peer port kind).dev = m.dev := by
  unfold Manager.probe; simp
@[simp] theorem Manager.tryUp_replay (m : Manager) (i : Nat) : (m.tryUp i).dev.net.replay = m.dev.net.replay := by
  unfold Manager.tryUp; simp
@[simp] theorem Manager.applyReport_replay (m : Manager) (die port : Nat) : (m.applyReport die port).dev.net.replay = m.dev.net.replay := by
  unfold Manager.applyReport; split <;> simp
@[simp] theorem Manager.applyReports_replay (m : Manager) : m.applyReports.dev.net.replay = m.dev.net.replay := by
  unfold Manager.applyReports; simp

@[simp] theorem Manager.staleReports_dev (m : Manager) (i : Nat) : (m.staleReports i).dev = m.dev := by
  unfold Manager.staleReports
  dsimp only
  repeat' split
  all_goals simp

@[simp] theorem Manager.setHome_replay (m : Manager) (nid port : Nat) : (m.setHome nid port).dev.net.replay = m.dev.net.replay := by
  unfold Manager.setHome; simp
@[simp] theorem Manager.sendAttest_replay (m : Manager) (die : Nat) (a : Att) : (m.sendAttest die a).dev.net.replay = m.dev.net.replay := by
  unfold Manager.sendAttest; simp

@[simp] theorem Manager.pump_replay (m : Manager) : m.pump.dev.net.replay = m.dev.net.replay := by
  unfold Manager.pump
  split
  · rfl
  · refine Manager.foldl_replay _ (fun m d => ?_) _ _
    split <;> simp

@[simp] theorem Manager.sendClaim_replay (m : Manager) (nid : Nat) : (m.sendClaim nid).dev.net.replay = m.dev.net.replay := by
  unfold Manager.sendClaim; simp
@[simp] theorem Manager.offerFirst_replay (m : Manager) (nid : Nat) : (m.offerFirst nid).dev.net.replay = m.dev.net.replay := by
  unfold Manager.offerFirst; simp
@[simp] theorem Manager.equip_replay (m : Manager) (die nid : Nat) : (m.equip die nid).dev.net.replay = m.dev.net.replay := by
  unfold Manager.equip; simp
@[simp] theorem Manager.keyed_replay (m : Manager) (die nid : Nat) (a : Att) : (m.keyed die nid a).dev.net.replay = m.dev.net.replay := by
  unfold Manager.keyed; simp

/-! ### Recovery -/

@[simp] theorem Manager.countFault_dev (m : Manager) (i : Nat) : (m.countFault i).dev = m.dev := by rfl
@[simp] theorem Manager.linkBad_replay (m : Manager) (i : Nat) : (m.linkBad i).dev.net.replay = m.dev.net.replay := by
  unfold Manager.linkBad; simp
@[simp] theorem Manager.linkGood_replay (m : Manager) (i : Nat) : (m.linkGood i).dev.net.replay = m.dev.net.replay := by
  unfold Manager.linkGood; simp
@[simp] theorem Manager.takeNeighbour_replay (m : Manager) (die p : Nat) (new : NbrRep) :
    (m.takeNeighbour die p new).dev.net.replay = m.dev.net.replay := by
  unfold Manager.takeNeighbour; simp
@[simp] theorem Manager.readmitEp_replay (m : Manager) (e : Nat) : (m.readmitEp e).dev.net.replay = m.dev.net.replay := by
  unfold Manager.readmitEp; simp
@[simp] theorem Manager.endDetour_replay (m : Manager) (e : Nat) : (m.endDetour e).dev.net.replay = m.dev.net.replay := by
  unfold Manager.endDetour; split <;> simp
@[simp] theorem Manager.actLink_replay (m : Manager) (nid port : Nat) (ep good : Bool) :
    (m.actLink nid port ep good).dev.net.replay = m.dev.net.replay := by
  unfold Manager.actLink; split <;> simp
@[simp] theorem Manager.actReset_replay (m : Manager) (nid cause resets time : Nat) :
    (m.actReset nid cause resets time).dev.net.replay = m.dev.net.replay := by
  unfold Manager.actReset; simp

@[simp] theorem Manager.actReady_replay (m : Manager) (nid : Nat) : (m.actReady nid).dev.net.replay = m.dev.net.replay := by
  unfold Manager.actReady
  dsimp only
  repeat' split
  all_goals simp

@[simp] theorem Manager.actResetReq_replay (m : Manager) (nid sw : Nat) : (m.actResetReq nid sw).dev.net.replay = m.dev.net.replay := by
  unfold Manager.actResetReq; simp
@[simp] theorem Manager.actLost_replay (m : Manager) (src nid : Nat) : (m.actLost src nid).dev.net.replay = m.dev.net.replay := by
  unfold Manager.actLost; simp
@[simp] theorem Manager.actOn_replay (m : Manager) (i : Instr) : (m.actOn i).dev.net.replay = m.dev.net.replay := by
  unfold Manager.actOn; split <;> simp

@[simp] theorem Manager.takeReport_replay (m : Manager) (i : Instr) : (m.takeReport i).dev.net.replay = m.dev.net.replay := by
  unfold Manager.takeReport
  dsimp only
  repeat' split
  all_goals simp

@[simp] theorem Manager.reportEntry_replay (m : Manager) (i : Instr) : (m.reportEntry i).dev.net.replay = m.dev.net.replay := by
  unfold Manager.reportEntry; split <;> simp
@[simp] theorem Manager.takeReports_replay (m : Manager) : m.takeReports.dev.net.replay = m.dev.net.replay := by
  unfold Manager.takeReports; simp
@[simp] theorem Manager.queueReport_replay (m : Manager) (k : FrameKind) (hdr : Hdr) (i : Instr) (wait : Bool) :
    (m.queueReport k hdr i wait).dev.net.replay = m.dev.net.replay := by
  unfold Manager.queueReport; simp

@[simp] theorem Manager.closeRound_dev (m : Manager) (prev nid : Nat) : (m.closeRound prev nid).dev = m.dev := by
  unfold Manager.closeRound
  dsimp only
  repeat' split
  all_goals simp

@[simp] theorem Manager.heard_replay (m : Manager) (nid round : Nat) : (m.heard nid round).dev.net.replay = m.dev.net.replay := by
  unfold Manager.heard
  dsimp only
  repeat' split
  all_goals simp

@[simp] theorem Manager.hbReplied_replay (m : Manager) (hdr : Hdr) (round committed : Nat) (map : Option Ports) :
    (m.hbReplied hdr round committed map).dev.net.replay = m.dev.net.replay := by
  unfold Manager.hbReplied
  dsimp only
  repeat' split
  all_goals simp

@[simp] theorem Manager.startCellReset_dev (m : Manager) (p : Nat) : (m.startCellReset p).dev = m.dev := by
  unfold Manager.startCellReset; simp

/-! ### Discovery -/

@[simp] theorem Manager.acceptBp_replay (m : Manager) (img : List Byte) : (m.acceptBp img).dev.net.replay = m.dev.net.replay := by
  unfold Manager.acceptBp; simp
@[simp] theorem Manager.takeHello_replay (m : Manager) (p : List Byte) : (m.takeHello p).dev.net.replay = m.dev.net.replay := by
  unfold Manager.takeHello; dsimp only; split <;> simp
@[simp] theorem Manager.failAttest_replay (m : Manager) (die : Nat) (a : Att) : (m.failAttest die a).dev.net.replay = m.dev.net.replay := by
  unfold Manager.failAttest; simp
@[simp] theorem Manager.passAttest_replay (m : Manager) (die : Nat) (a : Att) (desc : List Byte) (debug : Nat) :
    (m.passAttest die a desc debug).dev.net.replay = m.dev.net.replay := by
  unfold Manager.passAttest; simp
@[simp] theorem Manager.repeatAtts_replay (m : Manager) : m.repeatAtts.dev.net.replay = m.dev.net.replay := by
  unfold Manager.repeatAtts; simp
@[simp] theorem Manager.repeatOffers_replay (m : Manager) : m.repeatOffers.dev.net.replay = m.dev.net.replay := by
  unfold Manager.repeatOffers; simp
@[simp] theorem Manager.repeatClaims_replay (m : Manager) : m.repeatClaims.dev.net.replay = m.dev.net.replay := by
  unfold Manager.repeatClaims; simp

/-! ### Bulk images -/

@[simp] theorem Manager.sendBlock_replay (m : Manager) (pass b : Nat) (to_ : Option Nat) :
    (m.sendBlock pass b to_).dev.net.replay = m.dev.net.replay := by
  unfold Manager.sendBlock; split <;> simp
@[simp] theorem Manager.startCast_replay (m : Manager) : m.startCast.dev.net.replay = m.dev.net.replay := by
  unfold Manager.startCast; simp
@[simp] theorem Manager.tally_replay (m : Manager) : m.tally.dev.net.replay = m.dev.net.replay := by
  unfold Manager.tally; simp
@[simp] theorem Manager.nextBatch_replay (m : Manager) : m.nextBatch.dev.net.replay = m.dev.net.replay := by
  unfold Manager.nextBatch; simp
@[simp] theorem Manager.batchReport_replay (m : Manager) (n state : Nat) : (m.batchReport n state).dev.net.replay = m.dev.net.replay := by
  unfold Manager.batchReport; simp
@[simp] theorem Manager.nextPass_replay (m : Manager) (open_ : List Nat) : (m.nextPass open_).dev.net.replay = m.dev.net.replay := by
  unfold Manager.nextPass; simp

/-! ### Keys -/

@[simp] theorem Manager.takeOffer_replay (m : Manager) (hdr : Hdr) (assoc : Nat) (phase : Bool) (wrap peer : Nat) (salts : Salts)
    (expire : Nat) (key : Key) (sigOk : Bool) :
    (m.takeOffer hdr assoc phase wrap peer salts expire key sigOk).dev.net.replay = m.dev.net.replay := by
  unfold Manager.takeOffer; simp

@[simp] theorem Manager.moveTx_replay (m : Manager) (nid : Nat) (o : Offer) : (m.moveTx nid o).dev.net.replay = m.dev.net.replay := by
  unfold Manager.moveTx; simp
@[simp] theorem Manager.moveGroup_replay (m : Manager) (o : Offer) : (m.moveGroup o).dev.net.replay = m.dev.net.replay := by
  unfold Manager.moveGroup; simp

@[simp] theorem Manager.accepted_replay (m : Manager) (nid : Nat) (o : Offer) : (m.accepted nid o).dev.net.replay = m.dev.net.replay := by
  unfold Manager.accepted
  dsimp only
  repeat' split
  all_goals simp

@[simp] theorem Manager.pairSlot_replay (m : Manager) (hdr : Hdr) : (m.pairSlot hdr).dev.net.replay = m.dev.net.replay := by
  unfold Manager.pairSlot
  dsimp only
  repeat' split
  all_goals simp

@[simp] theorem Manager.renew_replay (m : Manager) (peer assoc : Nat) : (m.renew peer assoc).dev.net.replay = m.dev.net.replay := by
  unfold Manager.renew; simp
@[simp] theorem Manager.renewAsked_replay (m : Manager) : m.renewAsked.dev.net.replay = m.dev.net.replay := by
  unfold Manager.renewAsked; simp
@[simp] theorem Manager.renewFor_replay (m : Manager) (nid : Nat) : (m.renewFor nid).dev.net.replay = m.dev.net.replay := by
  unfold Manager.renewFor; simp

/-! ### The module -/

theorem Manager.ownCmd_quiet (m : Manager) (r : Req) (key v : Nat) (listed : List Nat) (busy : Bool) (eff : Manager → Nat → Manager)
    (h : ∀ c, (eff m c).dev.net.replay = false) (hm : m.dev.net.replay = false) :
    (m.ownCmd r key v listed busy eff).dev.net.replay = false := by
  obtain ⟨_, -, e⟩ | ⟨-, e⟩ | ⟨-, -, -, e⟩ := m.ownCmd_cases r key v listed busy eff <;> rw [e] <;> simp [h, hm]

@[simp] theorem Manager.ownCmd_replay (m : Manager) (r : Req) (key v : Nat) (listed : List Nat) (busy : Bool)
    (eff : Manager → Nat → Manager) (h : ∀ n c, (eff n c).dev.net.replay = n.dev.net.replay) :
    (m.ownCmd r key v listed busy eff).dev.net.replay = m.dev.net.replay := by
  obtain ⟨_, -, e⟩ | ⟨-, e⟩ | ⟨-, -, -, e⟩ := m.ownCmd_cases r key v listed busy eff <;> rw [e] <;> simp [h]

@[simp] theorem Manager.dropBarrier_dev (m : Manager) : m.dropBarrier.dev = m.dev := by
  unfold Manager.dropBarrier; simp
@[simp] theorem Manager.resetModule_replay (m : Manager) (cause : Nat) : (m.resetModule cause).dev.net.replay = false := rfl
@[simp] theorem Manager.outAtStart_replay (m : Manager) : m.outAtStart.dev.net.replay = m.dev.net.replay := by
  unfold Manager.outAtStart; simp
@[simp] theorem Manager.bootSlot_replay (m : Manager) (i : StartIn) : (m.bootSlot i).dev.net.replay = m.dev.net.replay := by
  unfold Manager.bootSlot; simp
@[simp] theorem Manager.trainStacks_replay (m : Manager) (i : StartIn) : (m.trainStacks i).dev.net.replay = m.dev.net.replay := by
  unfold Manager.trainStacks; simp
@[simp] theorem Manager.stackKeys_replay (m : Manager) : m.stackKeys.dev.net.replay = m.dev.net.replay := by
  unfold Manager.stackKeys; simp
@[simp] theorem Manager.joinTriad_replay (m : Manager) (i : StartIn) : (m.joinTriad i).dev.net.replay = m.dev.net.replay := by
  unfold Manager.joinTriad; split <;> simp
@[simp] theorem Manager.trainPorts_replay (m : Manager) (i : StartIn) : (m.trainPorts i).dev.net.replay = m.dev.net.replay := by
  unfold Manager.trainPorts; simp
@[simp] theorem Manager.startModule_replay (m : Manager) (i : StartIn) : (m.startModule i).dev.net.replay = m.dev.net.replay := by
  unfold Manager.startModule; simp

/-! ### Telemetry -/

@[simp] theorem Manager.storeTel_replay (m : Manager) (time : Nat) (r : TlRec) : (m.storeTel time r).dev.net.replay = m.dev.net.replay := by
  unfold Manager.storeTel; simp
@[simp] theorem Manager.tsRead_replay (m : Manager) (fn c : Nat) : (m.tsRead fn c).1.dev.net.replay = m.dev.net.replay := by
  unfold Manager.tsRead; simp
@[simp] theorem Manager.measure_dev (m : Manager) (time : Nat) (r : TlRec) : (m.measure time r).dev = m.dev := by
  unfold Manager.measure; simp
@[simp] theorem Manager.storeEngine_replay (m : Manager) (c : Nat) : (m.storeEngine c).dev.net.replay = m.dev.net.replay := by
  unfold Manager.storeEngine; simp
@[simp] theorem Manager.markTel_replay (m : Manager) (c v : Nat) : (m.markTel c v).dev.net.replay = m.dev.net.replay := by
  unfold Manager.markTel; simp
@[simp] theorem Manager.setPeriod_replay (m : Manager) (p : Nat) : (m.setPeriod p).dev.net.replay = m.dev.net.replay := by
  unfold Manager.setPeriod; simp

/-! ### Security operations -/

@[simp] theorem Manager.drawNonce_replay (m : Manager) : m.drawNonce.1.dev.net.replay = m.dev.net.replay := by
  unfold Manager.drawNonce; simp
@[simp] theorem Manager.rotate_replay (m : Manager) : m.rotate.dev.net.replay = m.dev.net.replay := by
  unfold Manager.rotate; simp
@[simp] theorem Manager.sweepEnd_dev (m : Manager) : m.sweepEnd.dev = m.dev := by rfl
@[simp] theorem Manager.raiseLevel_replay (m : Manager) (l : Nat) (end_ : Option Nat) :
    (m.raiseLevel l end_).dev.net.replay = m.dev.net.replay := by
  unfold Manager.raiseLevel; simp
@[simp] theorem Manager.lowerLevel_replay (m : Manager) (start : StartIn) (h : m.dev.net.replay = false) :
    (m.lowerLevel start).dev.net.replay = false := by
  unfold Manager.lowerLevel; simp [h]
@[simp] theorem Manager.eraseSram_dev (m : Manager) : m.eraseSram.dev = m.dev := by rfl
@[simp] theorem Manager.expel_replay (m : Manager) (nid : Nat) : (m.expel nid).dev.net.replay = m.dev.net.replay := by
  unfold Manager.expel; simp
@[simp] theorem Manager.enterMode_replay (m : Manager) (mode : Nat) (start : StartIn) (h : m.dev.net.replay = false) :
    (m.enterMode mode start).dev.net.replay = false := by
  unfold Manager.enterMode; simp [h]
@[simp] theorem Manager.provision_replay (m : Manager) (start : StartIn) : (m.provision start).dev.net.replay = false := by
  unfold Manager.provision; simp
@[simp] theorem Manager.decommission_replay (m : Manager) (start : StartIn) : (m.decommission start).dev.net.replay = false := by
  unfold Manager.decommission; simp
@[simp] theorem Manager.grantAgent_replay (m : Manager) (die dur : Nat) : (m.grantAgent die dur).dev.net.replay = m.dev.net.replay := by
  unfold Manager.grantAgent; split <;> simp
@[simp] theorem Manager.applyToken_replay (m : Manager) (sigOk : Bool) (start : StartIn) (h : m.dev.net.replay = false) :
    (m.applyToken sigOk start).dev.net.replay = false := by
  unfold Manager.applyToken; simp -implicitDefEqProofs [h]
@[simp] theorem Manager.makeReport_replay (m : Manager) (fn c : Nat) : (m.makeReport fn c).dev.net.replay = m.dev.net.replay := by
  unfold Manager.makeReport; simp

/-! ### Requests of the host -/

@[simp] theorem Manager.badAccess_replay (m : Manager) : m.badAccess.dev.net.replay = m.dev.net.replay := by
  unfold Manager.badAccess; simp
@[simp] theorem Manager.reply_replay (m : Manager) (r : Req) (result : Nat) : (m.reply r result).dev.net.replay = m.dev.net.replay := by
  unfold Manager.reply; simp
@[simp] theorem Manager.sendProxy_replay (m : Manager) (i : Instr) (h : HostReq) : (m.sendProxy i h).dev.net.replay = m.dev.net.replay := by
  unfold Manager.sendProxy; simp
@[simp] theorem Manager.proxy_replay (m : Manager) (i : Instr) (h : HostReq) : (m.proxy i h).dev.net.replay = m.dev.net.replay := by
  unfold Manager.proxy; simp
@[simp] theorem Manager.turnAway_replay (m : Manager) (h : HostReq) (result : Nat) :
    (m.turnAway h result).dev.net.replay = m.dev.net.replay := by
  unfold Manager.turnAway; simp
@[simp] theorem Manager.accept_replay (m : Manager) (i : Instr) (h : HostReq) : (m.accept i h).dev.net.replay = m.dev.net.replay := by
  unfold Manager.accept; simp
@[simp] theorem Manager.issue_replay (m : Manager) (i : Instr) (h : HostReq) : (m.issue i h).dev.net.replay = m.dev.net.replay := by
  unfold Manager.issue; simp
@[simp] theorem Manager.onSlot_dev (m : Manager) (fn slot : Nat) (f : DictSlot → DictSlot) : (m.onSlot fn slot f).dev = m.dev := rfl

theorem Manager.takeAnswer_dev (m : Manager) (r : Req) (x : Answer × Manager) (h : m.takeAnswer r = some x) : x.2.dev = m.dev := by
  unfold Manager.takeAnswer at h
  split at h
  · cases h
  · cases h; rfl

@[simp] theorem Manager.transferred_dev (m : Manager) (fn : Nat) (irq : Bool) : (m.transferred fn irq).dev = m.dev := by
  unfold Manager.transferred; simp
@[simp] theorem Manager.delivered_replay (m : Manager) (nid : Nat) : (m.delivered nid).dev.net.replay = m.dev.net.replay := by
  unfold Manager.delivered; simp
@[simp] theorem Manager.endProxy_replay (m : Manager) (p : Proxied) (result : Nat) (data : List Byte) :
    (m.endProxy p result data).dev.net.replay = m.dev.net.replay := by
  unfold Manager.endProxy; simp

/-! ### Mailboxes, CRC and sync objects -/

@[simp] theorem Manager.post_replay (m : Manager) (b : Nat) : (m.post b).dev.net.replay = m.dev.net.replay := by
  unfold Manager.post; simp -implicitDefEqProofs
@[simp] theorem Manager.postHeld_replay (m : Manager) : m.postHeld.dev.net.replay = m.dev.net.replay := by
  unfold Manager.postHeld; simp

@[simp] theorem Manager.takeMsg_replay (m : Manager) (box code : Nat) (eff : Manager → Nat → List Byte → Manager)
    (h : ∀ n c l, (eff n c l).dev.net.replay = n.dev.net.replay) : (m.takeMsg box code eff).dev.net.replay = m.dev.net.replay := by
  unfold Manager.takeMsg
  dsimp only
  split
  · rfl
  · rw [h]; simp -implicitDefEqProofs

@[simp] theorem Manager.ring_replay (m : Manager) (fn q v : Nat) (f : Manager → Nat → Manager)
    (h : ∀ n b, (f n b).dev.net.replay = n.dev.net.replay) : (m.ring fn q v f).dev.net.replay = m.dev.net.replay := by
  unfold Manager.ring
  simp [Manager.foldl_replay f h]

@[simp] theorem Manager.feed_replay (m : Manager) (fn k n v : Nat) : (m.feed fn k n v).dev.net.replay = m.dev.net.replay := by
  unfold Manager.feed; simp

@[simp] theorem Manager.syncWrite_replay (m : Manager) (fn n : Nat) (f : Manager → Manager)
    (h : ∀ k, (f k).dev.net.replay = k.dev.net.replay) : (m.syncWrite fn n f).dev.net.replay = m.dev.net.replay := by
  unfold Manager.syncWrite
  simp [h]

@[simp] theorem Manager.returns_dev (m : Manager) (v : Nat) : (m.returns v).dev = m.dev := by rfl

@[simp] theorem Manager.syncRead_replay (m : Manager) (fn n : Nat) (f : Manager → Manager)
    (h : ∀ k, (f k).dev.net.replay = k.dev.net.replay) : (m.syncRead fn n f).dev.net.replay = m.dev.net.replay := by
  unfold Manager.syncRead
  simp [h]

@[simp] theorem Manager.acq_replay (m : Manager) (fn n : Nat) : (m.acq fn n).dev.net.replay = m.dev.net.replay := by
  unfold Manager.acq
  dsimp only
  repeat' split
  all_goals simp

/-! ### BAR writes -/

@[simp] theorem Manager.widthOnly_replay (m : Manager) (t : List (Nat × Nat)) (off w : Nat) :
    (m.widthOnly t off w).dev.net.replay = m.dev.net.replay := by
  unfold Manager.widthOnly; simp
@[simp] theorem Manager.writeSlot_replay (m : Manager) (fn off w v : Nat) : (m.writeSlot fn off w v).dev.net.replay = m.dev.net.replay := by
  unfold Manager.writeSlot; simp
@[simp] theorem Manager.writeMbox_replay (m : Manager) (fn off w v : Nat) : (m.writeMbox fn off w v).dev.net.replay = m.dev.net.replay := by
  unfold Manager.writeMbox; simp
@[simp] theorem Manager.writeMsix_dev (m : Manager) (fn i v : Nat) : (m.writeMsix fn i v).dev = m.dev := by
  unfold Manager.writeMsix; simp
@[simp] theorem Manager.writeMsixAt_replay (m : Manager) (fn off w v : Nat) :
    (m.writeMsixAt fn off w v).dev.net.replay = m.dev.net.replay := by
  unfold Manager.writeMsixAt; simp
@[simp] theorem Manager.writeRing_replay (m : Manager) (fn off w v : Nat) : (m.writeRing fn off w v).dev.net.replay = m.dev.net.replay := by
  unfold Manager.writeRing; simp
@[simp] theorem Manager.writeChecked_replay (m : Manager) (fn off w : Nat) :
    (m.writeChecked fn off w).dev.net.replay = m.dev.net.replay := by
  unfold Manager.writeChecked; simp
@[simp] theorem Manager.writeBar0_replay (m : Manager) (fn off w v : Nat) : (m.writeBar0 fn off w v).dev.net.replay = m.dev.net.replay := by
  unfold Manager.writeBar0; simp

@[simp] theorem Manager.retry_replay (m : Manager) (r : Req) : (m.retry r).dev.net.replay = m.dev.net.replay := by
  unfold Manager.retry
  repeat' split
  all_goals simp

@[simp] theorem Manager.badFrames_replay (m : Manager) (n : Nat) : (m.badFrames n).dev.net.replay = m.dev.net.replay := by
  unfold Manager.badFrames; simp

/-! ### Reads and writes of objects -/

@[simp] theorem Manager.readPlain_replay (m : Manager) (req : Req) (key : Nat) (r : ObjRow) :
    (m.readPlain req key r).dev.net.replay = m.dev.net.replay := by
  unfold Manager.readPlain; simp
@[simp] theorem Manager.rebase_replay (m : Manager) (old : Nat) : (m.rebase old).dev.net.replay = m.dev.net.replay := by
  unfold Manager.rebase; simp
@[simp] theorem Manager.wantTrees_replay (m : Manager) (c n : Nat) : (m.wantTrees c n).dev.net.replay = m.dev.net.replay := by
  unfold Manager.wantTrees; simp -implicitDefEqProofs
@[simp] theorem Manager.newPeer_replay (m : Manager) : m.newPeer.dev.net.replay = m.dev.net.replay := by
  unfold Manager.newPeer; simp
@[simp] theorem Manager.afterWrite_replay (m : Manager) (c key old : Nat) : (m.afterWrite c key old).dev.net.replay = m.dev.net.replay := by
  unfold Manager.afterWrite; simp
@[simp] theorem Manager.setCost_replay (m : Manager) (v : Nat) : (m.setCost v).dev.net.replay = m.dev.net.replay := by
  unfold Manager.setCost; simp

@[simp] theorem Manager.writeObj_replay (m : Manager) (fn c key : Nat) (data : List Byte) :
    (m.writeObj fn c key data).dev.net.replay = m.dev.net.replay := by
  unfold Manager.writeObj
  dsimp only
  repeat' split
  all_goals simp

@[simp] theorem Manager.writeOwn_replay (m : Manager) (req : Req) (c key : Nat) (data : List Byte) :
    (m.writeOwn req c key data).dev.net.replay = m.dev.net.replay := by
  unfold Manager.writeOwn; simp
@[simp] theorem Manager.writePlain_replay (m : Manager) (req : Req) (key : Nat) (data : List Byte) :
    (m.writePlain req key data).dev.net.replay = m.dev.net.replay := by
  unfold Manager.writePlain; simp
@[simp] theorem Manager.stagePart_replay (m : Manager) : m.stagePart.dev.net.replay = m.dev.net.replay := by
  unfold Manager.stagePart; simp -implicitDefEqProofs

/-! ### The recorder -/

@[simp] theorem Manager.summaries_replay (m : Manager) (code : Nat) : (m.summaries code).dev.net.replay = m.dev.net.replay := by
  unfold Manager.summaries; simp
@[simp] theorem Manager.clearAreas_replay (m : Manager) (which : Nat) : (m.clearAreas which).dev.net.replay = m.dev.net.replay := by
  unfold Manager.clearAreas; simp

@[simp] theorem Manager.answerView_replay (m : Manager) (r : Req) (out : Manager × List Byte)
    (h : out.1.dev.net.replay = m.dev.net.replay) : (m.answerView r out).dev.net.replay = m.dev.net.replay := by
  unfold Manager.answerView
  simp [h]

/-! ### Security -/

@[simp] theorem Manager.askLevel_replay (m : Manager) (l : Nat) (start : StartIn) (h : m.dev.net.replay = false) :
    (m.askLevel l start).dev.net.replay = false := by
  unfold Manager.askLevel; simp [h]
@[simp] theorem Manager.rotateDue_replay (m : Manager) : m.rotateDue.dev.net.replay = m.dev.net.replay := by
  unfold Manager.rotateDue; simp
@[simp] theorem Manager.reseedOwed_replay (m : Manager) : m.reseedOwed.dev.net.replay = m.dev.net.replay := by
  unfold Manager.reseedOwed; simp

/-! ### Power -/

@[simp] theorem Manager.endEveryLine_replay (m : Manager) (status : Nat) : (m.endEveryLine status).dev.net.replay = m.dev.net.replay := by
  unfold Manager.endEveryLine; simp
@[simp] theorem Manager.sleep_replay (m : Manager) (thermal : Bool) (h : m.dev.net.replay = false) :
    (m.sleep thermal).dev.net.replay = false := by
  unfold Manager.sleep; simp [h]
@[simp] theorem Manager.wakeUp_replay (m : Manager) (cause : Nat) (start : StartIn) :
    (m.wakeUp cause start).dev.net.replay = m.dev.net.replay := by
  unfold Manager.wakeUp; simp
@[simp] theorem Manager.wakeBy_replay (m : Manager) (cause : Nat) (start : StartIn) :
    (m.wakeBy cause start).dev.net.replay = m.dev.net.replay := by
  unfold Manager.wakeBy; simp
@[simp] theorem Manager.powerOff_replay (m : Manager) : m.powerOff.dev.net.replay = m.dev.net.replay := by
  unfold Manager.powerOff; simp
@[simp] theorem Dev.hot_replay (d : Dev) : d.hot.net.replay = d.net.replay := by rfl
@[simp] theorem Dev.cool_replay (d : Dev) : d.cool.net.replay = d.net.replay := by rfl

/-! ### Line steps -/

@[simp] theorem writeTile_replay (m : Manager) (r : TileRef) (bs : List Byte) : (writeTile m r bs).dev.net.replay = m.dev.net.replay := by
  unfold writeTile; simp

theorem Manager.takeTags_replay {m : Manager} {cell : Nat} {reqs : List MemTag} {x : Manager × List Nat}
    (h : m.takeTags cell reqs = some x) : x.1.dev.net.replay = m.dev.net.replay := by
  unfold Manager.takeTags at h
  split at h
  · cases h
  · dsimp only at h
    split at h
    · cases h
    · cases h; simp

@[simp] theorem Manager.badWord_replay (m : Manager) (array addr ctx : Nat) :
    (m.badWord array addr ctx).dev.net.replay = m.dev.net.replay := by
  unfold Manager.badWord; simp

@[simp] theorem storePieces_replay (m : Manager) (l : LineRun) (refs : List (Option TileRef)) (bs : List (List Byte)) :
    (storePieces m l refs bs).1.dev.net.replay = m.dev.net.replay := by
  fun_induction storePieces m l refs bs with
  | case1 => rfl
  | case2 m l r refs b rest ih => rw [ih, writeTile_replay]
  | case3 => rfl

@[simp] theorem retryPassed_replay (m : Manager) (c : Nat) (l : LineRun) : (retryPassed m c l).dev.net.replay = m.dev.net.replay := by
  unfold retryPassed; dsimp only; split <;> simp -implicitDefEqProofs
@[simp] theorem Manager.countStep_replay (m : Manager) (c cell : Nat) : (m.countStep c cell).dev.net.replay = m.dev.net.replay := by
  unfold Manager.countStep; dsimp only; split <;> simp -implicitDefEqProofs

theorem foldl_bind_replay {α : Type} (f : Manager → α → Option Manager)
    (h : ∀ m x n, f m x = some n → n.dev.net.replay = m.dev.net.replay) (l : List α) (m n : Manager)
    (e : l.foldl (fun (a : Option Manager) x => a.bind (f · x)) (some m) = some n) : n.dev.net.replay = m.dev.net.replay := by
  refine List.foldlRecOn (motive := fun a => ∀ n, a = some n → n.dev.net.replay = m.dev.net.replay) l _ ?_ ?_ n e
  · rintro _ ⟨⟩
    rfl
  · intro a ha x _ n hn
    obtain ⟨k, rfl, hk⟩ := Option.bind_eq_some_iff.1 hn
    exact (h k x n hk).trans (ha k rfl)

theorem Manager.touchTiles_replay {m n : Manager} {c line : Nat} {tiles : List HeldTile} (h : m.touchTiles c line tiles = some n) :
    n.dev.net.replay = m.dev.net.replay := by
  unfold Manager.touchTiles at h
  split at h
  · cases h; rfl
  · obtain ⟨k, hk, rfl⟩ := Option.map_eq_some_iff.1 h
    have hs := foldl_bind_replay _ (fun m t n e => by
      obtain ⟨x, hx, rfl⟩ := Option.map_eq_some_iff.1 e
      exact Manager.takeTags_replay hx) _ _ _ hk
    simp [hs]

@[simp] theorem Manager.dropCopy_dev (m : Manager) (c : Nat) (l : LineRun) : (m.dropCopy c l).dev = m.dev := by
  unfold Manager.dropCopy; split <;> rfl
@[simp] theorem Manager.advanceLine_replay (m : Manager) (c : Nat) (p : Program) (l : LineRun) :
    (m.advanceLine c p l).dev.net.replay = m.dev.net.replay := by
  unfold Manager.advanceLine; simp

@[simp] theorem Manager.fetchAhead_replay (m : Manager) (c : Nat) (p : Program) (l : LineRun) (stage : Nat) :
    (m.fetchAhead c p l stage).dev.net.replay = m.dev.net.replay := by
  unfold Manager.fetchAhead
  split
  · rfl
  · refine Manager.foldl_replay _ (fun m x => ?_) _ _
    split
    · rfl
    · split
      · exact Manager.takeTags_replay ‹_›
      · rfl

@[simp] theorem Manager.cameBack_replay (m : Manager) (t : MemTag) : (m.cameBack t).dev.net.replay = m.dev.net.replay := by
  unfold Manager.cameBack
  split
  · rfl
  · split
    · cases h : m.touchTiles t.ctx t.line [⟨_, t.addr, t.size⟩] with
      | none => rfl
      | some n => exact touchTiles_replay h
    · rfl

/-- What a stage of a line step leaves of the manager `m` has the mark of an entry being applied as `m` has it. -/
def StageOut.Quiet (m : Manager) : StageOut → Prop
  | .go n _ => n.dev.net.replay = m.dev.net.replay
  | .finish n _ => n.dev.net.replay = m.dev.net.replay
  | .wait => True

theorem StageOut.Quiet.of_eq {m n : Manager} {o : StageOut} (h : o.Quiet n) (e : n.dev.net.replay = m.dev.net.replay) : o.Quiet m := by
  cases o with
  | wait => trivial
  | go | finish => exact Eq.trans h e

theorem StageOut.Quiet.ite {m : Manager} {o p : StageOut} {c : Prop} [Decidable c] (h : o.Quiet m) (g : p.Quiet m) :
    (if c then o else p).Quiet m := by
  split <;> assumption
theorem StageOut.Quiet.go {m n : Manager} {o : StageOut} {l : LineRun} (h : o.Quiet m) (e : o = .go n l) :
    n.dev.net.replay = m.dev.net.replay := by
  subst e; exact h
theorem StageOut.Quiet.finish {m n : Manager} {o : StageOut} {st : Nat} (h : o.Quiet m) (e : o = .finish n st) :
    n.dev.net.replay = m.dev.net.replay := by
  subst e; exact h

theorem burinStage_quiet (m : Manager) (l : LineRun) (op prev : Nat) (u : Option Upset) : (burinStage m l op prev u).Quiet m := by
  unfold burinStage
  dsimp only
  split <;> simp [StageOut.Quiet]

theorem hatchStage_quiet (m : Manager) (l : LineRun) (op : Nat) (u : Option Upset) : (hatchStage m l op u).Quiet m := by
  unfold hatchStage
  dsimp only
  repeat' split
  all_goals simp [StageOut.Quiet]

theorem biteStage_quiet (m : Manager) (l : LineRun) (op : Nat) (mask : Tile) (u : Option Upset) : (biteStage m l op mask u).Quiet m := by
  unfold biteStage
  dsimp only
  split <;> simp [StageOut.Quiet]

theorem finishLoad_quiet (m : Manager) (p : Program) (l : LineRun) (stage : Nat) : (finishLoad m p l stage).Quiet m := by
  unfold finishLoad
  dsimp only
  split
  · split <;> simp [StageOut.Quiet]
  · split
    · rfl
    · split <;> rfl

theorem finishStage_quiet (m : Manager) (p : Program) (l : LineRun) (stage : Nat) (u : Option Upset) :
    (finishStage m p l stage u).Quiet m := by
  unfold finishStage
  split
  · exact biteStage_quiet m _ _ _ u
  · exact finishLoad_quiet m p l stage

theorem Manager.askWords_quiet {m : Manager} {c : Nat} {run : Run} {p : Program} {l : LineRun} {refs : List (Nat × StreamDesc × Nat)}
    {o : StageOut} (h : m.askWords c run p l refs = some o) : o.Quiet m := by
  unfold Manager.askWords at h
  dsimp only at h
  split at h
  · cases h; simp [StageOut.Quiet]
  · split at h
    · cases h
    · split at h <;> cases h
      · trivial
      · exact Manager.takeTags_replay ‹_›

theorem loadStage_quiet (m : Manager) (c : Nat) (run : Run) (p : Program) (l : LineRun) (stage : Nat) (u : Option Upset) :
    (loadStage m c run p l stage u).Quiet m := by
  unfold loadStage
  dsimp only
  split
  · rfl
  · split
    · exact m.askWords_quiet ‹_›
    · split
      · rfl
      · split
        · simp [StageOut.Quiet]
        · split
          · exact finishStage_quiet m p _ stage _
          · split
            · trivial
            · exact Manager.takeTags_replay ‹_›

theorem storeStage_quiet (m : Manager) (c : Nat) (run : Run) (p : Program) (l : LineRun) (pieces : List (List Byte))
    (k : Manager → LineRun → Bool → StageOut) (hk : ∀ n l b, (k n l b).Quiet n) : (storeStage m c run p l pieces k).Quiet m := by
  have put (n : Manager) (x : Manager × LineRun × Bool) (hn : n.dev.net.replay = m.dev.net.replay)
      (hx : x.1.dev.net.replay = n.dev.net.replay) :
      (k x.1 x.2.1 x.2.2).Quiet m := (hk _ _ _).of_eq (hx.trans hn)
  unfold storeStage
  dsimp only
  split
  · exact m.askWords_quiet ‹_›
  · split
    · split
      · exact put m _ rfl (storePieces_replay _ _ _ _)
      · trivial
    · exact put _ _ (Manager.takeTags_replay ‹_›) (storePieces_replay _ _ _ _)

theorem scatterStage_quiet (m : Manager) (c : Nat) (run : Run) (p : Program) (l : LineRun) : (scatterStage m c run p l).Quiet m := by
  unfold scatterStage
  split
  · rfl
  · exact storeStage_quiet m c run p l _ _ (fun _ _ _ => rfl)

theorem emitStage_quiet (m : Manager) (c : Nat) (run : Run) (p : Program) (l : LineRun) : (emitStage m c run p l).Quiet m := by
  unfold emitStage
  split
  · dsimp only
    split
    · rfl
    · simp [StageOut.Quiet]
  · rfl

theorem pullStage_quiet (m : Manager) (c : Nat) (run : Run) (p : Program) (l : LineRun) (op : Nat) :
    (pullStage m c run p l op).Quiet m := by
  unfold pullStage
  split
  · exact emitStage_quiet m c run p l
  · split
    · rfl
    · exact storeStage_quiet m c run p l _ _ (fun _ _ _ => by split <;> rfl)

theorem mismatch_quiet (m : Manager) (l : LineRun) : (mismatch m l).Quiet m := by
  unfold mismatch
  dsimp only
  repeat' split
  all_goals simp [StageOut.Quiet]

theorem proofStage_quiet (m : Manager) (c : Nat) (l : LineRun) (op : Nat) : (proofStage m c l op).Quiet m := by
  unfold proofStage
  split
  · exact mismatch_quiet m l
  · refine .ite trivial (.ite ?_ (.ite ?_ ?_)) <;> simp [StageOut.Quiet]

theorem runStage_quiet (m : Manager) (c : Nat) (run : Run) (p : Program) (l : LineRun) (stage : Nat) (u : Option Upset) :
    (runStage m c run p l stage u).Quiet m := by
  have drawn : ∀ k, (StageOut.go m.drawTile k).Quiet m := fun _ => Manager.drawTile_replay m
  exact .ite (.ite (loadStage_quiet ..) (drawn _)) <| .ite (.ite (loadStage_quiet ..) (.ite (scatterStage_quiet ..) (drawn _))) <|
    .ite (burinStage_quiet ..) <| .ite (hatchStage_quiet ..) <| .ite (.ite (loadStage_quiet ..) (drawn _)) <|
    .ite (proofStage_quiet ..) (pullStage_quiet ..)

@[simp] theorem tileStep_replay (m : Manager) (c line : Nat) (u : Option Upset) (corrected : Nat) (failing : List Nat) :
    (tileStep m c line u corrected failing).dev.net.replay = m.dev.net.replay := by
  unfold tileStep
  generalize hb : Manager.onEng (m.bumpBy Obj.AR_SRAM_CORR corrected) _ = b
  have hm : b.dev.net.replay = m.dev.net.replay := by rw [← hb]; simp
  rw [← hm]
  dsimp only
  split
  · split
    · rfl
    · split
      · simp
      · split
        · rfl
        · split
          · rfl
          · split
            · rfl
            next h => simpa using (runStage_quiet ..).finish h
            next h =>
              have ran := (runStage_quiet ..).go h
              split
              · rfl
              next ht =>
                have touched := (Manager.touchTiles_replay ht).trans ran
                split <;> simpa using touched
  · rfl

@[simp] theorem Manager.wantResync_replay (m : Manager) : m.wantResync.dev.net.replay = m.dev.net.replay := by
  unfold Manager.wantResync; simp
@[simp] theorem Manager.loseSample_replay (m : Manager) (group : Nat) : (m.loseSample group).dev.net.replay = m.dev.net.replay := by
  unfold Manager.loseSample; simp
@[simp] theorem Manager.uncorrectable_replay (m : Manager) (w : ArrayWord) (addr : Option Nat) :
    (m.uncorrectable w addr).dev.net.replay = m.dev.net.replay := by
  unfold Manager.uncorrectable; split <;> simp
@[simp] theorem Manager.wordRead_replay (m : Manager) (w : ArrayWord) (found : WordFound) :
    (m.wordRead w found).dev.net.replay = m.dev.net.replay := by
  unfold Manager.wordRead; split <;> simp

@[simp] theorem Manager.tagRead_replay (m : Manager) (t : MemTag) (bad : Bool) (found : WordFound) :
    (m.tagRead t bad found).dev.net.replay = m.dev.net.replay := by
  unfold Manager.tagRead
  repeat' split
  all_goals simp

@[simp] theorem Manager.lineLoaded_replay (m : Manager) (c : Nat) (p : Program) (l : LineRun) :
    (m.lineLoaded c p l).dev.net.replay = m.dev.net.replay := by
  unfold Manager.lineLoaded
  split
  · simp
  · dsimp only
    split
    · simp
    next h => simpa using (finishStage_quiet ..).finish h
    next h => simpa using (finishStage_quiet ..).go h

@[simp] theorem Manager.wordsCame_replay (m : Manager) (c : Nat) (l : LineRun) : (m.wordsCame c l).dev.net.replay = m.dev.net.replay := by
  unfold Manager.wordsCame; simp

@[simp] theorem Manager.tagReply_replay (m : Manager) (cell tag : Nat) (found : WordFound) :
    (m.tagReply cell tag found).dev.net.replay = m.dev.net.replay := by
  unfold Manager.tagReply
  split
  · rfl
  · dsimp only
    repeat' split
    all_goals simp

@[simp] theorem Manager.freeSlotFor_replay (m : Manager) (cell prio : Nat) :
    (m.freeSlotFor cell prio).1.dev.net.replay = m.dev.net.replay := by
  unfold Manager.freeSlotFor
  repeat' split
  all_goals simp

@[simp] theorem Manager.requeueAll_dev (m : Manager) (gone : Nat) (to_ : Option Nat) : (m.requeueAll gone to_).dev = m.dev := by
  refine Manager.foldl_dev _ (fun m x => ?_) _ _
  split
  · rfl
  · split <;> simp

@[simp] theorem Manager.checkDegraded_replay (m : Manager) : m.checkDegraded.dev.net.replay = m.dev.net.replay := by
  unfold Manager.checkDegraded; simp

@[simp] theorem Manager.remap_replay (m : Manager) (p : Nat) : (m.remap p).dev.net.replay = m.dev.net.replay := by
  unfold Manager.remap
  dsimp only
  repeat' split
  all_goals simp

/-! ### Computations -/

@[simp] theorem Manager.drawSeeds_replay (m : Manager) (sw : List Nat) : (m.drawSeeds sw).dev.net.replay = m.dev.net.replay := by
  unfold Manager.drawSeeds; simp
@[simp] theorem Manager.dropTrees_replay (m : Manager) (ls : Links) : (m.dropTrees ls).dev.net.replay = m.dev.net.replay := by
  unfold Manager.dropTrees; simp -implicitDefEqProofs
@[simp] theorem Manager.clearAdj_replay (m : Manager) : m.clearAdj.dev.net.replay = m.dev.net.replay := by
  unfold Manager.clearAdj; simp
@[simp] theorem Manager.zeroEvent_replay (m : Manager) (l : List Nat) : (m.zeroEvent l).dev.net.replay = m.dev.net.replay := by
  unfold Manager.zeroEvent; simp
@[simp] theorem Manager.runHook_replay (m : Manager) (c : Comp) : (m.runHook c).dev.net.replay = m.dev.net.replay := by
  unfold Manager.runHook; simp
@[simp] theorem Manager.undoHook_replay (m : Manager) (c : Comp) : (m.undoHook c).dev.net.replay = m.dev.net.replay := by
  unfold Manager.undoHook; simp
@[simp] theorem Manager.compStats_replay (m : Manager) (c : Comp) (cut : Nat) : (m.compStats c cut).dev.net.replay = m.dev.net.replay := by
  unfold Manager.compStats; simp

@[simp] theorem Manager.completeComp_replay (m : Manager) : m.completeComp.dev.net.replay = m.dev.net.replay := by
  unfold Manager.completeComp
  repeat' split
  all_goals simp

@[simp] theorem Manager.takeAdj_replay (m : Manager) (adj : SMap Nat) : (m.takeAdj adj).dev.net.replay = m.dev.net.replay := by
  unfold Manager.takeAdj; simp
@[simp] theorem Manager.imbalance_replay (m : Manager) (k : Nat) : (m.imbalance k).dev.net.replay = m.dev.net.replay := by
  unfold Manager.imbalance; simp
@[simp] theorem Manager.startRedraw_replay (m : Manager) : m.startRedraw.dev.net.replay = m.dev.net.replay := by
  unfold Manager.startRedraw; simp

/-! ### Redundancy -/

@[simp] theorem Manager.toPeer_replay (m : Manager) (nid : Nat) (x : Msg) : (m.toPeer nid x).dev.net.replay = m.dev.net.replay := by
  unfold Manager.toPeer; simp
@[simp] theorem Manager.triadSend_dev (m : Manager) (x : TriadMsg) : (m.triadSend x).dev = m.dev := by rfl
@[simp] theorem Manager.addPeer_replay (m : Manager) (k : Nat) : (m.addPeer k).dev.net.replay = m.dev.net.replay := by
  unfold Manager.addPeer; simp
@[simp] theorem Manager.dropPeer_replay (m : Manager) (k : Nat) : (m.dropPeer k).dev.net.replay = m.dev.net.replay := by
  unfold Manager.dropPeer; simp
@[simp] theorem Manager.yieldIf_replay (m : Manager) : m.yieldIf.dev.net.replay = m.dev.net.replay := by
  unfold Manager.yieldIf; simp
@[simp] theorem Manager.alone_replay (m : Manager) : m.alone.dev.net.replay = m.dev.net.replay := by
  unfold Manager.alone; simp
@[simp] theorem Manager.entryHeld_replay (m : Manager) (slot seq : Nat) : (m.entryHeld slot seq).dev.net.replay = m.dev.net.replay := by
  unfold Manager.entryHeld; simp
@[simp] theorem Manager.claimAs_replay (m : Manager) (cause n prev prevNid : Nat) :
    (m.claimAs cause n prev prevNid).dev.net.replay = m.dev.net.replay := by
  unfold Manager.claimAs; simp
@[simp] theorem Manager.claimBoot_replay (m : Manager) : m.claimBoot.dev.net.replay = m.dev.net.replay := by
  unfold Manager.claimBoot; simp
@[simp] theorem Manager.lostWithLeader_replay (m : Manager) : m.lostWithLeader.dev.net.replay = m.dev.net.replay := by
  unfold Manager.lostWithLeader; simp -implicitDefEqProofs
@[simp] theorem Manager.complete_replay (m : Manager) (n : Nat) (behind : List Nat) :
    (m.complete n behind).dev.net.replay = m.dev.net.replay := by
  unfold Manager.complete; simp
@[simp] theorem Manager.settleOn_replay (m : Manager) (n : Nat) : (m.settleOn n).dev.net.replay = m.dev.net.replay := by
  unfold Manager.settleOn; simp
@[simp] theorem Manager.stageAgain_replay (m : Manager) (kept : Option Cand) (behind : List Nat) :
    (m.stageAgain kept behind).dev.net.replay = m.dev.net.replay := by
  unfold Manager.stageAgain; split <;> simp
@[simp] theorem Manager.settleGain_replay (m : Manager) (cause : Nat) (kept : Option Cand) :
    (m.settleGain cause kept).dev.net.replay = m.dev.net.replay := by
  unfold Manager.settleGain; simp
@[simp] theorem Manager.gainDone_replay (m : Manager) : m.gainDone.dev.net.replay = m.dev.net.replay := by
  unfold Manager.gainDone; split <;> simp
@[simp] theorem Manager.gained_replay (m : Manager) (cause : Nat) (committed : SMap Nat) (waits : List Nat) (again : Bool) :
    (m.gained cause committed waits again).dev.net.replay = m.dev.net.replay := by
  unfold Manager.gained; simp
@[simp] theorem Manager.takeOver_replay (m : Manager) (cause : Nat) : (m.takeOver cause).dev.net.replay = m.dev.net.replay := by
  unfold Manager.takeOver; simp
@[simp] theorem Manager.standBy_replay (m : Manager) (src : Nat) : (m.standBy src).dev.net.replay = m.dev.net.replay := by
  unfold Manager.standBy; simp
@[simp] theorem Manager.rejoins_replay (m : Manager) (sw committed : Nat) : (m.rejoins sw committed).dev.net.replay = m.dev.net.replay := by
  unfold Manager.rejoins; simp
@[simp] theorem Manager.lateReport_replay (m : Manager) (sw committed : Nat) :
    (m.lateReport sw committed).dev.net.replay = m.dev.net.replay := by
  unfold Manager.lateReport; simp
@[simp] theorem Manager.silentAgents_replay (m : Manager) (lost : List Nat) : (m.silentAgents lost).dev.net.replay = m.dev.net.replay := by
  unfold Manager.silentAgents; simp
@[simp] theorem Manager.decided_replay (m : Manager) (imp : Nat) (digest : Digest) (plates : SMap Plate) (full : Bool) :
    (m.decided imp digest plates full).dev.net.replay = m.dev.net.replay := by
  unfold Manager.decided; simp
@[simp] theorem Manager.fetch_dev (m : Manager) (seq : Nat) : (m.fetch seq).dev = m.dev := by
  unfold Manager.fetch; simp
@[simp] theorem Manager.outOfStep_replay (m : Manager) (src : Nat) : (m.outOfStep src).dev.net.replay = m.dev.net.replay := by
  unfold Manager.outOfStep; simp
@[simp] theorem Manager.caughtUp_replay (m : Manager) : m.caughtUp.dev.net.replay = m.dev.net.replay := by
  unfold Manager.caughtUp; simp
@[simp] theorem Manager.yielded_replay (m : Manager) : m.yielded.dev.net.replay = m.dev.net.replay := by
  unfold Manager.yielded; split <;> simp
@[simp] theorem Manager.passOn_replay (m : Manager) (seq : Nat) (e : StreamEntry) : (m.passOn seq e).dev.net.replay = m.dev.net.replay := by
  unfold Manager.passOn; simp
@[simp] theorem Manager.keyPeer_replay (m : Manager) (nid : Nat) : (m.keyPeer nid).dev.net.replay = m.dev.net.replay := by
  unfold Manager.keyPeer; simp
@[simp] theorem Manager.heardSeq_replay (m : Manager) (src seq : Nat) : (m.heardSeq src seq).dev.net.replay = m.dev.net.replay := by
  unfold Manager.heardSeq; simp -implicitDefEqProofs
@[simp] theorem Manager.beat_dev (m : Manager) (me : Nat) : (m.beat me).dev = m.dev := by
  unfold Manager.beat; simp
@[simp] theorem Manager.resyncHere_replay (m : Manager) : m.resyncHere.dev.net.replay = m.dev.net.replay := by
  unfold Manager.resyncHere; simp
@[simp] theorem Manager.noAgreement_replay (m : Manager) : m.noAgreement.dev.net.replay = m.dev.net.replay := by
  unfold Manager.noAgreement; simp
@[simp] theorem Manager.adoptCopy_replay (m : Manager) (c : Copy) : (m.adoptCopy c).dev.net.replay = m.dev.net.replay := by
  unfold Manager.adoptCopy; simp
@[simp] theorem Manager.rejoinUnit_replay (m : Manager) (src : Nat) : (m.rejoinUnit src).dev.net.replay = m.dev.net.replay := by
  unfold Manager.rejoinUnit; simp

end Sys2Proof.Machine
end

section
/-! SUPPORT. What a command can do: it answers a next state in which only the manager module has changed, or only one agent. -/

namespace Sys2Proof.Machine

/-- From one state to another only the manager module has changed, and it is applying no entry where it was applying none. -/
structure State.OnlyMgr (s t : State) : Prop where
  frame : t = { s with mgr := t.mgr }
  quiet : s.mgr.dev.net.replay = false → t.mgr.dev.net.replay = false

theorem State.OnlyMgr.refl (s : State) : s.OnlyMgr s := ⟨rfl, id⟩

theorem State.OnlyMgr.trans {s t u : State} (h : s.OnlyMgr t) (g : t.OnlyMgr u) : s.OnlyMgr u :=
  ⟨by rw [g.frame, h.frame], fun q => g.quiet (h.quiet q)⟩

theorem State.OnlyMgr.ite {s t u : State} {c : Prop} [Decidable c] (h : s.OnlyMgr t) (g : s.OnlyMgr u) :
    s.OnlyMgr (if c then t else u) := by
  split <;> assumption

theorem State.OnlyMgr.setMgr {s t : State} (h : s.OnlyMgr t) {m : Manager}
    (hm : t.mgr.dev.net.replay = false → m.dev.net.replay = false) : s.OnlyMgr { t with mgr := m } := h.trans ⟨rfl, hm⟩

theorem State.onlyMgr_foldl {α : Type} (f : State → α → State) (h : ∀ (s : State) x, s.OnlyMgr (f s x)) (l : List α) (s : State) :
    s.OnlyMgr (l.foldl f s) := by
  induction l generalizing s with
  | nil => exact .refl s
  | cons x l ih => exact (h s x).trans (ih _)

/-- The outcome is a next state in which only the manager module has changed. -/
def MgrTurn (s : State) (o : Out) : Prop := ∃ t, o = .next t ∧ s.OnlyMgr t

theorem MgrTurn.of {s t : State} (h : s.OnlyMgr t) : MgrTurn s (.next t) := ⟨t, rfl, h⟩

theorem MgrTurn.same (s : State) : MgrTurn s (.next s) := .of (.refl s)

theorem MgrTurn.next {s : State} {m : Manager} (h : s.mgr.dev.net.replay = false → m.dev.net.replay = false) :
    MgrTurn s (.next { s with mgr := m }) := .of ⟨rfl, h⟩

theorem MgrTurn.after {s t : State} {o : Out} (h : s.OnlyMgr t) (g : MgrTurn t o) : MgrTurn s o := by
  obtain ⟨u, e, g⟩ := g
  exact ⟨u, e, h.trans g⟩

theorem MgrTurn.ite {s : State} {o p : Out} {c : Prop} [Decidable c] (h : MgrTurn s o) (g : MgrTurn s p) :
    MgrTurn s (if c then o else p) := by
  split <;> assumption

/-- The outcome is a next state in which only one agent has changed. -/
def AgentTurn (s : State) (o : Out) : Prop := ∃ die a, o = .next (s.setAgent die a)

/-- The outcome is a next state, and only the manager module or only one agent has changed. -/
def Turn (s : State) (o : Out) : Prop := MgrTurn s o ∨ AgentTurn s o

end Sys2Proof.Machine
end

section
/-! SUPPORT. Commands that run at the manager module: each answers a next state and changes nothing but the module. -/

namespace Sys2Proof.Machine

/-! ### Contexts -/

theorem execCvGo_mgr (req : Req) (value : Nat) (s : State) : MgrTurn s (execCvGo req value s) :=
  .ite (.next fun h => by simp [h]) (.next fun h => by simp [h])
theorem execCvCancel_mgr (req : Req) (tag : Nat) (s : State) : MgrTurn s (execCvCancel req tag s) :=
  .next fun h => by simp [h]

theorem execPlaceComplete_mgr (s : State) : MgrTurn s (execPlaceComplete s) := by
  unfold execPlaceComplete
  dsimp only
  repeat' split
  all_goals exact .next fun h => by simp [h]

theorem execWaitExpired_mgr (tag : Nat) (s : State) : MgrTurn s (execWaitExpired tag s) := by
  unfold execWaitExpired
  split
  · exact .same s
  · exact .next fun h => by simp [h]

theorem execKeyAck_mgr (hdr : Hdr) (ctx gen role status : Nat) (s : State) : MgrTurn s (execKeyAck hdr ctx gen role status s) :=
  .ite (.next fun h => by simp [h]) (.next fun h => by simp [h])

theorem execSetKeyTimeout_mgr (ctx : Nat) (s : State) : MgrTurn s (execSetKeyTimeout ctx s) := by
  unfold execSetKeyTimeout
  dsimp only
  repeat' split
  all_goals exact .next fun h => by simp [h]

theorem execCarveComplete_mgr (ctx : Nat) (s : State) : MgrTurn s (execCarveComplete ctx s) :=
  .ite (.same s) (.next fun h => by simp [h])
theorem execCxReleaseDrain_mgr (req : Req) (s : State) : MgrTurn s (execCxReleaseDrain req s) :=
  .ite (.next fun h => by simp [h]) (.next fun h => by simp [h])
theorem execCxReleasePurge_mgr (req : Req) (s : State) : MgrTurn s (execCxReleasePurge req s) :=
  .ite (.next fun h => by simp [h]) (.next fun h => by simp [h])
theorem execDrainTimeout_mgr (ctx : Nat) (s : State) : MgrTurn s (execDrainTimeout ctx s) :=
  .ite (.same s) (.next fun h => by simp [h])

theorem execPurgeTagsReturned_mgr (ctx : Nat) (s : State) : MgrTurn s (execPurgeTagsReturned ctx s) := by
  unfold execPurgeTagsReturned
  dsimp only
  repeat' split
  all_goals exact .next fun h => by simp [h]

theorem execRevokeTimeout_mgr (ctx : Nat) (s : State) : MgrTurn s (execRevokeTimeout ctx s) := by
  unfold execRevokeTimeout
  dsimp only
  split <;> exact .next fun h => by simp [h]

theorem execVfReset_mgr (ctx : Nat) (s : State) : MgrTurn s (execVfReset ctx s) := by
  unfold execVfReset
  dsimp only
  repeat' split
  all_goals exact .next fun h => by simp [h]

theorem execPurgeComplete_mgr (ctx : Nat) (s : State) : MgrTurn s (execPurgeComplete ctx s) :=
  .next fun h => by simp [h]
theorem execQuarantineExpire_mgr (ctx : Nat) (s : State) : MgrTurn s (execQuarantineExpire ctx s) :=
  .ite (.same s) (.next fun h => by simp [h])
theorem execDramPageZeroed_mgr (mib : Nat) (s : State) : MgrTurn s (execDramPageZeroed mib s) :=
  .next fun h => by simp [h]

theorem execConfidentialReplyRelease_mgr (req : Req) (s : State) : MgrTurn s (execConfidentialReplyRelease req s) := by
  unfold execConfidentialReplyRelease
  dsimp only
  repeat' split
  all_goals exact .next fun h => by simp [h]

/-! ### Installation -/

theorem execStageAck_mgr (hdr : Hdr) (imp status detail : Nat) (digest : Digest) (s : State) :
    MgrTurn s (execStageAck hdr imp status detail digest s) := by
  unfold execStageAck
  dsimp only
  repeat' split
  all_goals exact .next fun h => by simp [h]

theorem execStageAttemptTimeout_mgr (switch : Nat) (s : State) : MgrTurn s (execStageAttemptTimeout switch s) := by
  unfold execStageAttemptTimeout
  repeat' split
  all_goals exact .next fun h => by simp [h]

theorem execCommitAck_mgr (hdr : Hdr) (imp status detail : Nat) (field : Digest) (s : State) :
    MgrTurn s (execCommitAck hdr imp status detail field s) := by
  unfold execCommitAck
  dsimp only
  repeat' split
  all_goals exact .next fun h => by simp [h]

theorem execCommitRetry_mgr (s : State) : MgrTurn s (execCommitRetry s) := by
  unfold execCommitRetry
  dsimp only
  repeat' split
  all_goals exact .next fun h => by simp [h]

theorem execCommitTimeout_mgr (s : State) : MgrTurn s (execCommitTimeout s) := by
  unfold execCommitTimeout
  dsimp only
  repeat' split
  all_goals exact .next fun h => by simp [h]

theorem execIsolateAck_mgr (hdr : Hdr) (nid status : Nat) (s : State) : MgrTurn s (execIsolateAck hdr nid status s) :=
  .ite (.next fun h => by simp [h]) (.next fun h => by simp [h])

theorem execIsolateRetry_mgr (switch : Nat) (s : State) : MgrTurn s (execIsolateRetry switch s) := by
  unfold execIsolateRetry
  split
  · exact .same s
  · exact .next fun h => by simp [h]

theorem execIsolateTimeout_mgr (switch : Nat) (s : State) : MgrTurn s (execIsolateTimeout switch s) := by
  unfold execIsolateTimeout
  split
  · exact .same s
  · exact .next fun h => by simp [h]

theorem execOldSideRelease_mgr (s : State) : MgrTurn s (execOldSideRelease s) := by
  unfold execOldSideRelease
  dsimp only
  repeat' split
  all_goals exact .next fun h => by simp [h]

theorem execImpFull_mgr (req : Req) (value : Nat) (s : State) : MgrTurn s (execImpFull req value s) :=
  .ite (.next fun h => by simp [h]) (.next fun h => by simp [h])
theorem execIsReadmit_mgr (req : Req) (value : Nat) (s : State) : MgrTurn s (execIsReadmit req value s) :=
  .next fun h => by simp [h]

theorem execIaRestore_mgr (req : Req) (value : Nat) (s : State) : MgrTurn s (execIaRestore req value s) := by
  refine .next fun h => (Manager.cmd_replay _ _ _ _ _ _ _ _ fun m _ => ?_).trans h
  split
  · simp
  · split <;> simp

/-! ### Recovery -/

theorem execNeighbour_mgr (hdr : Hdr) (peerNode peerPort : Nat) (peerEp : Bool) (port : Nat) (ep : Bool) (s : State) :
    MgrTurn s (execNeighbour hdr peerNode peerPort peerEp port ep s) := by
  unfold execNeighbour
  dsimp only
  repeat' split
  all_goals exact .next fun h => by simp [h]

theorem execMemberAck_mgr (hdr : Hdr) (ctx gen nid : Nat) (s : State) : MgrTurn s (execMemberAck hdr ctx gen nid s) :=
  .ite (.next fun h => by simp [h]) (.next fun h => by simp [h])
theorem execMemberLostRetry_mgr (s : State) : MgrTurn s (execMemberLostRetry s) :=
  .ite (.same s) (.next fun h => by simp [h])

theorem execRejoinTimeout_mgr (ctx : Nat) (s : State) : MgrTurn s (execRejoinTimeout ctx s) := by
  unfold execRejoinTimeout
  dsimp only
  repeat' split
  all_goals exact .next fun h => by simp [h]

theorem execKeyBarLifted_mgr (ctx : Nat) (s : State) : MgrTurn s (execKeyBarLifted ctx s) := by
  unfold execKeyBarLifted
  dsimp only
  repeat' split
  all_goals exact .next fun h => by simp [h]

theorem execLinkEvent_mgr (hdr : Hdr) (nid port : Nat) (ep good : Bool) (report time : Nat) (wait : Bool) (s : State) :
    MgrTurn s (execLinkEvent hdr nid port ep good report time wait s) :=
  .next fun h => by simp [h]
theorem execEpReset_mgr (hdr : Hdr) (nid cause resets report time : Nat) (wait : Bool) (s : State) :
    MgrTurn s (execEpReset hdr nid cause resets report time wait s) :=
  .next fun h => by simp [h]
theorem execNodeReady_mgr (hdr : Hdr) (nid report : Nat) (wait : Bool) (s : State) : MgrTurn s (execNodeReady hdr nid report wait s) :=
  .next fun h => by simp [h]
theorem execResetReq_mgr (hdr : Hdr) (nid switch report : Nat) (wait : Bool) (s : State) :
    MgrTurn s (execResetReq hdr nid switch report wait s) :=
  .next fun h => by simp [h]
theorem execNodeLost_mgr (hdr : Hdr) (nid report time : Nat) (wait : Bool) (s : State) :
    MgrTurn s (execNodeLost hdr nid report time wait s) :=
  .next fun h => by simp [h]

theorem execHeartbeatRound_mgr (s : State) : MgrTurn s (execHeartbeatRound s) := by
  unfold execHeartbeatRound
  dsimp only
  repeat' split
  all_goals exact .next fun h => by simp [h]

theorem execAgentHeartbeatMissed_mgr (nid : Nat) (s : State) : MgrTurn s (execAgentHeartbeatMissed nid s) :=
  .ite (.same s) (.next fun h => by simp [h])
theorem execSilentTimeout_mgr (nid : Nat) (s : State) : MgrTurn s (execSilentTimeout nid s) :=
  .ite (.same s) (.next fun h => by simp [h])

theorem execTimeEstimateExpire_mgr (nid : Nat) (s : State) : MgrTurn s (execTimeEstimateExpire nid s) := by
  unfold execTimeEstimateExpire
  split
  · exact .same s
  · exact .next fun h => by simp [h]

theorem execScribeWatchdog_mgr (core : Nat) (reqs : List Req) (s : State) : MgrTurn s (execScribeWatchdog core reqs s) :=
  .next fun h => by simp [h]

theorem execHangWatchdog_mgr (ctx : Nat) (s : State) : MgrTurn s (execHangWatchdog ctx s) := by
  unfold execHangWatchdog
  dsimp only
  repeat' split
  all_goals exact .next fun h => by simp [h]

theorem execCellResetComplete_mgr (cell : Nat) (s : State) : MgrTurn s (execCellResetComplete cell s) :=
  .ite (.same s) <| .ite (.next fun h => by simp [h]) (.next fun h => by simp [h])
theorem execEpReadmit_mgr (req : Req) (value : Nat) (s : State) : MgrTurn s (execEpReadmit req value s) :=
  .next fun h => by simp [h]

theorem execLkReadmit_mgr (req : Req) (value : Nat) (s : State) : MgrTurn s (execLkReadmit req value s) := by
  refine .next fun h => (Manager.cmd_replay _ _ _ _ _ _ _ _ fun m _ => ?_).trans h
  dsimp only
  generalize hn : List.foldl _ m _ = n
  have e : n.dev = m.dev := by
    rw [← hn]
    exact Manager.foldl_dev _ (fun _ _ => by split <;> rfl) _ _
  split <;> simp [e]

theorem execRsCommit_mgr (req : Req) (value : Nat) (s : State) : MgrTurn s (execRsCommit req value s) :=
  .next fun h => by simp [h]

/-! ### Discovery -/

theorem execBpImage_mgr (req : Req) (image : List Byte) (s : State) : MgrTurn s (execBpImage req image s) := by
  refine .next fun h => (Manager.hostWrite_replay _ _ _ _ _ _ _ fun m _ => ?_).trans h
  dsimp only
  split <;> simp

theorem execHello_mgr (hdr : Hdr) (payload : List Byte) (s : State) : MgrTurn s (execHello hdr payload s) :=
  .ite (.next fun h => by simp [h]) (.next fun h => by simp [h])

theorem execAttestReport_mgr (hdr : Hdr) (die : Nat) (sigOk : Bool) (nonce hello : Digest) (desc : List Byte) (debug : Nat) (s : State) :
    MgrTurn s (execAttestReport hdr die sigOk nonce hello desc debug s) := by
  unfold execAttestReport
  dsimp only
  repeat' split
  all_goals exact .next fun h => by simp [h]

theorem execAttestRepeat_mgr (s : State) : MgrTurn s (execAttestRepeat s) :=
  .ite (.same s) (.next fun h => by simp [h])
theorem execSettleExpire_mgr (s : State) : MgrTurn s (execSettleExpire s) :=
  .ite (.same s) (.next fun h => by simp [h])
theorem execReadyToleranceWrite_mgr (req : Req) (sub : Nat) (data : List Byte) (s : State) :
    MgrTurn s (execReadyToleranceWrite req sub data s) :=
  .next fun h => by simp [h]
theorem execDsRestart_mgr (req : Req) (value : Nat) (s : State) : MgrTurn s (execDsRestart req value s) :=
  .next fun h => by simp -implicitDefEqProofs [h]

/-! ### Bulk images -/

theorem execFwImage_mgr (req : Req) (image : List Byte) (s : State) : MgrTurn s (execFwImage req image s) :=
  .next fun h => by simp [h]
theorem execFwBroadcast_mgr (req : Req) (sigOk : Bool) (s : State) : MgrTurn s (execFwBroadcast req sigOk s) :=
  .ite (.next fun h => by simp [h]) (.next fun h => by simp [h])
theorem execPassSent_mgr (s : State) : MgrTurn s (execPassSent s) :=
  .ite (.same s) (.next fun h => by simp [h])
theorem execFwActivate_mgr (req : Req) (s : State) : MgrTurn s (execFwActivate req s) :=
  .next fun h => by simp [h]
theorem execFwAbort_mgr (req : Req) (s : State) : MgrTurn s (execFwAbort req s) :=
  .next fun h => by simp [h]
theorem execBulkReport_mgr (hdr : Hdr) (image state pass : Nat) (more : Bool) (missing : List (Nat × Nat)) (s : State) :
    MgrTurn s (execBulkReport hdr image state pass more missing s) :=
  .ite (.next fun h => by simp [h]) (.next fun h => by simp [h])
theorem execPassPlan_mgr (s : State) : MgrTurn s (execPassPlan s) :=
  .ite (.same s) <| .ite (.next fun h => by simp [h]) (.next fun h => by simp [h])
theorem execActivationBatchTimeout_mgr (s : State) : MgrTurn s (execActivationBatchTimeout s) :=
  .ite (.same s) (.next fun h => by simp [h])
theorem execBtFresh_mgr (req : Req) (value : Nat) (s : State) : MgrTurn s (execBtFresh req value s) :=
  .next fun h => by simp -implicitDefEqProofs [h]

/-! ### Keys -/

theorem execKeyAccept_mgr (hdr : Hdr) (assoc : Nat) (phase : Bool) (status : Nat) (s : State) :
    MgrTurn s (execKeyAccept hdr assoc phase status s) := by
  unfold execKeyAccept
  dsimp only
  repeat' split
  all_goals exact .next fun h => by simp [h]

theorem execTimedSend_mgr (nid : Nat) (s : State) : MgrTurn s (execTimedSend nid s) := by
  unfold execTimedSend
  dsimp only
  repeat' split
  all_goals exact .next fun h => by simp [h]

theorem execTimedReply_mgr (hdr : Hdr) (t1 t2 t3 wdrSent : Nat) (rekey restarting plateValid : Bool) (s : State) :
    MgrTurn s (execTimedReply hdr t1 t2 t3 wdrSent rekey restarting plateValid s) := by
  unfold execTimedReply
  dsimp only
  split <;> exact .next fun h => by simp [h]

theorem execManagerPortDown_mgr (port : Nat) (s : State) : MgrTurn s (execManagerPortDown port s) :=
  .next fun h => by simp [h]

/-! ### The module -/

theorem execModuleStart_mgr (start : StartIn) (s : State) : MgrTurn s (execModuleStart start s) :=
  .ite (.same s) (.next fun _ => by simp)
theorem execDvReset_mgr (req : Req) (value : Nat) (start : StartIn) (s : State) : MgrTurn s (execDvReset req value start s) :=
  .ite (.next fun h => by simp [h]) <| .ite (.next fun h => by simp [h]) <| .ite (.next fun h => by simp [h]) (.next fun _ => by simp)

/-! ### Telemetry -/

theorem execTelemetry_mgr (hdr : Hdr) (time period : Nat) (last : Bool) (recs : List TlRec) (s : State) :
    MgrTurn s (execTelemetry hdr time period last recs s) :=
  .ite (.next fun h => by simp [h]) (.next fun h => by simp [h])
theorem execTelemetryManagerPeriod_mgr (s : State) : MgrTurn s (execTelemetryManagerPeriod s) :=
  .next fun h => by simp [h]
theorem execSubsampleWindow_mgr (full : Bool) (s : State) : MgrTurn s (execSubsampleWindow full s) :=
  .ite (.same s) (.next fun h => by simp [h])

/-! ### Requests of the host -/

theorem execDwGo_mgr (fn slot : Nat) (irq : Bool) (s : State) : MgrTurn s (execDwGo fn slot irq s) :=
  .ite (.same s) <| .ite (.next fun h => by simp [h]) (.next fun h => by simp [h])

theorem execDictReplyHost_mgr (fn slot : Nat) (s : State) : MgrTurn s (execDictReplyHost fn slot s) := by
  unfold execDictReplyHost
  dsimp only
  split
  · exact .same s
  · split
    · exact .same s
    next m e =>
      have hm : m.dev = s.mgr.dev := s.mgr.takeAnswer_dev _ _ e
      split <;> exact .next fun h => by simp [h, hm]

theorem execDqTail_mgr (fn v : Nat) (bufs : SMap (List Byte)) (s : State) : MgrTurn s (execDqTail fn v bufs s) :=
  .ite (.same s) <| .ite (.next fun h => by simp [h]) (.next fun h => by simp [h])

theorem execDescriptorComplete_mgr (fn : Nat) (s : State) : MgrTurn s (execDescriptorComplete fn s) := by
  unfold execDescriptorComplete
  dsimp only
  split
  · exact .same s
  · split
    · exact .same s
    next m e =>
      have hm : m.dev = s.mgr.dev := s.mgr.takeAnswer_dev _ _ e
      exact .next fun h => by simp [h, hm]

theorem execDictReply_mgr (hdr : Hdr) (tag result : Nat) (data : List Byte) (s : State) :
    MgrTurn s (execDictReply hdr tag result data s) := by
  unfold execDictReply
  dsimp only
  repeat' split
  all_goals exact .next fun h => by simp [h]

theorem execProxyTimeout_mgr (num : Nat) (s : State) : MgrTurn s (execProxyTimeout num s) := by
  unfold execProxyTimeout
  split
  · exact .same s
  · exact .next fun h => by simp [h]

/-! ### Mailboxes, CRC and sync objects -/

theorem execHostMailboxGo_mgr (fn box : Nat) (s : State) : MgrTurn s (execHostMailboxGo fn box s) :=
  .ite (.same s) <| .ite (.next fun h => by simp [h]) <| .ite (.same s) (.next fun h => by simp [h])
theorem execMbDoorbell_mgr (box : Nat) (s : State) : MgrTurn s (execMbDoorbell box s) :=
  .next fun h => by simp [h]
theorem execPing_mgr (box : Nat) (s : State) : MgrTurn s (execPing box s) :=
  .next fun h => by simp [h]
theorem execHostLog_mgr (box : Nat) (s : State) : MgrTurn s (execHostLog box s) :=
  .next fun h => by simp [h]
theorem execMark_mgr (box : Nat) (s : State) : MgrTurn s (execMark box s) :=
  .next fun h => by simp [h]

theorem execMbAckHost_mgr (box : Nat) (s : State) : MgrTurn s (execMbAckHost box s) := by
  unfold execMbAckHost
  dsimp only
  repeat' split
  all_goals exact .next fun h => by simp [h]

theorem execDbSet_mgr (fn q v : Nat) (s : State) : MgrTurn s (execDbSet fn q v s) :=
  .ite (.same s) (.next fun h => by simp [h])
theorem execDbClear_mgr (fn q v : Nat) (s : State) : MgrTurn s (execDbClear fn q v s) :=
  .ite (.same s) (.next fun h => by simp [h])
theorem execIntStatusClear_mgr (fn v : Nat) (s : State) : MgrTurn s (execIntStatusClear fn v s) :=
  .ite (.same s) (.next fun h => by simp [h])
theorem execIntMaskWrite_mgr (fn v : Nat) (s : State) : MgrTurn s (execIntMaskWrite fn v s) :=
  .ite (.same s) (.next fun h => by simp [h])
theorem execCfCtl_mgr (fn k v : Nat) (s : State) : MgrTurn s (execCfCtl fn k v s) :=
  .ite (.same s) (.next fun h => by simp [h])
theorem execCfFeed8_mgr (fn k v : Nat) (s : State) : MgrTurn s (execCfFeed8 fn k v s) :=
  .next fun h => by simp [h]
theorem execCfFeed16_mgr (fn k v : Nat) (s : State) : MgrTurn s (execCfFeed16 fn k v s) :=
  .next fun h => by simp [h]
theorem execCfFeed32_mgr (fn k v : Nat) (s : State) : MgrTurn s (execCfFeed32 fn k v s) :=
  .next fun h => by simp [h]
theorem execSoCfg_mgr (fn n v : Nat) (s : State) : MgrTurn s (execSoCfg fn n v s) :=
  .next fun h => by simp -implicitDefEqProofs [h]
theorem execSoValueWrite_mgr (fn n v : Nat) (s : State) : MgrTurn s (execSoValueWrite fn n v s) :=
  .next fun h => (Manager.syncWrite_replay _ _ _ _ fun m => by split <;> simp).trans h
theorem execSoOpCounter_mgr (fn n v : Nat) (s : State) : MgrTurn s (execSoOpCounter fn n v s) :=
  .next fun h => by simp [h]
theorem execSoOpSemaphore_mgr (fn n v : Nat) (s : State) : MgrTurn s (execSoOpSemaphore fn n v s) :=
  .next fun h => by simp [h]
theorem execSoOpLockRelease_mgr (fn n : Nat) (s : State) : MgrTurn s (execSoOpLockRelease fn n s) :=
  .next fun h => by simp [h]
theorem execSoOpEventSet_mgr (fn n : Nat) (s : State) : MgrTurn s (execSoOpEventSet fn n s) :=
  .next fun h => by simp [h]
theorem execSoOpEventClear_mgr (fn n : Nat) (s : State) : MgrTurn s (execSoOpEventClear fn n s) :=
  .next fun h => by simp [h]
theorem execSoTargetWrite_mgr (fn n v : Nat) (s : State) : MgrTurn s (execSoTargetWrite fn n v s) :=
  .next fun h => by simp [h]
theorem execLockAcq_mgr (fn n : Nat) (s : State) : MgrTurn s (execLockAcq fn n s) :=
  .next fun h => by simp [h]
theorem execSemAcq_mgr (fn n : Nat) (s : State) : MgrTurn s (execSemAcq fn n s) :=
  .next fun h => by simp [h]
theorem execLockTicket_mgr (fn n : Nat) (s : State) : MgrTurn s (execLockTicket fn n s) :=
  .next fun h => by simp [h]

/-! ### BAR writes -/

theorem execRegisterWrite_mgr (fn bar off width value : Nat) (s : State) : MgrTurn s (execRegisterWrite fn bar off width value s) :=
  .ite (.same s) <| .ite (.next fun h => by simp [h]) <| .ite (.next fun h => by simp [h]) (.next fun h => by simp [h])
theorem execBarrierDown_mgr (s : State) : MgrTurn s (execBarrierDown s) :=
  .ite (.same s) (.next fun h => by simp [h])
theorem execBarrierUp_mgr (accepted : List Req) (s : State) : MgrTurn s (execBarrierUp accepted s) :=
  .ite (.same s) (.next fun h => by simp [h])
theorem execLaneFailure_mgr (lanes frames : Nat) (s : State) : MgrTurn s (execLaneFailure lanes frames s) :=
  .ite (.next fun h => by simp [h]) <| .ite (.same s) (.next fun h => by simp [h])
theorem execFwHeartbeat_mgr (s : State) : MgrTurn s (execFwHeartbeat s) :=
  .ite (.same s) (.next fun h => by simp [h])
theorem execFwStall_mgr (s : State) : MgrTurn s (execFwStall s) :=
  .ite (.same s) (.next fun h => by simp [h])

theorem execFlr_mgr (fn : Nat) (s : State) : MgrTurn s (execFlr fn s) := by
  unfold execFlr
  dsimp only
  repeat' split
  all_goals exact .next fun h => by simp [h]

theorem execPerst_mgr (s : State) : MgrTurn s (execPerst s) :=
  .next fun h => by simp [h]
theorem execPerstDeassertion_mgr (rate width numVfs rid : Nat) (s : State) : MgrTurn s (execPerstDeassertion rate width numVfs rid s) :=
  .ite (.same s) (.next fun h => by simp [h])

/-! ### Reads and writes of objects -/

theorem execPPartCreate_mgr (req : Req) (value : Nat) (s : State) : MgrTurn s (execPPartCreate req value s) :=
  .ite (.next fun h => by simp [h]) (.next fun h => by simp [h])
theorem execPPartDelete_mgr (req : Req) (value : Nat) (s : State) : MgrTurn s (execPPartDelete req value s) :=
  .ite (.next fun h => by simp [h]) (.next fun h => by simp [h])
theorem execPRecompute_mgr (req : Req) (value : Nat) (s : State) : MgrTurn s (execPRecompute req value s) :=
  .ite (.next fun h => by simp [h]) (.next fun h => by simp [h])

/-! ### The recorder -/

theorem execRlCommit_mgr (req : Req) (value : Nat) (s : State) : MgrTurn s (execRlCommit req value s) :=
  .next fun h => by simp [h]
theorem execEvClearCirculating_mgr (req : Req) (s : State) : MgrTurn s (execEvClearCirculating req s) :=
  .next fun h => by simp [h]
theorem execEvClearFirst_mgr (req : Req) (s : State) : MgrTurn s (execEvClearFirst req s) :=
  .next fun h => by simp [h]
theorem execEvClearBoth_mgr (req : Req) (s : State) : MgrTurn s (execEvClearBoth req s) :=
  .next fun h => by simp [h]
theorem execEwView_mgr (fn v : Nat) (s : State) : MgrTurn s (execEwView fn v s) :=
  .ite (.same s) (.next fun h => by simp [h])
theorem execSegmentStreamed_mgr (s : State) : MgrTurn s (execSegmentStreamed s) :=
  .ite (.same s) (.next fun h => by simp [h])

theorem execErRead_mgr (req : Req) (s : State) : MgrTurn s (execErRead req s) := by
  unfold execErRead
  dsimp only
  split
  · exact .next fun h => by simp [h]
  · exact .next fun h => (Manager.answerView_replay _ _ _ (by simp)).trans h

theorem execTsRead_mgr (req : Req) (s : State) : MgrTurn s (execTsRead req s) := by
  unfold execTsRead
  dsimp only
  split <;> exact .next fun h => by simp [h]

theorem execTsSubscribe_mgr (req : Req) (data : List Byte) (s : State) : MgrTurn s (execTsSubscribe req data s) :=
  .next fun h => by simp -implicitDefEqProofs [h]
theorem execEvent_mgr (hdr : Hdr) (bytes : List Byte) (s : State) : MgrTurn s (execEvent hdr bytes s) :=
  .ite (.next fun h => by simp [h]) (.next fun h => by simp [h])

/-! ### Security -/

theorem execScNonce_mgr (req : Req) (s : State) : MgrTurn s (execScNonce req s) :=
  .ite (.next fun h => by simp [h]) <| .ite (.next fun h => by simp [h]) (.next fun h => by simp [h])
theorem execNonceExpire_mgr (s : State) : MgrTurn s (execNonceExpire s) :=
  .next fun h => by simp [h]
theorem execScApply_mgr (req : Req) (value : Nat) (sigOk : Bool) (start : StartIn) (s : State) :
    MgrTurn s (execScApply req value sigOk start s) :=
  .next fun h => s.mgr.ownCmd_quiet _ _ _ _ _ _ (fun _ => Manager.applyToken_replay _ _ _ (by simp [h])) h
theorem execScProvision_mgr (req : Req) (value : Nat) (start : StartIn) (s : State) : MgrTurn s (execScProvision req value start s) :=
  .ite (.next fun h => by simp [h]) <| .ite (.next fun h => by simp [h]) <| .ite (.next fun h => by simp [h]) (.next fun _ => by simp)
theorem execScDebugReq_mgr (req : Req) (value : Nat) (start : StartIn) (s : State) : MgrTurn s (execScDebugReq req value start s) :=
  .ite (.next fun h => by simp [h]) (.next fun h => by simp [h])
theorem execScFusesSet_mgr (req : Req) (value : Nat) (s : State) : MgrTurn s (execScFusesSet req value s) :=
  .next fun h => by simp [h]
theorem execAtGo_mgr (req : Req) (value : Nat) (s : State) : MgrTurn s (execAtGo req value s) :=
  .next fun h => by simp [h]
theorem execPkRotate_mgr (req : Req) (value : Nat) (s : State) : MgrTurn s (execPkRotate req value s) :=
  .next fun h => by simp [h]
theorem execPkPeriod_mgr (s : State) : MgrTurn s (execPkPeriod s) :=
  .ite (.same s) <| .ite (.next fun h => by simp [h]) (.next fun h => by simp [h])
theorem execRotationComplete_mgr (s : State) : MgrTurn s (execRotationComplete s) :=
  .ite (.same s) (.next fun h => by simp [h])
theorem execEntropyHealthFail_mgr (s : State) : MgrTurn s (execEntropyHealthFail s) :=
  .ite (.same s) (.next fun h => by simp [h])
theorem execEntropyHealthPass_mgr (s : State) : MgrTurn s (execEntropyHealthPass s) :=
  .ite (.same s) (.next fun h => by simp [h])

theorem execScSpdm_mgr (req : Req) (data resp : List Byte) (ide : Option Nat) (s : State) : MgrTurn s (execScSpdm req data resp ide s) := by
  unfold execScSpdm
  dsimp only
  repeat' split
  all_goals exact .next fun h => by simp [h]

theorem execIdeStreamInsecure_mgr (s : State) : MgrTurn s (execIdeStreamInsecure s) :=
  .ite (.same s) (.next fun h => by simp [h])

/-! ### Power -/

theorem execPwrWakeBudget_mgr (req : Req) (sub : Nat) (data : List Byte) (s : State) : MgrTurn s (execPwrWakeBudget req sub data s) :=
  .ite (.next fun h => by simp [h]) (.next fun h => by simp [h])
theorem execSentinelEntryManager_mgr (s : State) : MgrTurn s (execSentinelEntryManager s) :=
  .ite (.same s) <| .ite (.next fun h => by simp [h]) <| .ite (.same s) (.next fun h => by simp [h])
theorem execSentinelExitManager_mgr (cause : Nat) (start : StartIn) (s : State) : MgrTurn s (execSentinelExitManager cause start s) :=
  .ite (.next fun h => by simp [h]) (.same s)

theorem execAgentParked_mgr (nid : Nat) (s : State) : MgrTurn s (execAgentParked nid s) := by
  unfold execAgentParked
  dsimp only
  split <;> exact .next fun h => by simp [h]

theorem execSupplyWarning_mgr (s : State) : MgrTurn s (execSupplyWarning s) :=
  .ite (.same s) (.next fun h => by simp [h])
theorem execUndervoltage_mgr (mv : Nat) (s : State) : MgrTurn s (execUndervoltage mv s) :=
  .ite (.same s) (.next fun h => by simp [h])
theorem execOvervoltage_mgr (s : State) : MgrTurn s (execOvervoltage s) :=
  .next fun h => by simp [h]
theorem execTriadPresenceGain_mgr (port : Nat) (start : StartIn) (s : State) : MgrTurn s (execTriadPresenceGain port start s) :=
  .ite (.next fun h => by simp [h]) <| .ite (.same s) (.next fun h => by simp [h])
theorem execHsEnClose_mgr (s : State) : MgrTurn s (execHsEnClose s) :=
  .ite (.same s) (.next fun _ => by simp)
theorem execHsEnOpen_mgr (s : State) : MgrTurn s (execHsEnOpen s) :=
  .next fun h => by simp [h]
theorem execOvercurrent_mgr (s : State) : MgrTurn s (execOvercurrent s) :=
  .ite (.same s) (.next fun h => by simp [h])
theorem execMrst_mgr (start : StartIn) (s : State) : MgrTurn s (execMrst start s) :=
  .ite (.same s) (.next fun _ => by simp)

/-! ### Line steps -/

theorem execLineStart_mgr (ctx line : Nat) (s : State) : MgrTurn s (execLineStart ctx line s) := by
  unfold execLineStart
  dsimp only
  repeat' split
  all_goals exact .next fun h => by simp [h]

theorem execTileStep_mgr (ctx line : Nat) (upset : Option Upset) (corrected : Nat) (failing : List Nat) (s : State) :
    MgrTurn s (execTileStep ctx line upset corrected failing s) := by
  unfold execTileStep
  dsimp only
  split <;> exact .next fun h => by simp [h]

theorem execDigestDrain_mgr (ctx line bytes : Nat) (s : State) : MgrTurn s (execDigestDrain ctx line bytes s) := by
  unfold execDigestDrain
  dsimp only
  repeat' split
  all_goals exact .next fun h => by simp [h]

theorem execTablePatrol_mgr (word : ArrayWord) (found : WordFound) (s : State) : MgrTurn s (execTablePatrol word found s) := by
  unfold execTablePatrol
  split <;> exact .next fun h => by simp [h]

theorem execStackPatrol_mgr (word : ArrayWord) (found : WordFound) (s : State) : MgrTurn s (execStackPatrol word found s) := by
  unfold execStackPatrol
  split
  · exact .same s
  · exact .next fun h => by simp [h]

theorem execCellRemap_mgr (cell : Nat) (s : State) : MgrTurn s (execCellRemap cell s) :=
  .next fun h => by simp [h]
theorem execLpImageWrite_mgr (req : Req) (image : List Byte) (s : State) : MgrTurn s (execLpImageWrite req image s) :=
  .next fun h => by simp [h]
theorem execLpLoad_mgr (req : Req) (value : Nat) (s : State) : MgrTurn s (execLpLoad req value s) :=
  .next fun h => by simp -implicitDefEqProofs [h]
theorem execLpRunStart_mgr (req : Req) (s : State) : MgrTurn s (execLpRunStart req s) :=
  .next fun h => by simp [h]
theorem execLpRunStop_mgr (req : Req) (s : State) : MgrTurn s (execLpRunStop req s) :=
  .next fun h => by simp [h]

/-! ### Computations -/

theorem execCoalescingWindowClose_mgr (s : State) : MgrTurn s (execCoalescingWindowClose s) :=
  .ite (.same s) (.next fun h => by simp [h])

theorem execComputationStart_mgr (s : State) : MgrTurn s (execComputationStart s) := by
  unfold execComputationStart
  dsimp only
  repeat' split
  all_goals exact .next fun h => by simp [h]

theorem execHookTimeout_mgr (s : State) : MgrTurn s (execHookTimeout s) := by
  unfold execHookTimeout
  dsimp only
  repeat' split
  all_goals exact .next fun h => by simp [h]

theorem execPcountComplete_mgr (s : State) : MgrTurn s (execPcountComplete s) := by
  unfold execPcountComplete
  dsimp only
  repeat' split
  all_goals exact .next fun h => by simp [h]

theorem execWideComplete_mgr (ctx : Nat) (s : State) : MgrTurn s (execWideComplete ctx s) :=
  .ite (.same s) (.next fun h => by simp [h])
theorem execLoadPeriod_mgr (s : State) : MgrTurn s (execLoadPeriod s) :=
  .ite (.same s) (.next fun h => by simp [h])
theorem execLdRun_mgr (req : Req) (value : Nat) (s : State) : MgrTurn s (execLdRun req value s) :=
  .next fun h => by simp -implicitDefEqProofs [h]
theorem execLoadComplete_mgr (s : State) : MgrTurn s (execLoadComplete s) :=
  .ite (.same s) (.next fun h => by simp -implicitDefEqProofs [h])
theorem execRebalComplete_mgr (s : State) : MgrTurn s (execRebalComplete s) :=
  .ite (.same s) (.next fun h => by simp [h])
theorem execRbClear_mgr (req : Req) (value : Nat) (s : State) : MgrTurn s (execRbClear req value s) :=
  .next fun h => by simp -implicitDefEqProofs [h]
theorem execImbalanceWindow_mgr (s : State) : MgrTurn s (execImbalanceWindow s) :=
  .ite (.same s) (.next fun h => by simp [h])
theorem execHotClear_mgr (switch : Nat) (s : State) : MgrTurn s (execHotClear switch s) :=
  .ite (.same s) (.next fun h => by simp [h])
theorem execInterleaveWindow_mgr (other : SMap Nat) (s : State) : MgrTurn s (execInterleaveWindow other s) :=
  .ite (.next fun h => by simp [h]) (.next fun h => by simp [h])
theorem execIlRedraw_mgr (req : Req) (value : Nat) (s : State) : MgrTurn s (execIlRedraw req value s) :=
  .next fun h => by simp [h]

theorem execGroupMove_mgr (s : State) : MgrTurn s (execGroupMove s) := by
  unfold execGroupMove
  dsimp only
  repeat' split
  all_goals exact .next fun h => by simp [h]

/-! ### Redundancy -/

theorem execReplAck_mgr (hdr : Hdr) (seq : Nat) (s : State) : MgrTurn s (execReplAck hdr seq s) :=
  .ite (.next fun h => by simp [h]) (.next fun h => by simp [h])

theorem execReplTimeout_mgr (seq : Nat) (s : State) : MgrTurn s (execReplTimeout seq s) := by
  unfold execReplTimeout
  dsimp only
  repeat' split
  all_goals exact .next fun h => by simp [h]

theorem execBootListenExpire_mgr (s : State) : MgrTurn s (execBootListenExpire s) :=
  .ite (.same s) <|
    .ite (.ite (.next fun h => by simp [h]) (.next fun h => by simp [h])) <|
    .ite (.next fun h => by simp [h]) <|
    .ite (.next fun h => by simp [h]) (.next fun h => by simp [h])

theorem execClaimManager_mgr (hdr : Hdr) (_prev _prevNid cause _imp : Nat) (s : State) :
    MgrTurn s (execClaimManager hdr _prev _prevNid cause _imp s) := by
  unfold execClaimManager
  dsimp only
  repeat' split
  all_goals exact .next fun h => by simp [h]

theorem execClaimAck_mgr (hdr : Hdr) (committed staged : Nat) (stagedOk : Bool) (s : State) :
    MgrTurn s (execClaimAck hdr committed staged stagedOk s) := by
  unfold execClaimAck
  dsimp only
  repeat' split
  all_goals exact .next fun h => by simp [h]

theorem execClaimRetry_mgr (s : State) : MgrTurn s (execClaimRetry s) :=
  .ite (.same s) (.next fun h => by simp [h])
theorem execClaimTimeout_mgr (s : State) : MgrTurn s (execClaimTimeout s) :=
  .ite (.same s) (.next fun h => by simp [h])
theorem execRdHandover_mgr (req : Req) (value : Nat) (s : State) : MgrTurn s (execRdHandover req value s) :=
  .next fun h => by simp [h]
theorem execPHaSwitchover_mgr (req : Req) (value : Nat) (s : State) : MgrTurn s (execPHaSwitchover req value s) :=
  .ite (.next fun h => by simp [h]) (.next fun h => by simp [h])
theorem execYield_mgr (hdr : Hdr) (lastSeq cause : Nat) (s : State) : MgrTurn s (execYield_ hdr lastSeq cause s) :=
  .ite (.next fun h => by simp [h]) (.next fun h => by simp [h])
theorem execTakeover_mgr (s : State) : MgrTurn s (execTakeover s) :=
  .ite (.same s) (.next fun h => by simp [h])
theorem execManagerHeartbeat_mgr (s : State) : MgrTurn s (execManagerHeartbeat s) :=
  .ite (.same s) (.next fun h => by simp [h])
theorem execPeerHeartbeat_mgr (hdr : Hdr) (round _imp seq : Nat) (s : State) : MgrTurn s (execPeerHeartbeat hdr round _imp seq s) :=
  .ite (.next fun h => by simp [h]) (.next fun h => by simp [h])
theorem execTrResync_mgr (req : Req) (value : Nat) (s : State) : MgrTurn s (execTrResync req value s) :=
  .ite (.next fun h => by simp [h]) <|
    .ite (.next fun h => by simp [h]) <|
    .ite (.next fun h => by simp [h]) <|
    .ite (.next fun h => by simp [h]) (.next fun h => by simp [h])

/-! ### Dictionary rows -/

theorem writeEvClear_mgr (req : Req) (v : Nat) (s : State) : MgrTurn s (writeEvClear req v s) := by
  unfold writeEvClear
  repeat' split
  all_goals exact .next fun h => by simp [h]

theorem writeLpRun_mgr (req : Req) (v : Nat) (s : State) : MgrTurn s (writeLpRun req v s) := by
  unfold writeLpRun
  repeat' split
  all_goals exact .next fun h => by simp [h]

end Sys2Proof.Machine
end

section
/-! SUPPORT. Entries of the input stream and of replication, and the commands of a triad that apply them or elect a leader. -/

namespace Sys2Proof.Machine

theorem replayInput_onlyMgr (s : State) (act : State → Out) (device draws : Nat) (logs : Bool) :
    s.OnlyMgr (replayInput s act device draws logs) := by
  unfold replayInput
  dsimp only
  generalize act _ = o
  cases o with
  | next t => exact ⟨rfl, fun _ => by simp⟩
  | fault | refused => exact .refl s

theorem applyEntry_onlyMgr (s : State) (n : Nat) (e : StreamEntry) : s.OnlyMgr (applyEntry s n e) := by
  unfold applyEntry
  dsimp only
  generalize hm : (if (s.mgr.onRed _).red.slot.isSome then _ else s.mgr.onRed _) = m
  have hs : s.OnlyMgr { s with mgr := m } := ⟨rfl, fun h => by rw [← hm]; split <;> simp [h]⟩
  have changes : ∀ k : Manager, k.dev.net.replay = m.dev.net.replay → s.OnlyMgr { s with mgr := k } := fun _ e => hs.setMgr e.trans
  have replays := fun act device draws logs => hs.trans (replayInput_onlyMgr { s with mgr := m } act device draws logs)
  obtain ⟨kind, input⟩ := e
  cases kind with
  | input device draws =>
    cases input with
    | none => exact hs
    | some i =>
      split
      case h_1 => exact changes _ rfl
      case h_2 | h_3 => exact replays ..
      all_goals contradiction
  | seed | hook => exact changes _ rfl
  | adjust | centre | decision => exact changes _ (by simp)
  | granted num c => exact changes _ (by split <;> simp)
  | runEnd c st => exact changes _ (by simp -implicitDefEqProofs)
  | claim c nid =>
    dsimp only
    split
    · exact changes _ (by simp)
    · exact changes _ (by simp)
  | gained | silent => exact replays ..

theorem applyHeld_onlyMgr (fuel : Nat) (s : State) : s.OnlyMgr (applyHeld fuel s) := by
  induction fuel generalizing s with
  | zero => exact .refl s
  | succ fuel ih =>
    unfold applyHeld
    split
    · exact .refl s
    · exact (applyEntry_onlyMgr s _ _).trans (ih _)

theorem takeEntry_onlyMgr (s : State) (seq : Nat) (kind : EntryKind) (input : Instr) : s.OnlyMgr (takeEntry s seq kind input) := by
  have held (e : StreamEntry) : s.OnlyMgr
      { s with mgr := if seq ≤ s.mgr.red.applied then s.mgr else s.mgr.onRed fun r => { r with entries := mapSet r.entries seq e } } :=
    ⟨rfl, fun h => by simp [h]⟩
  exact .ite (held _) ((held _).trans (applyHeld_onlyMgr _ _))

theorem gathered_onlyMgr (s : State) : s.OnlyMgr (gathered s) := by
  unfold gathered
  dsimp only
  split
  · exact .ite (.refl s) ⟨rfl, fun h => by simp [h]⟩
  · exact .refl s

theorem becomeLeader_onlyMgr (s : State) (old : Nat) (again : Bool) : s.OnlyMgr (becomeLeader s old again) := by
  have applied := applyHeld_onlyMgr (s.mgr.red.entries.length + 1) s
  unfold becomeLeader
  generalize applyHeld (s.mgr.red.entries.length + 1) s = t at applied
  exact .ite (applied.setMgr fun h => by simp [h]) <|
    .ite ((applied.setMgr fun h => by simp [h]).trans (gathered_onlyMgr _)) (applied.setMgr fun h => by simp [h])

theorem passLead_onlyMgr (s : State) (k : Nat) (again : Bool) : s.OnlyMgr (passLead s k again) := by
  have led : s.OnlyMgr { s with mgr := (s.mgr.setObj Obj.TR_LEADER (s.mgr.nextLeader k)).wakeEngine } := ⟨rfl, fun h => by simp [h]⟩
  exact .ite (led.trans (becomeLeader_onlyMgr _ k again)) led
theorem State.OnlyMgr.releaseIfLeads {s t : State} (h : s.OnlyMgr t) :
    s.OnlyMgr { t with mgr := if t.mgr.leads then t.mgr.release.alone else t.mgr } :=
  h.setMgr fun q => by split <;> simp [q]

theorem peerFailed_onlyMgr (s : State) (k : Nat) : s.OnlyMgr (peerFailed s k) := by
  have dropped : s.OnlyMgr { s with mgr := s.mgr.dropPeer k } := ⟨rfl, fun h => by simp [h]⟩
  unfold peerFailed
  dsimp only
  refine .ite (.refl s) (.releaseIfLeads (.ite (dropped.trans (passLead_onlyMgr _ k false)) ?_))
  split
  · exact .ite ((dropped.setMgr fun h => by simpa using h).trans (gathered_onlyMgr _)) dropped
  · exact dropped

theorem disqualified_onlyMgr (s : State) : s.OnlyMgr (disqualified s) := ⟨rfl, fun h => by simp [disqualified, h]⟩
theorem outlier_onlyMgr (s : State) (k : Nat) : s.OnlyMgr (outlier s k) := by
  have dropped : s.OnlyMgr { s with mgr := (s.mgr.event 0x281 0).dropPeer k } := ⟨rfl, fun h => by simp [h]⟩
  exact .ite (dropped.trans (passLead_onlyMgr _ k true)) (dropped.setMgr fun h => by simpa using h)

theorem judge_onlyMgr (s : State) : s.OnlyMgr (judge s) := by
  have commits : s.OnlyMgr { s with mgr := s.mgr.tryCommit } := ⟨rfl, fun h => by simp [h]⟩
  have parts : s.OnlyMgr { s with mgr := s.mgr.noAgreement } := ⟨rfl, fun h => by simp [h]⟩
  unfold judge
  dsimp only
  split
  · exact .refl s
  · refine .ite commits ?_
    split
    · exact ⟨rfl, fun h => by split <;> simp [h]⟩
    · exact .ite commits (.ite (outlier_onlyMgr s _) (.ite (outlier_onlyMgr s _) (.ite (disqualified_onlyMgr s) parts)))
    · exact commits

theorem judgeNew_onlyMgr (was : Manager) (s : State) : s.OnlyMgr (judgeNew was s) := .ite (.refl s) (judge_onlyMgr s)

theorem execInputStreamEntry_mgr (seq : Nat) (kind : EntryKind) (input : Instr) (s : State) :
    MgrTurn s (execInputStreamEntry seq kind input s) := by
  refine .ite (.same s) (.of ?_)
  exact ((takeEntry_onlyMgr s seq kind input).setMgr fun h => by simp [h]).trans (gathered_onlyMgr _)

theorem execInputStreamAck_mgr (slot seq : Nat) (s : State) : MgrTurn s (execInputStreamAck slot seq s) := by
  unfold execInputStreamAck
  dsimp only
  split
  · exact .same s
  · exact .ite (.of (((State.OnlyMgr.refl s).setMgr fun h => by simpa using h).trans (gathered_onlyMgr _))) (.same s)
  · exact .next fun h => by simp [h]

theorem execRepl_mgr (hdr : Hdr) (seq : Nat) (kind : EntryKind) (input : Instr) (s : State) :
    MgrTurn s (execRepl hdr seq kind input s) := by
  unfold execRepl
  dsimp only
  refine .ite (.next fun h => by simp [h]) ?_
  generalize hm : Manager.onRed _ _ = m
  have held : s.OnlyMgr { s with mgr := m } := ⟨rfl, fun h => by rw [← hm]; simp [h]⟩
  have taken := held.trans (takeEntry_onlyMgr { s with mgr := m } seq kind input)
  generalize takeEntry { s with mgr := m } seq kind input = u at taken
  exact .ite (.of (taken.setMgr fun h => by simp [h])) <|
    .ite (.of (taken.setMgr fun h => by simp [h])) (.of (taken.setMgr fun h => by simp [h]))

theorem execTriadHeartbeat_mgr (heard : List (Nat × Bool)) (s : State) : MgrTurn s (execTriadHeartbeat heard s) := by
  unfold execTriadHeartbeat
  dsimp only
  split
  · exact .same s
  · refine .ite (.same s) (.of ?_)
    exact ((State.OnlyMgr.refl s).setMgr fun h => by simp [h]).trans (State.onlyMgr_foldl _ peerFailed_onlyMgr _ _)

theorem execTriadHeartbeatMiss_mgr (slot : Nat) (s : State) : MgrTurn s (execTriadHeartbeatMiss slot s) := .of (peerFailed_onlyMgr s slot)

theorem execTriadPresenceLoss_mgr (port : Nat) (s : State) : MgrTurn s (execTriadPresenceLoss port s) := by
  unfold execTriadPresenceLoss
  split
  · exact .same s
  · exact .of (peerFailed_onlyMgr s _)

theorem execComputationComplete_mgr (s : State) : MgrTurn s (execComputationComplete s) :=
  .of (((State.OnlyMgr.refl s).setMgr fun h => by simp [h]).trans (judgeNew_onlyMgr s.mgr _))
theorem execTriadDigest_mgr (slot : Nat) (imp : CandId) (digest : Digest) (s : State) : MgrTurn s (execTriadDigest slot imp digest s) :=
  .ite (.same s) (.of (((State.OnlyMgr.refl s).setMgr fun h => by simpa using h).trans (judge_onlyMgr _)))

theorem execResyncComplete_mgr (seq : Nat) (copy : Copy) (s : State) : MgrTurn s (execResyncComplete seq copy s) := by
  unfold execResyncComplete
  split
  · exact .same s
  · dsimp only
    generalize hm : Manager.setObj _ Obj.TR_RESYNC_PCT 0 = m
    have copied : s.OnlyMgr { s with mgr := m } := ⟨rfl, fun h => by rw [← hm]; simp [h]⟩
    have applied := copied.trans (applyHeld_onlyMgr (m.red.entries.length + 1) _)
    generalize applyHeld (m.red.entries.length + 1) { s with mgr := m } = t at applied
    split
    · exact .ite (.of (applied.setMgr fun h => by simp [h])) (.of (applied.setMgr fun h => by simp [h]))
    · exact .of (applied.setMgr fun h => by simp [h])

end Sys2Proof.Machine
end

section
/-! SUPPORT. Local reads and writes of any object of the dictionary, as the rows of the command table act. -/

namespace Sys2Proof.Machine

theorem State.drawn1_onlyMgr (s : State) : s.OnlyMgr s.drawn1 := ⟨rfl, id⟩

theorem State.drawnStart_onlyMgr (s : State) : s.OnlyMgr s.drawnStart := ⟨rfl, id⟩

theorem writeFwGo_mgr (req : Req) (v : Nat) (s : State) : MgrTurn s (writeFwGo req v s) :=
  .ite (.after s.drawn1_onlyMgr (execFwBroadcast_mgr ..)) (.ite (execFwActivate_mgr ..) (execFwAbort_mgr ..))

theorem writeCxRelease_mgr (req : Req) (v : Nat) (s : State) : MgrTurn s (writeCxRelease req v s) :=
  .ite (execCxReleaseDrain_mgr ..) (.ite (execCxReleasePurge_mgr ..) (.next fun h => by simp [h]))

theorem writeSpdm_mgr (req : Req) (data : List Byte) (s : State) : MgrTurn s (writeSpdm req data s) :=
  .after s.drawn1_onlyMgr (execScSpdm_mgr ..)

theorem writeDevCmd_mgr (req : Req) (key v : Nat) (s : State) : MgrTurn s (writeDevCmd req key v s) := by
  unfold writeDevCmd
  refine .ite (.after s.drawnStart_onlyMgr (execDvReset_mgr ..)) ?_
  refine .ite (.after (s.drawn1_onlyMgr.trans s.drawn1.drawnStart_onlyMgr) (execScApply_mgr ..)) ?_
  refine .ite (.after s.drawnStart_onlyMgr (execScProvision_mgr ..)) ?_
  refine .ite (execScFusesSet_mgr ..) (.ite (execAtGo_mgr ..) (.ite (execPkRotate_mgr ..) ?_))
  refine .ite (writeEvClear_mgr ..) (.ite (execRlCommit_mgr ..) (.ite (execPPartCreate_mgr ..) ?_))
  exact .ite (execPPartDelete_mgr ..) (.ite (execPRecompute_mgr ..) (.ite (execPHaSwitchover_mgr ..) (.same s)))

theorem writeUnitCmd_mgr (req : Req) (key v : Nat) (s : State) : MgrTurn s (writeUnitCmd req key v s) := by
  unfold writeUnitCmd
  refine .ite (execDsRestart_mgr ..) (.ite (execBtFresh_mgr ..) (.ite (writeFwGo_mgr ..) ?_))
  refine .ite (execRbClear_mgr ..) (.ite (execLdRun_mgr ..) (.ite (execIlRedraw_mgr ..) ?_))
  refine .ite (execImpFull_mgr ..) (.ite (execIsReadmit_mgr ..) (.ite (execIaRestore_mgr ..) ?_))
  refine .ite (execCvGo_mgr ..) (.ite (writeCxRelease_mgr ..) (.ite (execLpLoad_mgr ..) ?_))
  refine .ite (writeLpRun_mgr ..) (.ite (execRdHandover_mgr ..) (.ite (execTrResync_mgr ..) ?_))
  exact .ite (execRsCommit_mgr ..) (.ite (execEpReadmit_mgr ..) (.ite (execLkReadmit_mgr ..) (writeDevCmd_mgr ..)))

theorem writeRow_mgr (req : Req) (key : Nat) (data : List Byte) (s : State) : MgrTurn s (writeRow req key data s) := by
  unfold writeRow
  refine .ite (execLpImageWrite_mgr ..) (.ite (execCvCancel_mgr ..) (.ite (execBpImage_mgr ..) ?_))
  refine .ite (execFwImage_mgr ..) (.ite (execTsSubscribe_mgr ..) (.ite (writeSpdm_mgr ..) ?_))
  refine .ite (.after s.drawnStart_onlyMgr (execScDebugReq_mgr ..)) ?_
  exact .ite (execReadyToleranceWrite_mgr ..) (execPwrWakeBudget_mgr ..)

theorem execDictWrite_mgr (req : Req) (key : Nat) (data : List Byte) (s : State) : MgrTurn s (execDictWrite req key data s) := by
  unfold execDictWrite
  dsimp only
  refine .ite (.same s) (.ite (.next fun h => by simp [h]) ?_)
  exact .ite (writeUnitCmd_mgr ..) (.ite (writeRow_mgr ..) (.next fun h => by simp [h]))

theorem execDictRead_mgr (req : Req) (key : Nat) (s : State) : MgrTurn s (execDictRead req key s) := by
  unfold execDictRead
  dsimp only
  refine .ite (.same s) (.ite (.next fun h => by simp [h]) ?_)
  refine .ite (execScNonce_mgr ..) (.ite (execErRead_mgr ..) (.ite (execTsRead_mgr ..) ?_))
  split
  · exact .same s
  · exact .next fun h => by simp [h]

end Sys2Proof.Machine
end

section
/-! SUPPORT. Commands that run at the manager module or at an agent, and every command: `exec_turn`. -/

namespace Sys2Proof.Machine

theorem execMemberLostReceive_turn (dev : At) (hdr : Hdr) (lost cause ctx gen resets time : Nat) (s : State) :
    Turn s (execMemberLostReceive dev hdr lost cause ctx gen resets time s) := by
  cases dev with
  | none => exact .inl (.next fun h => by simp [h])
  | some die => exact .inr ⟨_, _, rfl⟩

theorem execHbReply_turn (dev : At) (hdr : Hdr) (round committed : Nat) (map : Option Ports) (s : State) :
    Turn s (execHbReply dev hdr round committed map s) := by
  cases dev with
  | none => exact .inl (.next fun h => by simp [h])
  | some die => exact .inr ⟨_, _, rfl⟩

theorem execKeyOffer_turn (dev : At) (hdr : Hdr) (assoc : Nat) (phase : Bool) (wrap peer : Nat) (salts : Salts) (expire : Nat) (key : Key)
    (sigOk : Bool) (ports : List Nat) (peerAs : Nat) (s : State) :
    Turn s (execKeyOffer dev hdr assoc phase wrap peer salts expire key sigOk ports peerAs s) := by
  cases dev with
  | none => exact .inl (.next fun h => by simp [h])
  | some die => exact .inr ⟨_, _, rfl⟩

theorem execKeyGraceExpire_turn (dev : At) (src assoc : Nat) (phase : Bool) (s : State) :
    Turn s (execKeyGraceExpire dev src assoc phase s) := by
  cases dev with
  | none => exact .inl (.next fun h => by simp [h])
  | some die => exact .inr ⟨_, _, rfl⟩

theorem execRekeyTimer_turn (dev : At) (peer assoc : Nat) (s : State) : Turn s (execRekeyTimer dev peer assoc s) := by
  cases dev with
  | none => exact .inl (.ite (.same s) (.next fun h => by simp [h]))
  | some die => exact .inr ⟨_, _, rfl⟩

theorem execBucketFull_turn (dev : At) (code : Nat) (s : State) : Turn s (execBucketFull dev code s) := by
  cases dev with
  | none => exact .inl (.next fun h => by simp [h])
  | some die => exact .inr ⟨_, _, rfl⟩

theorem execDebugDurationEnd_turn (dev : At) (start : StartIn) (s : State) : Turn s (execDebugDurationEnd dev start s) := by
  cases dev with
  | none => exact .inl (.ite (.same s) (.next fun h => by simp [h]))
  | some die => exact .inr ⟨_, _, rfl⟩

theorem execDomainStateEntry_turn (dev : At) (domain : Nat) (quiet : Bool) (s : State) :
    Turn s (execDomainStateEntry dev domain quiet s) := by
  cases dev with
  | none => exact .inl (.ite (.same s) (.next fun h => by simp [h]))
  | some die => exact .inr ⟨_, _, rfl⟩

theorem execWorkArrival_turn (dev : At) (domain : Nat) (s : State) : Turn s (execWorkArrival dev domain s) := by
  cases dev with
  | none => exact .inl (.next fun h => by simp [h])
  | some die => exact .inr ⟨_, _, rfl⟩

theorem execDomainWakeComplete_turn (dev : At) (domain : Nat) (s : State) : Turn s (execDomainWakeComplete dev domain s) := by
  cases dev with
  | none => exact .inl (.next fun h => by simp [h])
  | some die => exact .inr ⟨_, _, rfl⟩

theorem execSignalDetect_turn (dev : At) (port : Nat) (start : StartIn) (s : State) : Turn s (execSignalDetect dev port start s) := by
  cases dev with
  | none => exact .inl (.ite (.next fun h => by simp [h]) (.ite (.same s) (.next fun h => by simp [h])))
  | some die => exact .inr ⟨_, _, rfl⟩

theorem execMemoryReply_turn (what : ReplyFor) (found : WordFound) (s : State) : Turn s (execMemoryReply what found s) := by
  unfold execMemoryReply
  split
  · exact .inl (.next fun h => by simp [h])
  · exact .inr ⟨_, _, rfl⟩
  · exact .inl (.next fun h => by simp [h])

theorem execPwWakeAt_turn (dev : At) (start : StartIn) (s : State) : Turn s (execPwWakeAt dev start s) := by
  cases dev with
  | none => exact .inl (.next fun h => by simp [h])
  | some die => exact .inr ⟨_, _, rfl⟩

theorem execTempWarning_turn (dev : At) (s : State) : Turn s (execTempWarning dev s) := by
  cases dev with
  | none => exact .inl (.next fun h => by simp [h])
  | some die => exact .inr ⟨_, _, rfl⟩

theorem execTempCritical_turn (dev : At) (s : State) : Turn s (execTempCritical dev s) := by
  cases dev with
  | none => exact .inl (.ite (.same s) (.ite (.next id) (.next fun h => by simp [h])))
  | some die => exact .inr ⟨_, _, rfl⟩

theorem execTempRecovered_turn (dev : At) (start : StartIn) (s : State) : Turn s (execTempRecovered dev start s) := by
  cases dev with
  | none => exact .inl (.next fun h => by simp [h])
  | some die => exact .inr ⟨_, _, rfl⟩

theorem execReferenceLost_turn (dev : At) (s : State) : Turn s (execReferenceLost dev s) := by
  cases dev with
  | none => exact .inl (.ite (.same s) (.next fun h => by simp [h]))
  | some die => exact .inr ⟨_, _, rfl⟩

theorem execReferenceRestored_turn (dev : At) (ports : SMap Nat) (s : State) : Turn s (execReferenceRestored dev ports s) := by
  cases dev with
  | none => exact .inl (.ite (.same s) (.next id))
  | some die => exact .inr ⟨_, _, rfl⟩

/-- Whatever a command is and whatever the state, it answers a next state and changes one machine. The commands of the first case run
at one agent; those with an operand for the machine, and a reply of the memory, at either. -/
theorem exec_turn (c : Instr) (s : State) : Turn s (exec c s) := by
  cases c
  case stage | stageNodeWritesDone | stageAssemblyTimeout | commit | isolate | setKey | revoke | pkeyWriteComplete | watchPortBad
      | watchPortGood | linkMsg | eventAck | reportRetry | withdraw | endpointResetDetect | gone | ready | rejoined | memberRejoined
      | nodeCtlReady | resetNotice | resetReqNode | resetGrant | detourTimeout | heartbeatAgent | nodeHb | nodeHbTimeout
      | nodeLinkDown | nodeLostTimeout | claimAgent | descPublish | ltSave | ltSaveDeferred | ltClear | nodeDoorbell | nodeLog
      | telemetrySample | neighbourReport | hostReply | nodeMessageTaken | hmSend | agRestart | firmwareRunning | restartTimeout
      | coreWatchdog | agentReset | telemetryPeriodEnd | dictReq | timed | fieldPortChange | laneSwitch | laneRelay | agentStart
      | helloRepeat | attestReq | helloResume | bulkData | endOfPass | bulkReportSend | activate | scGrant | sentinelEntryAgent
      | sentinelExitAgent | agentUndervoltage | resetFenceRelease =>
    exact .inr ⟨_, _, rfl⟩
  case lineStart => exact .inl (execLineStart_mgr ..)
  case tileStep => exact .inl (execTileStep_mgr ..)
  case digestDrain => exact .inl (execDigestDrain_mgr ..)
  case memoryReply => exact execMemoryReply_turn ..
  case tablePatrol => exact .inl (execTablePatrol_mgr ..)
  case stackPatrol => exact .inl (execStackPatrol_mgr ..)
  case cellRemap => exact .inl (execCellRemap_mgr ..)
  case lpImageWrite => exact .inl (execLpImageWrite_mgr ..)
  case lpLoad => exact .inl (execLpLoad_mgr ..)
  case lpRunStart => exact .inl (execLpRunStart_mgr ..)
  case lpRunStop => exact .inl (execLpRunStop_mgr ..)
  case wideComplete => exact .inl (execWideComplete_mgr ..)
  case ldRun => exact .inl (execLdRun_mgr ..)
  case rbClear => exact .inl (execRbClear_mgr ..)
  case hotClear => exact .inl (execHotClear_mgr ..)
  case interleaveWindow => exact .inl (execInterleaveWindow_mgr ..)
  case ilRedraw => exact .inl (execIlRedraw_mgr ..)
  case stageAck => exact .inl (execStageAck_mgr ..)
  case stageAttemptTimeout => exact .inl (execStageAttemptTimeout_mgr ..)
  case commitAck => exact .inl (execCommitAck_mgr ..)
  case isolateAck => exact .inl (execIsolateAck_mgr ..)
  case isolateRetry => exact .inl (execIsolateRetry_mgr ..)
  case isolateTimeout => exact .inl (execIsolateTimeout_mgr ..)
  case impFull => exact .inl (execImpFull_mgr ..)
  case isReadmit => exact .inl (execIsReadmit_mgr ..)
  case iaRestore => exact .inl (execIaRestore_mgr ..)
  case cvGo => exact .inl (execCvGo_mgr ..)
  case cvCancel => exact .inl (execCvCancel_mgr ..)
  case waitExpired => exact .inl (execWaitExpired_mgr ..)
  case keyAck => exact .inl (execKeyAck_mgr ..)
  case setKeyTimeout => exact .inl (execSetKeyTimeout_mgr ..)
  case carveComplete => exact .inl (execCarveComplete_mgr ..)
  case cxReleaseDrain => exact .inl (execCxReleaseDrain_mgr ..)
  case cxReleasePurge => exact .inl (execCxReleasePurge_mgr ..)
  case drainTimeout => exact .inl (execDrainTimeout_mgr ..)
  case purgeTagsReturned => exact .inl (execPurgeTagsReturned_mgr ..)
  case revokeTimeout => exact .inl (execRevokeTimeout_mgr ..)
  case vfReset => exact .inl (execVfReset_mgr ..)
  case purgeComplete => exact .inl (execPurgeComplete_mgr ..)
  case quarantineExpire => exact .inl (execQuarantineExpire_mgr ..)
  case dramPageZeroed => exact .inl (execDramPageZeroed_mgr ..)
  case keyBarLifted => exact .inl (execKeyBarLifted_mgr ..)
  case confidentialReplyRelease => exact .inl (execConfidentialReplyRelease_mgr ..)
  case linkEvent => exact .inl (execLinkEvent_mgr ..)
  case neighbour => exact .inl (execNeighbour_mgr ..)
  case memberLostReceive => exact execMemberLostReceive_turn ..
  case memberAck => exact .inl (execMemberAck_mgr ..)
  case epReset => exact .inl (execEpReset_mgr ..)
  case nodeReady => exact .inl (execNodeReady_mgr ..)
  case rejoinTimeout => exact .inl (execRejoinTimeout_mgr ..)
  case resetReq => exact .inl (execResetReq_mgr ..)
  case hbReply => exact execHbReply_turn ..
  case agentHeartbeatMissed => exact .inl (execAgentHeartbeatMissed_mgr ..)
  case silentTimeout => exact .inl (execSilentTimeout_mgr ..)
  case timeEstimateExpire => exact .inl (execTimeEstimateExpire_mgr ..)
  case scribeWatchdog => exact .inl (execScribeWatchdog_mgr ..)
  case hangWatchdog => exact .inl (execHangWatchdog_mgr ..)
  case cellResetComplete => exact .inl (execCellResetComplete_mgr ..)
  case epReadmit => exact .inl (execEpReadmit_mgr ..)
  case lkReadmit => exact .inl (execLkReadmit_mgr ..)
  case rsCommit => exact .inl (execRsCommit_mgr ..)
  case nodeLost => exact .inl (execNodeLost_mgr ..)
  case claimManager hdr prev nid cause imp => exact .inl (execClaimManager_mgr hdr prev nid cause imp s)
  case claimAck => exact .inl (execClaimAck_mgr ..)
  case peerHeartbeat hdr round imp seq => exact .inl (execPeerHeartbeat_mgr hdr round imp seq s)
  case inputStreamEntry => exact .inl (execInputStreamEntry_mgr ..)
  case triadHeartbeatMiss => exact .inl (execTriadHeartbeatMiss_mgr ..)
  case triadPresenceLoss => exact .inl (execTriadPresenceLoss_mgr ..)
  case triadDigest => exact .inl (execTriadDigest_mgr ..)
  case trResync req v => exact .inl (execTrResync_mgr req v s)
  case resyncComplete => exact .inl (execResyncComplete_mgr ..)
  case repl => exact .inl (execRepl_mgr ..)
  case replAck => exact .inl (execReplAck_mgr ..)
  case replTimeout => exact .inl (execReplTimeout_mgr ..)
  case rdHandover => exact .inl (execRdHandover_mgr ..)
  case yield_ => exact .inl (execYield_mgr ..)
  case dictRead => exact .inl (execDictRead_mgr ..)
  case dictWrite => exact .inl (execDictWrite_mgr ..)
  case dictReply => exact .inl (execDictReply_mgr ..)
  case proxyTimeout => exact .inl (execProxyTimeout_mgr ..)
  case dvReset => exact .inl (execDvReset_mgr ..)
  case pPartCreate => exact .inl (execPPartCreate_mgr ..)
  case pPartDelete => exact .inl (execPPartDelete_mgr ..)
  case pRecompute => exact .inl (execPRecompute_mgr ..)
  case pHaSwitchover => exact .inl (execPHaSwitchover_mgr ..)
  case dwGo => exact .inl (execDwGo_mgr ..)
  case dictReplyHost => exact .inl (execDictReplyHost_mgr ..)
  case hostMailboxGo => exact .inl (execHostMailboxGo_mgr ..)
  case mbDoorbell => exact .inl (execMbDoorbell_mgr ..)
  case ping => exact .inl (execPing_mgr ..)
  case hostLog => exact .inl (execHostLog_mgr ..)
  case mark => exact .inl (execMark_mgr ..)
  case mbAckHost => exact .inl (execMbAckHost_mgr ..)
  case dbSet => exact .inl (execDbSet_mgr ..)
  case dbClear => exact .inl (execDbClear_mgr ..)
  case intStatusClear => exact .inl (execIntStatusClear_mgr ..)
  case intMaskWrite => exact .inl (execIntMaskWrite_mgr ..)
  case cfCtl => exact .inl (execCfCtl_mgr ..)
  case cfFeed8 => exact .inl (execCfFeed8_mgr ..)
  case cfFeed16 => exact .inl (execCfFeed16_mgr ..)
  case cfFeed32 => exact .inl (execCfFeed32_mgr ..)
  case soCfg => exact .inl (execSoCfg_mgr ..)
  case soValueWrite => exact .inl (execSoValueWrite_mgr ..)
  case soOpCounter => exact .inl (execSoOpCounter_mgr ..)
  case soOpSemaphore => exact .inl (execSoOpSemaphore_mgr ..)
  case soOpLockRelease => exact .inl (execSoOpLockRelease_mgr ..)
  case soOpEventSet => exact .inl (execSoOpEventSet_mgr ..)
  case soOpEventClear => exact .inl (execSoOpEventClear_mgr ..)
  case soTargetWrite => exact .inl (execSoTargetWrite_mgr ..)
  case lockAcq => exact .inl (execLockAcq_mgr ..)
  case semAcq => exact .inl (execSemAcq_mgr ..)
  case lockTicket => exact .inl (execLockTicket_mgr ..)
  case dqTail => exact .inl (execDqTail_mgr ..)
  case descriptorComplete => exact .inl (execDescriptorComplete_mgr ..)
  case registerWrite => exact .inl (execRegisterWrite_mgr ..)
  case flr => exact .inl (execFlr_mgr ..)
  case barrierUp => exact .inl (execBarrierUp_mgr ..)
  case laneFailure => exact .inl (execLaneFailure_mgr ..)
  case keyOffer => exact execKeyOffer_turn ..
  case keyAccept => exact .inl (execKeyAccept_mgr ..)
  case keyGraceExpire => exact execKeyGraceExpire_turn ..
  case rekeyTimer => exact execRekeyTimer_turn ..
  case timedSend => exact .inl (execTimedSend_mgr ..)
  case timedReply => exact .inl (execTimedReply_mgr ..)
  case managerPortDown => exact .inl (execManagerPortDown_mgr ..)
  case moduleStart => exact .inl (execModuleStart_mgr ..)
  case btFresh => exact .inl (execBtFresh_mgr ..)
  case hello => exact .inl (execHello_mgr ..)
  case attestReport => exact .inl (execAttestReport_mgr ..)
  case bpImage => exact .inl (execBpImage_mgr ..)
  case readyToleranceWrite => exact .inl (execReadyToleranceWrite_mgr ..)
  case dsRestart => exact .inl (execDsRestart_mgr ..)
  case fwImage => exact .inl (execFwImage_mgr ..)
  case fwBroadcast => exact .inl (execFwBroadcast_mgr ..)
  case fwActivate => exact .inl (execFwActivate_mgr ..)
  case fwAbort => exact .inl (execFwAbort_mgr ..)
  case bulkReport => exact .inl (execBulkReport_mgr ..)
  case scNonce => exact .inl (execScNonce_mgr ..)
  case scApply => exact .inl (execScApply_mgr ..)
  case scProvision => exact .inl (execScProvision_mgr ..)
  case scDebugReq => exact .inl (execScDebugReq_mgr ..)
  case debugDurationEnd => exact execDebugDurationEnd_turn ..
  case scFusesSet => exact .inl (execScFusesSet_mgr ..)
  case scSpdm => exact .inl (execScSpdm_mgr ..)
  case atGo => exact .inl (execAtGo_mgr ..)
  case pkRotate => exact .inl (execPkRotate_mgr ..)
  case bucketFull => exact execBucketFull_turn ..
  case rlCommit => exact .inl (execRlCommit_mgr ..)
  case evClearCirculating => exact .inl (execEvClearCirculating_mgr ..)
  case evClearFirst => exact .inl (execEvClearFirst_mgr ..)
  case evClearBoth => exact .inl (execEvClearBoth_mgr ..)
  case ewView => exact .inl (execEwView_mgr ..)
  case erRead => exact .inl (execErRead_mgr ..)
  case event => exact .inl (execEvent_mgr ..)
  case telemetry => exact .inl (execTelemetry_mgr ..)
  case subsampleWindow => exact .inl (execSubsampleWindow_mgr ..)
  case tsRead req => exact .inl (execTsRead_mgr req s)
  case tsSubscribe => exact .inl (execTsSubscribe_mgr ..)
  case domainStateEntry => exact execDomainStateEntry_turn ..
  case workArrival => exact execWorkArrival_turn ..
  case domainWakeComplete => exact execDomainWakeComplete_turn ..
  case pwrWakeBudget => exact .inl (execPwrWakeBudget_mgr ..)
  case sentinelExitManager => exact .inl (execSentinelExitManager_mgr ..)
  case pwWakeAt => exact execPwWakeAt_turn ..
  case agentParked => exact .inl (execAgentParked_mgr ..)
  case undervoltage => exact .inl (execUndervoltage_mgr ..)
  case tempWarning => exact execTempWarning_turn ..
  case tempCritical => exact execTempCritical_turn ..
  case tempRecovered => exact execTempRecovered_turn ..
  case referenceLost => exact execReferenceLost_turn ..
  case signalDetect => exact execSignalDetect_turn ..
  case mrst => exact .inl (execMrst_mgr ..)
  case triadHeartbeat => exact .inl (execTriadHeartbeat_mgr ..)
  case inputStreamAck => exact .inl (execInputStreamAck_mgr ..)
  case perstDeassertion => exact .inl (execPerstDeassertion_mgr ..)
  case referenceRestored => exact execReferenceRestored_turn ..
  case triadPresenceGain => exact .inl (execTriadPresenceGain_mgr ..)
  case coalescingWindowClose => exact .inl (execCoalescingWindowClose_mgr ..)
  case computationStart => exact .inl (execComputationStart_mgr ..)
  case hookTimeout => exact .inl (execHookTimeout_mgr ..)
  case computationComplete => exact .inl (execComputationComplete_mgr ..)
  case pcountComplete => exact .inl (execPcountComplete_mgr ..)
  case loadPeriod => exact .inl (execLoadPeriod_mgr ..)
  case loadComplete => exact .inl (execLoadComplete_mgr ..)
  case rebalComplete => exact .inl (execRebalComplete_mgr ..)
  case imbalanceWindow => exact .inl (execImbalanceWindow_mgr ..)
  case groupMove => exact .inl (execGroupMove_mgr ..)
  case commitRetry => exact .inl (execCommitRetry_mgr ..)
  case commitTimeout => exact .inl (execCommitTimeout_mgr ..)
  case oldSideRelease => exact .inl (execOldSideRelease_mgr ..)
  case placeComplete => exact .inl (execPlaceComplete_mgr ..)
  case memberLostRetry => exact .inl (execMemberLostRetry_mgr ..)
  case heartbeatRound => exact .inl (execHeartbeatRound_mgr ..)
  case bootListenExpire => exact .inl (execBootListenExpire_mgr ..)
  case claimRetry => exact .inl (execClaimRetry_mgr ..)
  case claimTimeout => exact .inl (execClaimTimeout_mgr ..)
  case takeover => exact .inl (execTakeover_mgr ..)
  case barrierDown => exact .inl (execBarrierDown_mgr ..)
  case fwHeartbeat => exact .inl (execFwHeartbeat_mgr ..)
  case fwStall => exact .inl (execFwStall_mgr ..)
  case perst => exact .inl (execPerst_mgr ..)
  case attestRepeat => exact .inl (execAttestRepeat_mgr ..)
  case settleExpire => exact .inl (execSettleExpire_mgr ..)
  case passPlan => exact .inl (execPassPlan_mgr ..)
  case activationBatchTimeout => exact .inl (execActivationBatchTimeout_mgr ..)
  case nonceExpire => exact .inl (execNonceExpire_mgr ..)
  case pkPeriod => exact .inl (execPkPeriod_mgr ..)
  case rotationComplete => exact .inl (execRotationComplete_mgr ..)
  case entropyHealthFail => exact .inl (execEntropyHealthFail_mgr ..)
  case entropyHealthPass => exact .inl (execEntropyHealthPass_mgr ..)
  case segmentStreamed => exact .inl (execSegmentStreamed_mgr ..)
  case telemetryManagerPeriod => exact .inl (execTelemetryManagerPeriod_mgr ..)
  case sentinelEntryManager => exact .inl (execSentinelEntryManager_mgr ..)
  case supplyWarning => exact .inl (execSupplyWarning_mgr ..)
  case overvoltage => exact .inl (execOvervoltage_mgr ..)
  case hsEnClose => exact .inl (execHsEnClose_mgr ..)
  case hsEnOpen => exact .inl (execHsEnOpen_mgr ..)
  case overcurrent => exact .inl (execOvercurrent_mgr ..)
  case managerHeartbeat => exact .inl (execManagerHeartbeat_mgr ..)
  case passSent => exact .inl (execPassSent_mgr ..)
  case ideStreamInsecure => exact .inl (execIdeStreamInsecure_mgr ..)

end Sys2Proof.Machine
end

section
/-! PROOF. What the whole machine keeps: every command completes and changes one machine, the queue is served in order, the agents
stay apart and no step leaves an entry half applied. -/

namespace Sys2Proof.Machine

theorem exec_next {c : Instr} {s t : State} (e : exec c s = .next t) : s.OnlyMgr t ∨ ∃ die a, t = s.setAgent die a := by
  obtain ⟨u, h, g⟩ | ⟨die, a, h⟩ := exec_turn c s
  · cases e.symm.trans h
    exact .inl g
  · cases e.symm.trans h
    exact .inr ⟨die, a, rfl⟩

theorem exec_pending {c : Instr} {s t : State} (e : exec c s = .next t) : t.pending = s.pending := by
  obtain h | ⟨die, a, rfl⟩ := exec_next e
  · rw [h.frame]
  · rfl

theorem step_cons {c : Instr} {rest : List Instr} {s : State} (h : s.pending = c :: rest) :
    step s = exec c { s with pending := rest } := by
  unfold step
  rw [h]

theorem step_nil {s : State} (h : s.pending = []) : step s = .next s.tick := by
  unfold step
  rw [h]

/-- What a step does to the agents: a command changes at most one, and an idle step advances each one's clock. -/
theorem step_agents {s t : State} (e : step s = .next t) :
    t.agents = s.agents ∨ (∃ die a, t.agents = mapSet s.agents die a) ∨
      t.agents = s.agents.map (fun x => (x.1, x.2.onDev Dev.tick)) := by
  cases hp : s.pending with
  | nil =>
    cases (step_nil hp).symm.trans e
    exact .inr (.inr rfl)
  | cons c rest =>
    obtain h | ⟨die, a, rfl⟩ := exec_next (step_cons hp ▸ e)
    · exact .inl (by rw [h.frame])
    · exact .inr (.inl ⟨die, a, rfl⟩)

theorem mapWf_map {α β : Type} (m : SMap α) (f : α → β) : mapWf (m.map (fun e => (e.1, f e.2))) = mapWf m := by
  induction m with
  | nil => rfl
  | cons e m ih =>
    rw [Bool.eq_iff_iff, List.map_cons, mapWf_cons, mapWf_cons, ih]
    simp only [List.forall_mem_map]

theorem mapGet_map {α β : Type} (m : SMap α) (f : α → β) (k : Nat) :
    mapGet (m.map (fun e => (e.1, f e.2))) k = (mapGet m k).map f := by
  induction m with
  | nil => rfl
  | cons e m ih =>
    simp only [List.map_cons, mapGet, ih]
    split <;> rfl

theorem mapGet_mapSet_isSome {α : Type} (m : SMap α) (k i : Nat) (v : α) (h : (mapGet m i).isSome = true) :
    (mapGet (mapSet m k v) i).isSome = true := by
  by_cases hi : i = k
  · rw [hi, mapGet_mapSet_self]
    rfl
  · rwa [mapGet_mapSet_ne m k i v hi]

/-! ### The obligations -/

/-- Settles O1: it is `step`'s own equation. -/
theorem stepRunsTheFront : Obligations.StepRunsTheFront := fun _ _ _ => step_cons rfl

/-- Settles O3: no case of `exec_turn` is a fault or a refusal, and neither touches the queue. -/
theorem everyCommandCompletes : Obligations.EveryCommandCompletes := by
  intro c s
  obtain ⟨t, e, -⟩ | ⟨die, a, e⟩ := exec_turn c s
  · exact ⟨t, e, exec_pending e⟩
  · exact ⟨_, e, exec_pending e⟩

/-- Settles O56, by `exec_pending` on the state without the front command. -/
theorem commandsLeaveInOrder : Obligations.CommandsLeaveInOrder :=
  ⟨fun _ _ _ => exec_pending, fun _ _ _ _ h e => exec_pending (step_cons h ▸ e)⟩

/-- Settles O55, from what each command was found to change: the manager module alone, or the entry of one agent. -/
theorem oneCommandOneMachine : Obligations.OneCommandOneMachine := by
  intro c s t e
  obtain h | ⟨die, a, rfl⟩ := exec_next e
  · exact .inl (by rw [h.frame])
  · exact .inr ⟨rfl, die, fun d hd => mapGet_mapSet_ne s.agents die d a hd⟩

/-- Settles O57: each of the three things a step can do to the table of agents keeps its order and its entries. -/
theorem everyStepKeepsAgentsApart : Obligations.EveryStepKeepsAgentsApart := by
  refine ⟨fun s t wf e => ?_, fun s t die hd e => ?_⟩
  · obtain h | ⟨k, a, h⟩ | h := step_agents e <;> rw [h]
    · exact wf
    · exact mapWf_mapSet s.agents k a wf
    · exact (mapWf_map s.agents (fun a => a.onDev Dev.tick)).trans wf
  · obtain h | ⟨k, a, h⟩ | h := step_agents e <;> rw [h]
    · exact hd
    · exact mapGet_mapSet_isSome s.agents k die a hd
    · rwa [mapGet_map s.agents (fun a => a.onDev Dev.tick) die, Option.isSome_map]

/-- Settles O60: the idle step and a command at an agent leave the module's mark, and a command at the module keeps it clear. -/
theorem noStepLeavesAReplayOpen : Obligations.NoStepLeavesAReplayOpen := by
  refine ⟨rfl, fun s t h e => ?_⟩
  cases hp : s.pending with
  | nil =>
    cases (step_nil hp).symm.trans e
    exact h
  | cons c rest =>
    obtain g | ⟨die, a, rfl⟩ := exec_next (step_cons hp ▸ e)
    · exact g.quiet h
    · exact h

end Sys2Proof.Machine
end

section
/-! SUPPORT. Numbers and pairs compared, a frame taken at an agent, the reset of a cell, the clock of a device, and tables whose entries
change under their numbers. -/

namespace Sys2Proof.Machine

/-! ### Serial numbers and pairs -/

theorem newer_iff (a b : Nat) (hb : b < 2 ^ 32) :
    newer a b = true ↔ 1 ≤ (a + 2 ^ 32 - b) % 2 ^ 32 ∧ (a + 2 ^ 32 - b) % 2 ^ 32 ≤ 2 ^ 31 - 1 := by
  simp only [newer, Nat.mod_eq_of_lt hb, Bool.and_eq_true, decide_eq_true_eq]

theorem not_newer_self (a : Nat) (ha : a < 2 ^ 32) : newer a a = false := by
  rw [Bool.eq_false_iff, ne_eq, newer_iff a a ha]
  omega

theorem newer_asymm (a b : Nat) (ha : a < 2 ^ 32) (hb : b < 2 ^ 32) (h : newer a b = true) : newer b a = false := by
  rw [newer_iff a b hb] at h
  rw [Bool.eq_false_iff, ne_eq, newer_iff b a ha]
  omega

/-- The two differences add up to 2^32, so one lies in each half unless both are 2^31. -/
theorem newer_eq_not_newer (a b : Nat) (ha : a < 2 ^ 32) (hb : b < 2 ^ 32) (hne : a ≠ b) (hd : (a + 2 ^ 32 - b) % 2 ^ 32 ≠ 2 ^ 31) :
    newer a b = !newer b a := by
  rw [Bool.eq_iff_iff, Bool.not_eq_true', Bool.eq_false_iff, ne_eq, newer_iff a b hb, newer_iff b a ha]
  omega

/-- A pair is higher by its claim, and for one claim by its unit (R283). -/
theorem pairHigher_iff (c n c' n' : Nat) : pairHigher c n c' n' = true ↔ c' < c ∨ c = c' ∧ n' < n := by
  simp [pairHigher]

theorem pairHigher_eq_not (c n c' n' : Nat) (h : (c, n) ≠ (c', n')) : pairHigher c n c' n' = !pairHigher c' n' c n := by
  rw [ne_eq, Prod.mk.injEq] at h
  rw [Bool.eq_iff_iff, Bool.not_eq_true', Bool.eq_false_iff, ne_eq, pairHigher_iff, pairHigher_iff]
  omega

theorem pairHigher_trans (c n c1 n1 c2 n2 : Nat) (h : pairHigher c n c1 n1 = true) (g : pairHigher c1 n1 c2 n2 = true) :
    pairHigher c n c2 n2 = true := by
  rw [pairHigher_iff] at *
  omega

/-! ### A frame taken at an agent -/

/-- A meaning that changes one agent, by what it makes of that agent. -/
theorem onAgent_eq {s : State} {die : Nat} {f : Agent → Agent} {a : Agent} (h : f (s.agent die) = a) :
    onAgent s die f = s.withAgent die a := h ▸ rfl

section
variable {a : Agent} {k : FrameKind} {h : Hdr} {x : Option Msg}

/-- A command frame under the highest pair gets past both checks. -/
theorem Agent.take_accepted (ht : a.takes k h x) (ha : (a.after k h x).accepts h = true) (u v w : Agent) :
    (if !(a.take k h x).ok then u else if !(a.take k h x).ag.accepts h then v else w) = w := by
  rw [Agent.takes] at ht
  rw [Agent.after] at ha
  rw [ht, ha]
  rfl

/-- A command frame under a lower pair is answered at the second check. -/
theorem Agent.take_refused (ht : a.takes k h x) (ha : (a.after k h x).accepts h = false) (u v w : Agent) :
    (if !(a.take k h x).ok then u else if !(a.take k h x).ag.accepts h then v else w) = v := by
  rw [Agent.takes] at ht
  rw [Agent.after] at ha
  rw [ht, ha]
  rfl

/-- A command frame under a lower pair fails the check of those that have no acknowledgement. -/
theorem Agent.take_dropped (ha : (a.after k h x).accepts h = false) : (!(a.take k h x).ok || !(a.take k h x).ag.accepts h) = true := by
  rw [Agent.after] at ha
  rw [ha, Bool.not_false, Bool.or_true]

/-- A command frame under the highest pair passes the check of those that have no acknowledgement. -/
theorem Agent.take_carried (ht : a.takes k h x) (ha : (a.after k h x).accepts h = true) :
    (!(a.take k h x).ok || !(a.take k h x).ag.accepts h) = false := by
  rw [Agent.takes] at ht
  rw [Agent.after] at ha
  rw [ht, ha]
  rfl

/-- A frame taken gets past the check of ingress. -/
theorem Agent.take_acts (ht : a.takes k h x) (u v : Agent) : (if !(a.take k h x).ok then u else v) = v := by
  rw [Agent.takes] at ht
  rw [ht]
  rfl

end

/-! ### The cells of the line engine -/

theorem Engine.cell_setCell_self (e : Engine) (p : Nat) (c : PhysCell) (h : (e.cell p).st ≠ .retired) : (e.setCell p c).cell p = c := by
  have hp : p < e.cells.length := by
    by_contra hn
    exact h (by rw [Engine.cell, List.getD_eq_default _ _ (by omega)])
  simp [Engine.cell, Engine.setCell, hp]

theorem Engine.cell_setCell_ne (e : Engine) (p k : Nat) (c : PhysCell) (h : k ≠ p) : (e.setCell p c).cell k = e.cell k := by
  simp [Engine.cell, Engine.setCell, List.getD_eq_getElem?_getD, List.getElem?_set_ne h.symm]

theorem committedKey_ne_EV_WRITTEN (k : Nat) : committedKey k ≠ Obj.EV_WRITTEN := by
  have : Obj.EV_WRITTEN < 2 ^ 40 := by decide
  unfold committedKey
  omega

theorem Dev.objC_setObj_ne (d : Dev) (k j v : Nat) (h : committedKey j ≠ k) : (d.setObj k v).objC j = d.objC j := by
  unfold Dev.setObj Dev.objC
  dsimp only
  split
  · rw [mapGet_mapDel_ne _ _ _ h]
  · rw [mapGet_mapSet_ne _ _ _ _ h]

@[simp] theorem Dev.objC_takeSeq (d : Dev) (k : Nat) : d.takeSeq.objC k = d.objC k :=
  d.objC_setObj_ne Obj.EV_WRITTEN k _ (committedKey_ne_EV_WRITTEN k)

@[simp] theorem Dev.objC_ringPut (d : Dev) (r : EvRec) (k : Nat) : (d.ringPut r).objC k = d.objC k := d.objC_takeSeq k

@[simp] theorem Dev.objC_padFor (d : Dev) (n k : Nat) : (d.padFor n).objC k = d.objC k := by
  unfold Dev.padFor
  dsimp only
  repeat' split
  all_goals simp

@[simp] theorem Dev.objC_writeRec (d : Dev) (sev code c : Nat) (p : List Byte) (k : Nat) : (d.writeRec sev code c p).objC k = d.objC k :=
  ((d.padFor (24 + p.length)).objC_takeSeq k).trans (d.objC_padFor _ k)

@[simp] theorem Dev.objC_record (d : Dev) (sev code c : Nat) (p : List Byte) (k : Nat) : (d.record sev code c p).objC k = d.objC k := by
  unfold Dev.record
  dsimp only
  split
  · exact Dev.objC_writeRec _ sev code c p k
  · rfl

@[simp] theorem Manager.objC_eventOf (m : Manager) (code c : Nat) (vals : List Nat) (k : Nat) :
    (m.eventOf code c vals).dev.objC k = m.dev.objC k := by
  simp [Manager.eventOf, Manager.eventWith]

@[simp] theorem Manager.eventOf_eng (m : Manager) (code c : Nat) (vals : List Nat) : (m.eventOf code c vals).eng = m.eng := by
  unfold Manager.eventOf Manager.eventWith Manager.afterRecord
  dsimp only
  split <;> simp

theorem Manager.markRetiring_mem (m : Manager) (p : Nat) : (m.markRetiring p).eng.mem = m.eng.mem := by
  unfold Manager.markRetiring
  dsimp only
  repeat' split
  all_goals rfl

theorem Manager.markRetiring_cell_ne (m : Manager) (p k : Nat) (h : k ≠ p) : (m.markRetiring p).eng.cell k = m.eng.cell k := by
  unfold Manager.markRetiring
  dsimp only
  split
  · exact m.eng.cell_setCell_ne p k _ h
  · split
    · rfl
    · exact m.eng.cell_setCell_ne p k _ h

theorem Manager.markRetiring_enabled (m : Manager) (p : Nat) (h : (m.eng.cell p).st = .enabled) :
    ((m.markRetiring p).eng.cell p).st = .retiring := by
  unfold Manager.markRetiring
  simp only [h]
  exact congrArg PhysCell.st (m.eng.cell_setCell_self p { m.eng.cell p with st := .retiring } (by simp [h]))

/-- The SRAM of a cell reads 0, and no word of it is failing. -/
def Engine.zeroCell (e : Engine) (cell : Nat) : Engine :=
  let lo := sramAddr cell 0 0
  { e with mem := memZero e.mem lo (2 ^ 56)
           failing := e.failing.filter (fun w => decide (8 * w < lo) || Nat.ble (lo + 2 ^ 56) (8 * w)) }

/-- A cell is enabled again at a time, and what its lines held in it is gone. -/
def Engine.cellBack (e : Engine) (cell time : Nat) : Engine :=
  let pc := e.cell cell
  { e.setCell cell { pc with st := .enabled, resets := pc.resets ++ [time], steps := [], retireDue := false } with
    runs := e.runs.map (fun r => (r.1, { r.2 with recent := mapDel r.2.recent pc.logical, away := mapDel r.2.away pc.logical })) }

/-- The module once a cell that no line of a run is on is back from its reset, with the event recorded (R270-R272). -/
def Manager.cellBack (m : Manager) (cell : Nat) : Manager :=
  (m.onEng (fun e => (e.zeroCell cell).cellBack cell m.dev.time)).eventOf 0x084 0 [cell]

/-- With no line of a run on the cell, no computation and no window of resets, nothing but the cell comes back. -/
theorem execCellResetComplete_idle {s : State} {cell : Nat} (hst : (s.mgr.eng.cell cell).st = .resetting)
    (hl : s.mgr.eng.linesOn (s.mgr.eng.cell cell).logical = []) (hc : s.mgr.rt.comp = none) (hw : s.mgr.dev.objC Obj.CELL_RESET_WINDOW = 0) :
    execCellResetComplete cell s = s.withMgr
      (if (s.mgr.eng.cell cell).retireDue then (s.mgr.cellBack cell).markRetiring cell else s.mgr.cellBack cell) := by
  have hon : (s.mgr.onEng (fun e => e.zeroCell cell)).eng.linesOn (s.mgr.eng.cell cell).logical = [] := hl
  have hcomp : (s.mgr.onEng (fun e => e.zeroCell cell)).rt.comp = none := hc
  have hsort : sortNat [] = [] := rfl
  unfold execCellResetComplete
  rw [if_neg (not_not_intro hst)]
  simp only [Engine.zeroCell] at hon hcomp
  simp only [hon, List.filter_nil, List.map_nil, hsort, List.foldl_nil, hcomp, Option.isSome_none, Manager.objC_eventOf, Manager.onEng_dev, hw,
    ne_eq, not_true_eq_false, decide_false, Bool.false_and, Bool.or_false, Bool.false_eq_true, if_false]
  split <;> rfl

theorem Manager.cellBack_cell_self (m : Manager) (cell : Nat) (h : (m.eng.cell cell).st ≠ .retired) :
    ((m.cellBack cell).eng.cell cell).st = .enabled := by
  rw [Manager.cellBack, Manager.eventOf_eng]
  exact congrArg PhysCell.st (m.eng.cell_setCell_self cell _ h)

theorem Manager.cellBack_cell_ne (m : Manager) (cell k : Nat) (h : k ≠ cell) : (m.cellBack cell).eng.cell k = m.eng.cell k := by
  rw [Manager.cellBack, Manager.eventOf_eng]
  exact m.eng.cell_setCell_ne cell k _ h

theorem Manager.cellBack_mem (m : Manager) (cell : Nat) :
    (m.cellBack cell).eng.mem = memZero m.eng.mem (sramAddr cell 0 0) (2 ^ 56) := by
  rw [Manager.cellBack, Manager.eventOf_eng]
  rfl

/-! ### The clock of a device -/

theorem Dev.time_le_tick (d : Dev) : d.time ≤ d.tick.time := Nat.le_add_right _ _

theorem State.mapGet_tick_agents (s : State) (die : Nat) :
    mapGet s.tick.agents die = (mapGet s.agents die).map (fun a => a.onDev Dev.tick) :=
  mapGet_map s.agents (fun a => a.onDev Dev.tick) die

@[simp] theorem Dev.sendTo_time (d : Dev) (dst assoc : Nat) (x : Msg) : (d.sendTo dst assoc x).time = d.time := by
  obtain ⟨o, n, l, h, -⟩ := d.send_frame { dst := dst, assoc := assoc, msg := x }
  rw [Dev.sendTo, h]

@[simp] theorem Manager.pushEntry_time (m : Manager) (e : StreamEntry) : (m.pushEntry e).dev.time = m.dev.time := by
  unfold Manager.pushEntry; dsimp only; split <;> simp [apply_ite]

@[simp] theorem Manager.entry_time (m : Manager) (i : Instr) : (m.entry i).dev.time = m.dev.time := by
  unfold Manager.entry Manager.putEntry; split <;> simp

@[simp] theorem Dev.ingress_time (d : Dev) (k : FrameKind) (h : Hdr) (gen : Nat → Option Nat) (off : Option Nat) :
    (d.ingress k h gen off).dev.time = d.time := by
  rw [d.ingress_net k h gen off]

/-! ### Tables and lists -/

/-- A read of a table whose entries were changed under their numbers. -/
theorem mapGet_map_of_fst {α β : Type} (m : SMap α) (f : Nat × α → Nat × β) (hf : ∀ e, (f e).1 = e.1) (k : Nat) :
    mapGet (m.map f) k = (mapGet m k).map (fun v => (f (k, v)).2) := by
  induction m with
  | nil => rfl
  | cons e m ih =>
    obtain ⟨j, v⟩ := e
    rw [List.map_cons, ← Prod.mk.eta (p := f (j, v)), hf]
    simp only [mapGet, ih]
    split
    · subst_vars; rfl
    · rfl

/-- Of a list and one entry more, the last 16 are kept: the new one is among them. -/
theorem mem_drop_append_last {α : Type} (l : List α) (e : α) : e ∈ (l ++ [e]).drop (l.length + 1 - 16) := by
  rw [List.drop_append_of_le_length (by omega)]
  simp

theorem length_drop_append_last {α : Type} (l : List α) (e : α) : ((l ++ [e]).drop (l.length + 1 - 16)).length ≤ 16 := by
  rw [List.length_drop, List.length_append, List.length_singleton]
  omega

end Sys2Proof.Machine
end

section
/-! PROOF. The family of the fabric model: time passes on an idle step; impression numbers are serial; an agent refuses the command
frames of a lower pair; heartbeats, time stamps and watchdogs at the module and at its agents. -/

namespace Sys2Proof.Machine

/-! ### Commands with a lemma of their own -/

theorem Manager.closeRounds_dev (m : Manager) (r : Nat) (l : List Nat) : (l.foldl (fun m n => m.closeRound r n) m).dev = m.dev :=
  Manager.foldl_dev _ (fun m n => m.closeRound_dev r n) l m

/-- HEARTBEAT_ROUND: closing a round leaves the device, so the next round's number is the last one's successor (R423). -/
theorem exec_heartbeatRound {s : State} {m : Manager} {r : Nat} (ha : s.mgr.active = true) (hl : s.mgr.leads = true)
    (hr : s.mgr.dev.net.round = some r)
    (hm : m = ((s.mgr.fab.nodes.map (fun (n : Nat × NodeInfo) => n.1)).foldl (fun (m : Manager) (n : Nat) => m.closeRound r n) s.mgr).onDev
      (fun d => { d with net := { d.net with round := some ((r + 1) % 2 ^ 32) } })) :
    exec .heartbeatRound s = s.withMgr (m.emit { dst := nidAll, assoc := 0xE000, claim := some m.claim,
                                                 msg := .heartbeat ((r + 1) % 2 ^ 32) (m.obj Obj.IMP_COMMITTED) none }) := by
  change execHeartbeatRound s = _
  unfold execHeartbeatRound
  simp only [ha, hl, hr, Manager.closeRounds_dev]
  rw [hm]
  rfl

/-- CELL_RESET_COMPLETE: the cell is enabled, or retires where that is due; its SRAM reads 0 and the other cells are as before. -/
theorem exec_cellResetComplete_idle {s : State} {cell : Nat} (hst : (s.mgr.eng.cell cell).st = .resetting)
    (hl : s.mgr.eng.linesOn (s.mgr.eng.cell cell).logical = []) (hc : s.mgr.rt.comp = none) (hw : s.mgr.dev.objC Obj.CELL_RESET_WINDOW = 0) :
    ∃ m, exec (.cellResetComplete cell) s = s.withMgr m ∧
      (m.eng.cell cell).st = (if (s.mgr.eng.cell cell).retireDue then .retiring else .enabled) ∧
      (∀ k, k ≠ cell → m.eng.cell k = s.mgr.eng.cell k) ∧
      (∀ a, memRead m.eng.mem a = if sramAddr cell 0 0 ≤ a ∧ a < sramAddr cell 0 0 + 2 ^ 56 then 0 else memRead s.mgr.eng.mem a) := by
  have hback := s.mgr.cellBack_cell_self cell (by simp [hst])
  refine ⟨_, execCellResetComplete_idle hst hl hc hw, ?_⟩
  split
  · refine ⟨Manager.markRetiring_enabled _ _ hback, fun k hk => ?_, fun a => ?_⟩
    · rw [Manager.markRetiring_cell_ne _ _ _ hk, Manager.cellBack_cell_ne _ _ _ hk]
    · rw [Manager.markRetiring_mem, Manager.cellBack_mem, memRead_memZero]
  · refine ⟨hback, fun k hk => Manager.cellBack_cell_ne _ _ _ hk, fun a => ?_⟩
    rw [Manager.cellBack_mem, memRead_memZero]

/-- Cores that run are stopped; the node, the stores and the partition table are left as they are (R332, R549). -/
theorem Agent.stopCores_frame (a : Agent) (prev : Nat) (announced activated : Bool) (h : a.restart = none) :
    ∃ r, (a.stopCores prev announced activated).restart = some r ∧ r.announced = announced ∧
      (a.stopCores prev announced activated).node = a.node ∧ (a.stopCores prev announced activated).store = a.store ∧
      (a.stopCores prev announced activated).ptable = a.ptable := by
  unfold Agent.stopCores
  rw [h]
  refine ⟨{ since := a.dev.time, prev := prev, announced := announced, activated := activated }, ?_, rfl, ?_, ?_, ?_⟩ <;> simp

/-- An agent homed on a port gets a new home; every other keeps its own (R408). -/
def rehome (port : Nat) (home : Nat → Nat) (e : Nat × NodeInfo) : Nat × NodeInfo :=
  if e.2.homePort = port then (e.1, { e.2 with homePort := home e.1 }) else e

theorem rehome_fst (port : Nat) (home : Nat → Nat) (e : Nat × NodeInfo) : (rehome port home e).1 = e.1 := by
  unfold rehome; split <;> rfl

theorem rehome_other (port : Nat) (home : Nat → Nat) (e : Nat × NodeInfo) (h : e.2.homePort ≠ port) : rehome port home e = e :=
  if_neg h

/-- MANAGER_PORT_DOWN: the nodes are those of before, each homed on the port given its home among the ports still up. -/
theorem exec_managerPortDown (s : State) (port : Nat) :
    ∃ m, exec (.managerPortDown port) s = s.withMgr m ∧ mapGetD m.dev.net.ports port 0 = 0 ∧ m.fab.links = s.mgr.fab.links ∧
      m.fab.nodes = s.mgr.fab.nodes.map (rehome port
        (s.mgr.onDev (fun d => { d with net := { d.net with ports := mapSet d.net.ports port 0 } })).homePort) :=
  ⟨_, rfl, mapGetD_mapSet_self _ _ _ _, rfl, rfl⟩

/-- The port an agent is addressed from is the home port its node holds, once both are set (R408). -/
theorem Manager.homes_setHome (m : Manager) (nid : Nat) (x : NodeInfo) :
    mapGet ((m.setNode nid x).setHome nid x.homePort).dev.net.homes nid =
      (mapGet ((m.setNode nid x).setHome nid x.homePort).fab.nodes nid).map (fun n => n.homePort) :=
  (mapGet_mapSet_self _ _ _).trans (congrArg (Option.map _) (mapGet_mapSet_self m.fab.nodes nid x)).symm

/-! ### The obligations -/

/-- Settles O2: the step is `State.tick`, which is `Dev.tick` at the module and at every entry of the table of agents. -/
theorem idleStepOnlyPassesTime : Obligations.IdleStepOnlyPassesTime := by
  intro s h
  refine ⟨s.tick, step_nil h, h, s.mgr.dev.time_le_tick, rfl, fun die a ha => ?_, fun die hn => ?_⟩
  · exact ⟨a.onDev Dev.tick, by rw [s.mapGet_tick_agents, ha]; rfl, a.dev.time_le_tick, rfl⟩
  · rw [s.mapGet_tick_agents, hn]; rfl

/-- Settles O45: the frames that have an acknowledgement stop at `Agent.take_refused`, the others at `Agent.take_dropped`. -/
theorem lowerPairsAreRefused : Obligations.LowerPairsAreRefused := by
  refine ⟨fun s die imp drain nid ctx gen role tag key hdr payload data digest ports a => ⟨?_, ?_, ?_, ?_⟩, ?_,
    pairHigher_eq_not, pairHigher_trans⟩
  · rintro ht rfl ha
    change execStage die hdr payload s = _
    exact onAgent_eq (Agent.take_refused ht ha _ _ _)
  · rintro ht rfl ha
    refine ⟨?_, ?_⟩
    · change execCommit die hdr imp drain digest s = _
      exact onAgent_eq (Agent.take_refused ht ha _ _ _)
    · change execIsolate die hdr imp nid ports s = _
      exact onAgent_eq (Agent.take_refused ht ha _ _ _)
  · rintro ht rfl ha
    refine ⟨?_, ?_⟩
    · change execSetKey die hdr ctx gen role nid s = _
      exact onAgent_eq (Agent.take_refused ht ha _ _ _)
    · change execRevoke die hdr ctx gen role nid s = _
      exact onAgent_eq (Agent.take_refused ht ha _ _ _)
  · rintro ht rfl ha
    change execDictReq die hdr tag key data true s = _
    exact onAgent_eq (Agent.take_refused ht ha _ _ _)
  · rintro s die nid ctx gen rej0 rej1 image hdr detour _ ht rfl ha
    refine ⟨?_, ?_, ?_, ?_⟩
    · change execReady die hdr nid rej0 rej1 s = _
      exact onAgent_eq (if_pos (Agent.take_dropped ha))
    · change execRejoined die hdr ctx gen nid s = _
      exact onAgent_eq (if_pos (by rw [Agent.take_dropped ha]; rfl))
    · change execResetGrant die hdr nid detour s = _
      exact onAgent_eq (if_pos (by rw [Agent.take_dropped ha]; rfl))
    · change execActivate die hdr image s = _
      exact onAgent_eq (if_pos (Agent.take_dropped ha))

/-- Settles O48: the comparison is arithmetic modulo 2^32; COMMIT gets past the checks of ingress, of its pair and of the committed number,
and stops at the one of newer numbers. -/
theorem numbersAreSerial : Obligations.NumbersAreSerial := by
  refine ⟨fun a b ha hb => ⟨newer_iff a b hb, not_newer_self a ha, newer_asymm a b ha hb, newer_eq_not_newer a b ha hb⟩, ?_⟩
  rintro s die imp drain hdr digest _ ht rfl ha hc hn
  change execCommit die hdr imp drain digest s = _
  refine onAgent_eq ((Agent.take_accepted ht ha _ _ _).trans ?_)
  exact (if_neg hc).trans (if_pos ((Bool.not_eq_true' _).mpr hn))

/-- Settles O19, clause by clause: each command gets past its checks, and what is left is the stated state. -/
theorem heartbeatsAndHangs : Obligations.HeartbeatsAndHangs := by
  refine ⟨fun _ _ _ => exec_heartbeatRound, ?_, ?_, ?_, ?_, ?_, ?_, ?_, fun _ _ => exec_cellResetComplete_idle, ?_⟩
  · refine fun s die hdr round c map => ⟨rfl, fun hn => ?_⟩
    change execHbReply none hdr round c map s = _
    unfold execHbReply
    simp only [hn, Manager.hbReplied_replay]
    rfl
  · intro s nid hm hs
    change execAgentHeartbeatMissed nid s = _
    exact if_neg (by simp [hs, hm])
  · rintro s nid _ hs ho rfl
    change (_ → execSilentTimeout nid s = _) ∧ (_ → execSilentTimeout nid s = _)
    unfold execSilentTimeout
    refine ⟨fun hk => ?_, fun hk => ?_⟩ <;> simp only [hs, ho, hk] <;> rfl
  · intro s nid n hn
    change execTimeEstimateExpire nid s = _
    unfold execTimeEstimateExpire
    rw [hn]
  · refine fun s ctx r hr => ⟨fun hb hf => ?_, fun hl ho => ?_⟩
    · change execKeyBarLifted ctx s = _
      unfold execKeyBarLifted
      simp only [hr, hb, hf]
      rfl
    · change execRejoinTimeout ctx s = _
      unfold execRejoinTimeout
      simp only [hr, hl, ho]
      rfl
  · rintro s core reqs _ rfl
    rfl
  · intro s ctx ns run cells hc hr hns hcells hne hown hother
    change execHangWatchdog ctx s = _
    unfold execHangWatchdog
    simp only [hr, hns]
    rw [← hcells, hne, hown, hother]
    simp [hc]
  · intro s die hr _ _
    obtain ⟨r, h, ann, hn, hst, hp⟩ := (s.agent die).stopCores_frame (1 - (s.agent die).dev.fw) false false hr
    exact ⟨_, r, rfl, h, ann, hn, by rw [hst], by rw [hst], hp⟩

/-- Settles O20, clause by clause: each command gets past its checks, and what is left is the stated state. -/
theorem agentHeartbeatsAndTime : Obligations.AgentHeartbeatsAndTime := by
  refine ⟨?_, ?_, ?_, ?_, ?_, ?_, ?_, ?_, ?_⟩
  · rintro s die port round imp hdr _ ht rfl
    change execHeartbeatAgent die hdr port round imp s = _
    exact onAgent_eq (Agent.take_acts ht _ _)
  · rintro s die p q c i hdr _ ht rfl ha hs
    change execClaimAgent die hdr p q c i s = _
    refine onAgent_eq (if_neg ?_)
    rw [Agent.take_carried ht ha]
    rw [Agent.after] at hs
    simp [hs]
  · rintro s die t1 mac coll hdr _ ht rfl hh
    change execTimed die hdr t1 mac coll s = _
    refine onAgent_eq ((Agent.take_acts ht _ _).trans ?_)
    exact congrArg (fun b : Agent => b.timedReply hdr.src t1 b.dev.time) (if_pos hh)
  · intro s nid n hl hn
    change ∃ m d mac coll, execTimedSend nid s = _ ∧ _
    unfold execTimedSend
    simp only [hn, hl]
    refine ⟨_, _, _, _, rfl, rfl, rfl, ?_, rfl, ?_⟩
    · exact Manager.homes_setHome _ _ _
    · exact fun hk => by rw [if_pos hk]; rfl
  · intro s hdr t1 t2 t3 w restarting valid n hrep ht hn
    change ∃ m x, execTimedReply hdr t1 t2 t3 w false restarting valid s = _ ∧ _
    unfold execTimedReply
    rw [Manager.takes] at ht
    simp only [ht, hn, Manager.entry_replay, Dev.ingress_replay, hrep, Manager.entry_time, Dev.ingress_time]
    refine ⟨_, _, rfl, mapGet_mapSet_self _ _ _, Bool.or_true _, ?_, ?_, rfl, rfl, ?_⟩
    · exact (length_drop_append_last _ _).trans (Nat.le_max_left _ _)
    · exact mem_drop_append_last _ _
    · intro k hk
      refine (mapGet_mapSet_ne _ _ _ _ hk).trans ?_
      rw [Manager.entry_fab]
  · rintro s die _ rfl hm hln hh hr
    change execLaneSwitch die s = _
    exact onAgent_eq (if_neg (by simp [hm, hln, hh, hr]))
  · rintro s die src dst n _ rfl hm hh hd hp hn hlt
    change execLaneRelay die src dst true s = _
    subst hn
    exact onAgent_eq ((if_neg (by simp [hm, hh, hd])).trans ((if_neg (by simp [hp])).trans (if_neg (by omega))))
  · rintro s die _ rfl hr hh hc
    change execTelemetryPeriodEnd die _ _ _ s = _
    refine onAgent_eq ((if_neg (by simp [hr, hh])).trans (if_pos ?_))
    simp [hc]
  · intro s port
    obtain ⟨m, he, hp, hl, hn⟩ := exec_managerPortDown s port
    refine ⟨m, he, hp, hl, ?_, fun nid n hg hne => ?_⟩
    · rw [hn, List.map_map]
      exact List.map_congr_left fun e _ => rehome_fst port _ e
    · rw [hn, mapGet_map_of_fst _ _ (rehome_fst port _), hg, Option.map_some, rehome_other _ _ _ hne]

end Sys2Proof.Machine
end

section
/-! SUPPORT. What the manager's operations do to the memory of its engine: most leave the engine (`_eng`) or its memory (`_mem`) as it was, the
others keep its canonical form (`_wf`). -/

namespace Sys2Proof.Machine

@[simp] theorem Manager.eng_ite (c : Prop) [Decidable c] (m n : Manager) :
    (if c then m else n).eng = if c then m.eng else n.eng := apply_ite ..
@[simp] theorem Engine.mem_ite (c : Prop) [Decidable c] (e f : Engine) :
    (if c then e else f).mem = if c then e.mem else f.mem := apply_ite ..
@[simp] theorem Memory.wf_ite (c : Prop) [Decidable c] (x y : List Host.Cell) :
    Memory.wf (if c then x else y) = if c then Memory.wf x else Memory.wf y := apply_ite ..
theorem Memory.wf_foldl {α : Type} (f : List Host.Cell → α → List Host.Cell) (h : ∀ x a, Memory.wf x = true → Memory.wf (f x a) = true)
    (l : List α) (x : List Host.Cell) (hx : Memory.wf x = true) : Memory.wf (l.foldl f x) = true :=
  List.foldlRecOn (motive := fun y => Memory.wf y = true) l f hx fun y e a _ => h y a e
@[simp] theorem Engine.setCell_mem (e : Engine) (p : Nat) (c : PhysCell) : (e.setCell p c).mem = e.mem := rfl
@[simp] theorem Manager.foldl_eng {α : Type} (f : Manager → α → Manager) (h : ∀ m x, (f m x).eng = m.eng) (l : List α) (m : Manager) :
    (l.foldl f m).eng = m.eng :=
  List.foldlRecOn (motive := fun n : Manager => n.eng = m.eng) l f rfl fun n e x _ => (h n x).trans e
@[simp] theorem Manager.foldl_mem {α : Type} (f : Manager → α → Manager) (h : ∀ m x, (f m x).eng.mem = m.eng.mem) (l : List α)
    (m : Manager) : (l.foldl f m).eng.mem = m.eng.mem :=
  List.foldlRecOn (motive := fun n : Manager => n.eng.mem = m.eng.mem) l f rfl fun n e x _ => (h n x).trans e
@[simp] theorem Manager.foldl_wf {α : Type} (f : Manager → α → Manager)
    (h : ∀ m x, Memory.wf m.eng.mem = true → Memory.wf (f m x).eng.mem = true) (l : List α) (m : Manager)
    (hm : Memory.wf m.eng.mem = true) : Memory.wf (l.foldl f m).eng.mem = true :=
  List.foldlRecOn (motive := fun n : Manager => Memory.wf n.eng.mem = true) l f hm fun n e x _ => h n x e

/-! ### The host side -/

@[simp] theorem Manager.afterRecord_eng (m : Manager) (d : Dev) (c : Nat) : (m.afterRecord d c).eng = m.eng := by
  unfold Manager.afterRecord; simp
@[simp] theorem Manager.eventWith_eng (m : Manager) (code c : Nat) (payload : List Byte) :
    (m.eventWith code c payload).eng = m.eng := by
  unfold Manager.eventWith; simp
@[simp] theorem Manager.dbSet_eng (m : Manager) (bit : Nat) : (m.dbSet bit).eng = m.eng := by
  unfold Manager.dbSet
  dsimp only
  repeat' split
  all_goals simp -implicitDefEqProofs

@[simp] theorem Manager.dbClear_eng (m : Manager) (bit : Nat) : (m.dbClear bit).eng = m.eng := by rfl
@[simp] theorem Manager.clearBells_eng (m : Manager) (c : Nat) : (m.clearBells c).eng = m.eng := by
  unfold Manager.clearBells; simp
@[simp] theorem Manager.fire_eng (m : Manager) (n : Nat) : (m.fire n).eng = m.eng := by
  unfold Manager.fire; split <;> simp
@[simp] theorem Manager.syncPut_eng (m : Manager) (n v : Nat) : (m.syncPut n v).eng = m.eng := by
  unfold Manager.syncPut; simp
@[simp] theorem Manager.syncSignal_eng (m : Manager) (n mode : Nat) : (m.syncSignal n mode).eng = m.eng := by
  unfold Manager.syncSignal; dsimp only; split <;> simp
@[simp] theorem Manager.syncWaitTake_eng (m : Manager) (n mode : Nat) : (m.syncWaitTake n mode).eng = m.eng := by
  unfold Manager.syncWaitTake; simp
@[simp] theorem Manager.voidLocks_eng (m : Manager) (rid : Nat) : (m.voidLocks rid).eng = m.eng := by
  unfold Manager.voidLocks; simp
@[simp] theorem Manager.answerProxy_eng (m : Manager) (r : Req) (result : Nat) (data : List Byte) :
    (m.answerProxy r result data).eng = m.eng := by
  unfold Manager.answerProxy; simp

/-! ### Power domains -/

@[simp] theorem Manager.wakeEngine_eng (m : Manager) : m.wakeEngine.eng = m.eng := by
  unfold Manager.wakeEngine; simp

/-! ### The fabric -/

@[simp] theorem Manager.reflag_eng (m : Manager) (sw : Nat) : (m.reflag sw).eng = m.eng := by rfl

/-! ### Table memory -/

@[simp] theorem Manager.writeLinks_eng (m : Manager) (a : Nat) (bs : List Byte) : (m.writeLinks a bs).eng = m.eng := by rfl

/-- One byte of a write to table memory from `a` on: it is kept where the tables stand as bytes (R60, R173). -/
def tablePut (a : Nat) (mem : List Host.Cell) (b : Byte × Nat) : List Host.Cell :=
  if a + b.2 < linkBase ∨ (annexBase ≤ a + b.2 ∧ a + b.2 < ctxBase) then memWrite mem (a + b.2) b.1 else mem

theorem Manager.tableWrite_mem (m : Manager) (a : Nat) (bs : List Byte) :
    (m.tableWrite a bs).eng.mem = bs.zipIdx.foldl (tablePut a) m.eng.mem := rfl

theorem Memory.wf_tablePut (a : Nat) (mem : List Host.Cell) (b : Byte × Nat) (h : Memory.wf mem = true) :
    Memory.wf (tablePut a mem b) = true := by
  unfold tablePut
  split
  · exact Memory.wf_memWrite mem _ _ h
  · exact h

@[simp] theorem Manager.tableWrite_wf (m : Manager) (a : Nat) (bs : List Byte) (h : Memory.wf m.eng.mem = true) :
    Memory.wf (m.tableWrite a bs).eng.mem = true := by
  rw [Manager.tableWrite_mem]
  exact Memory.wf_foldl _ (Memory.wf_tablePut a) _ _ h

@[simp] theorem Manager.stackWrite_wf (m : Manager) (a : Nat) (bs : List Byte) (h : Memory.wf m.eng.mem = true) :
    Memory.wf (m.stackWrite a bs).eng.mem = true := Memory.wf_memWriteN bs m.eng.mem a h

/-! ### The line engine -/

@[simp] theorem Manager.countPages_mem (m : Manager) (pages : List Nat) : (m.countPages pages).eng.mem = m.eng.mem := by rfl
@[simp] theorem Manager.derivePageKeys_mem (m : Manager) : m.derivePageKeys.eng.mem = m.eng.mem := by rfl
@[simp] theorem Manager.setLine_mem (m : Manager) (c : Nat) (l : LineRun) : (m.setLine c l).eng.mem = m.eng.mem := by
  unfold Manager.setLine; split <;> rfl
@[simp] theorem Manager.takeOwed_mem (m : Manager) (cell : Nat) : (m.takeOwed cell).eng.mem = m.eng.mem := by
  unfold Manager.takeOwed; simp
@[simp] theorem Manager.resume_mem (m : Manager) (cell : Nat) : (m.resume cell).eng.mem = m.eng.mem := by
  unfold Manager.resume
  dsimp only
  repeat' split
  all_goals simp

@[simp] theorem Manager.preempt_mem (m : Manager) (cell : Nat) : (m.preempt cell).1.eng.mem = m.eng.mem := by
  unfold Manager.preempt
  dsimp only
  repeat' split
  all_goals simp

@[simp] theorem Manager.settleOwed_mem (m : Manager) (cell : Nat) : (m.settleOwed cell).eng.mem = m.eng.mem := by
  unfold Manager.settleOwed; simp
@[simp] theorem Manager.stockStart_mem (m : Manager) : m.stockStart.eng.mem = m.eng.mem := by
  unfold Manager.stockStart; simp
@[simp] theorem Manager.stockEnd_mem (m : Manager) : m.stockEnd.eng.mem = m.eng.mem := by
  unfold Manager.stockEnd; simp
@[simp] theorem Manager.hookEnded_eng (m : Manager) (status : Nat) : (m.hookEnded status).eng = m.eng := by rfl
@[simp] theorem Manager.endRun_mem (m : Manager) (c status : Nat) : (m.endRun c status).eng.mem = m.eng.mem := by
  unfold Manager.endRun; simp -implicitDefEqProofs
@[simp] theorem Manager.checkRun_mem (m : Manager) (c : Nat) : (m.checkRun c).eng.mem = m.eng.mem := by
  unfold Manager.checkRun; split <;> simp
@[simp] theorem Manager.endLine_mem (m : Manager) (c id status : Nat) : (m.endLine c id status).eng.mem = m.eng.mem := by
  unfold Manager.endLine
  repeat' split
  all_goals simp
@[simp] theorem Manager.endAllLines_mem (m : Manager) (c status : Nat) : (m.endAllLines c status).eng.mem = m.eng.mem := by
  unfold Manager.endAllLines; split <;> simp
@[simp] theorem Manager.carryCounts_eng (m : Manager) (c : Nat) : (m.carryCounts c).eng = m.eng := by rfl
@[simp] theorem Manager.startRun_mem (m : Manager) (c : Nat) (hook : Bool) : (m.startRun c hook).eng.mem = m.eng.mem := by
  unfold Manager.startRun; split <;> simp -implicitDefEqProofs
@[simp] theorem Manager.startHook_mem (m : Manager) : m.startHook.eng.mem = m.eng.mem := by
  unfold Manager.startHook; simp
@[simp] theorem Manager.hookDue_mem (m : Manager) : m.hookDue.eng.mem = m.eng.mem := by
  unfold Manager.hookDue; simp

/-! ### Messages and requests -/

@[simp] theorem Manager.drawTile_eng (m : Manager) : m.drawTile.eng = m.eng := by rfl
@[simp] theorem Manager.stockSteps_eng (m : Manager) : m.stockSteps.eng = m.eng := by rfl
@[simp] theorem Manager.lag_eng (m : Manager) : m.lag.eng = m.eng := by rfl
@[simp] theorem Manager.followPeer_eng (m : Manager) : m.followPeer.eng = m.eng := by rfl
@[simp] theorem Manager.sendAgent_eng (m : Manager) (nid : Nat) (x : Msg) : (m.sendAgent nid x).eng = m.eng := by
  unfold Manager.sendAgent; simp
@[simp] theorem Manager.sendOffer_eng (m : Manager) (o : Offer) : (m.sendOffer o).eng = m.eng := by
  unfold Manager.sendOffer; simp
@[simp] theorem Manager.drawSalt_eng (m : Manager) (who : Nat) : (m.drawSalt who).1.eng = m.eng := by rfl
@[simp] theorem Manager.newSalts_eng (m : Manager) (who : Nat) : (m.newSalts who).eng = m.eng := by rfl
@[simp] theorem Manager.offerGroupKey_eng (m : Manager) (assoc : Nat) (phase : Bool) (key : Key) (nid : Nat) :
    (m.offerGroupKey assoc phase key nid).eng = m.eng := by
  unfold Manager.offerGroupKey; simp
@[simp] theorem Manager.drawGroupKey_eng (m : Manager) (assoc : Nat) (now : Bool) :
    (m.drawGroupKey assoc now).1.eng = m.eng := by
  unfold Manager.drawGroupKey; simp
@[simp] theorem Manager.emit_eng (m : Manager) (f : Sent) : (m.emit f).eng = m.eng := by
  unfold Manager.emit
  split
  · exact Manager.foldl_eng _ (fun _ _ => Manager.onDev_eng _ _) _ _
  · rfl
@[simp] theorem Manager.putCmds_eng (m : Manager) (fs : List Sent) : (m.putCmds fs).eng = m.eng := by
  unfold Manager.putCmds; simp
@[simp] theorem Manager.drainCmds_eng (m : Manager) : m.drainCmds.eng = m.eng := by
  unfold Manager.drainCmds; simp
@[simp] theorem Manager.sendCmd_eng (m : Manager) (dst assoc ctx gen : Nat) (x : Msg) :
    (m.sendCmd dst assoc ctx gen x).eng = m.eng := by
  unfold Manager.sendCmd; simp
@[simp] theorem Manager.sendReq_eng (m : Manager) (p : Proxied) (data : List Byte) :
    (m.sendReq p data).eng = m.eng := by
  unfold Manager.sendReq; simp
@[simp] theorem Manager.sendDue_eng (m : Manager) : m.sendDue.eng = m.eng :=
  Manager.foldl_eng _ (fun _ _ => by split <;> simp) _ _
@[simp] theorem Manager.cmdAgent_eng (m : Manager) (nid : Nat) (x : Msg) : (m.cmdAgent nid x).eng = m.eng := by
  unfold Manager.cmdAgent; simp
@[simp] theorem Manager.unlisted_eng (m : Manager) (r : Req) (key : Nat) : (m.unlisted r key).eng = m.eng := by
  unfold Manager.unlisted; simp

/-- A granted command acts on the module with the entry it makes; otherwise only an answer or a message to the leader is put. -/
@[simp] theorem Manager.cmd_wf (m : Manager) (i : Instr) (r : Req) (key v : Nat) (listed : List Nat) (busy : Bool)
    (eff : Manager → Nat → Manager) (h : Memory.wf m.eng.mem = true) (he : ∀ c, Memory.wf (eff (m.entry i) c).eng.mem = true) :
    Memory.wf (m.cmd i r key v listed busy eff).eng.mem = true := by
  obtain ⟨_, -, e⟩ | ⟨-, e⟩ | ⟨-, e⟩ | ⟨-, -, -, e⟩ := m.cmd_cases i r key v listed busy eff <;> rw [e] <;> simp [h, he]

@[simp] theorem Manager.hostWrite_wf (m : Manager) (i : Instr) (r : Req) (key : Nat) (data : List Byte) (busy : Bool)
    (eff : Manager → Nat → Manager) (h : Memory.wf m.eng.mem = true) (he : ∀ c, Memory.wf (eff (m.entry i) c).eng.mem = true) :
    Memory.wf (m.hostWrite i r key data busy eff).eng.mem = true := by
  obtain ⟨_, -, e⟩ | e | e := m.hostWrite_cases i r key data busy eff <;> rw [e] <;> simp [h, he]

@[simp] theorem Manager.takeSnapshot_eng (m : Manager) : m.takeSnapshot.eng = m.eng := by rfl
@[simp] theorem Manager.windowOpens_eng (m : Manager) : m.windowOpens.eng = m.eng := by
  unfold Manager.windowOpens; simp
@[simp] theorem Manager.snapshotNow_eng (m : Manager) : m.snapshotNow.eng = m.eng := by
  unfold Manager.snapshotNow; simp
@[simp] theorem Manager.dropComp_mem (m : Manager) : m.dropComp.eng.mem = m.eng.mem := by
  unfold Manager.dropComp; simp
@[simp] theorem Manager.reseed_eng (m : Manager) (k : Nat) : (m.reseed k).eng = m.eng := by
  unfold Manager.reseed; simp
@[simp] theorem Manager.setHeld_eng (m : Manager) (h : SMap (List Nat)) : (m.setHeld h).eng = m.eng := by rfl
@[simp] theorem Manager.hold_eng (m : Manager) (e : Nat) (keys : List Nat) : (m.hold e keys).eng = m.eng := by rfl
@[simp] theorem Manager.carveDone_eng (m : Manager) (tag result c : Nat) :
    (m.carveDone tag result c).eng = m.eng := by
  unfold Manager.carveDone; simp
@[simp] theorem Manager.sendReady_eng (m : Manager) (e : Nat) : (m.sendReady e).eng = m.eng := by
  unfold Manager.sendReady; simp
@[simp] theorem Manager.announceReady_eng (m : Manager) (e : Nat) : (m.announceReady e).eng = m.eng := by
  unfold Manager.announceReady; simp
@[simp] theorem Manager.purgeStart_mem (m : Manager) (c : Nat) : (m.purgeStart c).eng.mem = m.eng.mem := by
  unfold Manager.purgeStart; simp
@[simp] theorem Manager.drainCheck_mem (m : Manager) (c : Nat) : (m.drainCheck c).eng.mem = m.eng.mem := by
  unfold Manager.drainCheck; simp

/-! ### Units and triads -/

@[simp] theorem Manager.seeClaim_eng (m : Manager) (c n : Nat) : (m.seeClaim c n).eng = m.eng := by
  unfold Manager.seeClaim; simp
@[simp] theorem Manager.impState_eng (m : Manager) : m.impState.eng = m.eng := by rfl
@[simp] theorem Manager.phase_eng (m : Manager) (n : Nat) : (m.phase n).eng = m.eng := by rfl
@[simp] theorem Manager.abandon_eng (m : Manager) : m.abandon.eng = m.eng := by rfl
@[simp] theorem Manager.startResync_mem (m : Manager) (src st : Nat) : (m.startResync src st).eng.mem = m.eng.mem := by
  unfold Manager.startResync; simp
@[simp] theorem Manager.standDown_mem (m : Manager) : m.standDown.eng.mem = m.eng.mem := by
  unfold Manager.standDown; simp
@[simp] theorem Manager.followMate_eng (m : Manager) (slot c : Nat) : (m.followMate slot c).eng = m.eng := by rfl
@[simp] theorem Manager.meetPair_mem (m : Manager) (c n : Nat) : (m.meetPair c n).eng.mem = m.eng.mem := by
  unfold Manager.meetPair
  dsimp only
  repeat' split
  all_goals simp

@[simp] theorem Manager.release_eng (m : Manager) : m.release.eng = m.eng := by
  unfold Manager.release; simp
@[simp] theorem Manager.notMember_eng (m : Manager) (k : Nat) : (m.notMember k).eng = m.eng := by rfl
@[simp] theorem Manager.stepAside_eng (m : Manager) : m.stepAside.eng = m.eng := by
  unfold Manager.stepAside; split <;> simp
@[simp] theorem Manager.yieldTo_mem (m : Manager) (cause : Nat) : (m.yieldTo cause).eng.mem = m.eng.mem := by
  unfold Manager.yieldTo; split <;> simp
@[simp] theorem Manager.leaveService_eng (m : Manager) : m.leaveService.eng = m.eng := by rfl
@[simp] theorem Manager.leaveTriad_mem (m : Manager) : m.leaveTriad.eng.mem = m.eng.mem := by
  unfold Manager.leaveTriad; simp
@[simp] theorem Manager.moduleFault_mem (m : Manager) : m.moduleFault.eng.mem = m.eng.mem := by
  unfold Manager.moduleFault; simp

/-! ### Carves -/

@[simp] theorem Manager.carveOut_eng (m : Manager) (result c short : Nat) :
    (m.carveOut result c short).eng = m.eng := by rfl
@[simp] theorem Manager.freeCtx_eng (m : Manager) (c : Nat) : (m.freeCtx c).eng = m.eng := by
  unfold Manager.freeCtx; simp only [Manager.eng_ite, Manager.enter_eng, Manager.setCtx_eng, Manager.onDev_eng, ite_self]
@[simp] theorem Manager.offerGroup_eng (m : Manager) (c : Nat) (nids : List Nat) :
    (m.offerGroup c nids).eng = m.eng := by
  unfold Manager.offerGroup; simp
@[simp] theorem Manager.sendKeys_eng (m : Manager) (c gen : Nat) (eps : List Nat) :
    (m.sendKeys c gen eps).eng = m.eng := by
  unfold Manager.sendKeys; simp
@[simp] theorem Manager.grantCarve_eng (m : Manager) (q : CarveReq) (c : Nat) (eps : List Nat) (result : Nat) (quota : Quota)
    (sealIdx : List Nat) : (m.grantCarve q c eps result quota sealIdx).eng = m.eng := by
  unfold Manager.grantCarve; simp
@[simp] theorem Manager.queueCarve_eng (m : Manager) (q : CarveReq) (c : Nat) :
    (m.queueCarve q c).eng = m.eng := by
  unfold Manager.queueCarve; simp
@[simp] theorem Manager.grantQueued_eng (m : Manager) (q : QueuedCarve) (centre : Option Nat) :
    (m.grantQueued q centre).eng = m.eng := by
  unfold Manager.grantQueued; split <;> simp
@[simp] theorem Manager.retryCarve_eng (m : Manager) (q : QueuedCarve) : (m.retryCarve q).eng = m.eng := by
  unfold Manager.retryCarve; dsimp only; split <;> simp
@[simp] theorem Manager.retryQueue_eng (m : Manager) : m.retryQueue.eng = m.eng := by
  unfold Manager.retryQueue; simp
@[simp] theorem Manager.carveChoose_eng (m : Manager) (q : CarveReq) (c : Nat) (centre : Option Nat) :
    (m.carveChoose q c centre).eng = m.eng := by
  unfold Manager.carveChoose; split <;> simp
@[simp] theorem Manager.openWindow_eng (m : Manager) : m.openWindow.eng = m.eng := by
  unfold Manager.openWindow; simp
@[simp] theorem Manager.wantNow_eng (m : Manager) : m.wantNow.eng = m.eng := by
  unfold Manager.wantNow; simp
@[simp] theorem Manager.retryIfFree_eng (m : Manager) (c : Nat) : (m.retryIfFree c).eng = m.eng := by
  unfold Manager.retryIfFree; simp
@[simp] theorem Manager.dropQueued_eng (m : Manager) (q : QueuedCarve) (result : Nat) :
    (m.dropQueued q result).eng = m.eng := by
  unfold Manager.dropQueued; simp
@[simp] theorem Manager.submitCarve_eng (m : Manager) : m.submitCarve.eng = m.eng := by
  unfold Manager.submitCarve; split <;> simp
@[simp] theorem Manager.goCarve_eng (m : Manager) : m.goCarve.eng = m.eng := by
  unfold Manager.goCarve; simp
@[simp] theorem Manager.resetFn_eng (m : Manager) (fn result : Nat) : (m.resetFn fn result).eng = m.eng := by
  unfold Manager.resetFn; simp
@[simp] theorem Manager.rejoinDone_eng (m : Manager) (c : Nat) : (m.rejoinDone c).eng = m.eng := by
  unfold Manager.rejoinDone; dsimp only; split <;> simp
@[simp] theorem Manager.offerHeld_eng (m : Manager) (c : Nat) (nids : List Nat) :
    (m.offerHeld c nids).eng = m.eng := by
  unfold Manager.offerHeld; simp
@[simp] theorem Manager.giveTreeKeys_eng (m : Manager) (c : Nat) (sws : List Nat) :
    (m.giveTreeKeys c sws).eng = m.eng := by
  unfold Manager.giveTreeKeys; simp
@[simp] theorem Manager.renewTreeKeys_eng (m : Manager) (c : Nat) : (m.renewTreeKeys c).eng = m.eng := by
  unfold Manager.renewTreeKeys; split <;> simp
@[simp] theorem Manager.rejoinTry_eng (m : Manager) (c : Nat) : (m.rejoinTry c).eng = m.eng := by
  unfold Manager.rejoinTry; dsimp only; split <;> simp
@[simp] theorem Manager.purgeEnd_eng (m : Manager) (c : Nat) : (m.purgeEnd c).eng = m.eng := by
  unfold Manager.purgeEnd; simp

/-! ### Routes -/

@[simp] theorem Manager.storeDist_wf (m : Manager) (p : Pass) (h : Memory.wf m.eng.mem = true) :
    Memory.wf (m.storeDist p).eng.mem = true := by
  unfold Manager.storeDist
  dsimp only
  refine Manager.foldl_wf _ (fun m I hm => Manager.foldl_wf _ (fun m J hm => Manager.stackWrite_wf m _ _ hm) _ _ hm) _ _ ?_
  split
  · exact h
  · refine Memory.wf_foldl _ (fun mem I hm => Memory.wf_foldl _ (fun mem J hm => ?_) _ _ hm) _ _ h
    split
    · exact Memory.wf_memWriteN _ _ _ hm
    · exact hm

/-! ### Links and nodes lost -/

@[simp] theorem Manager.putState_eng (m : Manager) (i : Nat) (st : LinkSt) : (m.putState i st).eng = m.eng := by
  unfold Manager.putState; simp
@[simp] theorem Manager.putBoth_eng (m : Manager) (i : Nat) (st : LinkSt) : (m.putBoth i st).eng = m.eng := by
  unfold Manager.putBoth; simp
@[simp] theorem Manager.memberLoss_mem (m : Manager) (e cause resets time : Nat) (raised : Bool) :
    (m.memberLoss e cause resets time raised).eng.mem = m.eng.mem := by
  unfold Manager.memberLoss; simp
@[simp] theorem Manager.lostPresence_mem (m : Manager) (before : List Nat) (cause : Nat) :
    (m.lostPresence before cause).eng.mem = m.eng.mem := by
  unfold Manager.lostPresence; simp
@[simp] theorem Manager.swReports_eng (m : Manager) (s n : Nat) : (m.swReports s n).eng = m.eng := by
  unfold Manager.swReports; simp
@[simp] theorem Manager.sendIsolate_eng (m : Manager) (peer s : Nat) : (m.sendIsolate peer s).eng = m.eng := by
  unfold Manager.sendIsolate; simp
@[simp] theorem Manager.isolate_mem (m : Manager) (s : Nat) (st : IsSt) : (m.isolate s st).eng.mem = m.eng.mem := by
  unfold Manager.isolate; simp
@[simp] theorem Manager.tableStore_wf (m : Manager) (a : Nat) (bs : List Byte) (h : Memory.wf m.eng.mem = true) :
    Memory.wf (m.tableStore a bs).eng.mem = true := by
  unfold Manager.tableStore; simp [h]

/-! ### Copies of frames -/

@[simp] theorem Manager.copyFrame_eng (m : Manager) (k : FrameKind) (hdr : Hdr) (assoc : Nat) (x : Msg) :
    (m.copyFrame k hdr assoc x).eng = m.eng := by
  unfold Manager.copyFrame; simp

/-! ### Contexts -/

@[simp] theorem Manager.placed_eng (m : Manager) (centre : Option Nat) : (m.placed centre).eng = m.eng := by
  unfold Manager.placed; split <;> simp
@[simp] theorem Manager.heldAnswers_eng (m : Manager) (e c : Nat) : (m.heldAnswers e c).eng = m.eng := by
  unfold Manager.heldAnswers; simp
@[simp] theorem Manager.keyAcked_eng (m : Manager) (e c gen status : Nat) :
    (m.keyAcked e c gen status).eng = m.eng := by
  unfold Manager.keyAcked
  dsimp only
  repeat' split
  all_goals simp

@[simp] theorem Manager.shortOf_eng (m : Manager) (c n : Nat) : (m.shortOf c n).eng = m.eng := by
  unfold Manager.shortOf; simp
@[simp] theorem Manager.membersFailed_mem (m : Manager) (c : Nat) (lost : List Nat) :
    (m.membersFailed c lost).eng.mem = m.eng.mem := by
  unfold Manager.membersFailed; split <;> simp
@[simp] theorem Manager.selectPart_eng (m : Manager) (c : Nat) : (m.selectPart c).eng = m.eng := by
  unfold Manager.selectPart; simp
@[simp] theorem Manager.missing_mem (m : Manager) (c : Nat) : (m.missing c).eng.mem = m.eng.mem := by
  unfold Manager.missing; simp

/-! ### Links -/

@[simp] theorem Manager.offerPair_eng (m : Manager) (a b : Nat) (renew : Bool) :
    (m.offerPair a b renew).eng = m.eng := by
  unfold Manager.offerPair; simp
@[simp] theorem Manager.bringUp_eng (m : Manager) (i : Nat) : (m.bringUp i).eng = m.eng := by
  unfold Manager.bringUp; simp
@[simp] theorem Manager.handOver_eng (m : Manager) (s : Nat) (l : List Nat) : (m.handOver s l).eng = m.eng := by
  unfold Manager.handOver; simp -implicitDefEqProofs
@[simp] theorem Manager.readmitSwitch_eng (m : Manager) (s : Nat) : (m.readmitSwitch s).eng = m.eng := by
  unfold Manager.readmitSwitch; simp

/-! ### Candidates -/

@[simp] theorem Manager.storePlates_wf (m : Manager) (number : Nat) (plates : SMap Plate) (h : Memory.wf m.eng.mem = true) :
    Memory.wf (m.storePlates number plates).eng.mem = true :=
  Memory.wf_foldl _ (fun _ _ hm => Memory.wf_memWriteN _ _ _ (Memory.wf_memWriteN _ _ _ (Memory.wf_memWriteN _ _ _ hm))) _ _ h
@[simp] theorem Manager.moveComp_wf (m : Manager) (h : Memory.wf m.eng.mem = true) :
    Memory.wf m.moveComp.eng.mem = true := by
  unfold Manager.moveComp; split <;> simp [h]
@[simp] theorem Manager.sendStage_eng (m : Manager) (s : Nat) (full : Bool) :
    (m.sendStage s full).eng = m.eng := by
  unfold Manager.sendStage; split <;> simp
@[simp] theorem Manager.refuse_eng (m : Manager) (imp : Nat) (bad : List (Nat × Nat × Nat × Nat)) :
    (m.refuse imp bad).eng = m.eng := by
  unfold Manager.refuse; split <;> simp
@[simp] theorem Manager.moveTreeKeys_eng (m : Manager) (plates : SMap Plate) :
    (m.moveTreeKeys plates).eng = m.eng := by
  unfold Manager.moveTreeKeys; simp
@[simp] theorem Manager.carry_eng (m : Manager) (c : Cand) : (m.carry c).eng = m.eng := by
  unfold Manager.carry; simp -implicitDefEqProofs
@[simp] theorem Manager.putCommitted_wf (m : Manager) (c : Cand) (h : Memory.wf m.eng.mem = true) :
    Memory.wf (m.putCommitted c).eng.mem = true := by
  unfold Manager.putCommitted; dsimp only; split <;> simp [h]
@[simp] theorem Manager.commitSend_wf (m : Manager) (h : Memory.wf m.eng.mem = true) :
    Memory.wf m.commitSend.eng.mem = true := by
  unfold Manager.commitSend; split <;> simp [h]
@[simp] theorem Manager.tryCommit_wf (m : Manager) (h : Memory.wf m.eng.mem = true) :
    Memory.wf m.tryCommit.eng.mem = true := by
  unfold Manager.tryCommit; split <;> simp [h]
@[simp] theorem Manager.joinLater_eng (m : Manager) : m.joinLater.eng = m.eng := by
  unfold Manager.joinLater; simp
@[simp] theorem Manager.newCandidate_wf (m : Manager) (c : Cand) (h : Memory.wf m.eng.mem = true) :
    Memory.wf (m.newCandidate c).eng.mem = true := by
  unfold Manager.newCandidate; split <;> simp [h]
@[simp] theorem Manager.notCompleted_wf (m : Manager) (s : Nat) (h : Memory.wf m.eng.mem = true) :
    Memory.wf (m.notCompleted s).eng.mem = true := by
  unfold Manager.notCompleted; dsimp only; split <;> simp [h]
@[simp] theorem Manager.stageFailed_wf (m : Manager) (s status : Nat) (h : Memory.wf m.eng.mem = true) :
    Memory.wf (m.stageFailed s status).eng.mem = true := by
  unfold Manager.stageFailed; simp [h]
@[simp] theorem Manager.checkDrain_eng (m : Manager) : m.checkDrain.eng = m.eng := by
  unfold Manager.checkDrain; simp
@[simp] theorem Manager.loseSwitch_mem (m : Manager) (s : Nat) : (m.loseSwitch s).eng.mem = m.eng.mem := by
  unfold Manager.loseSwitch; simp

/-! ### Installation -/

@[simp] theorem Manager.adoptDrained_eng (m : Manager) : m.adoptDrained.eng = m.eng := by
  unfold Manager.adoptDrained; split <;> simp
@[simp] theorem Manager.isoDone_eng (m : Manager) (s peer : Nat) : (m.isoDone s peer).eng = m.eng := by
  unfold Manager.isoDone; split <;> simp
@[simp] theorem Manager.grantDetours_eng (m : Manager) : m.grantDetours.eng = m.eng := by
  unfold Manager.grantDetours; simp

/-! ### The field network at the manager -/

@[simp] theorem Manager.offerOwnKey_eng (m : Manager) (nid key assoc : Nat) :
    (m.offerOwnKey nid key assoc).eng = m.eng := by
  unfold Manager.offerOwnKey; simp
@[simp] theorem Manager.offerFabric_eng (m : Manager) (assoc nid : Nat) :
    (m.offerFabric assoc nid).eng = m.eng := by
  unfold Manager.offerFabric; split <;> simp
@[simp] theorem Manager.deliver_eng (m : Manager) (nid : Nat) (vals : List (Nat × Nat)) :
    (m.deliver nid vals).eng = m.eng := by
  unfold Manager.deliver; simp
@[simp] theorem Manager.deliverAll_eng (m : Manager) : m.deliverAll.eng = m.eng := by
  unfold Manager.deliverAll; simp
@[simp] theorem Manager.rematch_eng (m : Manager) : m.rematch.eng = m.eng := by
  unfold Manager.rematch; simp
@[simp] theorem Manager.adopt_mem (m : Manager) : m.adopt.eng.mem = m.eng.mem := by
  unfold Manager.adopt; simp
@[simp] theorem Manager.evalGate_mem (m : Manager) : m.evalGate.eng.mem = m.eng.mem := by
  unfold Manager.evalGate
  dsimp only
  repeat' split
  all_goals simp

@[simp] theorem Manager.touchGate_mem (m : Manager) : m.touchGate.eng.mem = m.eng.mem := by
  unfold Manager.touchGate; simp
@[simp] theorem Manager.probe_eng (m : Manager) (i peer port : Nat) (kind : PeerKind) : (m.probe i peer port kind).eng = m.eng := by
  unfold Manager.probe; simp
@[simp] theorem Manager.tryUp_mem (m : Manager) (i : Nat) : (m.tryUp i).eng.mem = m.eng.mem := by
  unfold Manager.tryUp; simp
@[simp] theorem Manager.applyReport_mem (m : Manager) (die port : Nat) : (m.applyReport die port).eng.mem = m.eng.mem := by
  unfold Manager.applyReport; split <;> simp
@[simp] theorem Manager.applyReports_mem (m : Manager) : m.applyReports.eng.mem = m.eng.mem := by
  unfold Manager.applyReports; simp
@[simp] theorem Manager.staleReports_eng (m : Manager) (i : Nat) : (m.staleReports i).eng = m.eng := by
  unfold Manager.staleReports
  dsimp only
  repeat' split
  all_goals simp

@[simp] theorem Manager.setHome_eng (m : Manager) (nid port : Nat) : (m.setHome nid port).eng = m.eng := by
  unfold Manager.setHome; simp
@[simp] theorem Manager.sendAttest_eng (m : Manager) (die : Nat) (a : Att) : (m.sendAttest die a).eng = m.eng := by
  unfold Manager.sendAttest; simp
@[simp] theorem Manager.pump_eng (m : Manager) : m.pump.eng = m.eng := by
  unfold Manager.pump
  split
  · rfl
  · refine Manager.foldl_eng _ (fun m d => ?_) _ _
    split <;> simp

@[simp] theorem Manager.sendClaim_eng (m : Manager) (nid : Nat) : (m.sendClaim nid).eng = m.eng := by
  unfold Manager.sendClaim; simp
@[simp] theorem Manager.offerFirst_eng (m : Manager) (nid : Nat) : (m.offerFirst nid).eng = m.eng := by
  unfold Manager.offerFirst; simp
@[simp] theorem Manager.equip_mem (m : Manager) (die nid : Nat) : (m.equip die nid).eng.mem = m.eng.mem := by
  unfold Manager.equip; simp
@[simp] theorem Manager.keyed_mem (m : Manager) (die nid : Nat) (a : Att) : (m.keyed die nid a).eng.mem = m.eng.mem := by
  unfold Manager.keyed; simp

/-! ### Recovery -/

@[simp] theorem Manager.countFault_eng (m : Manager) (i : Nat) : (m.countFault i).eng = m.eng := by rfl
@[simp] theorem Manager.linkBad_mem (m : Manager) (i : Nat) : (m.linkBad i).eng.mem = m.eng.mem := by
  unfold Manager.linkBad; simp
@[simp] theorem Manager.linkGood_mem (m : Manager) (i : Nat) : (m.linkGood i).eng.mem = m.eng.mem := by
  unfold Manager.linkGood; simp
@[simp] theorem Manager.takeNeighbour_mem (m : Manager) (die p : Nat) (new : NbrRep) :
    (m.takeNeighbour die p new).eng.mem = m.eng.mem := by
  unfold Manager.takeNeighbour; simp
@[simp] theorem Manager.readmitEp_eng (m : Manager) (e : Nat) : (m.readmitEp e).eng = m.eng := by
  unfold Manager.readmitEp; simp
@[simp] theorem Manager.endDetour_mem (m : Manager) (e : Nat) : (m.endDetour e).eng.mem = m.eng.mem := by
  unfold Manager.endDetour; split <;> simp
@[simp] theorem Manager.actLink_mem (m : Manager) (nid port : Nat) (ep good : Bool) :
    (m.actLink nid port ep good).eng.mem = m.eng.mem := by
  unfold Manager.actLink; split <;> simp
@[simp] theorem Manager.actReset_mem (m : Manager) (nid cause resets time : Nat) :
    (m.actReset nid cause resets time).eng.mem = m.eng.mem := by
  unfold Manager.actReset; simp
@[simp] theorem Manager.actReady_mem (m : Manager) (nid : Nat) : (m.actReady nid).eng.mem = m.eng.mem := by
  unfold Manager.actReady
  dsimp only
  repeat' split
  all_goals simp

@[simp] theorem Manager.actResetReq_mem (m : Manager) (nid sw : Nat) : (m.actResetReq nid sw).eng.mem = m.eng.mem := by
  unfold Manager.actResetReq; simp
@[simp] theorem Manager.actLost_mem (m : Manager) (src nid : Nat) : (m.actLost src nid).eng.mem = m.eng.mem := by
  unfold Manager.actLost; simp
@[simp] theorem Manager.actOn_mem (m : Manager) (i : Instr) : (m.actOn i).eng.mem = m.eng.mem := by
  unfold Manager.actOn; split <;> simp
@[simp] theorem Manager.takeReport_mem (m : Manager) (i : Instr) : (m.takeReport i).eng.mem = m.eng.mem := by
  unfold Manager.takeReport
  dsimp only
  repeat' split
  all_goals simp

@[simp] theorem Manager.reportEntry_mem (m : Manager) (i : Instr) : (m.reportEntry i).eng.mem = m.eng.mem := by
  unfold Manager.reportEntry; split <;> simp
@[simp] theorem Manager.takeReports_mem (m : Manager) : m.takeReports.eng.mem = m.eng.mem := by
  unfold Manager.takeReports; simp
@[simp] theorem Manager.queueReport_mem (m : Manager) (k : FrameKind) (hdr : Hdr) (i : Instr) (wait : Bool) :
    (m.queueReport k hdr i wait).eng.mem = m.eng.mem := by
  unfold Manager.queueReport; simp
@[simp] theorem Manager.closeRound_eng (m : Manager) (prev nid : Nat) : (m.closeRound prev nid).eng = m.eng := by
  unfold Manager.closeRound
  dsimp only
  repeat' split
  all_goals simp

@[simp] theorem Manager.heard_eng (m : Manager) (nid round : Nat) : (m.heard nid round).eng = m.eng := by
  unfold Manager.heard
  dsimp only
  repeat' split
  all_goals simp

@[simp] theorem Manager.hbReplied_eng (m : Manager) (hdr : Hdr) (round committed : Nat) (map : Option Ports) :
    (m.hbReplied hdr round committed map).eng = m.eng := by
  unfold Manager.hbReplied
  dsimp only
  repeat' split
  all_goals simp

@[simp] theorem Manager.startCellReset_mem (m : Manager) (p : Nat) : (m.startCellReset p).eng.mem = m.eng.mem := by
  unfold Manager.startCellReset; simp

/-! ### Discovery -/

@[simp] theorem Manager.acceptBp_mem (m : Manager) (img : List Byte) : (m.acceptBp img).eng.mem = m.eng.mem := by
  unfold Manager.acceptBp; simp
@[simp] theorem Manager.takeHello_mem (m : Manager) (p : List Byte) : (m.takeHello p).eng.mem = m.eng.mem := by
  unfold Manager.takeHello; dsimp only; split <;> simp
@[simp] theorem Manager.failAttest_mem (m : Manager) (die : Nat) (a : Att) : (m.failAttest die a).eng.mem = m.eng.mem := by
  unfold Manager.failAttest; simp
@[simp] theorem Manager.passAttest_mem (m : Manager) (die : Nat) (a : Att) (desc : List Byte) (debug : Nat) :
    (m.passAttest die a desc debug).eng.mem = m.eng.mem := by
  unfold Manager.passAttest; simp
@[simp] theorem Manager.repeatAtts_mem (m : Manager) : m.repeatAtts.eng.mem = m.eng.mem := by
  unfold Manager.repeatAtts; simp
@[simp] theorem Manager.repeatOffers_eng (m : Manager) : m.repeatOffers.eng = m.eng := by
  unfold Manager.repeatOffers; simp
@[simp] theorem Manager.repeatClaims_eng (m : Manager) : m.repeatClaims.eng = m.eng := by
  unfold Manager.repeatClaims; simp

/-! ### Bulk images -/

@[simp] theorem Manager.sendBlock_eng (m : Manager) (pass b : Nat) (to_ : Option Nat) :
    (m.sendBlock pass b to_).eng = m.eng := by
  unfold Manager.sendBlock; split <;> simp
@[simp] theorem Manager.startCast_eng (m : Manager) : m.startCast.eng = m.eng := by
  unfold Manager.startCast; simp
@[simp] theorem Manager.tally_eng (m : Manager) : m.tally.eng = m.eng := by
  unfold Manager.tally; simp
@[simp] theorem Manager.nextBatch_eng (m : Manager) : m.nextBatch.eng = m.eng := by
  unfold Manager.nextBatch; simp
@[simp] theorem Manager.batchReport_eng (m : Manager) (n state : Nat) : (m.batchReport n state).eng = m.eng := by
  unfold Manager.batchReport; simp
@[simp] theorem Manager.nextPass_eng (m : Manager) (open_ : List Nat) : (m.nextPass open_).eng = m.eng := by
  unfold Manager.nextPass; simp

/-! ### Keys -/

@[simp] theorem Manager.takeOffer_eng (m : Manager) (hdr : Hdr) (assoc : Nat) (phase : Bool) (wrap peer : Nat) (salts : Salts)
    (expire : Nat) (key : Key) (sigOk : Bool) :
    (m.takeOffer hdr assoc phase wrap peer salts expire key sigOk).eng = m.eng := by
  unfold Manager.takeOffer; simp
@[simp] theorem Manager.moveTx_eng (m : Manager) (nid : Nat) (o : Offer) : (m.moveTx nid o).eng = m.eng := by
  unfold Manager.moveTx; simp
@[simp] theorem Manager.moveGroup_eng (m : Manager) (o : Offer) : (m.moveGroup o).eng = m.eng := by
  unfold Manager.moveGroup; simp
@[simp] theorem Manager.accepted_mem (m : Manager) (nid : Nat) (o : Offer) : (m.accepted nid o).eng.mem = m.eng.mem := by
  unfold Manager.accepted
  dsimp only
  repeat' split
  all_goals simp

@[simp] theorem Manager.pairSlot_eng (m : Manager) (hdr : Hdr) : (m.pairSlot hdr).eng = m.eng := by
  unfold Manager.pairSlot
  dsimp only
  repeat' split
  all_goals simp

@[simp] theorem Manager.renew_eng (m : Manager) (peer assoc : Nat) : (m.renew peer assoc).eng = m.eng := by
  unfold Manager.renew; simp
@[simp] theorem Manager.renewAsked_eng (m : Manager) : m.renewAsked.eng = m.eng := by
  unfold Manager.renewAsked; simp
@[simp] theorem Manager.renewFor_eng (m : Manager) (nid : Nat) : (m.renewFor nid).eng = m.eng := by
  unfold Manager.renewFor; simp

/-! ### The module -/

@[simp] theorem Manager.ownCmd_wf (m : Manager) (r : Req) (key v : Nat) (listed : List Nat) (busy : Bool) (eff : Manager → Nat → Manager)
    (h : Memory.wf m.eng.mem = true) (he : ∀ c, Memory.wf (eff m c).eng.mem = true) :
    Memory.wf (m.ownCmd r key v listed busy eff).eng.mem = true := by
  obtain ⟨_, -, e⟩ | ⟨-, e⟩ | ⟨-, -, -, e⟩ := m.ownCmd_cases r key v listed busy eff <;> rw [e] <;> simp [h, he]

@[simp] theorem Manager.dropBarrier_eng (m : Manager) : m.dropBarrier.eng = m.eng := by
  unfold Manager.dropBarrier; simp
@[simp] theorem Manager.resetModule_wf (m : Manager) (cause : Nat) : Memory.wf (m.resetModule cause).eng.mem = true := rfl
@[simp] theorem Manager.outAtStart_eng (m : Manager) : m.outAtStart.eng = m.eng := by
  unfold Manager.outAtStart; simp
@[simp] theorem Manager.bootSlot_eng (m : Manager) (i : StartIn) : (m.bootSlot i).eng = m.eng := by
  unfold Manager.bootSlot; simp
@[simp] theorem Manager.trainStacks_eng (m : Manager) (i : StartIn) : (m.trainStacks i).eng = m.eng := by
  unfold Manager.trainStacks; simp
@[simp] theorem Manager.stackKeys_mem (m : Manager) : m.stackKeys.eng.mem = m.eng.mem := by
  unfold Manager.stackKeys; simp
@[simp] theorem Manager.joinTriad_eng (m : Manager) (i : StartIn) : (m.joinTriad i).eng = m.eng := by
  unfold Manager.joinTriad; split <;> simp
@[simp] theorem Manager.trainPorts_eng (m : Manager) (i : StartIn) : (m.trainPorts i).eng = m.eng := by
  unfold Manager.trainPorts; simp
@[simp] theorem Manager.startModule_mem (m : Manager) (i : StartIn) : (m.startModule i).eng.mem = m.eng.mem := by
  unfold Manager.startModule; simp

/-! ### Telemetry -/

@[simp] theorem Manager.storeTel_eng (m : Manager) (time : Nat) (r : TlRec) : (m.storeTel time r).eng = m.eng := by
  unfold Manager.storeTel; simp
@[simp] theorem Manager.tsRead_eng (m : Manager) (fn c : Nat) : (m.tsRead fn c).1.eng = m.eng := by
  unfold Manager.tsRead; simp
@[simp] theorem Manager.measure_eng (m : Manager) (time : Nat) (r : TlRec) : (m.measure time r).eng = m.eng := by
  unfold Manager.measure; simp
@[simp] theorem Manager.storeEngine_eng (m : Manager) (c : Nat) : (m.storeEngine c).eng = m.eng := by
  unfold Manager.storeEngine; simp
@[simp] theorem Manager.markTel_eng (m : Manager) (c v : Nat) : (m.markTel c v).eng = m.eng := by
  unfold Manager.markTel; simp
@[simp] theorem Manager.setPeriod_eng (m : Manager) (p : Nat) : (m.setPeriod p).eng = m.eng := by
  unfold Manager.setPeriod; simp

/-! ### Security operations -/

@[simp] theorem Manager.drawNonce_eng (m : Manager) : m.drawNonce.1.eng = m.eng := by
  unfold Manager.drawNonce; simp
@[simp] theorem Manager.rotate_mem (m : Manager) : m.rotate.eng.mem = m.eng.mem := by
  unfold Manager.rotate; simp
@[simp] theorem Manager.sweepEnd_mem (m : Manager) : m.sweepEnd.eng.mem = m.eng.mem := by rfl
@[simp] theorem Manager.raiseLevel_eng (m : Manager) (l : Nat) (end_ : Option Nat) :
    (m.raiseLevel l end_).eng = m.eng := by
  unfold Manager.raiseLevel; simp
@[simp] theorem Manager.lowerLevel_wf (m : Manager) (start : StartIn) (h : Memory.wf m.eng.mem = true) :
    Memory.wf (m.lowerLevel start).eng.mem = true := by
  unfold Manager.lowerLevel; simp [h]
@[simp] theorem Manager.eraseSram_wf (m : Manager) (h : Memory.wf m.eng.mem = true) :
    Memory.wf m.eraseSram.eng.mem = true := Memory.wf_filter m.eng.mem _ h
@[simp] theorem Manager.expel_eng (m : Manager) (nid : Nat) : (m.expel nid).eng = m.eng := by
  unfold Manager.expel; simp
@[simp] theorem Manager.enterMode_wf (m : Manager) (mode : Nat) (start : StartIn) (h : Memory.wf m.eng.mem = true) :
    Memory.wf (m.enterMode mode start).eng.mem = true := by
  unfold Manager.enterMode; simp [h]
@[simp] theorem Manager.provision_wf (m : Manager) (start : StartIn) : Memory.wf (m.provision start).eng.mem = true := by
  unfold Manager.provision; simp
@[simp] theorem Manager.decommission_wf (m : Manager) (start : StartIn) : Memory.wf (m.decommission start).eng.mem = true := by
  unfold Manager.decommission; simp
@[simp] theorem Manager.grantAgent_eng (m : Manager) (die dur : Nat) : (m.grantAgent die dur).eng = m.eng := by
  unfold Manager.grantAgent; split <;> simp
@[simp] theorem Manager.applyToken_wf (m : Manager) (sigOk : Bool) (start : StartIn) (h : Memory.wf m.eng.mem = true) :
    Memory.wf (m.applyToken sigOk start).eng.mem = true := by
  unfold Manager.applyToken; simp -implicitDefEqProofs [h]
@[simp] theorem Manager.makeReport_eng (m : Manager) (fn c : Nat) : (m.makeReport fn c).eng = m.eng := by
  unfold Manager.makeReport; simp

/-! ### Requests of the host -/

@[simp] theorem Manager.badAccess_eng (m : Manager) : m.badAccess.eng = m.eng := by
  unfold Manager.badAccess; simp
@[simp] theorem Manager.reply_eng (m : Manager) (r : Req) (result : Nat) : (m.reply r result).eng = m.eng := by
  unfold Manager.reply; simp
@[simp] theorem Manager.sendProxy_eng (m : Manager) (i : Instr) (h : HostReq) : (m.sendProxy i h).eng = m.eng := by
  unfold Manager.sendProxy; simp
@[simp] theorem Manager.proxy_eng (m : Manager) (i : Instr) (h : HostReq) : (m.proxy i h).eng = m.eng := by
  unfold Manager.proxy; simp
@[simp] theorem Manager.turnAway_eng (m : Manager) (h : HostReq) (result : Nat) :
    (m.turnAway h result).eng = m.eng := by
  unfold Manager.turnAway; simp
@[simp] theorem Manager.accept_eng (m : Manager) (i : Instr) (h : HostReq) : (m.accept i h).eng = m.eng := by
  unfold Manager.accept; simp
@[simp] theorem Manager.issue_eng (m : Manager) (i : Instr) (h : HostReq) : (m.issue i h).eng = m.eng := by
  unfold Manager.issue; simp
@[simp] theorem Manager.onSlot_eng (m : Manager) (fn slot : Nat) (f : DictSlot → DictSlot) : (m.onSlot fn slot f).eng = m.eng := rfl
theorem Manager.takeAnswer_eng (m : Manager) (r : Req) (x : Answer × Manager) (h : m.takeAnswer r = some x) : x.2.eng = m.eng := by
  unfold Manager.takeAnswer at h
  split at h
  · cases h
  · cases h; rfl

@[simp] theorem Manager.transferred_eng (m : Manager) (fn : Nat) (irq : Bool) : (m.transferred fn irq).eng = m.eng := by
  unfold Manager.transferred; simp
@[simp] theorem Manager.delivered_eng (m : Manager) (nid : Nat) : (m.delivered nid).eng = m.eng := by
  unfold Manager.delivered; simp
@[simp] theorem Manager.endProxy_eng (m : Manager) (p : Proxied) (result : Nat) (data : List Byte) :
    (m.endProxy p result data).eng = m.eng := by
  unfold Manager.endProxy; simp

/-! ### Mailboxes, CRC and sync objects -/

@[simp] theorem Manager.post_eng (m : Manager) (b : Nat) : (m.post b).eng = m.eng := by
  unfold Manager.post; simp -implicitDefEqProofs
@[simp] theorem Manager.postHeld_eng (m : Manager) : m.postHeld.eng = m.eng := by
  unfold Manager.postHeld; simp
@[simp] theorem Manager.takeMsg_eng (m : Manager) (box code : Nat) (eff : Manager → Nat → List Byte → Manager)
    (h : ∀ n c l, (eff n c l).eng = n.eng) : (m.takeMsg box code eff).eng = m.eng := by
  unfold Manager.takeMsg
  dsimp only
  split
  · rfl
  · rw [h]; simp -implicitDefEqProofs

@[simp] theorem Manager.ring_eng (m : Manager) (fn q v : Nat) (f : Manager → Nat → Manager)
    (h : ∀ n b, (f n b).eng = n.eng) : (m.ring fn q v f).eng = m.eng := by
  unfold Manager.ring
  simp [Manager.foldl_eng f h]
@[simp] theorem Manager.feed_eng (m : Manager) (fn k n v : Nat) : (m.feed fn k n v).eng = m.eng := by
  unfold Manager.feed; simp
@[simp] theorem Manager.syncWrite_eng (m : Manager) (fn n : Nat) (f : Manager → Manager)
    (h : ∀ k, (f k).eng = k.eng) : (m.syncWrite fn n f).eng = m.eng := by
  unfold Manager.syncWrite
  simp [h]
@[simp] theorem Manager.returns_eng (m : Manager) (v : Nat) : (m.returns v).eng = m.eng := by rfl
@[simp] theorem Manager.syncRead_eng (m : Manager) (fn n : Nat) (f : Manager → Manager)
    (h : ∀ k, (f k).eng = k.eng) : (m.syncRead fn n f).eng = m.eng := by
  unfold Manager.syncRead
  simp [h]
@[simp] theorem Manager.acq_eng (m : Manager) (fn n : Nat) : (m.acq fn n).eng = m.eng := by
  unfold Manager.acq
  dsimp only
  repeat' split
  all_goals simp

/-! ### BAR writes -/

@[simp] theorem Manager.widthOnly_eng (m : Manager) (t : List (Nat × Nat)) (off w : Nat) :
    (m.widthOnly t off w).eng = m.eng := by
  unfold Manager.widthOnly; simp
@[simp] theorem Manager.writeSlot_eng (m : Manager) (fn off w v : Nat) : (m.writeSlot fn off w v).eng = m.eng := by
  unfold Manager.writeSlot; simp
@[simp] theorem Manager.writeMbox_eng (m : Manager) (fn off w v : Nat) : (m.writeMbox fn off w v).eng = m.eng := by
  unfold Manager.writeMbox; simp
@[simp] theorem Manager.writeMsix_eng (m : Manager) (fn i v : Nat) : (m.writeMsix fn i v).eng = m.eng := by
  unfold Manager.writeMsix; simp
@[simp] theorem Manager.writeMsixAt_eng (m : Manager) (fn off w v : Nat) :
    (m.writeMsixAt fn off w v).eng = m.eng := by
  unfold Manager.writeMsixAt; simp
@[simp] theorem Manager.writeRing_eng (m : Manager) (fn off w v : Nat) : (m.writeRing fn off w v).eng = m.eng := by
  unfold Manager.writeRing; simp
@[simp] theorem Manager.writeChecked_eng (m : Manager) (fn off w : Nat) :
    (m.writeChecked fn off w).eng = m.eng := by
  unfold Manager.writeChecked; simp
@[simp] theorem Manager.writeBar0_eng (m : Manager) (fn off w v : Nat) : (m.writeBar0 fn off w v).eng = m.eng := by
  unfold Manager.writeBar0; simp
@[simp] theorem Manager.retry_eng (m : Manager) (r : Req) : (m.retry r).eng = m.eng := by
  unfold Manager.retry
  repeat' split
  all_goals simp
@[simp] theorem Manager.badFrames_eng (m : Manager) (n : Nat) : (m.badFrames n).eng = m.eng := by
  unfold Manager.badFrames; simp

/-! ### Reads and writes of objects -/

@[simp] theorem Manager.readPlain_eng (m : Manager) (req : Req) (key : Nat) (r : ObjRow) :
    (m.readPlain req key r).eng = m.eng := by
  unfold Manager.readPlain; simp
@[simp] theorem Manager.rebase_eng (m : Manager) (old : Nat) : (m.rebase old).eng = m.eng := by
  unfold Manager.rebase; simp
@[simp] theorem Manager.wantTrees_eng (m : Manager) (c n : Nat) : (m.wantTrees c n).eng = m.eng := by
  unfold Manager.wantTrees; simp -implicitDefEqProofs
@[simp] theorem Manager.newPeer_mem (m : Manager) : m.newPeer.eng.mem = m.eng.mem := by
  unfold Manager.newPeer; simp
@[simp] theorem Manager.afterWrite_mem (m : Manager) (c key old : Nat) : (m.afterWrite c key old).eng.mem = m.eng.mem := by
  unfold Manager.afterWrite; simp
@[simp] theorem Manager.setCost_eng (m : Manager) (v : Nat) : (m.setCost v).eng = m.eng := by
  unfold Manager.setCost; simp
@[simp] theorem Manager.writeObj_mem (m : Manager) (fn c key : Nat) (data : List Byte) :
    (m.writeObj fn c key data).eng.mem = m.eng.mem := by
  unfold Manager.writeObj
  dsimp only
  repeat' split
  all_goals simp

@[simp] theorem Manager.writeOwn_mem (m : Manager) (req : Req) (c key : Nat) (data : List Byte) :
    (m.writeOwn req c key data).eng.mem = m.eng.mem := by
  unfold Manager.writeOwn; simp
@[simp] theorem Manager.writePlain_mem (m : Manager) (req : Req) (key : Nat) (data : List Byte) :
    (m.writePlain req key data).eng.mem = m.eng.mem := by
  unfold Manager.writePlain; simp
@[simp] theorem Manager.stagePart_eng (m : Manager) : m.stagePart.eng = m.eng := by
  unfold Manager.stagePart; simp -implicitDefEqProofs

/-! ### The recorder -/

@[simp] theorem Manager.summaries_eng (m : Manager) (code : Nat) : (m.summaries code).eng = m.eng := by
  unfold Manager.summaries; simp
@[simp] theorem Manager.clearAreas_eng (m : Manager) (which : Nat) : (m.clearAreas which).eng = m.eng := by
  unfold Manager.clearAreas; simp
@[simp] theorem Manager.answerView_eng (m : Manager) (r : Req) (out : Manager × List Byte)
    (h : out.1.eng = m.eng) : (m.answerView r out).eng = m.eng := by
  unfold Manager.answerView
  simp [h]

/-! ### Security -/

@[simp] theorem Manager.askLevel_wf (m : Manager) (l : Nat) (start : StartIn) (h : Memory.wf m.eng.mem = true) :
    Memory.wf (m.askLevel l start).eng.mem = true := by
  unfold Manager.askLevel; simp [h]
@[simp] theorem Manager.rotateDue_mem (m : Manager) : m.rotateDue.eng.mem = m.eng.mem := by
  unfold Manager.rotateDue; simp
@[simp] theorem Manager.reseedOwed_eng (m : Manager) : m.reseedOwed.eng = m.eng := by
  unfold Manager.reseedOwed; simp

/-! ### Power -/

@[simp] theorem Manager.endEveryLine_mem (m : Manager) (status : Nat) : (m.endEveryLine status).eng.mem = m.eng.mem := by
  unfold Manager.endEveryLine; simp
@[simp] theorem Manager.sleep_wf (m : Manager) (thermal : Bool) (h : Memory.wf m.eng.mem = true) :
    Memory.wf (m.sleep thermal).eng.mem = true := by
  unfold Manager.sleep; simp [h]
@[simp] theorem Manager.wakeUp_mem (m : Manager) (cause : Nat) (start : StartIn) :
    (m.wakeUp cause start).eng.mem = m.eng.mem := by
  unfold Manager.wakeUp; simp
@[simp] theorem Manager.wakeBy_mem (m : Manager) (cause : Nat) (start : StartIn) :
    (m.wakeBy cause start).eng.mem = m.eng.mem := by
  unfold Manager.wakeBy; simp
@[simp] theorem Manager.powerOff_eng (m : Manager) : m.powerOff.eng = m.eng := by
  unfold Manager.powerOff; simp

end Sys2Proof.Machine
end

section
/-! SUPPORT. The same of line steps, computations and redundancy. -/

namespace Sys2Proof.Machine

/-! ### Line steps -/

@[simp] theorem writeTile_wf (m : Manager) (r : TileRef) (bs : List Byte) (h : Memory.wf m.eng.mem = true) :
    Memory.wf (writeTile m r bs).eng.mem = true := by
  unfold writeTile; simp [h, Memory.wf_memWriteN]
theorem Manager.takeTags_mem {m : Manager} {cell : Nat} {reqs : List MemTag} {x : Manager × List Nat}
    (h : m.takeTags cell reqs = some x) : x.1.eng.mem = m.eng.mem := by
  unfold Manager.takeTags at h
  split at h
  · cases h
  · dsimp only at h
    split at h
    · cases h
    · cases h; simp

@[simp] theorem Manager.badWord_eng (m : Manager) (array addr ctx : Nat) :
    (m.badWord array addr ctx).eng = m.eng := by
  unfold Manager.badWord; simp
@[simp] theorem storePieces_wf (m : Manager) (l : LineRun) (refs : List (Option TileRef)) (bs : List (List Byte)) (h : Memory.wf m.eng.mem = true) :
    Memory.wf (storePieces m l refs bs).1.eng.mem = true := by
  fun_induction storePieces m l refs bs with
  | case1 => exact h
  | case2 m l r refs b rest ih => exact ih (writeTile_wf m r b h)
  | case3 => exact h

@[simp] theorem retryPassed_mem (m : Manager) (c : Nat) (l : LineRun) : (retryPassed m c l).eng.mem = m.eng.mem := by
  unfold retryPassed; dsimp only; split <;> simp -implicitDefEqProofs
@[simp] theorem Manager.countStep_mem (m : Manager) (c cell : Nat) : (m.countStep c cell).eng.mem = m.eng.mem := by
  unfold Manager.countStep; dsimp only; split <;> simp -implicitDefEqProofs
theorem foldl_bind_mem {α : Type} (f : Manager → α → Option Manager) (h : ∀ m x n, f m x = some n → n.eng.mem = m.eng.mem)
    (l : List α) (m n : Manager) (e : l.foldl (fun (a : Option Manager) x => a.bind (f · x)) (some m) = some n) :
    n.eng.mem = m.eng.mem := by
  refine List.foldlRecOn (motive := fun a => ∀ n, a = some n → n.eng.mem = m.eng.mem) l _ ?_ ?_ n e
  · rintro _ ⟨⟩
    rfl
  · intro a ha x _ n hn
    obtain ⟨k, rfl, hk⟩ := Option.bind_eq_some_iff.1 hn
    exact (h k x n hk).trans (ha k rfl)

theorem Manager.touchTiles_mem {m n : Manager} {c line : Nat} {tiles : List HeldTile} (h : m.touchTiles c line tiles = some n) :
    n.eng.mem = m.eng.mem := by
  unfold Manager.touchTiles at h
  split at h
  · cases h; rfl
  · obtain ⟨k, hk, rfl⟩ := Option.map_eq_some_iff.1 h
    have hs := foldl_bind_mem _ (fun m t n e => by
      obtain ⟨x, hx, rfl⟩ := Option.map_eq_some_iff.1 e
      exact Manager.takeTags_mem hx) _ _ _ hk
    simp [hs]

@[simp] theorem Manager.dropCopy_mem (m : Manager) (c : Nat) (l : LineRun) : (m.dropCopy c l).eng.mem = m.eng.mem := by
  unfold Manager.dropCopy; split <;> rfl
@[simp] theorem Manager.advanceLine_mem (m : Manager) (c : Nat) (p : Program) (l : LineRun) :
    (m.advanceLine c p l).eng.mem = m.eng.mem := by
  unfold Manager.advanceLine; simp
@[simp] theorem Manager.fetchAhead_mem (m : Manager) (c : Nat) (p : Program) (l : LineRun) (stage : Nat) :
    (m.fetchAhead c p l stage).eng.mem = m.eng.mem := by
  unfold Manager.fetchAhead
  split
  · rfl
  · refine Manager.foldl_mem _ (fun m x => ?_) _ _
    split
    · rfl
    · split
      · exact Manager.takeTags_mem ‹_›
      · rfl

@[simp] theorem Manager.cameBack_mem (m : Manager) (t : MemTag) : (m.cameBack t).eng.mem = m.eng.mem := by
  unfold Manager.cameBack
  split
  · rfl
  · split
    · cases h : m.touchTiles t.ctx t.line [⟨_, t.addr, t.size⟩] with
      | none => rfl
      | some n => exact touchTiles_mem h
    · rfl

/-- What a stage of a line step leaves of the manager has a canonical memory. -/
def StageOut.Canonical : StageOut → Prop
  | .go n _ => Memory.wf n.eng.mem = true
  | .finish n _ => Memory.wf n.eng.mem = true
  | .wait => True

theorem StageOut.Canonical.ite {o p : StageOut} {c : Prop} [Decidable c] (h : o.Canonical) (g : p.Canonical) :
    (if c then o else p).Canonical := by
  split <;> assumption
theorem StageOut.Canonical.go {n : Manager} {o : StageOut} {l : LineRun} (h : o.Canonical) (e : o = .go n l) :
    Memory.wf n.eng.mem = true := by
  subst e; exact h
theorem StageOut.Canonical.finish {n : Manager} {o : StageOut} {st : Nat} (h : o.Canonical) (e : o = .finish n st) :
    Memory.wf n.eng.mem = true := by
  subst e; exact h

section
variable {m : Manager} (h : Memory.wf m.eng.mem = true)
include h

theorem burinStage_canonical (l : LineRun) (op prev : Nat) (u : Option Upset) : (burinStage m l op prev u).Canonical := by
  unfold burinStage
  dsimp only
  split <;> simp [StageOut.Canonical, h]

theorem hatchStage_canonical (l : LineRun) (op : Nat) (u : Option Upset) : (hatchStage m l op u).Canonical := by
  unfold hatchStage
  dsimp only
  repeat' split
  all_goals simp [StageOut.Canonical, h]

theorem biteStage_canonical (l : LineRun) (op : Nat) (mask : Tile) (u : Option Upset) : (biteStage m l op mask u).Canonical := by
  unfold biteStage
  dsimp only
  split <;> simp [StageOut.Canonical, h]

theorem finishLoad_canonical (p : Program) (l : LineRun) (stage : Nat) : (finishLoad m p l stage).Canonical := by
  unfold finishLoad
  dsimp only
  repeat' split
  all_goals simp [StageOut.Canonical, h]

theorem finishStage_canonical (p : Program) (l : LineRun) (stage : Nat) (u : Option Upset) : (finishStage m p l stage u).Canonical :=
  .ite (biteStage_canonical h ..) (finishLoad_canonical h ..)

theorem Manager.takeTags_wf {cell : Nat} {reqs : List MemTag} {x : Manager × List Nat} (e : m.takeTags cell reqs = some x) :
    Memory.wf x.1.eng.mem = true := by
  rwa [Manager.takeTags_mem e]

theorem Manager.askWords_canonical {c : Nat} {run : Run} {p : Program} {l : LineRun} {refs : List (Nat × StreamDesc × Nat)} {o : StageOut}
    (e : m.askWords c run p l refs = some o) : o.Canonical := by
  unfold Manager.askWords at e
  dsimp only at e
  split at e
  · cases e; simp [StageOut.Canonical, h]
  · split at e
    · cases e
    · split at e <;> cases e
      · trivial
      · exact Manager.takeTags_wf h ‹_›

theorem loadStage_canonical (c : Nat) (run : Run) (p : Program) (l : LineRun) (stage : Nat) (u : Option Upset) :
    (loadStage m c run p l stage u).Canonical := by
  unfold loadStage
  dsimp only
  split
  · exact h
  · split
    · exact Manager.askWords_canonical h ‹_›
    · split
      · exact h
      · split
        · simp [StageOut.Canonical, h]
        · split
          · exact finishStage_canonical h p _ stage _
          · split
            · trivial
            · exact Manager.takeTags_wf h ‹_›

theorem storeStage_canonical (c : Nat) (run : Run) (p : Program) (l : LineRun) (pieces : List (List Byte))
    (k : Manager → LineRun → Bool → StageOut) (hk : ∀ n l b, Memory.wf n.eng.mem = true → (k n l b).Canonical) :
    (storeStage m c run p l pieces k).Canonical := by
  unfold storeStage
  dsimp only
  split
  · exact Manager.askWords_canonical h ‹_›
  · split
    · split
      · exact hk _ _ _ (storePieces_wf _ _ _ _ h)
      · trivial
    · exact hk _ _ _ (storePieces_wf _ _ _ _ (Manager.takeTags_wf h ‹_›))

theorem scatterStage_canonical (c : Nat) (run : Run) (p : Program) (l : LineRun) : (scatterStage m c run p l).Canonical := by
  unfold scatterStage
  split
  · exact h
  · exact storeStage_canonical h c run p l _ _ (fun _ _ _ hn => hn)

theorem emitStage_canonical (c : Nat) (run : Run) (p : Program) (l : LineRun) : (emitStage m c run p l).Canonical := by
  unfold emitStage
  dsimp only
  repeat' split
  all_goals simp [StageOut.Canonical, h]

theorem pullStage_canonical (c : Nat) (run : Run) (p : Program) (l : LineRun) (op : Nat) : (pullStage m c run p l op).Canonical :=
  .ite (emitStage_canonical h ..) <| .ite h <| storeStage_canonical h c run p l _ _ (fun _ _ _ hn => by split <;> exact hn)

theorem mismatch_canonical (l : LineRun) : (mismatch m l).Canonical := by
  unfold mismatch
  dsimp only
  repeat' split
  all_goals simp [StageOut.Canonical, Manager.markRetiring_mem, h]

theorem proofStage_canonical (c : Nat) (l : LineRun) (op : Nat) : (proofStage m c l op).Canonical := by
  unfold proofStage
  split
  · exact mismatch_canonical h l
  · refine .ite trivial (.ite ?_ (.ite ?_ ?_)) <;> simp [StageOut.Canonical, h]

theorem runStage_canonical (c : Nat) (run : Run) (p : Program) (l : LineRun) (stage : Nat) (u : Option Upset) :
    (runStage m c run p l stage u).Canonical := by
  have drawn : ∀ k, (StageOut.go m.drawTile k).Canonical := fun _ => h
  exact .ite (.ite (loadStage_canonical h ..) (drawn _)) <|
    .ite (.ite (loadStage_canonical h ..) (.ite (scatterStage_canonical h ..) (drawn _))) <|
    .ite (burinStage_canonical h ..) <| .ite (hatchStage_canonical h ..) <| .ite (.ite (loadStage_canonical h ..) (drawn _)) <|
    .ite (proofStage_canonical h ..) (pullStage_canonical h ..)

end

@[simp] theorem tileStep_wf (m : Manager) (c line : Nat) (u : Option Upset) (corrected : Nat) (failing : List Nat)
    (h : Memory.wf m.eng.mem = true) : Memory.wf (tileStep m c line u corrected failing).eng.mem = true := by
  unfold tileStep
  generalize hb : Manager.onEng (m.bumpBy Obj.AR_SRAM_CORR corrected) _ = b
  replace h : Memory.wf b.eng.mem = true := by rw [← hb]; exact h
  dsimp only
  split
  · split
    · exact h
    · split
      · exact (congrArg Memory.wf (Manager.markRetiring_mem _ _)).trans h
      · split
        · exact h
        · split
          · exact h
          · generalize hg : Manager.onEng b _ = g
            replace h : Memory.wf g.eng.mem = true := by rw [← hg]; exact h
            split
            · exact h
            next e => simpa using (runStage_canonical h ..).finish e
            next e =>
              have ran := (runStage_canonical h ..).go e
              split
              · exact h
              next ht =>
                rw [← Manager.touchTiles_mem ht] at ran
                split <;> simpa using ran
  · exact h

@[simp] theorem Manager.wantResync_eng (m : Manager) : m.wantResync.eng = m.eng := by
  unfold Manager.wantResync; simp
@[simp] theorem Manager.loseSample_eng (m : Manager) (group : Nat) : (m.loseSample group).eng = m.eng := by
  unfold Manager.loseSample; simp
@[simp] theorem Manager.uncorrectable_mem (m : Manager) (w : ArrayWord) (addr : Option Nat) :
    (m.uncorrectable w addr).eng.mem = m.eng.mem := by
  unfold Manager.uncorrectable; split <;> simp
@[simp] theorem Manager.wordRead_mem (m : Manager) (w : ArrayWord) (found : WordFound) :
    (m.wordRead w found).eng.mem = m.eng.mem := by
  unfold Manager.wordRead; split <;> simp
@[simp] theorem Manager.tagRead_mem (m : Manager) (t : MemTag) (bad : Bool) (found : WordFound) :
    (m.tagRead t bad found).eng.mem = m.eng.mem := by
  unfold Manager.tagRead
  repeat' split
  all_goals simp

@[simp] theorem Manager.lineLoaded_wf (m : Manager) (c : Nat) (p : Program) (l : LineRun) (h : Memory.wf m.eng.mem = true) :
    Memory.wf (m.lineLoaded c p l).eng.mem = true := by
  unfold Manager.lineLoaded
  split
  · simp [h]
  · dsimp only
    split
    · simp [h]
    next e => simpa using (finishStage_canonical h ..).finish e
    next e => simpa using (finishStage_canonical h ..).go e

@[simp] theorem Manager.wordsCame_mem (m : Manager) (c : Nat) (l : LineRun) : (m.wordsCame c l).eng.mem = m.eng.mem := by
  unfold Manager.wordsCame; simp

@[simp] theorem Manager.tagReply_wf (m : Manager) (cell tag : Nat) (found : WordFound) (h : Memory.wf m.eng.mem = true) :
    Memory.wf (m.tagReply cell tag found).eng.mem = true := by
  unfold Manager.tagReply
  split
  · exact h
  · dsimp only
    repeat' split
    all_goals simp [h]

@[simp] theorem Manager.freeSlotFor_mem (m : Manager) (cell prio : Nat) :
    (m.freeSlotFor cell prio).1.eng.mem = m.eng.mem := by
  unfold Manager.freeSlotFor
  repeat' split
  all_goals simp

@[simp] theorem Manager.requeueAll_mem (m : Manager) (gone : Nat) (to_ : Option Nat) : (m.requeueAll gone to_).eng.mem = m.eng.mem := by
  refine Manager.foldl_mem _ (fun m x => ?_) _ _
  split
  · rfl
  · split <;> simp

@[simp] theorem Manager.checkDegraded_mem (m : Manager) : m.checkDegraded.eng.mem = m.eng.mem := by
  unfold Manager.checkDegraded; simp
@[simp] theorem Manager.remap_mem (m : Manager) (p : Nat) : (m.remap p).eng.mem = m.eng.mem := by
  unfold Manager.remap
  dsimp only
  repeat' split
  all_goals simp

/-! ### Computations -/

@[simp] theorem Manager.drawSeeds_eng (m : Manager) (sw : List Nat) : (m.drawSeeds sw).eng = m.eng := by
  unfold Manager.drawSeeds; simp
@[simp] theorem Manager.dropTrees_eng (m : Manager) (ls : Links) : (m.dropTrees ls).eng = m.eng := by
  unfold Manager.dropTrees; simp -implicitDefEqProofs
@[simp] theorem Manager.clearAdj_eng (m : Manager) : m.clearAdj.eng = m.eng := by
  unfold Manager.clearAdj; simp
@[simp] theorem Manager.zeroEvent_eng (m : Manager) (l : List Nat) : (m.zeroEvent l).eng = m.eng := by
  unfold Manager.zeroEvent; simp
@[simp] theorem Manager.runHook_mem (m : Manager) (c : Comp) : (m.runHook c).eng.mem = m.eng.mem := by
  unfold Manager.runHook; simp
@[simp] theorem Manager.undoHook_wf (m : Manager) (c : Comp) (h : Memory.wf m.eng.mem = true) :
    Memory.wf (m.undoHook c).eng.mem = true := by
  unfold Manager.undoHook; simp [h]
@[simp] theorem Manager.compStats_eng (m : Manager) (c : Comp) (cut : Nat) : (m.compStats c cut).eng = m.eng := by
  unfold Manager.compStats; simp
@[simp] theorem Manager.completeComp_wf (m : Manager) (h : Memory.wf m.eng.mem = true) :
    Memory.wf m.completeComp.eng.mem = true := by
  unfold Manager.completeComp
  repeat' split
  all_goals simp [h]

@[simp] theorem Manager.takeAdj_eng (m : Manager) (adj : SMap Nat) : (m.takeAdj adj).eng = m.eng := by
  unfold Manager.takeAdj; simp
@[simp] theorem Manager.imbalance_eng (m : Manager) (k : Nat) : (m.imbalance k).eng = m.eng := by
  unfold Manager.imbalance; simp
@[simp] theorem Manager.startRedraw_mem (m : Manager) : m.startRedraw.eng.mem = m.eng.mem := by
  unfold Manager.startRedraw; simp

/-! ### Redundancy -/

@[simp] theorem Manager.toPeer_eng (m : Manager) (nid : Nat) (x : Msg) : (m.toPeer nid x).eng = m.eng := by
  unfold Manager.toPeer; simp
@[simp] theorem Manager.triadSend_eng (m : Manager) (x : TriadMsg) : (m.triadSend x).eng = m.eng := by rfl
@[simp] theorem Manager.addPeer_eng (m : Manager) (k : Nat) : (m.addPeer k).eng = m.eng := by
  unfold Manager.addPeer; simp
@[simp] theorem Manager.dropPeer_eng (m : Manager) (k : Nat) : (m.dropPeer k).eng = m.eng := by
  unfold Manager.dropPeer; simp
@[simp] theorem Manager.yieldIf_mem (m : Manager) : m.yieldIf.eng.mem = m.eng.mem := by
  unfold Manager.yieldIf; simp
@[simp] theorem Manager.alone_wf (m : Manager) (h : Memory.wf m.eng.mem = true) :
    Memory.wf m.alone.eng.mem = true := by
  unfold Manager.alone; simp [h]
@[simp] theorem Manager.entryHeld_eng (m : Manager) (slot seq : Nat) : (m.entryHeld slot seq).eng = m.eng := by
  unfold Manager.entryHeld; simp
@[simp] theorem Manager.claimAs_eng (m : Manager) (cause n prev prevNid : Nat) :
    (m.claimAs cause n prev prevNid).eng = m.eng := by
  unfold Manager.claimAs; simp
@[simp] theorem Manager.claimBoot_mem (m : Manager) : m.claimBoot.eng.mem = m.eng.mem := by
  unfold Manager.claimBoot; simp
@[simp] theorem Manager.lostWithLeader_wf (m : Manager) (h : Memory.wf m.eng.mem = true) :
    Memory.wf m.lostWithLeader.eng.mem = true := by
  refine Memory.wf_filter _ _ ?_
  rw [Manager.onRed_eng, Manager.foldl_eng _ (fun _ _ => by simp -implicitDefEqProofs)]
  exact h
@[simp] theorem Manager.complete_eng (m : Manager) (n : Nat) (behind : List Nat) :
    (m.complete n behind).eng = m.eng := by
  unfold Manager.complete; simp
@[simp] theorem Manager.settleOn_wf (m : Manager) (n : Nat) (h : Memory.wf m.eng.mem = true) :
    Memory.wf (m.settleOn n).eng.mem = true := by
  unfold Manager.settleOn; simp [h]
@[simp] theorem Manager.stageAgain_wf (m : Manager) (kept : Option Cand) (behind : List Nat) (h : Memory.wf m.eng.mem = true) :
    Memory.wf (m.stageAgain kept behind).eng.mem = true := by
  unfold Manager.stageAgain; split <;> simp [h]
@[simp] theorem Manager.settleGain_wf (m : Manager) (cause : Nat) (kept : Option Cand) (h : Memory.wf m.eng.mem = true) :
    Memory.wf (m.settleGain cause kept).eng.mem = true := by
  unfold Manager.settleGain; simp [h]
@[simp] theorem Manager.gainDone_wf (m : Manager) (h : Memory.wf m.eng.mem = true) :
    Memory.wf m.gainDone.eng.mem = true := by
  unfold Manager.gainDone; split <;> simp [h]
@[simp] theorem Manager.gained_wf (m : Manager) (cause : Nat) (committed : SMap Nat) (waits : List Nat) (again : Bool) (h : Memory.wf m.eng.mem = true) :
    Memory.wf (m.gained cause committed waits again).eng.mem = true := by
  unfold Manager.gained; simp [h]
@[simp] theorem Manager.takeOver_wf (m : Manager) (cause : Nat) (h : Memory.wf m.eng.mem = true) :
    Memory.wf (m.takeOver cause).eng.mem = true := by
  unfold Manager.takeOver; simp [h]
@[simp] theorem Manager.standBy_mem (m : Manager) (src : Nat) : (m.standBy src).eng.mem = m.eng.mem := by
  unfold Manager.standBy; simp
@[simp] theorem Manager.rejoins_mem (m : Manager) (sw committed : Nat) : (m.rejoins sw committed).eng.mem = m.eng.mem := by
  unfold Manager.rejoins; simp
@[simp] theorem Manager.lateReport_mem (m : Manager) (sw committed : Nat) :
    (m.lateReport sw committed).eng.mem = m.eng.mem := by
  unfold Manager.lateReport; simp
@[simp] theorem Manager.silentAgents_mem (m : Manager) (lost : List Nat) : (m.silentAgents lost).eng.mem = m.eng.mem := by
  unfold Manager.silentAgents; simp
@[simp] theorem Manager.decided_wf (m : Manager) (imp : Nat) (digest : Digest) (plates : SMap Plate) (full : Bool) (h : Memory.wf m.eng.mem = true) :
    Memory.wf (m.decided imp digest plates full).eng.mem = true := by
  unfold Manager.decided; simp [h]
@[simp] theorem Manager.fetch_eng (m : Manager) (seq : Nat) : (m.fetch seq).eng = m.eng := by
  unfold Manager.fetch; simp
@[simp] theorem Manager.outOfStep_mem (m : Manager) (src : Nat) : (m.outOfStep src).eng.mem = m.eng.mem := by
  unfold Manager.outOfStep; simp
@[simp] theorem Manager.caughtUp_eng (m : Manager) : m.caughtUp.eng = m.eng := by
  unfold Manager.caughtUp; simp
@[simp] theorem Manager.yielded_wf (m : Manager) (h : Memory.wf m.eng.mem = true) :
    Memory.wf m.yielded.eng.mem = true := by
  unfold Manager.yielded; split <;> simp [h]
@[simp] theorem Manager.passOn_eng (m : Manager) (seq : Nat) (e : StreamEntry) : (m.passOn seq e).eng = m.eng := by
  unfold Manager.passOn; simp
@[simp] theorem Manager.keyPeer_eng (m : Manager) (nid : Nat) : (m.keyPeer nid).eng = m.eng := by
  unfold Manager.keyPeer; simp
@[simp] theorem Manager.heardSeq_mem (m : Manager) (src seq : Nat) : (m.heardSeq src seq).eng.mem = m.eng.mem := by
  unfold Manager.heardSeq; simp -implicitDefEqProofs
@[simp] theorem Manager.beat_eng (m : Manager) (me : Nat) : (m.beat me).eng = m.eng := by
  unfold Manager.beat; simp
@[simp] theorem Manager.resyncHere_mem (m : Manager) : m.resyncHere.eng.mem = m.eng.mem := by
  unfold Manager.resyncHere; simp
@[simp] theorem Manager.noAgreement_mem (m : Manager) : m.noAgreement.eng.mem = m.eng.mem := by
  unfold Manager.noAgreement; simp
@[simp] theorem Manager.adoptCopy_wf (m : Manager) (c : Copy) (h : Memory.wf m.eng.mem = true) :
    Memory.wf (m.adoptCopy c).eng.mem = true :=
  Manager.foldl_wf _ (fun m _ hm => m.storePlates_wf _ _ hm) _ _ h
@[simp] theorem Manager.rejoinUnit_wf (m : Manager) (src : Nat) (h : Memory.wf m.eng.mem = true) :
    Memory.wf (m.rejoinUnit src).eng.mem = true := by
  unfold Manager.rejoinUnit; simp [h]

end Sys2Proof.Machine
end

section
/-! SUPPORT. Every command leaves a canonical memory canonical. -/

namespace Sys2Proof.Machine

/-- Where an outcome gives a next state, that state's memory is canonical. -/
structure Out.Canonical (o : Out) : Prop where
  memory : ∀ t, o = .next t → Memory.wf t.mgr.eng.mem = true

theorem Out.Canonical.next {t : State} (h : Memory.wf t.mgr.eng.mem = true) : Out.Canonical (.next t) :=
  ⟨fun _ e => by cases e; exact h⟩

theorem Out.Canonical.ite {o p : Out} {c : Prop} [Decidable c] (h : Out.Canonical o) (g : Out.Canonical p) :
    Out.Canonical (if c then o else p) := by
  split <;> assumption

variable {s : State} (h : Memory.wf s.mgr.eng.mem = true)
include h

/-! ### Contexts -/

theorem execCvGo_canonical (req : Req) (value : Nat) : Out.Canonical (execCvGo req value s) :=
  .ite (.next (by simp [h])) (.next (by simp [h]))
theorem execCvCancel_canonical (req : Req) (tag : Nat) : Out.Canonical (execCvCancel req tag s) :=
  .next (by simp [h])

theorem execPlaceComplete_canonical : Out.Canonical (execPlaceComplete s) := by
  unfold execPlaceComplete
  dsimp only
  repeat' split
  all_goals exact .next (by simp [h])

theorem execWaitExpired_canonical (tag : Nat) : Out.Canonical (execWaitExpired tag s) := by
  unfold execWaitExpired
  split
  · exact .next h
  · exact .next (by simp [h])

theorem execKeyAck_canonical (hdr : Hdr) (ctx gen role status : Nat) : Out.Canonical (execKeyAck hdr ctx gen role status s) :=
  .ite (.next (by simp [h])) (.next (by simp [h]))

theorem execSetKeyTimeout_canonical (ctx : Nat) : Out.Canonical (execSetKeyTimeout ctx s) := by
  unfold execSetKeyTimeout
  dsimp only
  repeat' split
  all_goals exact .next (by simp [h])

theorem execCarveComplete_canonical (ctx : Nat) : Out.Canonical (execCarveComplete ctx s) :=
  .ite (.next h) (.next (by simp [h]))
theorem execCxReleaseDrain_canonical (req : Req) : Out.Canonical (execCxReleaseDrain req s) :=
  .ite (.next (by simp [h])) (.next (by simp [h]))
theorem execCxReleasePurge_canonical (req : Req) : Out.Canonical (execCxReleasePurge req s) :=
  .ite (.next (by simp [h])) (.next (by simp [h]))
theorem execDrainTimeout_canonical (ctx : Nat) : Out.Canonical (execDrainTimeout ctx s) :=
  .ite (.next h) (.next (by simp [h]))

theorem execPurgeTagsReturned_canonical (ctx : Nat) : Out.Canonical (execPurgeTagsReturned ctx s) := by
  unfold execPurgeTagsReturned
  dsimp only
  split
  · exact .next h
  · have zeroed := Memory.wf_foldl (fun mem ph => memZero mem (sramAddr ph ctx 0) (2 ^ 44)) (fun _ _ => Memory.wf_memZero _ _ _)
    exact .ite (.next h) (.next (by simpa using Memory.wf_memZero _ _ _ (zeroed _ _ h)))

theorem execRevokeTimeout_canonical (ctx : Nat) : Out.Canonical (execRevokeTimeout ctx s) := by
  unfold execRevokeTimeout
  dsimp only
  split <;> exact .next (by simp [h])

theorem execVfReset_canonical (ctx : Nat) : Out.Canonical (execVfReset ctx s) := by
  unfold execVfReset
  dsimp only
  repeat' split
  all_goals exact .next (by simp [h])

theorem execPurgeComplete_canonical (ctx : Nat) : Out.Canonical (execPurgeComplete ctx s) :=
  .next (by simp [h])
theorem execQuarantineExpire_canonical (ctx : Nat) : Out.Canonical (execQuarantineExpire ctx s) :=
  .ite (.next h) (.next (by simp [h]))
theorem execDramPageZeroed_canonical (mib : Nat) : Out.Canonical (execDramPageZeroed mib s) :=
  .next (by simp [h])

theorem execConfidentialReplyRelease_canonical (req : Req) : Out.Canonical (execConfidentialReplyRelease req s) := by
  unfold execConfidentialReplyRelease
  dsimp only
  repeat' split
  all_goals exact .next (by simp [h])

/-! ### Installation -/

theorem execStageAck_canonical (hdr : Hdr) (imp status detail : Nat) (digest : Digest) :
    Out.Canonical (execStageAck hdr imp status detail digest s) := by
  unfold execStageAck
  dsimp only
  repeat' split
  all_goals exact .next (by simp [h])

theorem execStageAttemptTimeout_canonical (switch : Nat) : Out.Canonical (execStageAttemptTimeout switch s) := by
  unfold execStageAttemptTimeout
  repeat' split
  all_goals exact .next (by simp [h])

theorem execCommitAck_canonical (hdr : Hdr) (imp status detail : Nat) (field : Digest) :
    Out.Canonical (execCommitAck hdr imp status detail field s) := by
  unfold execCommitAck
  dsimp only
  repeat' split
  all_goals exact .next (by simp [h])

theorem execCommitRetry_canonical : Out.Canonical (execCommitRetry s) := by
  unfold execCommitRetry
  dsimp only
  repeat' split
  all_goals exact .next (by simp [h])

theorem execCommitTimeout_canonical : Out.Canonical (execCommitTimeout s) := by
  unfold execCommitTimeout
  dsimp only
  repeat' split
  all_goals exact .next (by simp [h])

theorem execIsolateAck_canonical (hdr : Hdr) (nid status : Nat) : Out.Canonical (execIsolateAck hdr nid status s) :=
  .ite (.next (by simp [h])) (.next (by simp [h]))

theorem execIsolateRetry_canonical (switch : Nat) : Out.Canonical (execIsolateRetry switch s) := by
  unfold execIsolateRetry
  split
  · exact .next h
  · exact .next (by simp [h])

theorem execIsolateTimeout_canonical (switch : Nat) : Out.Canonical (execIsolateTimeout switch s) := by
  unfold execIsolateTimeout
  split
  · exact .next h
  · exact .next (by simp [h])

theorem execOldSideRelease_canonical : Out.Canonical (execOldSideRelease s) := by
  unfold execOldSideRelease
  dsimp only
  repeat' split
  all_goals exact .next (by simp [h])

theorem execImpFull_canonical (req : Req) (value : Nat) : Out.Canonical (execImpFull req value s) :=
  .ite (.next (by simp [h])) (.next (by simp [h]))
theorem execIsReadmit_canonical (req : Req) (value : Nat) : Out.Canonical (execIsReadmit req value s) :=
  .next (by simp [h])

theorem execIaRestore_canonical (req : Req) (value : Nat) : Out.Canonical (execIaRestore req value s) := by
  refine .next (Manager.cmd_wf _ _ _ _ _ _ _ _ h fun c => ?_)
  split
  · simp [h]
  · split <;> simp [h]

/-! ### Recovery -/

theorem execNeighbour_canonical (hdr : Hdr) (peerNode peerPort : Nat) (peerEp : Bool) (port : Nat) (ep : Bool) :
    Out.Canonical (execNeighbour hdr peerNode peerPort peerEp port ep s) := by
  unfold execNeighbour
  dsimp only
  repeat' split
  all_goals exact .next (by simp [h])

theorem execMemberAck_canonical (hdr : Hdr) (ctx gen nid : Nat) : Out.Canonical (execMemberAck hdr ctx gen nid s) :=
  .ite (.next (by simp [h])) (.next (by simp [h]))
theorem execMemberLostRetry_canonical : Out.Canonical (execMemberLostRetry s) :=
  .ite (.next h) (.next (by simp [h]))

theorem execRejoinTimeout_canonical (ctx : Nat) : Out.Canonical (execRejoinTimeout ctx s) := by
  unfold execRejoinTimeout
  dsimp only
  repeat' split
  all_goals exact .next (by simp [h])

theorem execKeyBarLifted_canonical (ctx : Nat) : Out.Canonical (execKeyBarLifted ctx s) := by
  unfold execKeyBarLifted
  dsimp only
  repeat' split
  all_goals exact .next (by simp [h])

theorem execLinkEvent_canonical (hdr : Hdr) (nid port : Nat) (ep good : Bool) (report time : Nat) (wait : Bool) :
    Out.Canonical (execLinkEvent hdr nid port ep good report time wait s) :=
  .next (by simp [h])
theorem execEpReset_canonical (hdr : Hdr) (nid cause resets report time : Nat) (wait : Bool) :
    Out.Canonical (execEpReset hdr nid cause resets report time wait s) :=
  .next (by simp [h])
theorem execNodeReady_canonical (hdr : Hdr) (nid report : Nat) (wait : Bool) : Out.Canonical (execNodeReady hdr nid report wait s) :=
  .next (by simp [h])
theorem execResetReq_canonical (hdr : Hdr) (nid switch report : Nat) (wait : Bool) :
    Out.Canonical (execResetReq hdr nid switch report wait s) :=
  .next (by simp [h])
theorem execNodeLost_canonical (hdr : Hdr) (nid report time : Nat) (wait : Bool) :
    Out.Canonical (execNodeLost hdr nid report time wait s) :=
  .next (by simp [h])

theorem execHeartbeatRound_canonical : Out.Canonical (execHeartbeatRound s) := by
  unfold execHeartbeatRound
  dsimp only
  repeat' split
  all_goals exact .next (by simp [h])

theorem execAgentHeartbeatMissed_canonical (nid : Nat) : Out.Canonical (execAgentHeartbeatMissed nid s) :=
  .ite (.next h) (.next (by simp [h]))
theorem execSilentTimeout_canonical (nid : Nat) : Out.Canonical (execSilentTimeout nid s) :=
  .ite (.next h) (.next (by simp [h]))

theorem execTimeEstimateExpire_canonical (nid : Nat) : Out.Canonical (execTimeEstimateExpire nid s) := by
  unfold execTimeEstimateExpire
  split
  · exact .next h
  · exact .next (by simp [h])

theorem execScribeWatchdog_canonical (core : Nat) (reqs : List Req) : Out.Canonical (execScribeWatchdog core reqs s) :=
  .next (by simp [h])

theorem execHangWatchdog_canonical (ctx : Nat) : Out.Canonical (execHangWatchdog ctx s) := by
  unfold execHangWatchdog
  dsimp only
  repeat' split
  all_goals exact .next (by simp [h])

theorem execCellResetComplete_canonical (cell : Nat) : Out.Canonical (execCellResetComplete cell s) :=
  have zeroed : Memory.wf (memZero s.mgr.eng.mem (sramAddr cell 0 0) (2 ^ 56)) = true := Memory.wf_memZero _ _ _ h
  .ite (.next h) <| .ite (.next (by simpa [Manager.markRetiring_mem] using zeroed)) (.next (by simpa using zeroed))

theorem execEpReadmit_canonical (req : Req) (value : Nat) : Out.Canonical (execEpReadmit req value s) :=
  .next (by simp -implicitDefEqProofs [h])

theorem execLkReadmit_canonical (req : Req) (value : Nat) : Out.Canonical (execLkReadmit req value s) := by
  refine .next ?_
  dsimp only
  refine Manager.cmd_wf _ _ _ _ _ _ _ _ h fun c => ?_
  generalize hn : List.foldl _ (s.mgr.entry _) _ = n
  have e : n.eng = s.mgr.eng := by
    rw [← hn]
    exact (Manager.foldl_eng _ (fun _ _ => by split <;> rfl) _ _).trans (Manager.entry_eng ..)
  split <;> simp [e, h]

theorem execRsCommit_canonical (req : Req) (value : Nat) : Out.Canonical (execRsCommit req value s) :=
  .next (by simp [h])

/-! ### Discovery -/

theorem execBpImage_canonical (req : Req) (image : List Byte) : Out.Canonical (execBpImage req image s) := by
  refine .next (Manager.hostWrite_wf _ _ _ _ _ _ _ h fun c => ?_)
  dsimp only
  split <;> simp [h]

theorem execHello_canonical (hdr : Hdr) (payload : List Byte) : Out.Canonical (execHello hdr payload s) :=
  .ite (.next (by simp [h])) (.next (by simp [h]))

theorem execAttestReport_canonical (hdr : Hdr) (die : Nat) (sigOk : Bool) (nonce hello : Digest) (desc : List Byte) (debug : Nat) :
    Out.Canonical (execAttestReport hdr die sigOk nonce hello desc debug s) := by
  unfold execAttestReport
  dsimp only
  repeat' split
  all_goals exact .next (by simp [h])

theorem execAttestRepeat_canonical : Out.Canonical (execAttestRepeat s) :=
  .ite (.next h) (.next (by simp [h]))
theorem execSettleExpire_canonical : Out.Canonical (execSettleExpire s) :=
  .ite (.next h) (.next (by simp [h]))
theorem execReadyToleranceWrite_canonical (req : Req) (sub : Nat) (data : List Byte) :
    Out.Canonical (execReadyToleranceWrite req sub data s) :=
  .next (by simp [h])
theorem execDsRestart_canonical (req : Req) (value : Nat) : Out.Canonical (execDsRestart req value s) :=
  .next (by simp -implicitDefEqProofs [h])

/-! ### Bulk images -/

theorem execFwImage_canonical (req : Req) (image : List Byte) : Out.Canonical (execFwImage req image s) :=
  .next (by simp [h])
theorem execFwBroadcast_canonical (req : Req) (sigOk : Bool) : Out.Canonical (execFwBroadcast req sigOk s) :=
  .ite (.next (by simp [h])) (.next (by simp [h]))
theorem execPassSent_canonical : Out.Canonical (execPassSent s) :=
  .ite (.next h) (.next (by simp [h]))
theorem execFwActivate_canonical (req : Req) : Out.Canonical (execFwActivate req s) :=
  .next (by simp [h])
theorem execFwAbort_canonical (req : Req) : Out.Canonical (execFwAbort req s) :=
  .next (by simp [h])
theorem execBulkReport_canonical (hdr : Hdr) (image state pass : Nat) (more : Bool) (missing : List (Nat × Nat)) :
    Out.Canonical (execBulkReport hdr image state pass more missing s) :=
  .ite (.next (by simp [h])) (.next (by simp [h]))
theorem execPassPlan_canonical : Out.Canonical (execPassPlan s) :=
  .ite (.next h) <| .ite (.next (by simp [h])) (.next (by simp [h]))
theorem execActivationBatchTimeout_canonical : Out.Canonical (execActivationBatchTimeout s) :=
  .ite (.next h) (.next (by simp [h]))
theorem execBtFresh_canonical (req : Req) (value : Nat) : Out.Canonical (execBtFresh req value s) :=
  .next (by simp -implicitDefEqProofs [h])

/-! ### Keys -/

theorem execKeyAccept_canonical (hdr : Hdr) (assoc : Nat) (phase : Bool) (status : Nat) :
    Out.Canonical (execKeyAccept hdr assoc phase status s) := by
  unfold execKeyAccept
  dsimp only
  repeat' split
  all_goals exact .next (by simp [h])

theorem execTimedSend_canonical (nid : Nat) : Out.Canonical (execTimedSend nid s) := by
  unfold execTimedSend
  dsimp only
  repeat' split
  all_goals exact .next (by simp [h])

theorem execTimedReply_canonical (hdr : Hdr) (t1 t2 t3 wdrSent : Nat) (rekey restarting plateValid : Bool) :
    Out.Canonical (execTimedReply hdr t1 t2 t3 wdrSent rekey restarting plateValid s) := by
  unfold execTimedReply
  dsimp only
  split <;> exact .next (by simp [h])

theorem execManagerPortDown_canonical (port : Nat) : Out.Canonical (execManagerPortDown port s) :=
  .next (by simp [h])

/-! ### The module -/

theorem execModuleStart_canonical (start : StartIn) : Out.Canonical (execModuleStart start s) :=
  .ite (.next h) (.next (by simp))
theorem execDvReset_canonical (req : Req) (value : Nat) (start : StartIn) : Out.Canonical (execDvReset req value start s) :=
  .ite (.next (by simp [h])) <| .ite (.next (by simp [h])) <| .ite (.next (by simp [h])) (.next (by simp))

/-! ### Telemetry -/

theorem execTelemetry_canonical (hdr : Hdr) (time period : Nat) (last : Bool) (recs : List TlRec) :
    Out.Canonical (execTelemetry hdr time period last recs s) :=
  .ite (.next (by simp [h])) (.next (by simp [h]))
theorem execTelemetryManagerPeriod_canonical : Out.Canonical (execTelemetryManagerPeriod s) :=
  .next (by simp [h])
theorem execSubsampleWindow_canonical (full : Bool) : Out.Canonical (execSubsampleWindow full s) :=
  .ite (.next h) (.next (by simp [h]))

/-! ### Requests of the host -/

theorem execDwGo_canonical (fn slot : Nat) (irq : Bool) : Out.Canonical (execDwGo fn slot irq s) :=
  .ite (.next h) <| .ite (.next (by simp [h])) (.next (by simp [h]))

theorem execDictReplyHost_canonical (fn slot : Nat) : Out.Canonical (execDictReplyHost fn slot s) := by
  unfold execDictReplyHost
  dsimp only
  split
  · exact .next h
  · split
    · exact .next h
    next m e =>
      have hm : m.eng = s.mgr.eng := s.mgr.takeAnswer_eng _ _ e
      split <;> exact .next (by simp [h, hm])

theorem execDqTail_canonical (fn v : Nat) (bufs : SMap (List Byte)) : Out.Canonical (execDqTail fn v bufs s) :=
  .ite (.next h) <| .ite (.next (by simp [h])) (.next (by simp [h]))

theorem execDescriptorComplete_canonical (fn : Nat) : Out.Canonical (execDescriptorComplete fn s) := by
  unfold execDescriptorComplete
  dsimp only
  split
  · exact .next h
  · split
    · exact .next h
    next m e =>
      have hm : m.eng = s.mgr.eng := s.mgr.takeAnswer_eng _ _ e
      exact .next (by simp [h, hm])

theorem execDictReply_canonical (hdr : Hdr) (tag result : Nat) (data : List Byte) :
    Out.Canonical (execDictReply hdr tag result data s) := by
  unfold execDictReply
  dsimp only
  repeat' split
  all_goals exact .next (by simp [h])

theorem execProxyTimeout_canonical (num : Nat) : Out.Canonical (execProxyTimeout num s) := by
  unfold execProxyTimeout
  split
  · exact .next h
  · exact .next (by simp [h])

/-! ### Mailboxes, CRC and sync objects -/

theorem execHostMailboxGo_canonical (fn box : Nat) : Out.Canonical (execHostMailboxGo fn box s) :=
  .ite (.next h) <| .ite (.next (by simp [h])) <| .ite (.next h) (.next (by simp [h]))
theorem execMbDoorbell_canonical (box : Nat) : Out.Canonical (execMbDoorbell box s) :=
  .next (by simp [h])
theorem execPing_canonical (box : Nat) : Out.Canonical (execPing box s) :=
  .next (by simp [h])
theorem execHostLog_canonical (box : Nat) : Out.Canonical (execHostLog box s) :=
  .next (by simp [h])
theorem execMark_canonical (box : Nat) : Out.Canonical (execMark box s) :=
  .next (by simp [h])

theorem execMbAckHost_canonical (box : Nat) : Out.Canonical (execMbAckHost box s) := by
  unfold execMbAckHost
  dsimp only
  repeat' split
  all_goals exact .next (by simp [h])

theorem execDbSet_canonical (fn q v : Nat) : Out.Canonical (execDbSet fn q v s) :=
  .ite (.next h) (.next (by simp [h]))
theorem execDbClear_canonical (fn q v : Nat) : Out.Canonical (execDbClear fn q v s) :=
  .ite (.next h) (.next (by simp [h]))
theorem execIntStatusClear_canonical (fn v : Nat) : Out.Canonical (execIntStatusClear fn v s) :=
  .ite (.next h) (.next (by simp [h]))
theorem execIntMaskWrite_canonical (fn v : Nat) : Out.Canonical (execIntMaskWrite fn v s) :=
  .ite (.next h) (.next (by simp [h]))
theorem execCfCtl_canonical (fn k v : Nat) : Out.Canonical (execCfCtl fn k v s) :=
  .ite (.next h) (.next (by simp [h]))
theorem execCfFeed8_canonical (fn k v : Nat) : Out.Canonical (execCfFeed8 fn k v s) :=
  .next (by simp [h])
theorem execCfFeed16_canonical (fn k v : Nat) : Out.Canonical (execCfFeed16 fn k v s) :=
  .next (by simp [h])
theorem execCfFeed32_canonical (fn k v : Nat) : Out.Canonical (execCfFeed32 fn k v s) :=
  .next (by simp [h])
theorem execSoCfg_canonical (fn n v : Nat) : Out.Canonical (execSoCfg fn n v s) :=
  .next (by simp -implicitDefEqProofs [h])
theorem execSoValueWrite_canonical (fn n v : Nat) : Out.Canonical (execSoValueWrite fn n v s) :=
  .next (by rw [Manager.syncWrite_eng _ _ _ _ fun m => by split <;> simp]; exact h)
theorem execSoOpCounter_canonical (fn n v : Nat) : Out.Canonical (execSoOpCounter fn n v s) :=
  .next (by simp [h])
theorem execSoOpSemaphore_canonical (fn n v : Nat) : Out.Canonical (execSoOpSemaphore fn n v s) :=
  .next (by simp [h])
theorem execSoOpLockRelease_canonical (fn n : Nat) : Out.Canonical (execSoOpLockRelease fn n s) :=
  .next (by simp [h])
theorem execSoOpEventSet_canonical (fn n : Nat) : Out.Canonical (execSoOpEventSet fn n s) :=
  .next (by simp [h])
theorem execSoOpEventClear_canonical (fn n : Nat) : Out.Canonical (execSoOpEventClear fn n s) :=
  .next (by simp [h])
theorem execSoTargetWrite_canonical (fn n v : Nat) : Out.Canonical (execSoTargetWrite fn n v s) :=
  .next (by simp [h])
theorem execLockAcq_canonical (fn n : Nat) : Out.Canonical (execLockAcq fn n s) :=
  .next (by simp [h])
theorem execSemAcq_canonical (fn n : Nat) : Out.Canonical (execSemAcq fn n s) :=
  .next (by simp [h])
theorem execLockTicket_canonical (fn n : Nat) : Out.Canonical (execLockTicket fn n s) :=
  .next (by simp [h])

/-! ### BAR writes -/

theorem execRegisterWrite_canonical (fn bar off width value : Nat) : Out.Canonical (execRegisterWrite fn bar off width value s) :=
  .ite (.next h) <| .ite (.next (by simp [h])) <| .ite (.next (by simp [h])) (.next (by simp [h]))
theorem execBarrierDown_canonical : Out.Canonical (execBarrierDown s) :=
  .ite (.next h) (.next (by simp [h]))
theorem execBarrierUp_canonical (accepted : List Req) : Out.Canonical (execBarrierUp accepted s) :=
  .ite (.next h) (.next (by simp [h]))
theorem execLaneFailure_canonical (lanes frames : Nat) : Out.Canonical (execLaneFailure lanes frames s) :=
  .ite (.next (by simp [h])) <| .ite (.next h) (.next (by simp [h]))
theorem execFwHeartbeat_canonical : Out.Canonical (execFwHeartbeat s) :=
  .ite (.next h) (.next (by simp [h]))
theorem execFwStall_canonical : Out.Canonical (execFwStall s) :=
  .ite (.next h) (.next (by simp [h]))

theorem execFlr_canonical (fn : Nat) : Out.Canonical (execFlr fn s) := by
  unfold execFlr
  dsimp only
  repeat' split
  all_goals exact .next (by simp [h])

theorem execPerst_canonical : Out.Canonical (execPerst s) :=
  .next (by simp [h])
theorem execPerstDeassertion_canonical (rate width numVfs rid : Nat) : Out.Canonical (execPerstDeassertion rate width numVfs rid s) :=
  .ite (.next h) (.next (by simp [h]))

/-! ### Reads and writes of objects -/

theorem execPPartCreate_canonical (req : Req) (value : Nat) : Out.Canonical (execPPartCreate req value s) :=
  .ite (.next (by simp [h])) (.next (by simp [h]))
theorem execPPartDelete_canonical (req : Req) (value : Nat) : Out.Canonical (execPPartDelete req value s) :=
  .ite (.next (by simp [h])) (.next (by simp [h]))
theorem execPRecompute_canonical (req : Req) (value : Nat) : Out.Canonical (execPRecompute req value s) :=
  .ite (.next (by simp [h])) (.next (by simp [h]))

/-! ### The recorder -/

theorem execRlCommit_canonical (req : Req) (value : Nat) : Out.Canonical (execRlCommit req value s) :=
  .next (by simp [h])
theorem execEvClearCirculating_canonical (req : Req) : Out.Canonical (execEvClearCirculating req s) :=
  .next (by simp [h])
theorem execEvClearFirst_canonical (req : Req) : Out.Canonical (execEvClearFirst req s) :=
  .next (by simp [h])
theorem execEvClearBoth_canonical (req : Req) : Out.Canonical (execEvClearBoth req s) :=
  .next (by simp [h])
theorem execEwView_canonical (fn v : Nat) : Out.Canonical (execEwView fn v s) :=
  .ite (.next h) (.next (by simp [h]))
theorem execSegmentStreamed_canonical : Out.Canonical (execSegmentStreamed s) :=
  .ite (.next h) (.next (by simp [h]))

theorem execErRead_canonical (req : Req) : Out.Canonical (execErRead req s) := by
  unfold execErRead
  dsimp only
  split
  · exact .next (by simp -implicitDefEqProofs [h])
  · exact .next (by rw [Manager.answerView_eng _ _ _ (by simp)]; exact h)

theorem execTsRead_canonical (req : Req) : Out.Canonical (execTsRead req s) := by
  unfold execTsRead
  dsimp only
  split <;> exact .next (by simp [h])

theorem execTsSubscribe_canonical (req : Req) (data : List Byte) : Out.Canonical (execTsSubscribe req data s) :=
  .next (by simp -implicitDefEqProofs [h])
theorem execEvent_canonical (hdr : Hdr) (bytes : List Byte) : Out.Canonical (execEvent hdr bytes s) :=
  .ite (.next (by simp [h])) (.next (by simp [h]))

/-! ### Security -/

theorem execScNonce_canonical (req : Req) : Out.Canonical (execScNonce req s) :=
  .ite (.next (by simp [h])) <| .ite (.next (by simp [h])) (.next (by simp [h]))
theorem execNonceExpire_canonical : Out.Canonical (execNonceExpire s) :=
  .next (by simp [h])
theorem execScApply_canonical (req : Req) (value : Nat) (sigOk : Bool) (start : StartIn) :
    Out.Canonical (execScApply req value sigOk start s) := by
  refine .next ?_
  dsimp only
  exact Manager.ownCmd_wf _ _ _ _ _ _ _ h fun _ => Manager.applyToken_wf _ _ _ (by simp [h])
theorem execScProvision_canonical (req : Req) (value : Nat) (start : StartIn) : Out.Canonical (execScProvision req value start s) :=
  .ite (.next (by simp [h])) <| .ite (.next (by simp [h])) <| .ite (.next (by simp [h])) (.next (by simp))
theorem execScDebugReq_canonical (req : Req) (value : Nat) (start : StartIn) : Out.Canonical (execScDebugReq req value start s) :=
  .ite (.next (by simp [h])) (.next (by simp [h]))
theorem execScFusesSet_canonical (req : Req) (value : Nat) : Out.Canonical (execScFusesSet req value s) :=
  .next (by simp [h])
theorem execAtGo_canonical (req : Req) (value : Nat) : Out.Canonical (execAtGo req value s) :=
  .next (by simp [h])
theorem execPkRotate_canonical (req : Req) (value : Nat) : Out.Canonical (execPkRotate req value s) :=
  .next (by simp [h])
theorem execPkPeriod_canonical : Out.Canonical (execPkPeriod s) :=
  .ite (.next h) <| .ite (.next (by simp [h])) (.next (by simp [h]))
theorem execRotationComplete_canonical : Out.Canonical (execRotationComplete s) :=
  .ite (.next h) (.next (by simp [h]))
theorem execEntropyHealthFail_canonical : Out.Canonical (execEntropyHealthFail s) :=
  .ite (.next h) (.next (by simp [h]))
theorem execEntropyHealthPass_canonical : Out.Canonical (execEntropyHealthPass s) :=
  .ite (.next h) (.next (by simp [h]))

theorem execScSpdm_canonical (req : Req) (data resp : List Byte) (ide : Option Nat) : Out.Canonical (execScSpdm req data resp ide s) := by
  unfold execScSpdm
  dsimp only
  repeat' split
  all_goals exact .next (by simp [h])

theorem execIdeStreamInsecure_canonical : Out.Canonical (execIdeStreamInsecure s) :=
  .ite (.next h) (.next (by simp [h]))

/-! ### Power -/

theorem execPwrWakeBudget_canonical (req : Req) (sub : Nat) (data : List Byte) : Out.Canonical (execPwrWakeBudget req sub data s) :=
  .ite (.next (by simp [h])) (.next (by simp [h]))
theorem execSentinelEntryManager_canonical : Out.Canonical (execSentinelEntryManager s) :=
  .ite (.next h) <| .ite (.next (by simp [h])) <| .ite (.next h) (.next (by simp [h]))
theorem execSentinelExitManager_canonical (cause : Nat) (start : StartIn) : Out.Canonical (execSentinelExitManager cause start s) :=
  .ite (.next (by simp [h])) (.next h)

theorem execAgentParked_canonical (nid : Nat) : Out.Canonical (execAgentParked nid s) := by
  unfold execAgentParked
  dsimp only
  split <;> exact .next (by simp [h])

theorem execSupplyWarning_canonical : Out.Canonical (execSupplyWarning s) :=
  .ite (.next h) (.next (by simp [h]))
theorem execUndervoltage_canonical (mv : Nat) : Out.Canonical (execUndervoltage mv s) :=
  .ite (.next h) (.next (by simp [h]))
theorem execOvervoltage_canonical : Out.Canonical (execOvervoltage s) :=
  .next (by simp [h])
theorem execTriadPresenceGain_canonical (port : Nat) (start : StartIn) : Out.Canonical (execTriadPresenceGain port start s) :=
  .ite (.next (by simp [h])) <| .ite (.next h) (.next (by simp [h]))
theorem execHsEnClose_canonical : Out.Canonical (execHsEnClose s) :=
  .ite (.next h) (.next (by simp))
theorem execHsEnOpen_canonical : Out.Canonical (execHsEnOpen s) :=
  .next (by simp [h])
theorem execOvercurrent_canonical : Out.Canonical (execOvercurrent s) :=
  .ite (.next h) (.next (by simp [h]))
theorem execMrst_canonical (start : StartIn) : Out.Canonical (execMrst start s) :=
  .ite (.next h) (.next (by simp))

/-! ### Line steps -/

theorem execLineStart_canonical (ctx line : Nat) : Out.Canonical (execLineStart ctx line s) := by
  unfold execLineStart
  dsimp only
  repeat' split
  all_goals exact .next (by simp [h])

theorem execTileStep_canonical (ctx line : Nat) (upset : Option Upset) (corrected : Nat) (failing : List Nat) :
    Out.Canonical (execTileStep ctx line upset corrected failing s) := by
  unfold execTileStep
  dsimp only
  split <;> exact .next (by simp [h])

theorem execDigestDrain_canonical (ctx line bytes : Nat) : Out.Canonical (execDigestDrain ctx line bytes s) := by
  unfold execDigestDrain
  dsimp only
  repeat' split
  all_goals exact .next (by simp [h])

theorem execTablePatrol_canonical (word : ArrayWord) (found : WordFound) : Out.Canonical (execTablePatrol word found s) := by
  unfold execTablePatrol
  split <;> exact .next (by simp [h])

theorem execStackPatrol_canonical (word : ArrayWord) (found : WordFound) : Out.Canonical (execStackPatrol word found s) := by
  unfold execStackPatrol
  split
  · exact .next h
  · exact .next (by simp [h])

theorem execCellRemap_canonical (cell : Nat) : Out.Canonical (execCellRemap cell s) :=
  .next (by simp [h])
theorem execLpImageWrite_canonical (req : Req) (image : List Byte) : Out.Canonical (execLpImageWrite req image s) :=
  .next (by simp [h])
theorem execLpLoad_canonical (req : Req) (value : Nat) : Out.Canonical (execLpLoad req value s) :=
  .next (by simp -implicitDefEqProofs [h])
theorem execLpRunStart_canonical (req : Req) : Out.Canonical (execLpRunStart req s) :=
  .next (by simp [h])
theorem execLpRunStop_canonical (req : Req) : Out.Canonical (execLpRunStop req s) :=
  .next (by simp [h])

/-! ### Computations -/

theorem execCoalescingWindowClose_canonical : Out.Canonical (execCoalescingWindowClose s) :=
  .ite (.next h) (.next (by simp [h]))

theorem execComputationStart_canonical : Out.Canonical (execComputationStart s) := by
  unfold execComputationStart
  dsimp only
  split
  · refine .ite (.next h) (.ite (.next (by simp [h])) (.next ?_))
    rw [Manager.impState_eng, Manager.runHook_mem]
    refine Manager.storePlates_wf _ _ _ ?_
    rw [Manager.drawSeeds_eng]
    exact Manager.storeDist_wf _ _ (by simp [h])
  · exact .next h

theorem execHookTimeout_canonical : Out.Canonical (execHookTimeout s) := by
  unfold execHookTimeout
  dsimp only
  repeat' split
  all_goals exact .next (by simp [h])

theorem execPcountComplete_canonical : Out.Canonical (execPcountComplete s) := by
  unfold execPcountComplete
  dsimp only
  repeat' split
  all_goals exact .next (by simp [h])

theorem execWideComplete_canonical (ctx : Nat) : Out.Canonical (execWideComplete ctx s) :=
  .ite (.next h) (.next (by simp [h]))
theorem execLoadPeriod_canonical : Out.Canonical (execLoadPeriod s) :=
  .ite (.next h) (.next (by simp [h]))
theorem execLdRun_canonical (req : Req) (value : Nat) : Out.Canonical (execLdRun req value s) :=
  .next (by simp -implicitDefEqProofs [h])
theorem execLoadComplete_canonical : Out.Canonical (execLoadComplete s) :=
  .ite (.next h) (.next (by simp -implicitDefEqProofs [h]))
theorem execRebalComplete_canonical : Out.Canonical (execRebalComplete s) :=
  .ite (.next h) (.next (by simp [h]))
theorem execRbClear_canonical (req : Req) (value : Nat) : Out.Canonical (execRbClear req value s) :=
  .next (by simp -implicitDefEqProofs [h])
theorem execImbalanceWindow_canonical : Out.Canonical (execImbalanceWindow s) :=
  .ite (.next h) (.next (by simp [h]))
theorem execHotClear_canonical (switch : Nat) : Out.Canonical (execHotClear switch s) :=
  .ite (.next h) (.next (by simp [h]))
theorem execInterleaveWindow_canonical (other : SMap Nat) : Out.Canonical (execInterleaveWindow other s) :=
  .ite (.next (by simp [h])) (.next (by simp [h]))
theorem execIlRedraw_canonical (req : Req) (value : Nat) : Out.Canonical (execIlRedraw req value s) :=
  .next (by simp [h])

theorem execGroupMove_canonical : Out.Canonical (execGroupMove s) := by
  unfold execGroupMove
  dsimp only
  repeat' split
  all_goals exact .next (by simp [h])

/-! ### Redundancy -/

theorem execReplAck_canonical (hdr : Hdr) (seq : Nat) : Out.Canonical (execReplAck hdr seq s) :=
  .ite (.next (by simp [h])) (.next (by simp [h]))

theorem execReplTimeout_canonical (seq : Nat) : Out.Canonical (execReplTimeout seq s) := by
  unfold execReplTimeout
  dsimp only
  repeat' split
  all_goals exact .next (by simp [h])

theorem execBootListenExpire_canonical : Out.Canonical (execBootListenExpire s) :=
  .ite (.next h) <|
    .ite (.ite (.next (by simp [h])) (.next (by simp [h]))) <|
    .ite (.next (by simp [h])) <|
    .ite (.next (by simp [h])) (.next (by simp [h]))

theorem execClaimManager_canonical (hdr : Hdr) (_prev _prevNid cause _imp : Nat) :
    Out.Canonical (execClaimManager hdr _prev _prevNid cause _imp s) := by
  unfold execClaimManager
  dsimp only
  repeat' split
  all_goals exact .next (by simp [h])

theorem execClaimAck_canonical (hdr : Hdr) (committed staged : Nat) (stagedOk : Bool) :
    Out.Canonical (execClaimAck hdr committed staged stagedOk s) := by
  unfold execClaimAck
  dsimp only
  repeat' split
  all_goals exact .next (by simp [h])

theorem execClaimRetry_canonical : Out.Canonical (execClaimRetry s) :=
  .ite (.next h) (.next (by simp [h]))
theorem execClaimTimeout_canonical : Out.Canonical (execClaimTimeout s) :=
  .ite (.next h) (.next (by simp [h]))
theorem execRdHandover_canonical (req : Req) (value : Nat) : Out.Canonical (execRdHandover req value s) :=
  .next (by simp [h])
theorem execPHaSwitchover_canonical (req : Req) (value : Nat) : Out.Canonical (execPHaSwitchover req value s) :=
  .ite (.next (by simp [h])) (.next (by simp [h]))
theorem execYield_canonical (hdr : Hdr) (lastSeq cause : Nat) : Out.Canonical (execYield_ hdr lastSeq cause s) :=
  .ite (.next (by simp [h])) (.next (by simp [h]))
theorem execTakeover_canonical : Out.Canonical (execTakeover s) :=
  .ite (.next h) (.next (by simp [h]))
theorem execManagerHeartbeat_canonical : Out.Canonical (execManagerHeartbeat s) :=
  .ite (.next h) (.next (by simp [h]))
theorem execPeerHeartbeat_canonical (hdr : Hdr) (round _imp seq : Nat) : Out.Canonical (execPeerHeartbeat hdr round _imp seq s) :=
  .ite (.next (by simp [h])) (.next (by simp [h]))
theorem execTrResync_canonical (req : Req) (value : Nat) : Out.Canonical (execTrResync req value s) :=
  .ite (.next (by simp [h])) <|
    .ite (.next (by simp [h])) <|
    .ite (.next (by simp [h])) <|
    .ite (.next (by simp [h])) (.next (by simp [h]))

/-! ### Dictionary rows -/

theorem writeEvClear_canonical (req : Req) (v : Nat) : Out.Canonical (writeEvClear req v s) := by
  unfold writeEvClear
  repeat' split
  all_goals exact .next (by simp [h])

theorem writeLpRun_canonical (req : Req) (v : Nat) : Out.Canonical (writeLpRun req v s) := by
  unfold writeLpRun
  repeat' split
  all_goals exact .next (by simp [h])

end Sys2Proof.Machine
end

section
/-! SUPPORT. Commands that run at the manager module or at an agent keep memory canonical. -/

namespace Sys2Proof.Machine

variable {s : State} (h : Memory.wf s.mgr.eng.mem = true)
include h

theorem execMemberLostReceive_canonical (dev : At) (hdr : Hdr) (lost cause ctx gen resets time : Nat) :
    Out.Canonical (execMemberLostReceive dev hdr lost cause ctx gen resets time s) := by
  cases dev with
  | none => exact .next (by simp [h])
  | some die => exact .next h

theorem execHbReply_canonical (dev : At) (hdr : Hdr) (round committed : Nat) (map : Option Ports) :
    Out.Canonical (execHbReply dev hdr round committed map s) := by
  cases dev with
  | none => exact .next (by simp [h])
  | some die => exact .next h

theorem execKeyOffer_canonical (dev : At) (hdr : Hdr) (assoc : Nat) (phase : Bool) (wrap peer : Nat) (salts : Salts) (expire : Nat) (key : Key)
    (sigOk : Bool) (ports : List Nat) (peerAs : Nat) :
    Out.Canonical (execKeyOffer dev hdr assoc phase wrap peer salts expire key sigOk ports peerAs s) := by
  cases dev with
  | none => exact .next (by simp [h])
  | some die => exact .next h

theorem execKeyGraceExpire_canonical (dev : At) (src assoc : Nat) (phase : Bool) :
    Out.Canonical (execKeyGraceExpire dev src assoc phase s) := by
  cases dev with
  | none => exact .next (by simp [h])
  | some die => exact .next h

theorem execRekeyTimer_canonical (dev : At) (peer assoc : Nat) : Out.Canonical (execRekeyTimer dev peer assoc s) := by
  cases dev with
  | none => exact .ite (.next h) (.next (by simp [h]))
  | some die => exact .next h

theorem execBucketFull_canonical (dev : At) (code : Nat) : Out.Canonical (execBucketFull dev code s) := by
  cases dev with
  | none => exact .next (by simp -implicitDefEqProofs [h])
  | some die => exact .next h

theorem execDebugDurationEnd_canonical (dev : At) (start : StartIn) : Out.Canonical (execDebugDurationEnd dev start s) := by
  cases dev with
  | none => exact .ite (.next h) (.next (by simp [h]))
  | some die => exact .next h

theorem execDomainStateEntry_canonical (dev : At) (domain : Nat) (quiet : Bool) :
    Out.Canonical (execDomainStateEntry dev domain quiet s) := by
  cases dev with
  | none => exact .ite (.next h) (.next (by simp [h]))
  | some die => exact .next h

theorem execWorkArrival_canonical (dev : At) (domain : Nat) : Out.Canonical (execWorkArrival dev domain s) := by
  cases dev with
  | none => exact .next (by simp [h])
  | some die => exact .next h

theorem execDomainWakeComplete_canonical (dev : At) (domain : Nat) : Out.Canonical (execDomainWakeComplete dev domain s) := by
  cases dev with
  | none => exact .next (by simp [h])
  | some die => exact .next h

theorem execSignalDetect_canonical (dev : At) (port : Nat) (start : StartIn) : Out.Canonical (execSignalDetect dev port start s) := by
  cases dev with
  | none => exact .ite (.next (by simp [h])) (.ite (.next h) (.next (by simp [h])))
  | some die => exact .next h

theorem execMemoryReply_canonical (what : ReplyFor) (found : WordFound) : Out.Canonical (execMemoryReply what found s) := by
  unfold execMemoryReply
  split
  · exact .next (by simp [h])
  · exact .next h
  · exact .next (by simp [h])

theorem execPwWakeAt_canonical (dev : At) (start : StartIn) : Out.Canonical (execPwWakeAt dev start s) := by
  cases dev with
  | none => exact .next (by simp [h])
  | some die => exact .next h

theorem execTempWarning_canonical (dev : At) : Out.Canonical (execTempWarning dev s) := by
  cases dev with
  | none => exact .next (by simp [h])
  | some die => exact .next h

theorem execTempCritical_canonical (dev : At) : Out.Canonical (execTempCritical dev s) := by
  cases dev with
  | none => exact .ite (.next h) (.ite (.next h) (.next (by simp [h])))
  | some die => exact .next h

theorem execTempRecovered_canonical (dev : At) (start : StartIn) : Out.Canonical (execTempRecovered dev start s) := by
  cases dev with
  | none => exact .next (by simp [h])
  | some die => exact .next h

theorem execReferenceLost_canonical (dev : At) : Out.Canonical (execReferenceLost dev s) := by
  cases dev with
  | none => exact .ite (.next h) (.next (by simp [h]))
  | some die => exact .next h

theorem execReferenceRestored_canonical (dev : At) (ports : SMap Nat) : Out.Canonical (execReferenceRestored dev ports s) := by
  cases dev with
  | none => exact .ite (.next h) (.next h)
  | some die => exact .next h

end Sys2Proof.Machine
end

section
/-! SUPPORT. Entries of the input stream and of replication, and the commands of a triad that apply them or elect a leader, keep memory canonical. -/

namespace Sys2Proof.Machine

variable {s : State} (h : Memory.wf s.mgr.eng.mem = true)
include h

/-- An input of the stream acts as its command does, a report takes its place among the entries, and a plain write takes effect. -/
theorem applyInput_canonical (i : Instr) : Out.Canonical (applyInput i s) := by
  cases i
  case lpImageWrite => exact execLpImageWrite_canonical h ..
  case lpLoad => exact execLpLoad_canonical h ..
  case ldRun => exact execLdRun_canonical h ..
  case rbClear => exact execRbClear_canonical h ..
  case hotClear => exact execHotClear_canonical h ..
  case ilRedraw => exact execIlRedraw_canonical h ..
  case stageAck => exact execStageAck_canonical h ..
  case stageAttemptTimeout => exact execStageAttemptTimeout_canonical h ..
  case commitAck => exact execCommitAck_canonical h ..
  case isolateAck => exact execIsolateAck_canonical h ..
  case isolateTimeout => exact execIsolateTimeout_canonical h ..
  case impFull => exact execImpFull_canonical h ..
  case isReadmit => exact execIsReadmit_canonical h ..
  case iaRestore => exact execIaRestore_canonical h ..
  case cvGo => exact execCvGo_canonical h ..
  case cvCancel => exact execCvCancel_canonical h ..
  case waitExpired => exact execWaitExpired_canonical h ..
  case keyAck => exact execKeyAck_canonical h ..
  case setKeyTimeout => exact execSetKeyTimeout_canonical h ..
  case carveComplete => exact execCarveComplete_canonical h ..
  case cxReleaseDrain => exact execCxReleaseDrain_canonical h ..
  case cxReleasePurge => exact execCxReleasePurge_canonical h ..
  case drainTimeout => exact execDrainTimeout_canonical h ..
  case purgeTagsReturned => exact execPurgeTagsReturned_canonical h ..
  case revokeTimeout => exact execRevokeTimeout_canonical h ..
  case vfReset => exact execVfReset_canonical h ..
  case purgeComplete => exact execPurgeComplete_canonical h ..
  case quarantineExpire => exact execQuarantineExpire_canonical h ..
  case dramPageZeroed => exact execDramPageZeroed_canonical h ..
  case keyBarLifted => exact execKeyBarLifted_canonical h ..
  case neighbour => exact execNeighbour_canonical h ..
  case memberAck => exact execMemberAck_canonical h ..
  case rejoinTimeout => exact execRejoinTimeout_canonical h ..
  case hbReply => exact execHbReply_canonical h ..
  case agentHeartbeatMissed => exact execAgentHeartbeatMissed_canonical h ..
  case silentTimeout => exact execSilentTimeout_canonical h ..
  case timeEstimateExpire => exact execTimeEstimateExpire_canonical h ..
  case hangWatchdog => exact execHangWatchdog_canonical h ..
  case epReadmit => exact execEpReadmit_canonical h ..
  case lkReadmit => exact execLkReadmit_canonical h ..
  case rsCommit => exact execRsCommit_canonical h ..
  case dictReply => exact execDictReply_canonical h ..
  case pPartCreate => exact execPPartCreate_canonical h ..
  case pPartDelete => exact execPPartDelete_canonical h ..
  case pRecompute => exact execPRecompute_canonical h ..
  case keyAccept => exact execKeyAccept_canonical h ..
  case timedReply => exact execTimedReply_canonical h ..
  case btFresh => exact execBtFresh_canonical h ..
  case hello => exact execHello_canonical h ..
  case attestReport => exact execAttestReport_canonical h ..
  case bpImage => exact execBpImage_canonical h ..
  case readyToleranceWrite => exact execReadyToleranceWrite_canonical h ..
  case dsRestart => exact execDsRestart_canonical h ..
  case fwImage => exact execFwImage_canonical h ..
  case fwBroadcast => exact execFwBroadcast_canonical h ..
  case fwActivate => exact execFwActivate_canonical h ..
  case fwAbort => exact execFwAbort_canonical h ..
  case bulkReport => exact execBulkReport_canonical h ..
  case rlCommit => exact execRlCommit_canonical h ..
  case telemetry => exact execTelemetry_canonical h ..
  case subsampleWindow => exact execSubsampleWindow_canonical h ..
  case tsSubscribe => exact execTsSubscribe_canonical h ..
  case agentParked => exact execAgentParked_canonical h ..
  case coalescingWindowClose => exact execCoalescingWindowClose_canonical h ..
  case loadPeriod => exact execLoadPeriod_canonical h ..
  case imbalanceWindow => exact execImbalanceWindow_canonical h ..
  case commitTimeout => exact execCommitTimeout_canonical h ..
  case oldSideRelease => exact execOldSideRelease_canonical h ..
  case settleExpire => exact execSettleExpire_canonical h ..
  case passPlan => exact execPassPlan_canonical h ..
  case activationBatchTimeout => exact execActivationBatchTimeout_canonical h ..
  case telemetryManagerPeriod => exact execTelemetryManagerPeriod_canonical h ..
  case sentinelEntryManager => exact execSentinelEntryManager_canonical h ..
  case passSent => exact execPassSent_canonical h ..
  case linkEvent | epReset | nodeReady | resetReq | nodeLost | dictWrite => exact .next (by simp [h])
  all_goals exact .next h

omit h in
theorem Manager.releaseAlone_wf {t : Manager} (h : Memory.wf t.eng.mem = true) :
    Memory.wf (if t.leads then t.release.alone else t).eng.mem = true := by
  split <;> simp [h]

/-- A replayed input leaves memory canonical where its action does. -/
theorem replayInput_wf (act : State → Out) (device draws : Nat) (logs : Bool)
    (ha : ∀ t : State, Memory.wf t.mgr.eng.mem = true → Out.Canonical (act t)) :
    Memory.wf (replayInput s act device draws logs).mgr.eng.mem = true := by
  unfold replayInput
  dsimp only
  generalize he : act _ = o
  cases o with
  | next t =>
    have hm : Memory.wf t.mgr.eng.mem = true := by
      refine (ha _ ?_).memory t he
      exact h
    simpa using hm
  | fault | refused => exact h

theorem applyEntry_wf (n : Nat) (e : StreamEntry) : Memory.wf (applyEntry s n e).mgr.eng.mem = true := by
  unfold applyEntry
  dsimp only
  generalize hm : (if (s.mgr.onRed _).red.slot.isSome then _ else s.mgr.onRed _) = m
  have hm : Memory.wf m.eng.mem = true := by rw [← hm]; split <;> simp [h]
  have replays := fun act device draws logs => replayInput_wf (s := { s with mgr := m }) hm act device draws logs
  obtain ⟨kind, input⟩ := e
  cases kind with
  | input device draws =>
    cases input with
    | none => exact hm
    | some i =>
      split
      case h_1 => exact hm
      case h_2 => exact replays _ _ _ _ fun _ h => execClaimAck_canonical h ..
      case h_3 => exact replays _ _ _ _ fun _ h => applyInput_canonical h _
      all_goals contradiction
  | seed | hook => exact hm
  | adjust | centre | decision => simp [hm]
  | runEnd => simp -implicitDefEqProofs [hm]
  | granted num c =>
    dsimp only
    split <;> simp [hm]
  | claim c nid =>
    dsimp only
    split <;> simp [hm]
  | gained | silent => exact replays _ _ _ _ fun _ h => .next (by simp [h])

omit h in
theorem applyHeld_wf (fuel : Nat) (s : State) (h : Memory.wf s.mgr.eng.mem = true) : Memory.wf (applyHeld fuel s).mgr.eng.mem = true := by
  induction fuel generalizing s with
  | zero => exact h
  | succ fuel ih =>
    unfold applyHeld
    split
    · exact h
    · exact ih _ (applyEntry_wf h _ _)

theorem takeEntry_wf (seq : Nat) (kind : EntryKind) (input : Instr) : Memory.wf (takeEntry s seq kind input).mgr.eng.mem = true := by
  unfold takeEntry
  dsimp only
  generalize hm : (if seq ≤ s.mgr.red.applied then s.mgr else _) = m
  have hm : Memory.wf m.eng.mem = true := by rw [← hm]; split <;> simp [h]
  split
  · exact hm
  · exact applyHeld_wf _ _ hm

theorem gathered_wf : Memory.wf (gathered s).mgr.eng.mem = true := by
  unfold gathered
  dsimp only
  split
  · split <;> simp [h]
  · exact h

theorem becomeLeader_wf (old : Nat) (again : Bool) : Memory.wf (becomeLeader s old again).mgr.eng.mem = true := by
  have applied := applyHeld_wf (s.mgr.red.entries.length + 1) s h
  unfold becomeLeader
  generalize applyHeld (s.mgr.red.entries.length + 1) s = t at applied
  dsimp only
  split
  · simp [applied]
  · split
    · exact gathered_wf (by simp [applied])
    · simp [applied]

theorem passLead_wf (k : Nat) (again : Bool) : Memory.wf (passLead s k again).mgr.eng.mem = true := by
  unfold passLead
  dsimp only
  split
  · exact becomeLeader_wf (by simp [h]) ..
  · simp [h]

/-- A peer that has failed is dropped; leadership passes where it led, and entries are no longer gathered from it. -/
theorem peerFailed_wf (k : Nat) : Memory.wf (peerFailed s k).mgr.eng.mem = true := by
  have dropped : Memory.wf (s.mgr.dropPeer k).eng.mem = true := by simp [h]
  have passed := passLead_wf (s := { s with mgr := s.mgr.dropPeer k }) dropped k false
  unfold peerFailed
  dsimp only
  generalize passLead _ k = t at passed
  split
  · exact h
  · refine Manager.releaseAlone_wf ?_
    split
    · exact passed
    · split
      · split
        · exact gathered_wf (by simp [h])
        · exact dropped
      · exact dropped

omit h in
theorem foldl_peerFailed_wf (l : List Nat) (s : State) (h : Memory.wf s.mgr.eng.mem = true) :
    Memory.wf (l.foldl peerFailed s).mgr.eng.mem = true := by
  induction l generalizing s with
  | nil => exact h
  | cons k l ih => exact ih _ (peerFailed_wf h k)

theorem outlier_wf (k : Nat) : Memory.wf (outlier s k).mgr.eng.mem = true := by
  unfold outlier
  dsimp only
  split
  · exact passLead_wf (by simp [h]) ..
  · simp [h]

theorem judge_wf : Memory.wf (judge s).mgr.eng.mem = true := by
  unfold judge
  dsimp only
  split
  · exact h
  · split
    · simp [h]
    · split
      · split <;> simp [h]
      · split
        · simp [h]
        · split
          · exact outlier_wf h _
          · split
            · exact outlier_wf h _
            · split <;> simp [disqualified, h]
      · simp [h]

theorem judgeNew_wf (was : Manager) : Memory.wf (judgeNew was s).mgr.eng.mem = true := by
  unfold judgeNew
  dsimp only
  split
  · exact h
  · exact judge_wf h

/-! ### The triad's commands -/

theorem execInputStreamEntry_canonical (seq : Nat) (kind : EntryKind) (input : Instr) :
    Out.Canonical (execInputStreamEntry seq kind input s) :=
  .ite (.next h) (.next (gathered_wf (by simp [takeEntry_wf h])))

theorem execInputStreamAck_canonical (slot seq : Nat) : Out.Canonical (execInputStreamAck slot seq s) := by
  unfold execInputStreamAck
  dsimp only
  split
  · exact .next h
  · exact .ite (.next (gathered_wf (by simp [h]))) (.next h)
  · exact .next (by simp [h])

theorem execRepl_canonical (hdr : Hdr) (seq : Nat) (kind : EntryKind) (input : Instr) :
    Out.Canonical (execRepl hdr seq kind input s) := by
  unfold execRepl
  dsimp only
  split
  · exact .next (by simp [h])
  · generalize hm : Manager.onRed _ _ = m
    have taken : Memory.wf (takeEntry { s with mgr := m } seq kind input).mgr.eng.mem = true :=
      takeEntry_wf (s := { s with mgr := m }) (by rw [← hm]; simp [h]) ..
    exact .ite (.next (by simp [taken])) (.ite (.next (by simp [taken])) (.next (by simp [taken])))

theorem execTriadHeartbeat_canonical (heard : List (Nat × Bool)) : Out.Canonical (execTriadHeartbeat heard s) := by
  unfold execTriadHeartbeat
  dsimp only
  split
  · exact .next h
  · exact .ite (.next h) (.next (foldl_peerFailed_wf _ _ (by simp [h])))

theorem execTriadHeartbeatMiss_canonical (slot : Nat) : Out.Canonical (execTriadHeartbeatMiss slot s) := .next (peerFailed_wf h slot)

theorem execTriadPresenceLoss_canonical (port : Nat) : Out.Canonical (execTriadPresenceLoss port s) := by
  unfold execTriadPresenceLoss
  split
  · exact .next h
  · exact .next (peerFailed_wf h _)

theorem execComputationComplete_canonical : Out.Canonical (execComputationComplete s) :=
  .next (judgeNew_wf (by simp [h]) _)
theorem execTriadDigest_canonical (slot : Nat) (imp : CandId) (digest : Digest) : Out.Canonical (execTriadDigest slot imp digest s) :=
  .ite (.next h) (.next (judge_wf (by simp [h])))

theorem execResyncComplete_canonical (seq : Nat) (copy : Copy) : Out.Canonical (execResyncComplete seq copy s) := by
  unfold execResyncComplete
  split
  · exact .next h
  · dsimp only
    generalize hm : Manager.setObj _ Obj.TR_RESYNC_PCT 0 = m
    have applied := applyHeld_wf (m.red.entries.length + 1) { s with mgr := m } (by rw [← hm]; simp [h])
    generalize applyHeld (m.red.entries.length + 1) { s with mgr := m } = t at applied
    split
    · exact .ite (.next (by simp [applied])) (.next (by simp [applied]))
    · exact .next (by simp [applied])

end Sys2Proof.Machine
end

section
/-! SUPPORT. Local reads and writes of the dictionary, and then every command, keep memory canonical. -/

namespace Sys2Proof.Machine

variable {s : State} (h : Memory.wf s.mgr.eng.mem = true)
include h

theorem writeFwGo_canonical (req : Req) (v : Nat) : Out.Canonical (writeFwGo req v s) :=
  .ite (execFwBroadcast_canonical (s := s.drawn1) h ..) (.ite (execFwActivate_canonical h ..) (execFwAbort_canonical h ..))

theorem writeCxRelease_canonical (req : Req) (v : Nat) : Out.Canonical (writeCxRelease req v s) :=
  .ite (execCxReleaseDrain_canonical h ..) (.ite (execCxReleasePurge_canonical h ..) (.next (by simp [h])))

theorem writeSpdm_canonical (req : Req) (data : List Byte) : Out.Canonical (writeSpdm req data s) :=
  execScSpdm_canonical (s := s.drawn1) h ..

theorem writeDevCmd_canonical (req : Req) (key v : Nat) : Out.Canonical (writeDevCmd req key v s) := by
  unfold writeDevCmd
  refine .ite (execDvReset_canonical (s := s.drawnStart) h ..) ?_
  refine .ite (execScApply_canonical (s := s.drawn1.drawnStart) h ..) ?_
  refine .ite (execScProvision_canonical (s := s.drawnStart) h ..) ?_
  refine .ite (execScFusesSet_canonical h ..) (.ite (execAtGo_canonical h ..) (.ite (execPkRotate_canonical h ..) ?_))
  refine .ite (writeEvClear_canonical h ..) (.ite (execRlCommit_canonical h ..) (.ite (execPPartCreate_canonical h ..) ?_))
  exact .ite (execPPartDelete_canonical h ..) (.ite (execPRecompute_canonical h ..) (.ite (execPHaSwitchover_canonical h ..) (.next h)))

theorem writeUnitCmd_canonical (req : Req) (key v : Nat) : Out.Canonical (writeUnitCmd req key v s) := by
  unfold writeUnitCmd
  refine .ite (execDsRestart_canonical h ..) (.ite (execBtFresh_canonical h ..) (.ite (writeFwGo_canonical h ..) ?_))
  refine .ite (execRbClear_canonical h ..) (.ite (execLdRun_canonical h ..) (.ite (execIlRedraw_canonical h ..) ?_))
  refine .ite (execImpFull_canonical h ..) (.ite (execIsReadmit_canonical h ..) (.ite (execIaRestore_canonical h ..) ?_))
  refine .ite (execCvGo_canonical h ..) (.ite (writeCxRelease_canonical h ..) (.ite (execLpLoad_canonical h ..) ?_))
  refine .ite (writeLpRun_canonical h ..) (.ite (execRdHandover_canonical h ..) (.ite (execTrResync_canonical h ..) ?_))
  exact .ite (execRsCommit_canonical h ..) (.ite (execEpReadmit_canonical h ..) (.ite (execLkReadmit_canonical h ..) (writeDevCmd_canonical h ..)))

theorem writeRow_canonical (req : Req) (key : Nat) (data : List Byte) : Out.Canonical (writeRow req key data s) := by
  unfold writeRow
  refine .ite (execLpImageWrite_canonical h ..) (.ite (execCvCancel_canonical h ..) (.ite (execBpImage_canonical h ..) ?_))
  refine .ite (execFwImage_canonical h ..) (.ite (execTsSubscribe_canonical h ..) (.ite (writeSpdm_canonical h ..) ?_))
  refine .ite (execScDebugReq_canonical (s := s.drawnStart) h ..) ?_
  exact .ite (execReadyToleranceWrite_canonical h ..) (execPwrWakeBudget_canonical h ..)

theorem execDictWrite_canonical (req : Req) (key : Nat) (data : List Byte) : Out.Canonical (execDictWrite req key data s) := by
  unfold execDictWrite
  dsimp only
  refine .ite (.next h) (.ite (.next (by simp [h])) ?_)
  exact .ite (writeUnitCmd_canonical h ..) (.ite (writeRow_canonical h ..) (.next (by simp [h])))

theorem execDictRead_canonical (req : Req) (key : Nat) : Out.Canonical (execDictRead req key s) := by
  unfold execDictRead
  dsimp only
  refine .ite (.next h) (.ite (.next (by simp [h])) ?_)
  refine .ite (execScNonce_canonical h ..) (.ite (execErRead_canonical h ..) (.ite (execTsRead_canonical h ..) ?_))
  split
  · exact .next h
  · exact .next (by simp [h])

/-- Every command keeps memory canonical. Those of the first case run at one agent, and the manager keeps the memory. -/
theorem exec_canonical (c : Instr) : Out.Canonical (exec c s) := by
  cases c
  case stage | stageNodeWritesDone | stageAssemblyTimeout | commit | isolate | setKey | revoke | pkeyWriteComplete | watchPortBad
      | watchPortGood | linkMsg | eventAck | reportRetry | withdraw | endpointResetDetect | gone | ready | rejoined | memberRejoined
      | nodeCtlReady | resetNotice | resetReqNode | resetGrant | detourTimeout | heartbeatAgent | nodeHb | nodeHbTimeout
      | nodeLinkDown | nodeLostTimeout | claimAgent | descPublish | ltSave | ltSaveDeferred | ltClear | nodeDoorbell | nodeLog
      | telemetrySample | neighbourReport | hostReply | nodeMessageTaken | hmSend | agRestart | firmwareRunning | restartTimeout
      | coreWatchdog | agentReset | telemetryPeriodEnd | dictReq | timed | fieldPortChange | laneSwitch | laneRelay | agentStart
      | helloRepeat | attestReq | helloResume | bulkData | endOfPass | bulkReportSend | activate | scGrant | sentinelEntryAgent
      | sentinelExitAgent | agentUndervoltage | resetFenceRelease =>
    exact .next h
  case lineStart => exact execLineStart_canonical h ..
  case tileStep => exact execTileStep_canonical h ..
  case digestDrain => exact execDigestDrain_canonical h ..
  case memoryReply => exact execMemoryReply_canonical h ..
  case tablePatrol => exact execTablePatrol_canonical h ..
  case stackPatrol => exact execStackPatrol_canonical h ..
  case cellRemap => exact execCellRemap_canonical h ..
  case lpImageWrite => exact execLpImageWrite_canonical h ..
  case lpLoad => exact execLpLoad_canonical h ..
  case lpRunStart => exact execLpRunStart_canonical h ..
  case lpRunStop => exact execLpRunStop_canonical h ..
  case wideComplete => exact execWideComplete_canonical h ..
  case ldRun => exact execLdRun_canonical h ..
  case rbClear => exact execRbClear_canonical h ..
  case hotClear => exact execHotClear_canonical h ..
  case interleaveWindow => exact execInterleaveWindow_canonical h ..
  case ilRedraw => exact execIlRedraw_canonical h ..
  case stageAck => exact execStageAck_canonical h ..
  case stageAttemptTimeout => exact execStageAttemptTimeout_canonical h ..
  case commitAck => exact execCommitAck_canonical h ..
  case isolateAck => exact execIsolateAck_canonical h ..
  case isolateRetry => exact execIsolateRetry_canonical h ..
  case isolateTimeout => exact execIsolateTimeout_canonical h ..
  case impFull => exact execImpFull_canonical h ..
  case isReadmit => exact execIsReadmit_canonical h ..
  case iaRestore => exact execIaRestore_canonical h ..
  case cvGo => exact execCvGo_canonical h ..
  case cvCancel => exact execCvCancel_canonical h ..
  case waitExpired => exact execWaitExpired_canonical h ..
  case keyAck => exact execKeyAck_canonical h ..
  case setKeyTimeout => exact execSetKeyTimeout_canonical h ..
  case carveComplete => exact execCarveComplete_canonical h ..
  case cxReleaseDrain => exact execCxReleaseDrain_canonical h ..
  case cxReleasePurge => exact execCxReleasePurge_canonical h ..
  case drainTimeout => exact execDrainTimeout_canonical h ..
  case purgeTagsReturned => exact execPurgeTagsReturned_canonical h ..
  case revokeTimeout => exact execRevokeTimeout_canonical h ..
  case vfReset => exact execVfReset_canonical h ..
  case purgeComplete => exact execPurgeComplete_canonical h ..
  case quarantineExpire => exact execQuarantineExpire_canonical h ..
  case dramPageZeroed => exact execDramPageZeroed_canonical h ..
  case keyBarLifted => exact execKeyBarLifted_canonical h ..
  case confidentialReplyRelease => exact execConfidentialReplyRelease_canonical h ..
  case linkEvent => exact execLinkEvent_canonical h ..
  case neighbour => exact execNeighbour_canonical h ..
  case memberLostReceive => exact execMemberLostReceive_canonical h ..
  case memberAck => exact execMemberAck_canonical h ..
  case epReset => exact execEpReset_canonical h ..
  case nodeReady => exact execNodeReady_canonical h ..
  case rejoinTimeout => exact execRejoinTimeout_canonical h ..
  case resetReq => exact execResetReq_canonical h ..
  case hbReply => exact execHbReply_canonical h ..
  case agentHeartbeatMissed => exact execAgentHeartbeatMissed_canonical h ..
  case silentTimeout => exact execSilentTimeout_canonical h ..
  case timeEstimateExpire => exact execTimeEstimateExpire_canonical h ..
  case scribeWatchdog => exact execScribeWatchdog_canonical h ..
  case hangWatchdog => exact execHangWatchdog_canonical h ..
  case cellResetComplete => exact execCellResetComplete_canonical h ..
  case epReadmit => exact execEpReadmit_canonical h ..
  case lkReadmit => exact execLkReadmit_canonical h ..
  case rsCommit => exact execRsCommit_canonical h ..
  case nodeLost => exact execNodeLost_canonical h ..
  case claimManager hdr prev nid cause imp => exact execClaimManager_canonical h hdr prev nid cause imp
  case claimAck => exact execClaimAck_canonical h ..
  case peerHeartbeat hdr round imp seq => exact execPeerHeartbeat_canonical h hdr round imp seq
  case inputStreamEntry => exact execInputStreamEntry_canonical h ..
  case triadHeartbeatMiss => exact execTriadHeartbeatMiss_canonical h ..
  case triadPresenceLoss => exact execTriadPresenceLoss_canonical h ..
  case triadDigest => exact execTriadDigest_canonical h ..
  case trResync req v => exact execTrResync_canonical h req v
  case resyncComplete => exact execResyncComplete_canonical h ..
  case repl => exact execRepl_canonical h ..
  case replAck => exact execReplAck_canonical h ..
  case replTimeout => exact execReplTimeout_canonical h ..
  case rdHandover => exact execRdHandover_canonical h ..
  case yield_ => exact execYield_canonical h ..
  case dictRead => exact execDictRead_canonical h ..
  case dictWrite => exact execDictWrite_canonical h ..
  case dictReply => exact execDictReply_canonical h ..
  case proxyTimeout => exact execProxyTimeout_canonical h ..
  case dvReset => exact execDvReset_canonical h ..
  case pPartCreate => exact execPPartCreate_canonical h ..
  case pPartDelete => exact execPPartDelete_canonical h ..
  case pRecompute => exact execPRecompute_canonical h ..
  case pHaSwitchover => exact execPHaSwitchover_canonical h ..
  case dwGo => exact execDwGo_canonical h ..
  case dictReplyHost => exact execDictReplyHost_canonical h ..
  case hostMailboxGo => exact execHostMailboxGo_canonical h ..
  case mbDoorbell => exact execMbDoorbell_canonical h ..
  case ping => exact execPing_canonical h ..
  case hostLog => exact execHostLog_canonical h ..
  case mark => exact execMark_canonical h ..
  case mbAckHost => exact execMbAckHost_canonical h ..
  case dbSet => exact execDbSet_canonical h ..
  case dbClear => exact execDbClear_canonical h ..
  case intStatusClear => exact execIntStatusClear_canonical h ..
  case intMaskWrite => exact execIntMaskWrite_canonical h ..
  case cfCtl => exact execCfCtl_canonical h ..
  case cfFeed8 => exact execCfFeed8_canonical h ..
  case cfFeed16 => exact execCfFeed16_canonical h ..
  case cfFeed32 => exact execCfFeed32_canonical h ..
  case soCfg => exact execSoCfg_canonical h ..
  case soValueWrite => exact execSoValueWrite_canonical h ..
  case soOpCounter => exact execSoOpCounter_canonical h ..
  case soOpSemaphore => exact execSoOpSemaphore_canonical h ..
  case soOpLockRelease => exact execSoOpLockRelease_canonical h ..
  case soOpEventSet => exact execSoOpEventSet_canonical h ..
  case soOpEventClear => exact execSoOpEventClear_canonical h ..
  case soTargetWrite => exact execSoTargetWrite_canonical h ..
  case lockAcq => exact execLockAcq_canonical h ..
  case semAcq => exact execSemAcq_canonical h ..
  case lockTicket => exact execLockTicket_canonical h ..
  case dqTail => exact execDqTail_canonical h ..
  case descriptorComplete => exact execDescriptorComplete_canonical h ..
  case registerWrite => exact execRegisterWrite_canonical h ..
  case flr => exact execFlr_canonical h ..
  case barrierUp => exact execBarrierUp_canonical h ..
  case laneFailure => exact execLaneFailure_canonical h ..
  case keyOffer => exact execKeyOffer_canonical h ..
  case keyAccept => exact execKeyAccept_canonical h ..
  case keyGraceExpire => exact execKeyGraceExpire_canonical h ..
  case rekeyTimer => exact execRekeyTimer_canonical h ..
  case timedSend => exact execTimedSend_canonical h ..
  case timedReply => exact execTimedReply_canonical h ..
  case managerPortDown => exact execManagerPortDown_canonical h ..
  case moduleStart => exact execModuleStart_canonical h ..
  case btFresh => exact execBtFresh_canonical h ..
  case hello => exact execHello_canonical h ..
  case attestReport => exact execAttestReport_canonical h ..
  case bpImage => exact execBpImage_canonical h ..
  case readyToleranceWrite => exact execReadyToleranceWrite_canonical h ..
  case dsRestart => exact execDsRestart_canonical h ..
  case fwImage => exact execFwImage_canonical h ..
  case fwBroadcast => exact execFwBroadcast_canonical h ..
  case fwActivate => exact execFwActivate_canonical h ..
  case fwAbort => exact execFwAbort_canonical h ..
  case bulkReport => exact execBulkReport_canonical h ..
  case scNonce => exact execScNonce_canonical h ..
  case scApply => exact execScApply_canonical h ..
  case scProvision => exact execScProvision_canonical h ..
  case scDebugReq => exact execScDebugReq_canonical h ..
  case debugDurationEnd => exact execDebugDurationEnd_canonical h ..
  case scFusesSet => exact execScFusesSet_canonical h ..
  case scSpdm => exact execScSpdm_canonical h ..
  case atGo => exact execAtGo_canonical h ..
  case pkRotate => exact execPkRotate_canonical h ..
  case bucketFull => exact execBucketFull_canonical h ..
  case rlCommit => exact execRlCommit_canonical h ..
  case evClearCirculating => exact execEvClearCirculating_canonical h ..
  case evClearFirst => exact execEvClearFirst_canonical h ..
  case evClearBoth => exact execEvClearBoth_canonical h ..
  case ewView => exact execEwView_canonical h ..
  case erRead => exact execErRead_canonical h ..
  case event => exact execEvent_canonical h ..
  case telemetry => exact execTelemetry_canonical h ..
  case subsampleWindow => exact execSubsampleWindow_canonical h ..
  case tsRead req => exact execTsRead_canonical h req
  case tsSubscribe => exact execTsSubscribe_canonical h ..
  case domainStateEntry => exact execDomainStateEntry_canonical h ..
  case workArrival => exact execWorkArrival_canonical h ..
  case domainWakeComplete => exact execDomainWakeComplete_canonical h ..
  case pwrWakeBudget => exact execPwrWakeBudget_canonical h ..
  case sentinelExitManager => exact execSentinelExitManager_canonical h ..
  case pwWakeAt => exact execPwWakeAt_canonical h ..
  case agentParked => exact execAgentParked_canonical h ..
  case undervoltage => exact execUndervoltage_canonical h ..
  case tempWarning => exact execTempWarning_canonical h ..
  case tempCritical => exact execTempCritical_canonical h ..
  case tempRecovered => exact execTempRecovered_canonical h ..
  case referenceLost => exact execReferenceLost_canonical h ..
  case signalDetect => exact execSignalDetect_canonical h ..
  case mrst => exact execMrst_canonical h ..
  case triadHeartbeat => exact execTriadHeartbeat_canonical h ..
  case inputStreamAck => exact execInputStreamAck_canonical h ..
  case perstDeassertion => exact execPerstDeassertion_canonical h ..
  case referenceRestored => exact execReferenceRestored_canonical h ..
  case triadPresenceGain => exact execTriadPresenceGain_canonical h ..
  case coalescingWindowClose => exact execCoalescingWindowClose_canonical h ..
  case computationStart => exact execComputationStart_canonical h ..
  case hookTimeout => exact execHookTimeout_canonical h ..
  case computationComplete => exact execComputationComplete_canonical h ..
  case pcountComplete => exact execPcountComplete_canonical h ..
  case loadPeriod => exact execLoadPeriod_canonical h ..
  case loadComplete => exact execLoadComplete_canonical h ..
  case rebalComplete => exact execRebalComplete_canonical h ..
  case imbalanceWindow => exact execImbalanceWindow_canonical h ..
  case groupMove => exact execGroupMove_canonical h ..
  case commitRetry => exact execCommitRetry_canonical h ..
  case commitTimeout => exact execCommitTimeout_canonical h ..
  case oldSideRelease => exact execOldSideRelease_canonical h ..
  case placeComplete => exact execPlaceComplete_canonical h ..
  case memberLostRetry => exact execMemberLostRetry_canonical h ..
  case heartbeatRound => exact execHeartbeatRound_canonical h ..
  case bootListenExpire => exact execBootListenExpire_canonical h ..
  case claimRetry => exact execClaimRetry_canonical h ..
  case claimTimeout => exact execClaimTimeout_canonical h ..
  case takeover => exact execTakeover_canonical h ..
  case barrierDown => exact execBarrierDown_canonical h ..
  case fwHeartbeat => exact execFwHeartbeat_canonical h ..
  case fwStall => exact execFwStall_canonical h ..
  case perst => exact execPerst_canonical h ..
  case attestRepeat => exact execAttestRepeat_canonical h ..
  case settleExpire => exact execSettleExpire_canonical h ..
  case passPlan => exact execPassPlan_canonical h ..
  case activationBatchTimeout => exact execActivationBatchTimeout_canonical h ..
  case nonceExpire => exact execNonceExpire_canonical h ..
  case pkPeriod => exact execPkPeriod_canonical h ..
  case rotationComplete => exact execRotationComplete_canonical h ..
  case entropyHealthFail => exact execEntropyHealthFail_canonical h ..
  case entropyHealthPass => exact execEntropyHealthPass_canonical h ..
  case segmentStreamed => exact execSegmentStreamed_canonical h ..
  case telemetryManagerPeriod => exact execTelemetryManagerPeriod_canonical h ..
  case sentinelEntryManager => exact execSentinelEntryManager_canonical h ..
  case supplyWarning => exact execSupplyWarning_canonical h ..
  case overvoltage => exact execOvervoltage_canonical h ..
  case hsEnClose => exact execHsEnClose_canonical h ..
  case hsEnOpen => exact execHsEnOpen_canonical h ..
  case overcurrent => exact execOvercurrent_canonical h ..
  case managerHeartbeat => exact execManagerHeartbeat_canonical h ..
  case passSent => exact execPassSent_canonical h ..
  case ideStreamInsecure => exact execIdeStreamInsecure_canonical h ..

end Sys2Proof.Machine
end

section
/-! PROOF. The obligation of the line engine that speaks of every step. -/

namespace Sys2Proof.Machine

/-- Settles O58: a step runs the first command that waits, which keeps memory canonical, or none waits and the clocks advance. -/
theorem everyStepKeepsMemoryCanonical : Obligations.EveryStepKeepsMemoryCanonical := by
  unfold Obligations.EveryStepKeepsMemoryCanonical
  intro s t h e
  cases hp : s.pending with
  | nil =>
    rw [step_nil hp] at e
    cases e
    exact h
  | cons c rest =>
    rw [step_cons hp] at e
    exact (exec_canonical (s := { s with pending := rest }) h c).memory t e

end Sys2Proof.Machine
end

section
/-! SUPPORT. What a write to table memory or of a tile leaves as it was. -/

namespace Sys2Proof.Machine

/-! ### Bytes of table memory -/

theorem tablePut_of_lt_linkBase {a : Nat} {b : Byte × Nat} (h : a + b.2 < linkBase) (mem : List Host.Cell) :
    tablePut a mem b = memWrite mem (a + b.2) b.1 := if_pos (.inl h)

theorem memRead_tablePut_ne {a x : Nat} {b : Byte × Nat} (h : x ≠ a + b.2) (mem : List Host.Cell) :
    memRead (tablePut a mem b) x = memRead mem x := by
  unfold tablePut
  split
  · exact memRead_memWrite_ne _ _ _ _ h
  · rfl

theorem memRead_foldl_tablePut_out (a x : Nat) (bs : List Byte) (k : Nat) (mem : List Host.Cell) (h : x < a + k ∨ a + k + bs.length ≤ x) :
    memRead ((bs.zipIdx k).foldl (tablePut a) mem) x = memRead mem x := by
  induction bs generalizing k mem with
  | nil => rfl
  | cons b bs ih =>
    rw [List.length_cons] at h
    rw [List.zipIdx_cons, List.foldl_cons, ih _ _ (by omega), memRead_tablePut_ne (by dsimp only; omega)]

theorem memRead_foldl_tablePut_in (a : Nat) (bs : List Byte) (k i : Nat) (mem : List Host.Cell) (hm : Memory.wf mem = true)
    (hi : i < bs.length) (hb : a + k + bs.length ≤ linkBase) :
    memRead ((bs.zipIdx k).foldl (tablePut a) mem) (a + k + i) = bs.getD i 0 := by
  induction bs generalizing k i mem with
  | nil => cases hi
  | cons b bs ih =>
    rw [List.length_cons] at hi hb
    rw [List.zipIdx_cons, List.foldl_cons]
    cases i with
    | zero =>
      rw [memRead_foldl_tablePut_out _ _ _ _ _ (by omega), tablePut_of_lt_linkBase (by dsimp only; omega)]
      exact memRead_memWrite_self _ _ _ hm
    | succ i =>
      rw [show a + k + (i + 1) = a + (k + 1) + i by omega, ih _ _ _ (Memory.wf_tablePut _ _ _ hm) (by omega) (by omega)]
      rfl

theorem Manager.memRead_tableWrite_out (m : Manager) (a x : Nat) (bs : List Byte) (h : x < a ∨ a + bs.length ≤ x) :
    memRead (m.tableWrite a bs).eng.mem x = memRead m.eng.mem x := by
  rw [Manager.tableWrite_mem]
  exact memRead_foldl_tablePut_out a x bs 0 _ h

theorem Manager.memRead_tableWrite_in (m : Manager) (a i : Nat) (bs : List Byte) (hm : Memory.wf m.eng.mem = true) (hi : i < bs.length)
    (hb : a + bs.length ≤ linkBase) : memRead (m.tableWrite a bs).eng.mem (a + i) = bs.getD i 0 := by
  rw [Manager.tableWrite_mem]
  exact memRead_foldl_tablePut_in a bs 0 i _ hm hi hb

/-! ### Link entries -/

/-- The links whose entries a write of `n` bytes from `a` on meets. -/
def linksHit (a n : Nat) : List Nat :=
  (upTo (n / 32 + 2)).filterMap (fun k =>
    if linkBase ≤ 32 * (a / 32 + k) ∧ 32 * (a / 32 + k) < annexBase ∧ 32 * (a / 32 + k) < a + n then some (a / 32 + k - linkBase / 32) else none)

/-- A link entry as a write of bytes from `a` on leaves it. -/
def Manager.linkAfter (m : Manager) (a : Nat) (bs : List Byte) (ls : Links) (i : Nat) : LinkEntry :=
  let old := (mapGet ls i).getD (m.flagged i {})
  old.written (leNat ((upTo 32).map (fun k =>
    if a ≤ linkBase + 32 * i + k ∧ linkBase + 32 * i + k < a + bs.length then bs.getD (linkBase + 32 * i + k - a) 0
    else BitVec.ofNat 8 (old.bits / 256 ^ k))))

theorem Manager.writeLinks_links (m : Manager) (a : Nat) (bs : List Byte) :
    (m.writeLinks a bs).fab.links = (linksHit a bs.length).foldl (fun ls i => mapSet ls i (m.linkAfter a bs ls i)) m.fab.links := rfl

theorem overlap_of_mem_linksHit {a n i : Nat} (h : i ∈ linksHit a n) : a < linkBase + 32 * i + 32 ∧ linkBase + 32 * i < a + n := by
  obtain ⟨k, -, hk⟩ := List.mem_filterMap.1 h
  rw [Option.ite_none_right_eq_some, Option.some.injEq] at hk
  obtain ⟨hc, hi⟩ := hk
  unfold linkBase at hc hi ⊢
  omega

theorem mapGet_foldl_mapSet_of_notMem {α : Type} (f : SMap α → Nat → α) (l : List Nat) (x : SMap α) (i : Nat) (h : i ∉ l) :
    mapGet (l.foldl (fun x j => mapSet x j (f x j)) x) i = mapGet x i :=
  List.foldlRecOn (motive := fun y => mapGet y i = mapGet x i) l _ rfl fun y e j hj =>
    (mapGet_mapSet_ne y j i _ fun e => h (e ▸ hj)).trans e

theorem Manager.mapGet_writeLinks (m : Manager) (a : Nat) (bs : List Byte) (i : Nat)
    (h : linkBase + 32 * i + 32 ≤ a ∨ a + bs.length ≤ linkBase + 32 * i) :
    mapGet (m.writeLinks a bs).fab.links i = mapGet m.fab.links i := by
  rw [Manager.writeLinks_links]
  refine mapGet_foldl_mapSet_of_notMem _ _ _ _ fun hi => ?_
  have := overlap_of_mem_linksHit hi
  omega

theorem Manager.linkOf_tableWrite (m : Manager) (a : Nat) (bs : List Byte) (i : Nat)
    (h : linkBase + 32 * i + 32 ≤ a ∨ a + bs.length ≤ linkBase + 32 * i) :
    linkOf (m.tableWrite a bs).fab.links i = linkOf m.fab.links i :=
  congrArg (fun o : Option LinkEntry => o.getD {}) (Manager.mapGet_writeLinks _ a bs i h)

theorem linksHit_of_le_linkBase {a n : Nat} (h : a + n ≤ linkBase) : linksHit a n = [] :=
  List.eq_nil_iff_forall_not_mem.2 fun i hi => by
    have := overlap_of_mem_linksHit hi
    omega

/-! ### Table memory below the link table -/

section
variable {a : Nat} {bs : List Byte} (h : a + bs.length ≤ linkBase) (m : Manager)
include h

theorem Manager.writeLinks_of_le_linkBase : m.writeLinks a bs = m := by
  have hl : (m.writeLinks a bs).fab.links = m.fab.links := by rw [Manager.writeLinks_links, linksHit_of_le_linkBase h, List.foldl_nil]
  show { m with fab := { m.fab with links := (m.writeLinks a bs).fab.links } } = m
  rw [hl]

theorem Manager.tableWrite_of_le_linkBase :
    m.tableWrite a bs = m.onEng (fun e => { e with mem := bs.zipIdx.foldl (tablePut a) e.mem }) := Manager.writeLinks_of_le_linkBase h _

theorem Manager.tableStore_of_le_linkBase : m.tableStore a bs = m.tableWrite a bs := by
  have moved (ls : Links) : ls.filter (fun e =>
      decide ((linkOf ls e.1).st ≠ (linkOf ls e.1).st) || (linkOf ls e.1).weight != (linkOf ls e.1).weight) = [] := by simp
  have hl : (m.tableWrite a bs).fab.links = m.fab.links := by rw [Manager.tableWrite_of_le_linkBase h]; rfl
  unfold Manager.tableStore
  dsimp only
  rw [hl, moved]
  rfl

end

/-! ### Tiles written -/

/-- The bytes of a tile, written where the reference's space has them. -/
def writeBytes (r : TileRef) (bs : List Byte) (mem : List Host.Cell) : List Host.Cell :=
  if r.space = 3 then bs.zipIdx.foldl (tablePut r.addr) mem else memWriteN mem r.addr bs

/-- The words of memory that a tile written does not touch. -/
def TileRef.spares (r : TileRef) (w : Nat) : Bool := decide (w < r.addr / 8) || Nat.ble ((r.addr + r.size + 7) / 8) w

theorem TileRef.spares_iff (r : TileRef) (w : Nat) : r.spares w = true ↔ w < r.addr / 8 ∨ (r.addr + r.size + 7) / 8 ≤ w := by
  simp [TileRef.spares, Nat.ble_eq]

section
variable {m : Manager} {r : TileRef} {bs : List Byte} (hs : bs.length = r.size) (hr : r.space = 3 → r.addr + r.size ≤ linkBase)
include hs hr

/-- A tile written changes the engine's memory and the marks of its failing words, and the pages turned; nothing else. -/
theorem writeTile_parts : (writeTile m r bs).eng.mem = writeBytes r bs m.eng.mem ∧
    (writeTile m r bs).eng.failing = m.eng.failing.filter r.spares ∧
    (writeTile m r bs).sl = m.sl ∧ (writeTile m r bs).fab = m.fab ∧ (writeTile m r bs).host = m.host ∧ (writeTile m r bs).dev = m.dev := by
  unfold writeTile writeBytes
  rw [List.take_of_length_le hs.le]
  split
  next h3 =>
    have h : r.addr + bs.length ≤ linkBase := hs ▸ hr h3
    rw [Manager.tableStore_of_le_linkBase h, Manager.tableWrite_of_le_linkBase h]
    exact ⟨rfl, rfl, rfl, rfl, rfl, rfl⟩
  next =>
    split <;> exact ⟨rfl, rfl, rfl, rfl, rfl, rfl⟩

omit hr in
theorem memRead_writeBytes_out (mem : List Host.Cell) {x : Nat} (h : x < r.addr ∨ r.addr + r.size ≤ x) :
    memRead (writeBytes r bs mem) x = memRead mem x := by
  rw [← hs] at h
  unfold writeBytes
  split
  · exact memRead_foldl_tablePut_out _ _ bs 0 mem h
  · exact memRead_memWriteN_out bs mem _ _ h

theorem memRead_writeBytes_in {mem : List Host.Cell} (hm : Memory.wf mem = true) {i : Nat} (hi : i < r.size) :
    memRead (writeBytes r bs mem) (r.addr + i) = bs.getD i 0 := by
  rw [← hs] at hi hr
  unfold writeBytes
  split
  next h3 => exact memRead_foldl_tablePut_in _ bs 0 i mem hm hi (hr h3)
  next => rw [memRead_memWriteN_in bs mem _ _ hi, List.getD_eq_getElem _ _ hi]

end

end Sys2Proof.Machine
end

section
/-! PROOF. The obligation of the line engine on writes to memory. -/

namespace Sys2Proof.Machine

/-- Settles O52: a tile's bytes, a write to table memory and a range zeroed, each by what a read then gives. -/
theorem memoryWritesStayInPlace : Obligations.MemoryWritesStayInPlace := by
  unfold Obligations.MemoryWritesStayInPlace
  refine ⟨fun m r bs hs hr => ?_, fun m lo bs => ?_, fun mem lo n => ?_⟩
  · obtain ⟨hmem, hfail, hsl, hfab, hhost, hdev⟩ := writeTile_parts (m := m) hs hr
    refine ⟨fun a ha => ?_, fun hm i hi => ?_, writeTile_wf m r bs, fun w => ?_, hsl, hfab, hhost, hdev⟩
    · rw [hmem, memRead_writeBytes_out hs _ ha]
    · rw [hmem, memRead_writeBytes_in hs hr hm hi]
    · rw [hfail, List.mem_filter, TileRef.spares_iff]
  · exact ⟨fun a ha => m.memRead_tableWrite_out lo a bs ha, m.linkOf_tableWrite lo bs, m.tableWrite_wf lo bs⟩
  · refine ⟨fun a lo_le lt => ?_, fun a ha => ?_, Memory.wf_memZero mem lo n⟩
    · rw [memRead_memZero, if_pos ⟨lo_le, lt⟩]
    · rw [memRead_memZero, if_neg (by omega)]

end Sys2Proof.Machine
end

section
/-! PROOF. The obligation of the line engine on host programs. -/

namespace Sys2Proof.Machine

/-- Settles O6: each granted write has the effect of its command on the module with the entry it makes, which keeps the engine, the
contexts and the number of cells. -/
theorem hostPrograms : Obligations.HostPrograms := by
  unfold Obligations.HostPrograms
  refine ⟨fun s req image h hr => ?_, fun s req m c r h hc hm hl => ?_, fun s req h hr hx => ?_, fun s req h => ?_⟩
  · have idle : (mapGet s.mgr.eng.runs (s.mgr.reached req)).isSome = false := by rw [hr]; rfl
    exact congrArg s.withMgr (s.mgr.hostWrite_granted _ req Obj.LP_IMAGE image _ _ h idle)
  · subst hc hm hl
    exact congrArg s.withMgr (s.mgr.cmd_granted _ req Obj.LP_LOAD 1 _ _ _ h rfl rfl)
  · have cells : (s.mgr.entry (.lpRunStart req)).obj Obj.ENG_CELLS = s.mgr.obj Obj.ENG_CELLS :=
      s.mgr.obj_entry_ne _ _ (by decide) (by decide) (by decide)
    refine congrArg s.withMgr ((s.mgr.cmd_granted _ req Obj.LP_RUN 1 [1, 2] _ _ h rfl rfl).trans ?_)
    rw [if_neg (by simp [hr, hx]), cells]
  · exact congrArg s.withMgr (s.mgr.cmd_granted _ req Obj.LP_RUN 2 [1, 2] _ _ h rfl rfl)

end Sys2Proof.Machine
end

section
/-! SUPPORT. A line at its start, at a step of its Burin and at a drain of its digest. -/

namespace Sys2Proof.Machine

theorem Manager.freeSlotFor_of_lt {m : Manager} {cell : Nat} (h : m.eng.slotsTaken cell < 4) (prio : Nat) : m.freeSlotFor cell prio = (m, true) :=
  if_pos h

/-! ### What a Burin's MACC has in its accumulator -/

theorem strikeProduct_none (i j k v : Nat) : strikeProduct none i j k v = v := rfl

theorem productShows_none (l : LineDesc) (op : Nat) (res : (Nat → Nat → Nat → Nat → Nat) → Tile) (at_ : Nat → Nat → Nat → Nat) :
    productShows none l op res at_ = false := rfl

theorem strike_none (shows : Bool) (t : Tile) : strike none shows t = (t, false) := rfl

/-- Of a semiring whose order of additions is fixed, an element is C plus the products in order of their index. -/
theorem macAt_of_ne {sem : Nat} (h : sem ≠ 6) (k : Nat) (a b : Tile) (c i j key free : Nat) :
    macAt sem k a b c i j (strikeProduct none) key free =
      ((upTo k).map (fun n => semTimes sem (tileAt a i n) (tileAt b n j))).foldl (semPlus sem) c := by
  unfold macAt
  simp only [strikeProduct_none, if_neg h]

theorem burinStage_macc {m : Manager} {l : LineRun} (hs : l.stage ≠ 0) (suits : burinSuits l.desc 0 = true) (sem : l.desc.semiring ≠ 6)
    (acc : l.acc.elems.isEmpty = false) (prev : Nat) :
    burinStage m l 0 prev none =
      (let a := if prev / 32 = 1 ∨ prev / 32 = 4 then l.a else l.cur
       let r := tileOf l.desc.fmtAcc (fun i j =>
         ((upTo l.desc.k).map (fun n => semTimes l.desc.semiring (tileAt a i n) (tileAt l.b n j))).foldl (semPlus l.desc.semiring) (tileAt l.acc i j))
       .go m { l with acc := r, cur := r }) := by
  unfold burinStage
  simp [suits, acc, sem, hs, macAt_of_ne sem, productShows_none, strike_none]

/-! ### A line step that is granted -/

theorem loadRefs_macc (p : Program) (l : LineRun) : loadRefs p l 0x40 = [] := rfl

theorem nextRefs_zero (m : Manager) (c : Nat) (run : Run) (p : Program) (l : LineRun) : nextRefs m c run p l 0 = [] := by
  unfold nextRefs storeRefs
  split
  · rfl
  · rw [Nat.zero_min]
    rfl

/-- A MACC reads its operands from the cell's registers and stores nothing: it holds no tile of memory. -/
theorem stageTiles_macc {l k : LineRun} (hs : l.stage ≠ 0) (ho : k.posO = l.posO) (m : Manager) (c : Nat) (run : Run) (p : Program) :
    stageTiles m c run p l 0x40 k = [] := by
  unfold stageTiles
  rw [loadRefs_macc, ho, Nat.sub_self, nextRefs_zero, if_neg (fun h => hs h.1)]
  rfl

theorem Manager.fetchAhead_of_ne {stage : Nat} (h : stage / 32 ≠ 1) (m : Manager) (c : Nat) (p : Program) (l : LineRun) :
    m.fetchAhead c p l stage = m := by
  unfold Manager.fetchAhead
  rw [if_neg h]
  cases mapGet m.eng.runs c <;> rfl

/-- A step of a MACC that runs on a working cell, granted its station and not struck, has the sum of products in the accumulator. -/
theorem tileStep_macc {m0 m n : Manager} {c line corrected : Nat} {failing : List Nat} {run : Run} {p : Program} {l : LineRun} {a r : Tile}
    (hrun : mapGet m0.eng.runs c = some run) (hp : mapGet m0.eng.programs c = some p) (hl : run.line line = some l)
    (running : l.phase = .running) (inside : l.out = false) (works : m0.eng.cellRuns l.cell = true) (hs : l.stage ≠ 0)
    (macc : (stagesOf l.desc).getD l.stage 0 = 0x40) (suits : burinSuits l.desc 0 = true) (sem : l.desc.semiring ≠ 6)
    (acc : l.acc.elems.isEmpty = false)
    (hm : m = (m0.bumpBy Obj.AR_SRAM_CORR corrected).onEng (fun e => { e with failing := failing.foldl insNat e.failing }))
    (hg : granted m.eng (m.obj Obj.ENG_BG_SHARE) l.cell 2 run l = true)
    (ha : a = (if (stagesOf l.desc).getD (l.stage - 1) 0 / 32 = 1 ∨ (stagesOf l.desc).getD (l.stage - 1) 0 / 32 = 4 then l.a else l.cur))
    (hr : r = tileOf l.desc.fmtAcc (fun i j =>
      ((upTo l.desc.k).map (fun n => semTimes l.desc.semiring (tileAt a i n) (tileAt l.b n j))).foldl (semPlus l.desc.semiring)
        (tileAt l.acc i j)))
    (ht : (m.onEng (fun e => countGrant e l.cell 2 (linePriority run l))).touchTiles c line [] = some n) :
    tileStep m0 c line none corrected failing = n.advanceLine c p { l with acc := r, cur := r } := by
  have notReset : m.failsInReset l 0x40 = false := rfl
  have isRun : mapGet m.eng.runs c = some run := by rw [hm]; exact hrun
  have isProgram : mapGet m.eng.programs c = some p := by rw [hm]; exact hp
  have isWorking : m.eng.cellRuns l.cell = true := by rw [hm]; exact works
  have staged : (stagesOf l.desc).isEmpty = false := by
    cases h : stagesOf l.desc with
    | nil => rw [h] at macc; cases macc
    | cons => rfl
  have ran (k : Manager) : runStage k c run p l 0x40 none = .go k { l with acc := r, cur := r } := by
    subst ha hr
    unfold runStage
    simp only [Nat.reduceDiv, Nat.reduceMod, Nat.reduceEqDiff, if_false, if_true, hs]
    exact burinStage_macc hs suits sem acc _
  have holds (k : Manager) (x : LineRun) (ho : x.posO = l.posO) :
      (if k.asksWords x = true then [] else stageTiles k c run p l 0x40 x) = [] := by
    rw [stageTiles_macc hs ho, ite_self]
  unfold tileStep
  rw [← hm]
  simp only [isRun, isProgram, hl, macc, notReset, running, inside, isWorking, staged, Nat.reduceDiv, hg, hs, ran, holds, ht,
    Manager.fetchAhead_of_ne (by decide : 0x40 / 32 ≠ 1), if_true, if_false, ne_eq, not_true_eq_false,
    Bool.not_true, Bool.false_eq_true, false_and, or_self, true_or, and_self]

end Sys2Proof.Machine
end

section
/-! PROOF. The obligation of the line engine on the steps of a line. -/

namespace Sys2Proof.Machine

/-- Settles O4: LINE_START by the conditions it checks, TILE_STEP by `tileStep_macc`, DIGEST_DRAIN by whether the buffer empties. -/
theorem linesRun : Obligations.LinesRun := by
  unfold Obligations.LinesRun
  refine ⟨fun s ctx line run p l hrun hp hl ready free => ?_,
    fun s ctx line corrected failing run p l m a r hrun hp hl running inside works hs macc suits sem acc hm hg ha hr n ht => ?_,
    fun s ctx line bytes run l hrun hl => ⟨fun draining short => ?_, fun more => ?_⟩⟩
  · show execLineStart ctx line s = _
    unfold execLineStart
    simp only [hrun, hp, hl, ready, Manager.freeSlotFor_of_lt free, Bool.not_true, Bool.false_eq_true, if_false]
  · show execTileStep ctx line none corrected failing s = _
    unfold execTileStep
    simp only [hrun, hl, Option.bind_some, Option.map_some,
      tileStep_macc hrun hp hl running inside works hs macc suits sem acc hm hg ha hr ht]
  · show execDigestDrain ctx line bytes s = _
    unfold execDigestDrain
    simp only [hrun, hl, draining, List.drop_of_length_le short, List.take_of_length_le short, List.isEmpty_nil, and_self, if_true]
  · show execDigestDrain ctx line bytes s = _
    have kept : ¬(l.phase = .draining ∧ (l.buffer.drop bytes).isEmpty = true) := by
      rintro ⟨draining, empty⟩
      rw [List.isEmpty_iff, List.drop_eq_nil_iff] at empty
      cases more with
      | inl h => exact h draining
      | inr h => omega
    unfold execDigestDrain
    simp only [hrun, hl, if_neg kept]

end Sys2Proof.Machine
end

section
/-! SUPPORT. Replies of memory and the remap of a cell. -/

namespace Sys2Proof.Machine

/-! ### Replies -/

/-- A good read of good words has no consequence. -/
theorem Manager.tagRead_good (m : Manager) (t : MemTag) : m.tagRead t false .good = m := rfl

section
variable {m m' : Manager} {cell tag : Nat} {t : MemTag} (ht : mapGet m.eng.tags (cell * 512 + tag) = some t)
  (hm : m' = m.onEng (fun e => { e with tags := mapDel e.tags (cell * 512 + tag) })) (hw : firstFailing m' t.space t.addr t.size = none)
include ht hm hw

theorem Manager.tagReply_discarded (hg : (m.ctx t.ctx).gen ≠ t.gen) : m.tagReply cell tag .good = m' := by
  have stale : (m'.ctx t.ctx).gen ≠ t.gen := by rw [hm]; exact hg
  unfold Manager.tagReply
  simp only [ht, ← hm, hw, Option.isSome_none, Bool.and_false, Bool.or_false, reduceCtorEq, decide_false, Manager.tagRead_good]
  rw [if_pos (.inl stale)]

variable (hg : (m.ctx t.ctx).gen = t.gen) (load : t.store = false)
include hg load

theorem Manager.tagReply_ahead (ahead : t.ahead = true) : m.tagReply cell tag .good = m'.cameBack t := by
  have current : (m'.ctx t.ctx).gen = t.gen := by rw [hm]; exact hg
  unfold Manager.tagReply
  simp only [ht, ← hm, hw, Option.isSome_none, Bool.and_false, Bool.or_false, reduceCtorEq, decide_false, Manager.tagRead_good,
    current, load, ahead, ne_eq, not_true_eq_false, Bool.false_eq_true, or_self, if_false, if_true]

/-- A reply for a line that waits for it is delivered to the line, which goes on once none of its loads is outstanding. -/
theorem Manager.tagReply_delivered {run : Run} {p : Program} {l : LineRun} (own : t.ahead = false)
    (hrun : mapGet m.eng.runs t.ctx = some run) (hp : mapGet m.eng.programs t.ctx = some p) (hl : run.line t.line = some l)
    (waits : l.phase = .waitMem) (holds : l.tags.contains (cell * 512 + tag) = true) :
    m.tagReply cell tag .good =
      (let k := m'.deliverTag t (cell * 512 + tag) false l
       if !k.tags.isEmpty then m'.setLine t.ctx k else if t.word then m'.wordsCame t.ctx k else m'.lineLoaded t.ctx p k) := by
  have current : (m'.ctx t.ctx).gen = t.gen := by rw [hm]; exact hg
  have isRun : mapGet m'.eng.runs t.ctx = some run := by rw [hm]; exact hrun
  have isProgram : mapGet m'.eng.programs t.ctx = some p := by rw [hm]; exact hp
  unfold Manager.tagReply
  simp only [ht, ← hm, hw, Option.isSome_none, Bool.and_false, Bool.or_false, reduceCtorEq, decide_false, Manager.tagRead_good,
    current, load, own, isRun, isProgram, hl, waits, holds, ne_eq, not_true_eq_false, Bool.not_true, Bool.false_eq_true, or_self, if_false]

end

theorem Manager.deliverTag_good (m : Manager) (t : MemTag) (n : Nat) (l : LineRun) :
    m.deliverTag t n false l = { l with
      tags := l.tags.filter (fun x => x != n)
      words := if t.word then mapSet l.words t.reg (leNat (m.refBytes ⟨t.space, t.addr, t.size, 64⟩)) else l.words
      got := if t.word || (mapGet l.got t.reg).isSome then l.got
        else mapSet l.got t.reg (readTile m t.fmt ⟨t.space, t.addr, t.size, 64⟩) } := by
  unfold Manager.deliverTag
  cases hword : t.word
  · cases hgot : (mapGet l.got t.reg).isSome <;> simp [hgot]
  · simp

theorem execMemoryReply_tag {s : State} {cell tag : Nat} {t : MemTag} (ht : mapGet s.mgr.eng.tags (cell * 512 + tag) = some t)
    (found : WordFound) : execMemoryReply (.tag cell tag) found s = s.withMgr ((s.mgr.tagReply cell tag found).drainCheck t.ctx) := by
  unfold execMemoryReply
  simp only [ht, Option.map_some, Option.getD_some]

/-! ### Cells remapped -/

@[simp] theorem Engine.setCell_runs (e : Engine) (p : Nat) (c : PhysCell) : (e.setCell p c).runs = e.runs := rfl

theorem Manager.obj_onEng (m : Manager) (f : Engine → Engine) (k : Nat) : (m.onEng f).obj k = m.obj k := rfl

theorem Manager.obj_eventOf_ne (m : Manager) (code c : Nat) (vals : List Nat) (k : Nat) (hk : k ≠ Obj.EV_WRITTEN) :
    (m.eventOf code c vals).obj k = m.obj k := by
  unfold Manager.eventOf Manager.eventWith Manager.afterRecord
  dsimp only
  split
  · rw [Manager.raiseCtx_host]
    exact (m.dev.record_logs _ _ _ _).2 k hk
  · exact (m.dev.record_logs _ _ _ _).2 k hk

theorem Manager.checkDegraded_of_le {m : Manager} (h : 48 ≤ m.obj Obj.ENG_CELLS) : m.checkDegraded = m := if_pos (.inl h)

theorem Manager.requeueAll_of_no_runs {m : Manager} (h : m.eng.runs = []) (gone : Nat) (to_ : Option Nat) : m.requeueAll gone to_ = m := by
  unfold Manager.requeueAll
  rw [h]
  rfl

/-- A retired cell: its logical number withdrawn. -/
def PhysCell.retire (c : PhysCell) : PhysCell := { c with logical := 0xFF, st := .retired }

section
variable {m : Manager} {p q : Nat} (retiring : (m.eng.cell p).st = .retiring) (idle : m.eng.runs = [])
  (cells : 48 ≤ m.obj Obj.ENG_CELLS) (hq : (upTo 68).find? (fun k => decide ((m.eng.cell k).st = .spare)) = some q)
include retiring idle cells hq

/-- With no run in progress and 48 cells left, a retired cell's number passes to the first spare and no other cell changes. -/
theorem Manager.remap_cells : (m.remap p).eng.cells =
    ((m.eng.setCell p (m.eng.cell p).retire).setCell q { logical := (m.eng.cell p).logical, st := .enabled }).cells := by
  unfold Manager.remap
  simp only [retiring, hq, ne_eq, not_true_eq_false, if_false]
  rw [Manager.requeueAll_of_no_runs (by simp [idle]), Manager.checkDegraded_of_le]
  · simp [idle, PhysCell.retire]
  · rw [Manager.obj_eventOf_ne _ _ _ _ _ (by decide)]
    have kept (v : Nat) (f g h : Engine → Engine) :
        (((((m.onEng f).bump Obj.ENG_RETIRED).onEng g).setObj Obj.ENG_SPARES v).onEng h).obj Obj.ENG_CELLS = m.obj Obj.ENG_CELLS := by
      rw [Manager.obj_onEng, Manager.obj_setObj_ne _ _ _ _ (by decide), Manager.obj_onEng, Manager.obj_bump_ne _ _ _ (by decide),
        Manager.obj_onEng]
    simpa [idle, kept] using cells

theorem Manager.cell_remap (k : Nat) : (m.remap p).eng.cell k =
    ((m.eng.setCell p (m.eng.cell p).retire).setCell q { logical := (m.eng.cell p).logical, st := .enabled }).cell k :=
  congrArg (fun cs : List PhysCell => cs.getD k { logical := 0xFF, st := .retired }) (Manager.remap_cells retiring idle cells hq)

omit retiring idle cells in
theorem spare_of_find : (m.eng.cell q).st = .spare := by simpa using List.find?_some hq

omit idle cells in
theorem retiring_ne_spare : p ≠ q := by
  rintro rfl
  rw [spare_of_find hq] at retiring
  cases retiring

theorem Manager.cell_remap_retired : (m.remap p).eng.cell p = (m.eng.cell p).retire := by
  rw [Manager.cell_remap retiring idle cells hq, Engine.cell_setCell_ne _ _ _ _ (retiring_ne_spare retiring hq)]
  exact Engine.cell_setCell_self _ _ _ (by rw [retiring]; decide)

theorem Manager.cell_remap_spare : (m.remap p).eng.cell q = { logical := (m.eng.cell p).logical, st := .enabled } := by
  rw [Manager.cell_remap retiring idle cells hq]
  refine Engine.cell_setCell_self _ _ _ ?_
  rw [Engine.cell_setCell_ne _ _ _ _ (retiring_ne_spare retiring hq).symm, spare_of_find hq]
  decide

theorem Manager.cell_remap_other {k : Nat} (h1 : k ≠ p) (h2 : k ≠ q) : (m.remap p).eng.cell k = m.eng.cell k := by
  rw [Manager.cell_remap retiring idle cells hq, Engine.cell_setCell_ne _ _ _ _ h2, Engine.cell_setCell_ne _ _ _ _ h1]

end

end Sys2Proof.Machine
end

section
/-! PROOF. The obligation of the line engine on words read from the arrays. -/

namespace Sys2Proof.Machine

/-- Settles O5: replies by the cases of `tagReply`, words and patrols by what was found, a remap by whether a spare is found. -/
theorem arrayWordsRead : Obligations.ArrayWordsRead := by
  unfold Obligations.ArrayWordsRead
  refine ⟨fun s cell tag t ht hg hw => ?_,
    fun s cell tag t run p l k m ht hg load own hrun hp hl waits holds hm hw hk => ?_,
    fun s cell tag t m ht hg load ahead hm hw => ?_,
    fun s die => rfl, fun s w f hn => ?_, fun s w f hin => ?_, fun s w f hout => ?_,
    fun s cell q retiring idle cells hq => ?_, fun s cell m n lost retiring hm hq hn hlost => ?_, fun s cell other => ?_⟩
  · exact (execMemoryReply_tag ht .good).trans (by rw [Manager.tagReply_discarded ht rfl hw hg])
  · refine (execMemoryReply_tag ht .good).trans ?_
    rw [Manager.tagReply_delivered ht hm hw hg load own hrun hp hl waits holds, Manager.deliverTag_good, ← hk]
  · exact (execMemoryReply_tag ht .good).trans (by rw [Manager.tagReply_ahead ht hm hw hg load ahead])
  · cases w with
    | plateStore die => exact absurd rfl (hn die)
    | _ => cases f <;> rfl
  · show execTablePatrol w f s = _
    unfold execTablePatrol Manager.wordRead
    simp only [hin, if_true]
  · show execStackPatrol w f s = _
    unfold execStackPatrol Manager.wordRead
    simp only [hout, Bool.false_eq_true, if_false]
  · have retired := Manager.cell_remap_retired retiring idle cells hq
    have spare := Manager.cell_remap_spare retiring idle cells hq
    refine ⟨s.mgr.remap cell, rfl, ?_, ?_, ?_, ?_, fun _ => Manager.cell_remap_other retiring idle cells hq⟩
    · rw [retired, PhysCell.retire]
    · rw [retired, PhysCell.retire]
    · rw [spare]
    · rw [spare]
  · subst hm hn hlost
    refine congrArg s.withMgr ?_
    unfold Manager.remap
    simp only [retiring, hq, ne_eq, not_true_eq_false, if_false]
    rfl
  · exact congrArg Host.Outcome.next (congrArg (fun m => { s with mgr := m }) (if_pos other))

end Sys2Proof.Machine
end

section
/-! SUPPORT. Numbers mod 3 and their bits, and what LEX makes of two 16-bit words. -/

namespace Sys2Proof.Machine

/-! ### Residues mod 3 -/

theorem mod_three_ne_iff_not_dvd_sub (v w : Nat) : v % 3 ≠ w % 3 ↔ ¬ (3 : Int) ∣ (w : Int) - (v : Int) := by
  omega

/-- No power of 2 is divisible by 3, so none leaves a residue as it is. -/
theorem not_three_dvd_two_pow (k : Nat) : ¬ 3 ∣ 2 ^ k := fun h =>
  absurd (Nat.prime_three.dvd_of_dvd_pow h) (by decide)

theorem add_two_pow_mod_three_ne (u k : Nat) : (u + 2 ^ k) % 3 ≠ u % 3 := by
  have := not_three_dvd_two_pow k
  omega

/-- A bit flipped adds or takes away its weight: the bits below it stay, and the number above them becomes its neighbour. -/
theorem xor_two_pow_add_or_sub (v k : Nat) : v ^^^ 2 ^ k = v + 2 ^ k ∨ v = (v ^^^ 2 ^ k) + 2 ^ k := by
  have low : (v ^^^ 2 ^ k) % 2 ^ k = v % 2 ^ k := by rw [Nat.xor_mod_two_pow, Nat.mod_self, Nat.xor_zero]
  have high : (v ^^^ 2 ^ k) / 2 ^ k = v / 2 ^ k ^^^ 1 := by rw [Nat.xor_div_two_pow, Nat.div_self (Nat.two_pow_pos k)]
  have parts := Nat.div_add_mod v (2 ^ k)
  have flipped := Nat.div_add_mod (v ^^^ 2 ^ k) (2 ^ k)
  rw [low, high] at flipped
  obtain even | odd := Nat.even_or_odd (v / 2 ^ k)
  · rw [Nat.xor_one_of_even even, Nat.mul_add_one] at flipped
    omega
  · obtain ⟨n, hn⟩ := odd
    rw [Nat.xor_one_of_odd ⟨n, hn⟩, hn, Nat.add_sub_cancel] at flipped
    rw [hn, Nat.mul_add_one] at parts
    omega

theorem xor_two_pow_mod_three_ne (v k : Nat) : v % 3 ≠ (v ^^^ 2 ^ k) % 3 := by
  obtain up | down := xor_two_pow_add_or_sub v k
  · rw [up]
    exact (add_two_pow_mod_three_ne v k).symm
  · conv_lhs => rw [down]
    exact add_two_pow_mod_three_ne _ k

/-- An unsigned 16-bit format, M16 or MM16, carries one residue of the whole value (R110). -/
theorem residueOf_unsigned16 {f : Nat} (hf : f = 0 ∨ f = 2) (v : Nat) : residueOf f v = [v % 3] := by
  obtain rfl | rfl := hf <;> rfl

theorem upsetShows_unsigned16 {f : Nat} (hf : f = 0 ∨ f = 2) (v w : Nat) : upsetShows f v w = true ↔ v % 3 ≠ w % 3 := by
  rw [upsetShows, residueOf_unsigned16 hf, residueOf_unsigned16 hf, bne_iff_ne, ne_eq, List.singleton_inj]

/-! ### LEX -/

/-- ⊗ of LEX: the field sums side by side, unless an operand is infinite or a sum reaches 0xFF (R101). -/
theorem semTimes_lex (a b : Nat) : semTimes 7 a b =
    if a = 0xFFFF ∨ b = 0xFFFF ∨ 0xFF ≤ a / 256 + b / 256 ∨ 0xFF ≤ a % 256 + b % 256 then 0xFFFF
    else (a / 256 + b / 256) * 256 + (a % 256 + b % 256) := rfl

theorem semPlus_lex (a b : Nat) : semPlus 7 a b = min a b := rfl

/-- Hops fill the upper byte, so the pair of fields is ordered as the word is. -/
theorem le_iff_fields_lex (a b : Nat) : a ≤ b ↔ a / 256 < b / 256 ∨ a / 256 = b / 256 ∧ a % 256 ≤ b % 256 := by
  omega

theorem semPlus_lex_left {a b : Nat} (h : a / 256 < b / 256 ∨ a / 256 = b / 256 ∧ a % 256 ≤ b % 256) : semPlus 7 a b = a := by
  rw [semPlus_lex, Nat.min_eq_left ((le_iff_fields_lex a b).mpr h)]

theorem semPlus_lex_right {a b : Nat} (h : b / 256 < a / 256 ∨ b / 256 = a / 256 ∧ b % 256 ≤ a % 256) : semPlus 7 a b = b := by
  rw [semPlus_lex, Nat.min_eq_right ((le_iff_fields_lex b a).mpr h)]

end Sys2Proof.Machine
end

section
/-! PROOF. The obligations of the arithmetic: the residue mod 3 and LEX. -/

namespace Sys2Proof.Machine

/-- Settles O40: a change shows when it changes the value mod 3, which a power of 2 does and a multiple of 3 does not. -/
theorem residuesDetectChanges : Obligations.ResiduesDetectChanges := by
  unfold Obligations.ResiduesDetectChanges
  intro f v hf _
  refine ⟨fun w => ?_, fun k _ => ?_, fun n => ?_⟩
  · rw [upsetShows_unsigned16 hf, mod_three_ne_iff_not_dvd_sub]
  · exact (upsetShows_unsigned16 hf _ _).mpr (xor_two_pow_mod_three_ne v k)
  · rw [Bool.eq_false_iff, ne_eq, upsetShows_unsigned16 hf, not_not, Nat.add_mul_mod_self_left]

/-- Settles O41: the product by whether it saturates, the sum by the order of the pairs of fields. -/
theorem lexAddsFieldsAndMinimises : Obligations.LexAddsFieldsAndMinimises := by
  unfold Obligations.LexAddsFieldsAndMinimises
  intro a b _ _
  refine ⟨fun saturates => ?_, fun fits => ?_, ?_, fun fewer => ?_, fun fewer => ?_, fun same lower => ?_, fun same lower => ?_⟩
  · rw [semTimes_lex, if_pos saturates]
  · rw [semTimes_lex, if_neg fits]
    omega
  · rw [semPlus_lex]
    exact min_choice a b
  · exact semPlus_lex_left (.inl fewer)
  · exact semPlus_lex_right (.inl fewer)
  · exact semPlus_lex_left (.inr ⟨same, lower⟩)
  · exact semPlus_lex_right (.inr ⟨same.symm, lower⟩)

end Sys2Proof.Machine
end

section
/-! SUPPORT. The bitmap of a list of ports. -/

namespace Sys2Proof.Machine

theorem portIn_or (x y : Ports) (q : Nat) : portIn (x ||| y) q = (portIn x q || portIn y q) := BitVec.getLsbD_or

theorem portIn_zero (q : Nat) : portIn 0 q = false := BitVec.getLsbD_zero

/-- The bitmap of one port, which is below 128, holds that port alone. -/
theorem portIn_portBit {i : Nat} (hi : i < 128) (q : Nat) : portIn (portBit i) q = true ↔ i = q := by
  unfold portIn portBit
  rw [Nat.mod_eq_of_lt hi, BitVec.getLsbD_ofNat, Nat.testBit_two_pow, Bool.and_eq_true, decide_eq_true_eq, decide_eq_true_eq]
  omega

/-- A port joins the bitmap of a list of ports below 128 exactly when it is in the list. -/
theorem portIn_portMask (l : List Nat) (hl : ∀ i ∈ l, i < 128) (q : Nat) : portIn (portMask l) q = true ↔ q ∈ l := by
  suffices joined : ∀ x : Ports, portIn (l.foldl (fun m i => m ||| portBit i) x) q = true ↔ portIn x q = true ∨ q ∈ l by
    rw [portMask, joined, portIn_zero]
    simp
  induction l with
  | nil => simp
  | cons i l ih =>
    intro x
    rw [List.foldl_cons, ih (fun j hj => hl j (List.mem_cons_of_mem i hj)), portIn_or, Bool.or_eq_true,
      portIn_portBit (hl i List.mem_cons_self), List.mem_cons, or_assoc, eq_comm (a := i)]

/-- A port is in the bitmap of the entries of a list that pass a test exactly when one of its entries is in the list and passes. -/
theorem portIn_portMask_filter {α : Type} {out : List (Nat × α)} (hout : ∀ o ∈ out, o.1 < 128) (test : Nat × α → Bool) (q : Nat) :
    portIn (portMask ((out.filter test).map (fun o => o.1))) q = true ↔ ∃ a, (q, a) ∈ out ∧ test (q, a) = true := by
  rw [portIn_portMask]
  · simp
  · intro i hi
    obtain ⟨o, ho, rfl⟩ := List.mem_map.mp hi
    exact hout o (List.mem_of_mem_filter ho)

end Sys2Proof.Machine
end

section
/-! PROOF. The obligation of route computation on next-hop and alternate sets. -/

namespace Sys2Proof.Machine

/-- Settles O46: each set is empty or the bitmap of the entries that pass its test, by `portIn_portMask_filter`. -/
theorem nextHopsFollowDistances : Obligations.NextHopsFollowDistances := by
  unfold Obligations.NextHopsFollowDistances
  intro r p s q set_ nh below _
  refine ⟨?_, ?_⟩
  · unfold RouteIn.nh
    dsimp only
    split
    · next noHop =>
      rw [List.contains_iff_mem] at noHop
      rw [portIn_zero]
      exact ⟨nofun, fun ⟨reached, outside, _⟩ => absurd noHop (not_or.mpr ⟨reached, outside⟩)⟩
    · next hops =>
      rw [List.contains_iff_mem, not_or] at hops
      simp only [portIn_portMask_filter below, beq_iff_eq, Prod.exists]
      exact ⟨fun h => ⟨hops.1, hops.2, h⟩, fun ⟨_, _, h⟩ => h⟩
  · unfold RouteIn.alt
    cases r.lfa with
    | false => rw [Bool.not_false, if_pos rfl, portIn_zero]; simp
    | true =>
      simp only [Bool.not_true, Bool.false_eq_true, if_false, portIn_portMask_filter below, Bool.and_eq_true, Bool.not_eq_true',
        decide_eq_true_eq, Prod.exists]
      exact ⟨fun ⟨n, w, leaves, other, shorter⟩ => ⟨trivial, other, n, w, leaves, shorter⟩,
        fun ⟨_, other, n, w, leaves, shorter⟩ => ⟨n, w, leaves, other, shorter⟩⟩

end Sys2Proof.Machine
end

section
/-! SUPPORT. What the operations of a computation leave as it was. Those on slots, plates and distances change the engine alone; the
others keep the fabric, the install, the snapshot that waits, the adjustments and the committed number, and of the computation in
progress all but the state of its hook. -/

namespace Sys2Proof.Machine

/-! ### The engine alone -/

/-- From one manager to another nothing has changed but the engine. -/
def Manager.EngOnly (m n : Manager) : Prop := n = { m with eng := n.eng }

theorem Manager.EngOnly.refl (m : Manager) : m.EngOnly m := rfl

theorem Manager.EngOnly.trans {m n k : Manager} (h : m.EngOnly n) (g : n.EngOnly k) : m.EngOnly k := by
  unfold Manager.EngOnly at *
  rw [g, h]

theorem Manager.onEng_engOnly (m : Manager) (f : Engine → Engine) : m.EngOnly (m.onEng f) := rfl

theorem Manager.foldl_engOnly {α : Type} (f : Manager → α → Manager) (h : ∀ (m : Manager) x, m.EngOnly (f m x)) (l : List α) (m : Manager) :
    m.EngOnly (l.foldl f m) :=
  List.foldlRecOn (motive := fun n => m.EngOnly n) l f (.refl m) fun n e x _ => e.trans (h n x)

theorem Manager.takeOwed_engOnly (m : Manager) (cell : Nat) : m.EngOnly (m.takeOwed cell) := by
  unfold Manager.takeOwed
  split <;> rfl

theorem Manager.setLine_engOnly (m : Manager) (c : Nat) (l : LineRun) : m.EngOnly (m.setLine c l) := by
  unfold Manager.setLine
  split <;> rfl

theorem Manager.resume_engOnly (m : Manager) (cell : Nat) : m.EngOnly (m.resume cell) := by
  have taken := m.takeOwed_engOnly cell
  unfold Manager.resume
  dsimp only
  split
  · exact taken
  · split
    · exact taken.trans (Manager.setLine_engOnly _ _ _)
    · exact taken

theorem Manager.preempt_engOnly (m : Manager) (cell : Nat) : m.EngOnly (m.preempt cell).1 := by
  unfold Manager.preempt
  dsimp only
  split
  · split
    · exact .refl m
    · exact m.setLine_engOnly _ _
  · exact .refl m

theorem Manager.settleOwed_engOnly (m : Manager) (cell : Nat) : m.EngOnly (m.settleOwed cell) := by
  have taken := m.takeOwed_engOnly cell
  have preempted := taken.trans ((m.takeOwed cell).preempt_engOnly cell)
  unfold Manager.settleOwed
  dsimp only
  split
  · split
    · exact preempted.trans (Manager.takeOwed_engOnly _ cell)
    · exact taken
  · exact taken

theorem Manager.stockStart_engOnly (m : Manager) : m.EngOnly m.stockStart :=
  (m.onEng_engOnly _).trans (Manager.foldl_engOnly _ Manager.settleOwed_engOnly _ _)

theorem Manager.stockEnd_engOnly (m : Manager) : m.EngOnly m.stockEnd :=
  (m.onEng_engOnly _).trans (Manager.foldl_engOnly _ Manager.resume_engOnly _ _)

theorem Manager.storePlates_engOnly (m : Manager) (number : Nat) (plates : SMap Plate) : m.EngOnly (m.storePlates number plates) := rfl

theorem Manager.stackWrite_engOnly (m : Manager) (a : Nat) (bs : List Byte) : m.EngOnly (m.stackWrite a bs) := rfl

theorem Manager.storeDist_engOnly (m : Manager) (p : Pass) : m.EngOnly (m.storeDist p) := by
  unfold Manager.storeDist
  dsimp only
  refine Manager.EngOnly.trans ?_ (Manager.foldl_engOnly _ (fun m I => Manager.foldl_engOnly _ (fun k J => k.stackWrite_engOnly _ _) _ m) _ _)
  split
  · exact .refl m
  · exact m.onEng_engOnly _

@[simp] theorem Manager.dropComp_fab (m : Manager) : m.dropComp.fab = m.fab := by
  rw [Manager.dropComp, Manager.stockEnd_engOnly]
@[simp] theorem Manager.dropComp_inst (m : Manager) : m.dropComp.inst = m.inst := by
  rw [Manager.dropComp, Manager.stockEnd_engOnly]
@[simp] theorem Manager.dropComp_rt (m : Manager) : m.dropComp.rt = { m.rt with comp := none } := by
  rw [Manager.dropComp, Manager.stockEnd_engOnly]

/-! ### A computation that goes on -/

/-- A computation without the state of its hook. -/
def Comp.unhooked (c : Comp) : Comp := { c with ran := false, owes := false, ended := none }

/-- From one manager to another a computation has gone on: the fabric, the install, the snapshot that waits, the adjustments and the
committed number are as before, and so is the computation but for the state of its hook. -/
structure Manager.ComputesOn (m n : Manager) : Prop where
  fab : n.fab = m.fab
  inst : n.inst = m.inst
  waiting : n.rt.waiting = m.rt.waiting
  adj : n.rt.adj = m.rt.adj
  comp : n.rt.comp.map Comp.unhooked = m.rt.comp.map Comp.unhooked
  committed : n.obj Obj.IMP_COMMITTED = m.obj Obj.IMP_COMMITTED

namespace Manager.ComputesOn

theorem refl (m : Manager) : m.ComputesOn m := ⟨rfl, rfl, rfl, rfl, rfl, rfl⟩

theorem trans {m n k : Manager} (h : m.ComputesOn n) (g : n.ComputesOn k) : m.ComputesOn k :=
  ⟨g.fab.trans h.fab, g.inst.trans h.inst, g.waiting.trans h.waiting, g.adj.trans h.adj, g.comp.trans h.comp, g.committed.trans h.committed⟩

theorem of_rt {m n : Manager} (fab : n.fab = m.fab) (inst : n.inst = m.inst) (rt : n.rt = m.rt)
    (committed : n.obj Obj.IMP_COMMITTED = m.obj Obj.IMP_COMMITTED) : m.ComputesOn n :=
  ⟨fab, inst, by rw [rt], by rw [rt], by rw [rt], committed⟩

theorem foldl {α : Type} (f : Manager → α → Manager) (h : ∀ (m : Manager) x, m.ComputesOn (f m x)) (l : List α) (m : Manager) :
    m.ComputesOn (l.foldl f m) :=
  List.foldlRecOn (motive := fun n => m.ComputesOn n) l f (.refl m) fun n e x _ => e.trans (h n x)

theorem ite {m n k : Manager} {c : Prop} [Decidable c] (h : m.ComputesOn n) (g : m.ComputesOn k) : m.ComputesOn (if c then n else k) := by
  split <;> assumption

/-! One step more of what has gone on. -/

variable {m n : Manager} (h : m.ComputesOn n)
include h

theorem engOnly {k : Manager} (g : n.EngOnly k) : m.ComputesOn k :=
  h.trans (by rw [g]; exact .of_rt rfl rfl rfl rfl)

theorem setObj (k v : Nat) (hk : Obj.IMP_COMMITTED ≠ k) : m.ComputesOn (n.setObj k v) :=
  h.trans (.of_rt rfl rfl rfl (n.obj_setObj_ne k _ v hk))

theorem impState : m.ComputesOn n.impState := h.setObj _ _ (by decide)

theorem putEntry (e : StreamEntry) : m.ComputesOn (n.putEntry e) := by
  refine h.trans (.of_rt (by simp) (by simp) (by simp) ?_)
  unfold Manager.putEntry
  split
  · rfl
  · exact n.obj_pushEntry_ne e _ (by decide) (by decide) (by decide)

theorem raiseCtx (c cause : Nat) : m.ComputesOn (n.raiseCtx c cause) :=
  h.trans (.of_rt (by simp) (by simp) (by simp) (by rw [n.raiseCtx_host]; rfl))

/-- Whatever computation is in progress. -/
theorem withComp (c : Option Comp) :
    ({ m with rt := { m.rt with comp := c } } : Manager).ComputesOn { n with rt := { n.rt with comp := c } } :=
  ⟨h.fab, h.inst, h.waiting, h.adj, rfl, h.committed⟩

/-- A record changes no object but EV_WRITTEN. -/
theorem eventWith (code c : Nat) (payload : List Byte) : m.ComputesOn (n.eventWith code c payload) := by
  have recorded : n.ComputesOn { n with dev := n.dev.record (evSeverity code) code c payload } :=
    .of_rt rfl rfl rfl ((n.dev.record_logs _ _ _ _).2 _ (by decide))
  unfold Manager.eventWith Manager.afterRecord
  exact h.trans (.ite (recorded.raiseCtx c 4) recorded)

end Manager.ComputesOn

/-- A per-context object is not the committed number. -/
theorem committed_ne_ctxKey {k : Nat} (hk : k % 2 ^ 24 ≠ Obj.IMP_COMMITTED) (c : Nat) : Obj.IMP_COMMITTED ≠ ctxKey k c := by
  have : Obj.IMP_COMMITTED < 2 ^ 24 := by decide
  unfold ctxKey
  omega

/-! ### Runs and the hook -/

/-- A hook's end is the state of the hook. -/
theorem Manager.hookEnded_computesOn (m : Manager) (status : Nat) : m.ComputesOn (m.hookEnded status) := by
  refine ⟨rfl, rfl, rfl, rfl, ?_, rfl⟩
  unfold Manager.hookEnded
  rw [Option.map_map]
  refine Option.map_congr fun c _ => ?_
  rw [Function.comp_apply]
  split <;> rfl

theorem Manager.endRun_computesOn (m : Manager) (c status : Nat) : m.ComputesOn (m.endRun c status) := by
  have ended : m.ComputesOn (if (mapGet m.eng.runs c).any (fun r => r.hook) then m.hookEnded status else m) :=
    .ite (m.hookEnded_computesOn status) (.refl m)
  unfold Manager.endRun
  exact ((((ended.engOnly (Manager.onEng_engOnly _ _)).putEntry _).setObj _ _ (committed_ne_ctxKey (by decide) c)).setObj _ _
    (committed_ne_ctxKey (by decide) c)).raiseCtx c 0

theorem Manager.checkRun_computesOn (m : Manager) (c : Nat) : m.ComputesOn (m.checkRun c) := by
  unfold Manager.checkRun
  split
  · exact .ite (m.endRun_computesOn c _) (.refl m)
  · exact .refl m

theorem Manager.endAllLines_computesOn (m : Manager) (c status : Nat) : m.ComputesOn (m.endAllLines c status) := by
  unfold Manager.endAllLines
  split
  · exact .refl m
  · exact (((Manager.ComputesOn.refl m).engOnly (m.onEng_engOnly _)).trans (Manager.checkRun_computesOn _ c)).engOnly
      (Manager.foldl_engOnly _ Manager.resume_engOnly _ _)

theorem Manager.startRun_computesOn (m : Manager) (c : Nat) (hook : Bool) : m.ComputesOn (m.startRun c hook) := by
  have counted : m.ComputesOn (m.carryCounts c) := .of_rt rfl rfl rfl rfl
  unfold Manager.startRun
  split
  · exact .refl m
  · refine .trans (.engOnly (.setObj (.setObj (.setObj (.setObj (.setObj counted _ _ ?_) _ _ ?_) _ _ ?_) _ _ ?_) _ _ ?_)
      (Manager.onEng_engOnly _ _)) (Manager.checkRun_computesOn _ c)
    all_goals exact committed_ne_ctxKey (by decide) c

theorem Manager.startHook_computesOn (m : Manager) : m.ComputesOn m.startHook := by
  have started : m.ComputesOn
      { m with rt := { m.rt with comp := m.rt.comp.map (fun (x : Comp) => { x with ran := true, owes := false }) } } :=
    ⟨rfl, rfl, rfl, rfl, by rw [Option.map_map]; rfl, rfl⟩
  have runs := started.trans (Manager.startRun_computesOn _ 0 true)
  exact .ite (runs.trans (Manager.endAllLines_computesOn _ 0 7)) runs

theorem Manager.hookDue_computesOn (m : Manager) : m.ComputesOn m.hookDue := .ite m.startHook_computesOn (.refl m)

/-- A computation that stands is the one in progress, whatever becomes of its hook. -/
theorem Manager.runHook_computesOn (m : Manager) (c : Comp) :
    ({ m with rt := { m.rt with comp := some c } } : Manager).ComputesOn (m.runHook c) := by
  have stands (owes : Bool) : ({ m with rt := { m.rt with comp := some c } } : Manager).ComputesOn
      { m with rt := { m.rt with comp := some { c with owes := owes } } } := ⟨rfl, rfl, rfl, rfl, rfl, rfl⟩
  have stocked := (stands (c.hook && m.leads && (mapGet m.eng.programs 0).isSome)).engOnly (Manager.stockStart_engOnly _)
  exact .ite ((stocked.engOnly (Manager.stockEnd_engOnly _)).trans (Manager.hookDue_computesOn _)) stocked

/-! ### Steps 1 to 6 -/

theorem Manager.zeroEvent_computesOn (m : Manager) (l : List Nat) : m.ComputesOn (m.zeroEvent l) :=
  .ite (.refl m) ((Manager.ComputesOn.refl m).eventWith _ _ _)

theorem Manager.dropTrees_computesOn (m : Manager) (ls : Links) : m.ComputesOn (m.dropTrees ls) := by
  unfold Manager.dropTrees
  dsimp only
  refine Manager.ComputesOn.trans ?_ (Manager.ComputesOn.foldl _ (fun n t => ?_) _ _)
  · exact ⟨rfl, rfl, rfl, rfl, rfl, rfl⟩
  · exact ((Manager.ComputesOn.refl n).setObj _ _ (committed_ne_ctxKey (k := Obj.WD_STATUS) (by decide) t.ctx)).eventWith _ _ _

theorem Manager.drawSeeds_computesOn (m : Manager) (sw : List Nat) : m.ComputesOn (m.drawSeeds sw) := by
  refine Manager.ComputesOn.foldl _ (fun n k => ?_) _ _
  have drawn : n.ComputesOn (n.onDev Dev.drawn) := .of_rt rfl rfl rfl rfl
  exact .ite (.refl n) (.ite (.refl n) ((drawn.putEntry _).trans ⟨rfl, rfl, rfl, rfl, rfl, rfl⟩))

/-- The switches of an impression depend on the fabric and on the install. -/
theorem Manager.ComputesOn.impSwitches {m n : Manager} (h : m.ComputesOn n) (sw : List Nat) : n.impSwitches sw = m.impSwitches sw := by
  unfold Manager.impSwitches Manager.hasAgent Manager.agentOf Manager.isolated Manager.swInst
  rw [h.fab, h.inst]

theorem Manager.compOf_plates_fst (m : Manager) (r : RouteIn) (out : Routed) :
    (m.compOf r out).plates.map (fun p => p.1) = m.impSwitches r.sw := by
  simp [Manager.compOf, Function.comp_def]

/-- Whether a switch is isolated depends on the install. -/
theorem Manager.isolated_of_inst {m n : Manager} (h : n.inst = m.inst) : n.isolated = m.isolated := by
  funext k
  rw [Manager.isolated, Manager.swInst, h]
  rfl

/-- A computation that differs from another in the state of its hook alone. -/
theorem exists_of_map_unhooked {o : Option Comp} {c : Comp} (h : o.map Comp.unhooked = some c.unhooked) :
    ∃ d, o = some d ∧ d.snap = c.snap ∧ d.number = c.number ∧ d.plates = c.plates := by
  obtain ⟨d, hd, same⟩ := Option.map_eq_some_iff.mp h
  exact ⟨d, hd, by injection same, by injection same, by injection same⟩

/-- The module with the counts of a computation's first steps, without the trees whose links are not UP (R131, R133, R155). -/
def Manager.counted (m : Manager) (r : RouteIn) (out : Routed) : Manager :=
  (((m.setObj Obj.RT_ZERO_CYC out.zeroCyc.length).setObj Obj.RT_LEX_OVF out.lexOvf).zeroEvent out.zeroCyc).dropTrees r.ls

/-- The module once the distances of a computation are kept and every switch of its plates has a seed. -/
def Manager.seeded (m : Manager) (r : RouteIn) (out : Routed) : Manager :=
  let m := out.split.foldl (fun m c => m.eventOf 0x102 c [c]) m
  (m.storeDist out.main).drawSeeds (m.impSwitches r.sw)

/-- What COMPUTATION_START makes of the module that has taken its snapshot: its counts and, unless the exception endpoints are too many, the
computation of its plates (R127, R137). -/
def Manager.computeOver (m : Manager) (r : RouteIn) (out : Routed) : Manager :=
  let m := m.counted r out
  if 4096 < out.excs then (m.eventOf 0x101 0 [out.excs]).impState
  else
    let m := m.seeded r out
    let c := m.compOf r out
    ((m.storePlates c.number c.plates).runHook c).impState

theorem Manager.seeded_computesOn (m : Manager) (r : RouteIn) (out : Routed) : m.ComputesOn (m.seeded r out) :=
  ((Manager.ComputesOn.foldl _ (fun n _ => (Manager.ComputesOn.refl n).eventWith _ _ _) _ m).engOnly
    (Manager.storeDist_engOnly _ out.main)).trans (Manager.drawSeeds_computesOn _ _)

theorem Manager.counted_computesOn (m : Manager) (r : RouteIn) (out : Routed) : m.ComputesOn (m.counted r out) :=
  ((((Manager.ComputesOn.refl m).setObj _ _ (by decide)).setObj _ _ (by decide)).trans (Manager.zeroEvent_computesOn _ _)).trans
    (Manager.dropTrees_computesOn _ _)

/-- With more than 4,096 exception endpoints no computation comes of the snapshot (R137). -/
theorem Manager.computeOver_of_many {out : Routed} (many : 4096 < out.excs) (m : Manager) (r : RouteIn) :
    m.ComputesOn (m.computeOver r out) := by
  unfold Manager.computeOver
  rw [if_pos many]
  exact ((m.counted_computesOn r out).eventWith _ _ _).impState

/-- Otherwise one of the next number is in progress, with a plate for each switch of the impression. -/
theorem Manager.computeOver_of_few {out : Routed} (few : ¬4096 < out.excs) (m : Manager) (r : RouteIn) :
    ∃ c : Comp, c.snap = r.ls ∧ c.number = nextImp (m.obj Obj.IMP_COMMITTED) ∧ c.plates.map (fun p => p.1) = m.impSwitches r.sw ∧
      ({ m with rt := { m.rt with comp := some c } } : Manager).ComputesOn (m.computeOver r out) := by
  unfold Manager.computeOver
  rw [if_neg few]
  have counted := m.counted_computesOn r out
  have seeded := counted.trans (Manager.seeded_computesOn _ r out)
  refine ⟨_, rfl, congrArg nextImp seeded.committed, (Manager.compOf_plates_fst _ r out).trans (seeded.impSwitches r.sw), ?_⟩
  exact (((seeded.engOnly (Manager.storePlates_engOnly _ _ _)).withComp _).trans (Manager.runHook_computesOn _ _)).impState

end Sys2Proof.Machine
end

section
/-! PROOF. The obligation of route computation on computations. -/

namespace Sys2Proof.Machine

/-! ### Commands with a lemma of their own -/

/-- The module whose waiting snapshot is taken, a pending RB_CLEAR having cleared the adjustments (R128, R160). -/
def Manager.tookWaiting (m : Manager) : Manager := ({ m with rt := { m.rt with waiting := none } }).clearAdj

theorem Manager.tookWaiting_computesOn (m : Manager) :
    ({ m with rt := { m.rt with waiting := none, adj := if m.obj Obj.RB_CLEAR = 1 then [] else m.rt.adj } } : Manager).ComputesOn
      m.tookWaiting := by
  have kept : ({ m with rt := { m.rt with waiting := none } } : Manager).obj Obj.RB_CLEAR = m.obj Obj.RB_CLEAR := rfl
  unfold Manager.tookWaiting Manager.clearAdj
  rw [kept]
  split
  · exact (Manager.ComputesOn.refl _).setObj _ _ (by decide)
  · exact .refl _

theorem Manager.tookWaiting_sl (m : Manager) : m.tookWaiting.sl = m.sl := by
  unfold Manager.tookWaiting Manager.clearAdj
  split <;> rfl

theorem Manager.tookWaiting_epCtx (m : Manager) : m.tookWaiting.epCtx = m.epCtx := by
  funext e
  rw [Manager.epCtx, m.tookWaiting_sl]
  rfl

theorem Manager.tookWaiting_routeIn (m : Manager) (ls : Links) (adj : SMap Nat) : m.tookWaiting.routeIn ls adj = m.routeIn ls adj := by
  unfold Manager.tookWaiting Manager.clearAdj Manager.routeIn
  split
  · rw [Manager.obj_setObj_ne _ _ _ _ (by decide), Manager.obj_setObj_ne _ _ _ _ (by decide)]
    rfl
  · rfl

/-- COMPUTATION_START where a computation may start. -/
theorem exec_computationStart_eq {s : State} {ls : Links} {adj : SMap Nat} (waits : s.mgr.rt.waiting = some ls)
    (idle : s.mgr.rt.comp = none) (free : s.mgr.compWaits ls = false)
    (hadj : adj = if s.mgr.obj Obj.RB_CLEAR = 1 then [] else s.mgr.rt.adj) :
    exec .computationStart s = s.withMgr
      (s.mgr.tookWaiting.computeOver (s.mgr.routeIn ls adj) (routeAll (s.mgr.routeIn ls adj) s.mgr.epCtx)) := by
  have took : s.mgr.tookWaiting.rt.adj = adj := s.mgr.tookWaiting_computesOn.adj.trans hadj.symm
  rw [← s.mgr.tookWaiting_routeIn, ← s.mgr.tookWaiting_epCtx, ← took]
  show execComputationStart s = _
  unfold execComputationStart
  extract_lets m _ m0
  rw [show m.rt.waiting = some ls from waits, show m.rt.comp = none from idle]
  dsimp -zeta only
  rw [if_neg (by rw [show m.compWaits ls = false from free]; exact Bool.false_ne_true)]
  extract_lets r out
  show (if 4096 < out.excs then _ else _) = s.withMgr (m0.computeOver r out)
  unfold Manager.computeOver
  by_cases many : 4096 < out.excs
  · rw [if_pos many, if_pos many]
    rfl
  · rw [if_neg many, if_neg many]
    rfl

/-- Step 8 of a computation whose step 7 has ended: the candidate is formed at a module that has kept the fabric, the install and the
trees, and computes no longer (R149, R183). -/
theorem Manager.completeComp_of_left {m : Manager} {c : Comp} {left plates : SMap Plate} (hc : m.rt.comp = some c)
    (hleft : m.hookLeft c = some left)
    (hp : plates = (c.plates.filter (fun p => !m.isolated p.1)).map (fun p =>
      (p.1, renumber (hookCut (mapGetD left p.1 p.2) p.2).1 c.number (hookCut (mapGetD left p.1 p.2) p.2).1.seed))) :
    ∃ n : Manager, n.fab = m.fab ∧ n.inst = m.inst ∧ n.rt.comp = none ∧ n.rt.trees = m.rt.trees ∧
      m.completeComp = n.newCandidate
        { imp := { number := c.number, digest := impDigest c.number plates, plates := plates }, entry := c.entry, snap := c.snap, awaits := []
          adj := c.adj, lex := c.lex, trees := c.trees, closed := c.closed } := by
  unfold Manager.completeComp
  rw [hc]
  dsimp -zeta only
  rw [hleft]
  dsimp -zeta only
  extract_lets m1 done m2 formed m3 _ m4
  have reported : m1.fab = m.fab ∧ m1.inst = m.inst ∧ m1.rt = m.rt := by
    unfold m1
    split <;> simp
  have delivered : m2.fab = m.fab ∧ m2.inst = m.inst ∧ m2.rt = m.rt := by
    unfold m2
    split <;> simp [reported]
  have hformed : formed = plates := by
    unfold formed done
    rw [hp, List.map_map, Manager.isolated_of_inst reported.2.1]
    rfl
  obtain ⟨fab, inst, rt⟩ := delivered
  refine ⟨m4, (Manager.dropComp_fab _).trans fab, (Manager.dropComp_inst _).trans inst, congrArg Routing.comp (Manager.dropComp_rt _),
    (congrArg Routing.trees (Manager.dropComp_rt _)).trans (show m2.rt.trees = m.rt.trees by rw [rt]), ?_⟩
  rw [← hformed]

/-- WIDE_COMPLETE: the trees of a context take the place of its old ones; those of lower and of higher contexts stay (R153). -/
theorem exec_wideComplete {s : State} {c : Nat} (queued : s.mgr.rt.wide.contains c = true) :
    ∃ m, exec (.wideComplete c) s = s.withMgr m ∧ m.rt.wide.contains c = false ∧ m.fab = s.mgr.fab ∧ m.sl = s.mgr.sl ∧
      (∀ t, t ∈ s.mgr.rt.trees → t.ctx ≠ c → t ∈ m.rt.trees) := by
  show ∃ m, execWideComplete c s = _ ∧ _
  unfold execWideComplete
  rw [if_neg (by rw [queued]; exact Bool.false_ne_true)]
  refine ⟨_, rfl, ?_, rfl, rfl, fun t ht other => ?_⟩
  · show (s.mgr.rt.wide.filter (fun k => k != c)).contains c = false
    simp
  · show t ∈ s.mgr.rt.trees.filter (fun t => t.ctx < c) ++ _ ++ s.mgr.rt.trees.filter (fun t => c < t.ctx)
    simp only [List.mem_append, List.mem_filter, decide_eq_true_eq]
    obtain below | above := Nat.lt_or_gt_of_ne other
    · exact .inl (.inl ⟨ht, below⟩)
    · exact .inr ⟨ht, above⟩

/-- COMPUTATION_START: what it does keeps the fabric and the install, so the plates are those of the switches of the impression as it was
(R127, R183); with too many exception endpoints no computation comes of it (R137). -/
theorem exec_computationStart {s : State} {ls : Links} {adj : SMap Nat} (waits : s.mgr.rt.waiting = some ls)
    (idle : s.mgr.rt.comp = none) (free : s.mgr.compWaits ls = false)
    (hadj : adj = if s.mgr.obj Obj.RB_CLEAR = 1 then [] else s.mgr.rt.adj) :
    ∃ m, exec .computationStart s = s.withMgr m ∧ m.rt.waiting = none ∧ m.rt.adj = adj ∧ m.fab = s.mgr.fab ∧ m.inst = s.mgr.inst ∧
      (if 4096 < (routeAll (s.mgr.routeIn ls adj) s.mgr.epCtx).excs then m.rt.comp = none
       else ∃ c, m.rt.comp = some c ∧ c.snap = ls ∧ c.number = nextImp (s.mgr.obj Obj.IMP_COMMITTED) ∧
         c.plates.map (fun p => p.1) = s.mgr.impSwitches (switchesOf ls)) := by
  have took := s.mgr.tookWaiting_computesOn
  refine ⟨_, exec_computationStart_eq waits idle free hadj, ?_⟩
  by_cases many : 4096 < (routeAll (s.mgr.routeIn ls adj) s.mgr.epCtx).excs
  · have on := took.trans (Manager.computeOver_of_many many s.mgr.tookWaiting (s.mgr.routeIn ls adj))
    refine ⟨on.waiting, on.adj.trans hadj.symm, on.fab, on.inst, ?_⟩
    rw [if_pos many]
    exact Option.map_eq_none_iff.mp (on.comp.trans (by rw [idle]; rfl))
  · obtain ⟨c, hsnap, hnumber, hplates, runs⟩ := Manager.computeOver_of_few many s.mgr.tookWaiting (s.mgr.routeIn ls adj)
    have on := (took.withComp (some c)).trans runs
    refine ⟨on.waiting, on.adj.trans hadj.symm, on.fab, on.inst, ?_⟩
    rw [if_neg many]
    obtain ⟨d, hd, snap, number, plates⟩ := exists_of_map_unhooked on.comp
    refine ⟨d, hd, snap.trans hsnap, number.trans (hnumber.trans (congrArg nextImp took.committed)), ?_⟩
    rw [plates, hplates, took.impSwitches]
    rfl

/-- HOOK_TIMEOUT of a hook that has not completed OK: a hook that is owed has no lines yet, one that has ended has none any more (R148). -/
theorem exec_hookTimeout {s : State} {c : Comp} (hc : s.mgr.rt.comp = some c) (due : c.ran = true ∨ c.owes = true)
    (unended : c.owes = false → ∀ st, c.ended = some st → st % 16 ≠ 0) :
    exec .hookTimeout s = s.withMgr ((if c.owes || c.ended.isSome then s.mgr else s.mgr.endAllLines 0 6).undoHook c) := by
  show execHookTimeout s = _
  unfold execHookTimeout
  simp only [hc]
  cases owes : c.owes with
  | true => rfl
  | false =>
    have ran : c.ran = true := due.resolve_right (by rw [owes]; exact Bool.false_ne_true)
    cases ended : c.ended with
    | none => simp [ran]
    | some st => simp [ran, unended owes st ended]

/-- PCOUNT_COMPLETE of the committed impression: of the route state only the wait and the counts of the switches change (R151). -/
theorem exec_pcountComplete {s : State} (waits : s.mgr.rt.pcount = some (s.mgr.obj Obj.IMP_COMMITTED)) :
    ∃ sw, exec .pcountComplete s = s.withMgr { s.mgr.stockSteps with rt := { s.mgr.rt with pcount := none, sw := sw } } := by
  show ∃ sw, execPcountComplete s = _
  unfold execPcountComplete
  simp only [waits]
  exact ⟨_, if_neg (not_not_intro rfl)⟩

/-- PCOUNT_COMPLETE of an impression that is no longer the committed one: its counts are dropped (R151). -/
theorem exec_pcountComplete_of_ne {s : State} {n : Nat} (waits : s.mgr.rt.pcount = some n) (old : n ≠ s.mgr.obj Obj.IMP_COMMITTED) :
    exec .pcountComplete s = s.withMgr { s.mgr with rt := { s.mgr.rt with pcount := none } } := by
  show execPcountComplete s = _
  unfold execPcountComplete
  simp only [waits]
  exact if_pos old

/-! ### The obligation -/

/-- Settles O7: COMPUTATION_START by `Manager.ComputesOn`, COMPUTATION_COMPLETE by `Manager.completeComp_of_left`, and the other commands by
the branch of their meaning that is taken. -/
theorem computationsRun : Obligations.ComputationsRun := by
  unfold Obligations.ComputationsRun
  refine ⟨fun s opened m hm => ?_, fun s ls adj => exec_computationStart, fun s c hc due unended m hm => ?_,
    fun s c left plates hc hleft hp => ?_, fun s n waits => ⟨exec_pcountComplete_of_ne waits, fun current => ?_⟩, fun s c => exec_wideComplete⟩
  · subst hm
    rw [← s.mgr.entry_fab .coalescingWindowClose]
    exact if_neg (by rw [opened]; exact Bool.false_ne_true)
  · subst hm
    exact exec_hookTimeout hc due unended
  · obtain ⟨n, fab, inst, comp, trees, complete⟩ := Manager.completeComp_of_left hc hleft hp
    exact ⟨n, _, fab, inst, comp, trees, rfl, congrArg (fun k => Host.Outcome.next (judgeNew s.mgr { s with mgr := k })) complete⟩
  · subst current
    exact exec_pcountComplete waits

end Sys2Proof.Machine
end

section
/-! PROOF. The obligation of route computation on the interleave. -/

namespace Sys2Proof.Machine

/-- Settles O9: a window by whether a redraw is due, a granted request by `Manager.cmd_granted`, a move by whether it is the last. -/
theorem interleaveRedraws : Obligations.InterleaveRedraws := by
  unfold Obligations.InterleaveRedraws
  refine ⟨fun s other ratio n above m hratio habove hn hm => ?_, fun s req m granted hm => ?_, fun s k sweep => ?_⟩
  · subst hratio habove hn hm
    exact (apply_ite s.withMgr _ _ _).symm
  · subst hm
    refine congrArg s.withMgr ((s.mgr.cmd_granted _ req Obj.IL_REDRAW 1 [1] false _ granted rfl rfl).trans ?_)
    rw [Manager.entry_eng]
  · show execGroupMove s = _
    unfold execGroupMove
    simp only [sweep]
    split <;> rfl

end Sys2Proof.Machine
end

section
/-! SUPPORT. Contexts written, and a carved context that becomes ACTIVE. -/

namespace Sys2Proof.Machine

@[simp] theorem Manager.ctx_setCtx_self (m : Manager) (c : Nat) (x : Ctx) : (m.setCtx c x).ctx c = x := mapGetD_mapSet_self _ _ _ _

@[simp] theorem Manager.ctx_enter_self (m : Manager) (c : Nat) (st : CtxSt) :
    (m.enter c st).ctx c = { m.ctx c with st := st, stateTime := m.dev.time } := m.ctx_setCtx_self c _

@[simp] theorem Manager.ctx_raiseInt (m : Manager) (fn cause c : Nat) : (m.raiseInt fn cause).ctx c = m.ctx c := by
  rw [Manager.ctx, Manager.raiseInt_sl]
  rfl

@[simp] theorem Manager.ctx_selectPart (m : Manager) (k c : Nat) : (m.selectPart k).ctx c = m.ctx c := by
  unfold Manager.selectPart
  split <;> rfl

@[simp] theorem Manager.selectPart_fab (m : Manager) (c : Nat) : (m.selectPart c).fab = m.fab := by
  unfold Manager.selectPart
  split <;> rfl

/-- The module once a carved context has become ACTIVE, before its result is reported (R226 step 6). -/
def Manager.activated (m : Manager) (c : Nat) : Manager :=
  let x := m.ctx c
  ((((m.entry (.carveComplete c)).setCtx c { x with carve := none, setKeys := [], result := x.outcome }).enter c .active).raiseInt
    (if x.vf = 0 then 0 else x.vf) 0).selectPart c

theorem Manager.ctx_activated (m : Manager) (c : Nat) : (m.activated c).ctx c =
    { m.ctx c with carve := none, setKeys := [], result := (m.ctx c).outcome, st := .active
                   stateTime := (m.entry (.carveComplete c)).dev.time } := by
  unfold Manager.activated
  rw [Manager.ctx_selectPart, Manager.ctx_raiseInt, Manager.ctx_enter_self, Manager.ctx_setCtx_self]
  rfl

theorem Manager.activated_fab (m : Manager) (c : Nat) : (m.activated c).fab = m.fab := by
  unfold Manager.activated
  rw [Manager.selectPart_fab, Manager.raiseInt_fab, Manager.enter_fab, Manager.setCtx_fab, Manager.entry_fab]

theorem Manager.activated_eng (m : Manager) (c : Nat) : (m.activated c).eng = m.eng := by
  unfold Manager.activated
  rw [Manager.selectPart_eng, Manager.raiseInt_eng, Manager.enter_eng, Manager.setCtx_eng, Manager.entry_eng]

/-- CARVE_COMPLETE of a carve that is installed and acknowledged: its context becomes ACTIVE, its result is reported, and what its members
lost meanwhile follows (R226, R227). -/
theorem exec_carveComplete {s : State} {c : Nat} {x : Ctx} (hx : x = s.mgr.ctx c) (carving : x.st = .carving) (chosen : x.waiting = false)
    (carve : x.carve.isSome = true) (installed : x.installed = true) (acked : allAcked x.setKeys = true) :
    exec (.carveComplete c) s = s.withMgr
      (if x.doomed then ((s.mgr.activated c).carveDone x.tag x.outcome c).purgeStart c
       else (((s.mgr.activated c).carveDone x.tag x.outcome c).missing c).rejoinTry c) := by
  subst hx
  show execCarveComplete c s = _
  unfold execCarveComplete
  dsimp only
  rw [if_neg (by simp [carving, chosen, Option.isSome_iff_ne_none.mp carve, installed, acked])]
  rfl

end Sys2Proof.Machine
end

section
/-! PROOF. The obligation of slices on carves and their key rounds. -/

namespace Sys2Proof.Machine

/-- Settles O11: each command gets past its checks, and what is left is the stated state; CARVE_COMPLETE by what its context has become. -/
theorem carvesAndKeys : Obligations.CarvesAndKeys := by
  unfold Obligations.CarvesAndKeys
  refine ⟨fun s req granted ready free => ?_, fun s req tag m granted hm => ?_, fun s p m placing act leads hm kept => ?_,
    fun s tag q found => ?_, fun s hdr ctx gen status taken => ?_, fun s ctx m carving noRejoin hm => ?_,
    fun s ctx x hx carving chosen carve installed acked => ?_, fun s ctx r m settled rejoins hm => ?_⟩
  · show execCvGo req 1 s = _
    unfold execCvGo
    rw [if_neg (fun h => h.1 ready)]
    exact congrArg s.withMgr (s.mgr.cmd_granted _ req Obj.CV_GO 1 [1] _ _ granted rfl (by rw [free]; rfl))
  · subst hm
    refine congrArg s.withMgr ((s.mgr.cmd_granted _ req Obj.CV_CANCEL tag [tag] false _ granted (by simp) rfl).trans ?_)
    rw [Manager.entry_sl]
  · subst hm
    show execPlaceComplete s = _
    unfold execPlaceComplete Manager.placed
    simp only [placing, act, leads, kept, Bool.not_true, Bool.or_self, Bool.false_eq_true, if_false]
  · show execWaitExpired tag s = _
    unfold execWaitExpired
    simp only [found]
  · exact if_pos ⟨taken, rfl⟩
  · subst hm
    show execSetKeyTimeout ctx s = _
    unfold execSetKeyTimeout
    simp only [Manager.ctx_entry, carving, if_true]
  · have become := s.mgr.ctx_activated ctx
    exact ⟨s.mgr.activated ctx, by rw [become], by rw [become], by rw [become], s.mgr.activated_fab ctx, s.mgr.activated_eng ctx,
      exec_carveComplete hx carving chosen carve installed acked⟩
  · subst hm
    show execSetKeyTimeout ctx s = _
    unfold execSetKeyTimeout
    simp only [Manager.ctx_entry, settled, rejoins, if_false]

end Sys2Proof.Machine
end

section
/-! SUPPORT. What the manager's operations of recovery leave as it was: those that only tell others change the device, the host side and the
redundancy state alone; those that shut links keep the time and the empty queue of carves. -/

namespace Sys2Proof.Machine

/-! ### Telling others -/

/-- From one manager to another nothing has changed but the device, but not its time, the host side and the redundancy state. -/
structure Manager.TellsOnly (m n : Manager) : Prop where
  frame : n = { m with dev := n.dev, host := n.host, red := n.red }
  time : n.dev.time = m.dev.time

namespace Manager.TellsOnly

theorem refl (m : Manager) : m.TellsOnly m := ⟨rfl, rfl⟩

theorem trans {m n k : Manager} (h : m.TellsOnly n) (g : n.TellsOnly k) : m.TellsOnly k :=
  ⟨by rw [g.frame, h.frame], g.time.trans h.time⟩

theorem foldl {α : Type} {m n : Manager} (h : m.TellsOnly n) (f : Manager → α → Manager) (step : ∀ (k : Manager) x, k.TellsOnly (f k x))
    (l : List α) : m.TellsOnly (l.foldl f n) :=
  List.foldlRecOn (motive := fun k => m.TellsOnly k) l f h fun k e x _ => e.trans (step k x)

theorem ite {m n k : Manager} {c : Prop} [Decidable c] (h : m.TellsOnly n) (g : m.TellsOnly k) : m.TellsOnly (if c then n else k) := by
  split <;> assumption

theorem hostOnly {m n : Manager} (h : m.HostOnly n) : m.TellsOnly n := by
  unfold Manager.HostOnly at h
  rw [h]
  exact ⟨rfl, rfl⟩

section
variable {m n : Manager} (h : m.TellsOnly n)
include h

theorem sl : n.sl = m.sl := by rw [h.frame]
theorem fab : n.fab = m.fab := by rw [h.frame]
theorem rt : n.rt = m.rt := by rw [h.frame]
theorem inst : n.inst = m.inst := by rw [h.frame]
theorem eng : n.eng = m.eng := by rw [h.frame]

end

end Manager.TellsOnly

@[simp] theorem Dev.send_time (d : Dev) (f : Sent) : (d.send f).time = d.time := by
  obtain ⟨o, n, l, h, -⟩ := d.send_frame f
  rw [h]

theorem Dev.LogsOnly.time {d e : Dev} (h : d.LogsOnly e) : e.time = d.time := by rw [h.1]

theorem Dev.wakeEngine_time (d : Dev) : d.wakeEngine.time = d.time :=
  List.foldlRecOn (motive := fun e : Dev => e.time = d.time) _ _ rfl fun e h i _ => by
    unfold Dev.wakeDomain
    split <;> exact h

theorem Manager.onDev_tells (m : Manager) (f : Dev → Dev) (h : (f m.dev).time = m.dev.time) : m.TellsOnly (m.onDev f) := ⟨rfl, h⟩

theorem Manager.bump_tells (m : Manager) (k : Nat) : m.TellsOnly (m.bump k) := ⟨rfl, rfl⟩

theorem Manager.wakeEngine_tells (m : Manager) : m.TellsOnly m.wakeEngine := m.onDev_tells _ m.dev.wakeEngine_time

theorem Manager.putEntry_tells (m : Manager) (e : StreamEntry) : m.TellsOnly (m.putEntry e) := by
  unfold Manager.putEntry
  split
  · exact .refl m
  · obtain ⟨d, r, h⟩ := m.pushEntry_frame e
    exact ⟨by rw [h], m.pushEntry_time e⟩

theorem Manager.eventWith_tells (m : Manager) (code c : Nat) (payload : List Byte) : m.TellsOnly (m.eventWith code c payload) := by
  have recorded : m.TellsOnly { m with dev := m.dev.record (evSeverity code) code c payload } :=
    ⟨rfl, (m.dev.record_logs _ _ _ _).time⟩
  unfold Manager.eventWith Manager.afterRecord
  exact .ite (recorded.trans (.hostOnly (Manager.raiseCtx_host _ c 4))) recorded

theorem Manager.event_tells (m : Manager) (code c : Nat) : m.TellsOnly (m.event code c) := by
  obtain ⟨d, h, e, logs⟩ := m.event_frame code c
  rw [e]
  exact ⟨rfl, logs.time⟩

theorem Manager.carveDone_tells (m : Manager) (tag result c : Nat) : m.TellsOnly (m.carveDone tag result c) :=
  (m.eventWith_tells _ _ _).trans (.hostOnly (Manager.raiseInt_host _ 0 1))

theorem Manager.answerProxy_tells (m : Manager) (r : Req) (result : Nat) (data : List Byte) : m.TellsOnly (m.answerProxy r result data) := by
  have counted := m.bump_tells Obj.DX_PROXIED
  have answers (k : Manager) : k.TellsOnly (k.answer r result data) := by
    unfold Manager.answer
    exact .ite ⟨rfl, rfl⟩ ⟨rfl, rfl⟩
  unfold Manager.answerProxy
  exact (counted.trans (.ite (.refl _) (.ite (Manager.bump_tells _ _) (Manager.bump_tells _ _)))).trans (answers _)

theorem Manager.emit_tells (m : Manager) (f : Sent) : m.TellsOnly (m.emit f) := by
  unfold Manager.emit
  exact .ite (.foldl (.refl m) _ (fun n _ => n.onDev_tells _ (by simp)) _)
    (m.onDev_tells _ (m.dev.send_time f))

theorem Manager.putCmds_tells (m : Manager) (fs : List Sent) : m.TellsOnly (m.putCmds fs) := by
  unfold Manager.putCmds
  dsimp only
  refine .foldl ?_ _ Manager.emit_tells _
  exact ⟨rfl, rfl⟩

theorem Manager.sendCmd_tells (m : Manager) (dst assoc ctx gen : Nat) (x : Msg) : m.TellsOnly (m.sendCmd dst assoc ctx gen x) := by
  unfold Manager.sendCmd
  exact .ite (.refl m) (.ite ⟨rfl, rfl⟩ (m.putCmds_tells _))

theorem Manager.sendReady_tells (m : Manager) (e : Nat) : m.TellsOnly (m.sendReady e) :=
  .foldl (.refl m) _ (fun n _ => n.sendCmd_tells _ _ _ _ _) _

/-! ### Shutting links -/

/-- From one manager to another time has not passed, no carve has been queued, and no link has changed its state but to ADMIN_DOWN. -/
structure Manager.ShutsOnly (m n : Manager) : Prop where
  time : n.dev.time = m.dev.time
  queue : n.sl.queue = []
  links : ∀ i, (linkOf n.fab.links i).st = .adminDown ∨ (linkOf n.fab.links i).st = (linkOf m.fab.links i).st

theorem Manager.retryQueue_of_empty {m : Manager} (h : m.sl.queue = []) : m.retryQueue = m := by
  unfold Manager.retryQueue
  rw [h]
  exact ite_self m

/-- An entry's state after a write: its own, or as before. -/
theorem linkOf_putState (m : Manager) (i j : Nat) (st : LinkSt) :
    (linkOf (m.putState i st).fab.links j).st = if j = i then st else (linkOf m.fab.links j).st := by
  unfold Manager.putState
  dsimp only
  by_cases same : (linkOf m.fab.links i).st = st
  · rw [if_pos same]
    split
    · next at_ => rw [at_, same]
    · rfl
  · rw [if_neg same]
    show (linkOf (mapSet m.fab.links i _) j).st = _
    unfold linkOf
    split
    · next at_ => rw [at_, mapGetD_mapSet_self]
    · next other => rw [mapGetD_mapSet_ne _ _ _ _ _ other]

theorem linkOf_foldl_putState (l : List Nat) (m : Manager) (j : Nat) (st : LinkSt) :
    (linkOf (l.foldl (fun m i => m.putState i st) m).fab.links j).st = if j ∈ l then st else (linkOf m.fab.links j).st := by
  induction l generalizing m with
  | nil => simp
  | cons i l ih =>
    rw [List.foldl_cons, ih, linkOf_putState]
    by_cases hj : j ∈ l <;> by_cases hi : j = i <;> simp [hj, hi]

@[simp] theorem Manager.putState_sl (m : Manager) (i : Nat) (st : LinkSt) : (m.putState i st).sl = m.sl := by
  unfold Manager.putState
  dsimp only
  split <;> rfl

namespace Manager.ShutsOnly

theorem refl {m : Manager} (h : m.sl.queue = []) : m.ShutsOnly m := ⟨rfl, h, fun _ => .inr rfl⟩

section
variable {m n : Manager} (h : m.ShutsOnly n)
include h

theorem trans {k : Manager} (g : n.ShutsOnly k) : m.ShutsOnly k :=
  ⟨g.time.trans h.time, g.queue, fun i => (g.links i).elim .inl fun e => (h.links i).imp e.trans e.trans⟩

/-- What else changes does not matter. -/
theorem of_eq {k : Manager} (time : k.dev.time = n.dev.time) (queue : k.sl.queue = n.sl.queue) (links : k.fab.links = n.fab.links) :
    m.ShutsOnly k := ⟨time.trans h.time, queue.trans h.queue, by rw [links]; exact h.links⟩

theorem tells {k : Manager} (g : n.TellsOnly k) : m.ShutsOnly k := h.of_eq g.time (by rw [g.sl]) (by rw [g.fab])

theorem engOnly {k : Manager} (g : n.EngOnly k) : m.ShutsOnly k := h.of_eq (by rw [g]) (by rw [g]) (by rw [g])

theorem foldl {α : Type} (f : Manager → α → Manager) (step : ∀ (k : Manager) x, m.ShutsOnly k → m.ShutsOnly (f k x)) (l : List α) :
    m.ShutsOnly (l.foldl f n) :=
  List.foldlRecOn (motive := fun k => m.ShutsOnly k) l f h fun k e x _ => step k x e

theorem ite {k : Manager} {c : Prop} [Decidable c] (g : m.ShutsOnly k) : m.ShutsOnly (if c then n else k) := by
  split <;> assumption

theorem setObj (k v : Nat) : m.ShutsOnly (n.setObj k v) := h.of_eq rfl rfl rfl

theorem bump (k : Nat) : m.ShutsOnly (n.bump k) := h.of_eq rfl rfl rfl

theorem setCtx (c : Nat) (x : Ctx) : m.ShutsOnly (n.setCtx c x) := h.of_eq rfl rfl rfl

theorem withRt (rt : Routing) : m.ShutsOnly { n with rt := rt } := h.of_eq rfl rfl rfl

theorem takeSnapshot : m.ShutsOnly n.takeSnapshot := h.withRt _

theorem shut (i : Nat) : m.ShutsOnly (n.putState i .adminDown) := by
  refine ⟨by simp [h.time], by simp [h.queue], fun j => ?_⟩
  rw [linkOf_putState]
  split
  · exact .inl rfl
  · exact h.links j

theorem windowOpens : m.ShutsOnly n.windowOpens := by
  have woken := h.tells n.wakeEngine_tells
  unfold Manager.windowOpens
  exact h.ite ((woken.takeSnapshot.withRt _).ite (woken.withRt _))

theorem openWindow : m.ShutsOnly n.openWindow := by
  unfold Manager.openWindow
  rw [Manager.retryQueue_of_empty h.windowOpens.queue, ite_self]
  exact h.windowOpens

theorem wantNow : m.ShutsOnly n.wantNow := by
  have taken : m.ShutsOnly n.snapshotNow := (h.tells n.wakeEngine_tells).takeSnapshot
  unfold Manager.wantNow
  rwa [Manager.retryQueue_of_empty taken.queue]

/-! Runs, purges and losses -/

theorem endRun (c status : Nat) : m.ShutsOnly (n.endRun c status) := by
  have ended : m.ShutsOnly (if (mapGet n.eng.runs c).any (fun r => r.hook) then n.hookEnded status else n) :=
    ite (n := n.hookEnded status) (h.of_eq rfl rfl rfl) h
  unfold Manager.endRun
  exact ((((ended.engOnly (Manager.onEng_engOnly _ _)).tells (Manager.putEntry_tells _ _)).setObj _ _).setObj _ _).tells
    (.hostOnly (Manager.raiseCtx_host _ c 0))

theorem checkRun (c : Nat) : m.ShutsOnly (n.checkRun c) := by
  unfold Manager.checkRun
  split
  · exact (h.endRun c _).ite h
  · exact h

theorem endAllLines (c status : Nat) : m.ShutsOnly (n.endAllLines c status) := by
  unfold Manager.endAllLines
  split
  · exact h
  · exact ((h.engOnly (n.onEng_engOnly _)).checkRun c).engOnly (Manager.foldl_engOnly _ Manager.resume_engOnly _ _)

theorem announceReady (e : Nat) : m.ShutsOnly (n.announceReady e) :=
  tells (n := n.setNode e _) (h.of_eq rfl rfl rfl) (Manager.sendReady_tells _ e)

theorem purgeStart (c : Nat) : m.ShutsOnly (n.purgeStart c) := by
  unfold Manager.purgeStart
  extract_lets x queued _ n1 n2 gen old purge n3 n4 ready n5 _ n6 n7 n8 n9 gone _ n10 n11 n12 _ n13
  split
  · exact h
  · have unqueued : m.ShutsOnly n1 := ⟨h.time, by simp [n1, h.queue], h.links⟩
    have dropped : m.ShutsOnly n2 := unqueued.ite ((unqueued.setObj _ _).tells (Manager.carveDone_tells _ _ _ _))
    have entered : m.ShutsOnly n3 := (dropped.setCtx _ _).setCtx _ _
    have counted : m.ShutsOnly n4 := ((entered.bump _).tells (.hostOnly (Manager.raiseCtx_host _ c 1))).ite (entered.bump _)
    have told : m.ShutsOnly n5 := counted.foldl _ (fun _ e g => g.announceReady e) _
    have stopped : m.ShutsOnly n7 := (told.withRt _).endAllLines c 1
    have unloaded : m.ShutsOnly n9 := stopped.of_eq rfl rfl rfl
    have answered : m.ShutsOnly n11 := foldl (n := n10) (unloaded.of_eq rfl rfl rfl) _ (fun _ _ g => g.tells (Manager.answerProxy_tells _ _ _ _)) _
    have revoked : m.ShutsOnly n12 := answered.foldl _ (fun _ _ g => g.tells (Manager.sendCmd_tells _ _ _ _ _ _)) _
    exact revoked.of_eq rfl rfl rfl

theorem memberLoss (e cause resets time : Nat) (raised : Bool) : m.ShutsOnly (n.memberLoss e cause resets time raised) := by
  unfold Manager.memberLoss
  extract_lets _ n1 c x first n2 n3 _ n4 n5 n6
  have noted : m.ShutsOnly n1 := h.of_eq rfl rfl rfl
  have recorded : m.ShutsOnly n2 := noted.tells (Manager.event_tells _ _ _)
  have multicast : m.ShutsOnly n3 := (recorded.tells (Manager.emit_tells _ _)).ite recorded
  have awaited : m.ShutsOnly n4 := multicast.of_eq rfl rfl rfl
  have marked : m.ShutsOnly n5 := awaited.setCtx c _
  have counted : m.ShutsOnly n6 := (marked.bump _).ite marked
  exact noted.ite (awaited.ite (((counted.setCtx c _).ite (counted.purgeStart c)).ite (counted.setCtx c _)))

theorem lostPresence (before : List Nat) (cause : Nat) : m.ShutsOnly (n.lostPresence before cause) :=
  h.foldl _ (fun _ _ g => g.memberLoss _ _ _ _ _) _

theorem isolate (s : Nat) (st : IsSt) : m.ShutsOnly (n.isolate s st) := by
  unfold Manager.isolate
  extract_lets ls before had stale n1 mine peers n2 _ n3 _ _ n4 n5
  have abandoned : m.ShutsOnly n1 := ite (n := n.abandon) (h.of_eq rfl rfl rfl) h
  have shut : m.ShutsOnly n2 := abandoned.foldl _ (fun _ i g => g.shut i) _
  have told : m.ShutsOnly n5 := foldl (n := n4) (shut.of_eq rfl rfl rfl) _ (fun _ _ g => g.tells (Manager.sendCmd_tells _ _ _ _ _ _)) _
  exact h.ite ((told.tells (Manager.eventWith_tells _ _ _ _)).lostPresence before 5).openWindow

/-! The ready gate -/

theorem dropComp : m.ShutsOnly n.dropComp := (h.withRt _).engOnly (Manager.stockEnd_engOnly _)

theorem adopt : m.ShutsOnly n.adopt := by
  unfold Manager.adopt
  extract_lets _ n1 _ n2 n3 odd _ n4
  have reset : m.ShutsOnly n1 := h.dropComp.of_eq rfl rfl rfl
  have adopting : m.ShutsOnly n4 := reset.of_eq rfl rfl rfl
  exact adopting.foldl _ (fun _ s g => g.isolate s .excluded) _

theorem evalGate : m.ShutsOnly n.evalGate := by
  unfold Manager.evalGate
  extract_lets n1 n2
  have looked : m.ShutsOnly n1 := h.of_eq rfl rfl rfl
  have passed : m.ShutsOnly n2 := looked.setObj _ _
  exact looked.ite (ite (passed.adopt.ite ((passed.setObj _ _).ite passed).wantNow) (looked.setObj _ _))

theorem touchGate : m.ShutsOnly n.touchGate := by
  unfold Manager.touchGate
  exact h.ite (h.evalGate.ite (h.of_eq rfl rfl rfl))

end

end Manager.ShutsOnly

end Sys2Proof.Machine
end

section
/-! SUPPORT. The manager's operations that keep the course of the install. -/

namespace Sys2Proof.Machine

theorem Manager.foldl_inst {α : Type} (f : Manager → α → Manager) (h : ∀ m x, (f m x).inst = m.inst) (l : List α) (m : Manager) :
    (l.foldl f m).inst = m.inst :=
  List.foldlRecOn (motive := fun n : Manager => n.inst = m.inst) l f rfl fun n e x _ => (h n x).trans e

@[simp] theorem Manager.inst_ite (c : Prop) [Decidable c] (m n : Manager) :
    (if c then m else n).inst = if c then m.inst else n.inst := apply_ite ..

@[simp] theorem Manager.cmdAgent_inst (m : Manager) (nid : Nat) (x : Msg) : (m.cmdAgent nid x).inst = m.inst :=
  (m.sendCmd_tells nid 1 0 0 x).inst

@[simp] theorem Manager.sendOffer_inst (m : Manager) (o : Offer) : (m.sendOffer o).inst = m.inst := by
  unfold Manager.sendOffer; simp

@[simp] theorem Manager.offerGroupKey_inst (m : Manager) (assoc : Nat) (phase : Bool) (key : Key) (nid : Nat) :
    (m.offerGroupKey assoc phase key nid).inst = m.inst := Manager.sendOffer_inst _ _

@[simp] theorem Manager.drawGroupKey_inst (m : Manager) (assoc : Nat) (now : Bool) : (m.drawGroupKey assoc now).1.inst = m.inst := by
  unfold Manager.drawGroupKey Manager.drawSalt Manager.newSalts; simp

@[simp] theorem Manager.offerGroup_inst (m : Manager) (c : Nat) (nids : List Nat) : (m.offerGroup c nids).inst = m.inst :=
  (Manager.foldl_inst _ (fun _ _ => Manager.offerGroupKey_inst _ _ _ _ _) _ _).trans (m.drawGroupKey_inst _ _)

@[simp] theorem Manager.sendKeys_inst (m : Manager) (c gen : Nat) (eps : List Nat) : (m.sendKeys c gen eps).inst = m.inst :=
  (Manager.foldl_inst _ (fun n _ => (n.sendCmd_tells _ _ _ _ _).inst) _ _).trans (m.offerGroup_inst c eps)

@[simp] theorem Manager.wakeEngine_inst (m : Manager) : m.wakeEngine.inst = m.inst := m.wakeEngine_tells.inst

@[simp] theorem Manager.takeSnapshot_inst (m : Manager) : m.takeSnapshot.inst = m.inst := by rfl

@[simp] theorem Manager.snapshotNow_inst (m : Manager) : m.snapshotNow.inst = m.inst := by
  unfold Manager.snapshotNow; simp

@[simp] theorem Manager.grantCarve_inst (m : Manager) (q : CarveReq) (c : Nat) (eps : List Nat) (result : Nat) (quota : Quota)
    (sealIdx : List Nat) : (m.grantCarve q c eps result quota sealIdx).inst = m.inst := by
  unfold Manager.grantCarve; simp

@[simp] theorem Manager.grantQueued_inst (m : Manager) (q : QueuedCarve) (centre : Option Nat) : (m.grantQueued q centre).inst = m.inst := by
  unfold Manager.grantQueued; split <;> simp

@[simp] theorem Manager.retryCarve_inst (m : Manager) (q : QueuedCarve) : (m.retryCarve q).inst = m.inst := by
  unfold Manager.retryCarve; dsimp only; split <;> simp

@[simp] theorem Manager.retryQueue_inst (m : Manager) : m.retryQueue.inst = m.inst := by
  unfold Manager.retryQueue
  split
  · rfl
  · exact Manager.foldl_inst _ (fun n _ => Manager.foldl_inst _ Manager.retryCarve_inst _ n) _ m

@[simp] theorem Manager.openWindow_inst (m : Manager) : m.openWindow.inst = m.inst := by
  have opened : m.windowOpens.inst = m.inst := by
    unfold Manager.windowOpens; simp
  unfold Manager.openWindow
  split <;> simp [opened]

@[simp] theorem Manager.wantNow_inst (m : Manager) : m.wantNow.inst = m.inst := by
  unfold Manager.wantNow; simp

@[simp] theorem Manager.putState_inst (m : Manager) (i : Nat) (st : LinkSt) : (m.putState i st).inst = m.inst := by
  unfold Manager.putState; dsimp only; split <;> rfl

@[simp] theorem Manager.putBoth_inst (m : Manager) (i : Nat) (st : LinkSt) : (m.putBoth i st).inst = m.inst :=
  Manager.foldl_inst _ (fun n _ => n.putState_inst _ _) _ m

@[simp] theorem Manager.offerPair_inst (m : Manager) (a b : Nat) (renew : Bool) : (m.offerPair a b renew).inst = m.inst := by
  unfold Manager.offerPair
  extract_lets lo hi num had new draw k m1 p
  have drawn : m1.inst = m.inst := by unfold m1; split <;> rfl
  split
  · rfl
  · refine (Manager.foldl_inst _ (fun n e => ?_) _ _).trans drawn
    exact Manager.sendOffer_inst _ _

@[simp] theorem Manager.bringUp_inst (m : Manager) (i : Nat) : (m.bringUp i).inst = m.inst := by
  unfold Manager.bringUp; simp

/-- From one manager to another the course of the install goes on: its candidate, its phase, whether another candidate is wanted and the
committed impression are as before. -/
structure Manager.SameCourse (m n : Manager) : Prop where
  cand : n.inst.cand = m.inst.cand
  phase : n.inst.phase = m.inst.phase
  again : n.inst.again = m.inst.again
  committed : n.inst.committed = m.inst.committed

namespace Manager.SameCourse

theorem of_inst {m n : Manager} (h : n.inst = m.inst) : m.SameCourse n := ⟨by rw [h], by rw [h], by rw [h], by rw [h]⟩

theorem trans {m n k : Manager} (h : m.SameCourse n) (g : n.SameCourse k) : m.SameCourse k :=
  ⟨g.cand.trans h.cand, g.phase.trans h.phase, g.again.trans h.again, g.committed.trans h.committed⟩

theorem foldl {α : Type} {m n : Manager} (h : m.SameCourse n) (f : Manager → α → Manager) (step : ∀ (k : Manager) x, k.SameCourse (f k x))
    (l : List α) : m.SameCourse (l.foldl f n) :=
  List.foldlRecOn (motive := fun k => m.SameCourse k) l f h fun k e x _ => e.trans (step k x)

theorem setSwInst (m : Manager) (s : Nat) (x : SwInst) : m.SameCourse (m.setSwInst s x) := ⟨rfl, rfl, rfl, rfl⟩

theorem swReports (m : Manager) (s n : Nat) : m.SameCourse (m.swReports s n) := by
  unfold Manager.swReports
  dsimp only
  split
  · exact of_inst rfl
  · exact setSwInst m s _

theorem handOver (m : Manager) (s : Nat) (l : List Nat) : m.SameCourse (m.handOver s l) :=
  foldl (.of_inst rfl) _ (fun k _ => setSwInst k _ _) l

theorem readmitSwitch (m : Manager) (s : Nat) : m.SameCourse (m.readmitSwitch s) := by
  unfold Manager.readmitSwitch
  extract_lets x shut back m1 m2 m3 m4
  have probing : m1.SameCourse m2 := .of_inst (Manager.foldl_inst _ (fun n _ => n.putState_inst _ _) _ _)
  have opened : m2.SameCourse m3 := (setSwInst m2 s _).trans (.of_inst (Manager.openWindow_inst _))
  have settles : m3.SameCourse m4 := .of_inst (by unfold m4; split <;> rfl)
  have up : m4.SameCourse (back.foldl (fun m i => m.bringUp i) m4) := .of_inst (Manager.foldl_inst _ Manager.bringUp_inst _ _)
  exact ((((handOver m s _).trans probing).trans opened).trans settles).trans (up.trans (.of_inst (Manager.retryQueue_inst _)))

theorem joinLater (m : Manager) : m.SameCourse m.joinLater :=
  (foldl (.of_inst rfl) _ readmitSwitch _).trans (.of_inst rfl)

theorem grantDetours (m : Manager) : m.SameCourse m.grantDetours := by
  unfold Manager.grantDetours
  extract_lets done _ n
  exact (show m.SameCourse n from ⟨rfl, rfl, rfl, rfl⟩).trans (.of_inst (Manager.foldl_inst _ (fun n _ => n.cmdAgent_inst _ _) _ _))

end Manager.SameCourse

end Sys2Proof.Machine
end

section
/-! PROOF. The obligation of installation at an agent: stages, commits and isolations. -/

namespace Sys2Proof.Machine

/-- Taking DRAIN_US leaves the highest pair. -/
theorem Agent.pair_setDrain (a : Agent) (drain : Nat) : (a.setObj Obj.AP_DRAIN_US drain).pair = a.pair :=
  Prod.ext (a.obj_setObj_ne _ _ _ (by decide)) (a.obj_setObj_ne _ _ _ (by decide))

/-- COMMIT under the highest pair: of the committed number and of an older one it is answered as it stands; of a newer one, staged under
that pair, it flips (R195, R546). -/
theorem execCommit_accepted {s : State} {die imp drain : Nat} {hdr : Hdr} {digest : Digest} {a b : Agent}
    (taken : (s.agent die).takes commitCmd hdr none) (ha : a = (s.agent die).after commitCmd hdr none) (acc : a.accepts hdr = true)
    (staged : imp ≠ a.obj Obj.AG_COMMITTED → newer imp (a.obj Obj.AG_COMMITTED) = true →
      a.store.stagedBy = some a.pair ∧ a.obj Obj.AG_STAGED = imp) (hb : b = a.setObj Obj.AP_DRAIN_US drain) :
    execCommit die hdr imp drain digest s = s.withAgent die
      (if imp = a.obj Obj.AG_COMMITTED then b.toMgr (.commitAck imp 0 0 b.flipField)
       else if newer imp (a.obj Obj.AG_COMMITTED) then (b.flip imp drain digest).toMgr (.commitAck imp 0 0 (b.flip imp drain digest).flipField)
       else b.toMgr (.commitAck imp 1 (a.obj Obj.AG_COMMITTED) 0)) := by
  subst ha hb
  refine onAgent_eq ((Agent.take_accepted taken acc _ _ _).trans ?_)
  unfold Agent.after at staged ⊢
  generalize ((s.agent die).take commitCmd hdr none).ag = a at staged
  by_cases committed : imp = a.obj Obj.AG_COMMITTED
  · rw [if_pos committed, if_pos committed]
  · rw [if_neg committed, if_neg committed]
    cases new : newer imp (a.obj Obj.AG_COMMITTED) with
    | false => rfl
    | true =>
      obtain ⟨under, number⟩ := staged committed new
      have kept : (a.setObj Obj.AP_DRAIN_US drain).obj Obj.AG_STAGED = imp := (a.obj_setObj_ne _ _ _ (by decide)).trans number
      simp [under, kept, Agent.pair_setDrain]

/-- Settles O13, command by command: a frame taken and accepted runs its own case, and COMMIT is `execCommit_accepted`. -/
theorem agentTakesStages : Obligations.AgentTakesStages := by
  unfold Obligations.AgentTakesStages
  refine ⟨?_, ?_, ?_, ?_, ?_⟩
  · rintro s die hdr payload _ h r taken rfl acc whole parses
    show execStage die hdr payload s = _
    refine onAgent_eq ((Agent.take_accepted taken acc _ _ _).trans ?_)
    rw [whole]
    dsimp only
    rw [parses]
    rfl
  · rintro s die status _ b x rfl pend runs rfl
    show execStageNodeWritesDone die status s = _
    refine onAgent_eq ?_
    dsimp only
    rw [pend]
    dsimp only
    rw [runs]
    by_cases ok : status % 2 ^ 16 = 0
    · rw [if_pos ok, if_neg (not_not_intro ok)]
      rfl
    · rw [if_neg ok, if_pos ok]
      rfl
  · rintro s die _ rfl runs
    exact onAgent_eq (if_pos runs)
  · rintro s die hdr imp drain _ digest a taken ha rfl acc staged
    exact execCommit_accepted taken ha acc staged rfl
  · rintro s die hdr imp nid ports _ taken rfl acc
    show execIsolate die hdr imp nid ports s = _
    exact onAgent_eq (Agent.take_accepted taken acc _ _ _)

end Sys2Proof.Machine
end

section
/-! PROOF. The obligation of faults at the manager. -/

namespace Sys2Proof.Machine

/-- A frame taken at the manager gets past the check of ingress. -/
theorem Manager.take_acts {m : Manager} {k : FrameKind} {h : Hdr} (taken : m.takes k h) (u v : Out) :
    (if !(m.dev.ingress k h m.genOf).ok then u else v) = v :=
  if_neg (by rw [Manager.takes] at taken; simp [taken])

/-! ### The queue of reports -/

section
variable {m : Manager} {k : FrameKind} {h : Hdr} {i : Instr}

/-- A report that reaches the module which commands the agents joins the queue, unless that is full (R254). -/
theorem Manager.queueReport_taken (taken : m.takes k h) (active : (m.after k h).active = true) (leads : (m.after k h).leads = true) (wait : Bool) :
    m.queueReport k h i wait =
      if 65536 ≤ m.repQ.length then (m.after k h).bump Obj.FR_DROPPED
      else
        let n := ({ m.after k h with repQ := m.repQ ++ [i] } : Manager).setObj Obj.FR_Q_DEPTH
          (max ((m.after k h).obj Obj.FR_Q_DEPTH) (m.repQ.length + 1))
        if wait then n else n.takeReports := by
  rw [Manager.takes] at taken
  rw [Manager.after] at active leads ⊢
  unfold Manager.queueReport
  simp only [taken, active, leads, Bool.not_true, Bool.or_self, Bool.false_eq_true, if_false, List.length_append, List.length_singleton]
  rfl

/-- A report of a new number is acknowledged, counted and acted on (R244). -/
theorem Manager.takeReport_new {src type num : Nat} {w : Window} (key : reportKey i = some (src, type, num))
    (new : takeNumber (mapGet m.rcv.reports src) num = some w) :
    m.takeReport i = (({ m.sendAgent src (.eventAck type num) with
      rcv := { m.rcv with reports := mapSet m.rcv.reports src w } } : Manager).bump Obj.FR_EVENTS).actOn i := by
  unfold Manager.takeReport
  rw [key]
  dsimp only
  rw [show (m.sendAgent src (.eventAck type num)).rcv = m.rcv from rfl, new]

/-- The first report of a number that reaches an empty queue leaves it at once and is acted on (R244, R254). -/
theorem Manager.queueReport_acts {type num : Nat} {w : Window} (can : m.canReport k h) (key : reportKey i = some (h.src, type, num))
    (new : takeNumber (mapGet m.rcv.reports h.src) num = some w) :
    m.queueReport k h i false = (m.reported1 k h type num w).actOn i := by
  obtain ⟨taken, active, leads, empty⟩ := can
  rw [Manager.queueReport_taken taken active leads, empty]
  exact Manager.takeReport_new key new

end

theorem Manager.reported1_time (m : Manager) (k : FrameKind) (h : Hdr) (type num : Nat) (w : Window) :
    (m.reported1 k h type num w).dev.time = m.dev.time := by
  show ((((m.dev.ingress k h m.genOf).dev.setObj _ _).sendTo _ 1 _).bump _).time = _
  simp

/-! ### What reports do -/

/-- Of another cause than FENCED, EP_RESET leaves the fence (R258, R274). -/
theorem Manager.actReset_of_ne {cause : Nat} (alive : cause ≠ 4) (m : Manager) (nid resets time : Nat) :
    m.actReset nid cause resets time =
      (m.setNode nid { m.node nid with gone := true, resets := resets }).memberLoss nid cause resets time false := by
  unfold Manager.actReset
  rw [beq_eq_false_iff_ne.mpr alive]
  dsimp only
  rw [Bool.or_false, if_neg (fun h => alive h.1)]

/-- The node of a READY that no fence and no REJOIN waits for is announced (R259, R260). -/
theorem Manager.actReady_announces {m : Manager} {nid : Nat} (free : ((m.endDetour nid).node nid).fenced = false)
    (settled : ((m.endDetour nid).ctx ((m.endDetour nid).epCtx nid)).rejoin = none) :
    m.actReady nid = (m.endDetour nid).announceReady nid := by
  unfold Manager.actReady
  dsimp only
  rw [free, settled]
  rfl

theorem Manager.wantNow_of_empty {m : Manager} (h : m.sl.queue = []) : m.wantNow = m.snapshotNow :=
  Manager.retryQueue_of_empty (m := m.snapshotNow) h

/-- With no carve queued, the links of a switch that a detour takes out of use are ADMIN_DOWN, and the computation that avoids them starts on
the link table as it then is (R263). -/
theorem Manager.actResetReq_shuts {m : Manager} {nid sw : Nat} (empty : m.sl.queue = []) :
    mapGet (m.actResetReq nid sw).inst.detour nid = some m.dev.time ∧
      (m.actResetReq nid sw).rt.waiting = some (m.actResetReq nid sw).fab.links ∧
      ∀ i, i ∈ entriesOf m.fab.links sw →
        (linkOf (m.actResetReq nid sw).fab.links i).st = .adminDown ∨ (linkOf (m.actResetReq nid sw).fab.links i).st = .absent := by
  unfold Manager.actResetReq
  extract_lets ls mine m1 _ m2 m3 _
  have shut : m.ShutsOnly m1 := (Manager.ShutsOnly.refl empty).foldl _ (fun _ i g => g.shut i) _
  have noted : m1.ShutsOnly m2 := (Manager.ShutsOnly.refl shut.queue).of_eq rfl rfl rfl
  have gate : m1.ShutsOnly m3 := noted.ite noted.touchGate
  rw [Manager.wantNow_of_empty]
  on_goal 2 => exact gate.queue
  refine ⟨(mapGet_mapSet_self _ _ _).trans (congrArg some (gate.time.trans shut.time)), rfl, fun i hi => ?_⟩
  have closed : (linkOf m1.fab.links i).st = .adminDown ∨ (linkOf m1.fab.links i).st = .absent := by
    rw [linkOf_foldl_putState]
    split
    · exact .inl rfl
    · next other => simpa [mine, ls, hi, or_iff_not_imp_left] using other
  exact (gate.links i).elim .inl fun kept => closed.imp kept.trans kept.trans

/-! ### The obligation -/

/-- Settles O17: a report by what the queue of reports does with it (`queueReport_taken`, `queueReport_acts`), a command granted by
`cmd_granted`, and RESET_REQ by the links that it shuts (`actResetReq_shuts`). -/
theorem managerTakesFaultReports : Obligations.ManagerTakesFaultReports := by
  unfold Obligations.ManagerTakesFaultReports
  refine ⟨?_, ?_, ?_, ?_, ?_, ?_, ?_, ?_, ?_, ?_, ?_, ?_⟩
  · rintro s hdr nid port report time ep good wait _ taken rfl active leads
    refine ⟨fun full => ?_, fun room waits => ?_⟩
    · exact congrArg s.withMgr ((Manager.queueReport_taken taken active leads wait).trans (if_pos full))
    · subst waits
      exact congrArg s.withMgr ((Manager.queueReport_taken taken active leads true).trans (if_neg (Nat.not_le.mpr room)))
  · rintro s hdr nid port report time i ep good w _ can new rfl named
    refine congrArg s.withMgr ((Manager.queueReport_acts can rfl new).trans ?_)
    show Manager.actLink _ nid port ep good = _
    unfold Manager.actLink
    rw [named]
  · rintro s hdr peerNode peerPort port peerEp ep _ n taken rfl known unheard
    show execNeighbour hdr peerNode peerPort peerEp port ep s = _
    refine (Manager.take_acts taken _ _).trans ?_
    dsimp only
    rw [known]
    dsimp only
    rw [show s.mgr.disc.nbr n.die (portNo ep port) = none from unheard]
    rfl
  · rintro s hdr ctx gen nid _ taken rfl
    show execMemberAck hdr ctx gen nid s = _
    refine (Manager.take_acts taken _ _).trans ?_
    dsimp only
    rw [Manager.entry_rcv]
    rfl
  · intro s active leads
    exact if_neg (by simp [active, leads])
  · rintro s hdr nid cause resets report time w _ can new alive rfl
    exact congrArg s.withMgr ((Manager.queueReport_acts can rfl new).trans (Manager.actReset_of_ne alive _ _ _ _))
  · rintro s hdr nid report w _ can new rfl free settled
    exact congrArg s.withMgr ((Manager.queueReport_acts can rfl new).trans (Manager.actReady_announces free settled))
  · rintro s hdr nid switch report w _ can new isSwitch rfl empty
    have unqueued : ((s.mgr.reported1 dictPlain hdr 0x39 report w).entry (.resetReq hdr nid switch report false)).sl.queue = [] := by
      rw [Manager.entry_sl]
      exact empty
    have shuts := Manager.actResetReq_shuts (nid := nid) (sw := switch - 0x20000) unqueued
    rw [Manager.entry_time, Manager.reported1_time] at shuts
    exact ⟨_, congrArg s.withMgr ((Manager.queueReport_acts can rfl new).trans (if_neg (Nat.not_lt.mpr isSwitch))), shuts⟩
  · rintro s hdr nid report time w _ can new isSwitch rfl
    exact congrArg s.withMgr ((Manager.queueReport_acts can rfl new).trans (if_neg (Nat.not_lt.mpr isSwitch)))
  · rintro s req _ granted rfl fenced back unasked
    refine congrArg s.withMgr ((s.mgr.cmd_granted _ req Obj.EP_READMIT 1 [1] _ _ granted rfl unasked).trans ?_)
    have sel := s.mgr.obj_entry_ne (.epReadmit req 1) Obj.EP_SEL (by decide) (by decide) (by decide)
    have node : (s.mgr.entry (.epReadmit req 1)).node = s.mgr.node := by
      unfold Manager.node
      rw [Manager.entry_fab]
    dsimp only
    rw [sel, node, fenced, back]
    rfl
  · rintro s req _ _ granted rfl rfl down
    refine congrArg s.withMgr ((s.mgr.cmd_granted _ req Obj.LK_READMIT 1 [1] false _ granted rfl rfl).trans ?_)
    have sel := s.mgr.obj_entry_ne (.lkReadmit req 1) Obj.LK_SEL (by decide) (by decide) (by decide)
    dsimp only
    rw [sel, Manager.entry_fab]
    exact congrArg (fun n : Manager => n.answerWrite req 0) (if_neg (not_not_intro down))
  · rintro s req _ granted idle rfl
    exact congrArg s.withMgr (s.mgr.cmd_granted _ req Obj.RS_COMMIT 1 [1] _ _ granted rfl (by simpa using idle))

end Sys2Proof.Machine
end

section
/-! PROOF. The obligation of installation at the manager. -/

namespace Sys2Proof.Machine

@[simp] theorem Manager.swInst_setSwInst_self (m : Manager) (s : Nat) (x : SwInst) : (m.setSwInst s x).swInst s = x :=
  mapGetD_mapSet_self _ _ _ _

@[simp] theorem Manager.node_setNode_self (m : Manager) (nid : Nat) (x : NodeInfo) : (m.setNode nid x).node nid = x :=
  mapGetD_mapSet_self _ _ _ _

/-! ### Commands with a lemma of their own -/

/-- STAGE_ACK of a switch that is awaited: with OK and the digest held it is STAGED, otherwise the attempt has failed (R194, R197). -/
theorem exec_stageAck {s : State} {hdr : Hdr} {imp status detail sw : Nat} {digest : Digest} {m n : Manager} {c : Cand}
    (taken : s.mgr.takes stageFrame hdr) (hm : m = (s.mgr.after stageFrame hdr).entry (.stageAck hdr imp status detail digest))
    (hsw : sw = (s.mgr.after stageFrame hdr).switchOf hdr.src) (claim : status ≠ 2) (cand : s.mgr.inst.cand = some c)
    (staging : s.mgr.inst.phase = 2) (number : c.imp.number = imp) (awaited : c.awaits.contains sw = true)
    (hn : n = (if status = 1 ∨ (status = 3 ∧ detail ≠ 0xFFFFFFFF) ∨ status = 9 then
        (m.setSwInst sw { m.swInst sw with last := status }).swReports sw (detail % 2 ^ 32)
      else m.setSwInst sw { m.swInst sw with last := status })) :
    exec (.stageAck hdr imp status detail digest) s = s.withMgr
      (if status = 0 ∧ (mapGetD c.imp.plates sw {}).digest = digest then
        ({ n.setSwInst sw ((n.swInst sw).mark .staged) with inst := { (n.setSwInst sw ((n.swInst sw).mark .staged)).inst with
            cand := some { c with awaits := c.awaits.filter (fun k => k != sw) } } } : Manager).tryCommit.drainCmds
       else n.stageFailed sw (if status = 0 then 0x8001 else status)) := by
  have noted : m.SameCourse (m.setSwInst sw { m.swInst sw with last := status }) := .setSwInst m sw _
  have course : s.mgr.SameCourse n := by
    refine (show s.mgr.SameCourse m from .of_inst (by rw [hm, Manager.entry_inst]; rfl)).trans ?_
    rw [hn]
    split
    · exact noted.trans (.swReports _ _ _)
    · exact noted
  show execStageAck hdr imp status detail digest s = _
  unfold execStageAck
  extract_lets t _ m0 sw' m1 m2 x last m3 m4
  rw [if_neg (by rw [Manager.takes] at taken; simp [t, taken])]
  have told : m3 = n := by
    rw [hn, hm, hsw]
    unfold m3 last x m2
    rw [if_neg claim]
    rfl
  have same : sw' = sw := hsw.symm
  clear_value m3 sw'
  subst told same
  rw [course.cand, cand]
  dsimp only
  rw [course.phase, if_neg (by rw [awaited]; simp [staging, number]), apply_ite s.withMgr]

/-- What a commit notes of the node of a switch's agent (R195). -/
def Manager.noteAgent (m : Manager) (sw imp : Nat) : Manager :=
  m.setNode (m.agentOf sw) { m.node (m.agentOf sw) with plateValid := true, committed := imp }

/-- What a commit does at the manager: the switch holds the candidate, which is noted of its agent too, and is awaited no longer (R195). -/
def Manager.holds (m : Manager) (sw imp : Nat) (c : Cand) : Manager :=
  let m := (m.setSwInst sw { (m.swInst sw).mark .current with
    committed := imp, digest := (mapGetD c.imp.plates sw {}).digest, hasDigest := true, readmit := false }).noteAgent sw imp
  { m with inst := { m.inst with cand := some { c with awaits := c.awaits.filter (fun k => k != sw) }, lastAck := m.dev.time } }

/-- A mark is taken by a switch that is not isolated, and leaves another. -/
theorem SwInst.mark_st (x : SwInst) (st : IsSt) :
    (x.mark st).st = if decide (x.st = .excluded) || decide (x.st = .lost) then x.st else st := by
  unfold SwInst.mark
  by_cases isolated : x.st = .excluded ∨ x.st = .lost <;> simp [isolated]

theorem Manager.holds_st (m : Manager) (sw imp : Nat) (c : Cand) :
    ((m.holds sw imp c).swInst sw).st = if m.isolated sw then (m.swInst sw).st else .current :=
  (congrArg SwInst.st (m.swInst_setSwInst_self sw _)).trans ((m.swInst sw).mark_st .current)

theorem Manager.holds_committed (m : Manager) (sw imp : Nat) (c : Cand) : ((m.holds sw imp c).swInst sw).committed = imp :=
  congrArg SwInst.committed (m.swInst_setSwInst_self sw _)

/-! The agent of a switch stays the one it was -/

/-- The first entry that meets a test keeps its number when its value is written to one that meets the test too. -/
theorem find?_mapSet_fst {α : Type} (p : α → Bool) {l : SMap α} {e : Nat × α} {v : α} (d : α)
    (found : l.find? (fun n => p n.2) = some e) (meets : p (mapGetD l e.1 d) = true → p v = true) :
    ((mapSet l e.1 v).find? (fun n => p n.2)).map Prod.fst = some e.1 := by
  induction l with
  | nil => cases found
  | cons head l ih =>
    obtain ⟨j, w⟩ := head
    unfold mapSet
    split
    · rw [List.find?_cons]
      split
      · rfl
      · rw [found]; rfl
    · split
      · next at_ =>
        rw [List.find?_cons] at found ⊢
        split
        · rfl
        · next fails =>
          rw [mapGetD, mapGet, if_pos at_] at meets
          have skipped : p w = false := Bool.eq_false_iff.mpr fun hw => Bool.eq_false_iff.mp fails (meets hw)
          rw [skipped] at found
          exact congrArg (Option.map Prod.fst) found
      · next other =>
        rw [List.find?_cons] at found ⊢
        cases hw : p w with
        | true =>
          rw [hw] at found
          cases found
          exact absurd rfl other
        | false =>
          rw [hw] at found
          refine ih found fun h => meets ?_
          rwa [mapGetD, mapGet, if_neg other]

/-- No entry meets a test when none did and a value is written that does not. -/
theorem find?_mapSet_none {α : Type} (p : α → Bool) {l : SMap α} {k : Nat} {v : α} (none : l.find? (fun n => p n.2) = none)
    (fails : p v = false) : (mapSet l k v).find? (fun n => p n.2) = Option.none := by
  rw [List.find?_eq_none] at none ⊢
  intro e he
  rcases mem_mapSet _ _ _ _ he with rfl | mem
  · simpa using fails
  · exact none e mem

/-- The node is the forwarding endpoint at which a switch's agent is addressed (R37). -/
def NodeInfo.forwards (sw : Nat) (n : NodeInfo) : Bool := n.kind == 2 && n.fwd == 0x20000 + sw

theorem Manager.agentOf_eq (m : Manager) (sw : Nat) :
    m.agentOf sw = ((m.fab.nodes.find? (fun n => n.2.forwards sw)).map Prod.fst).getD (0x20000 + sw) := by
  show (match m.fab.nodes.find? (fun n => n.2.forwards sw) with | some n => n.1 | none => 0x20000 + sw) = _
  cases m.fab.nodes.find? (fun n => n.2.forwards sw) <;> rfl

/-- A node of which nothing is known forwards for no switch. -/
theorem Manager.forwards_node_of_none {m : Manager} {sw : Nat} (none : m.fab.nodes.find? (fun n => n.2.forwards sw) = none) (nid : Nat) :
    (m.node nid).forwards sw = false := by
  unfold Manager.node mapGetD
  cases known : mapGet m.fab.nodes nid with
  | none => rfl
  | some n => exact Bool.eq_false_iff.mpr (List.find?_eq_none.mp none _ (mapGet_mem _ _ _ known))

/-- A write to the node of a switch's agent that does not change what it forwards for leaves it the agent. -/
theorem Manager.agentOf_setNode (m : Manager) (sw : Nat) {x : NodeInfo}
    (same : x.forwards sw = (m.node (m.agentOf sw)).forwards sw) : (m.setNode (m.agentOf sw) x).agentOf sw = m.agentOf sw := by
  have agent := m.agentOf_eq sw
  have written (nid : Nat) : (m.setNode nid x).agentOf sw =
      (((mapSet m.fab.nodes nid x).find? (fun n => n.2.forwards sw)).map Prod.fst).getD (0x20000 + sw) := Manager.agentOf_eq _ _
  rw [written]
  cases found : m.fab.nodes.find? (fun n => n.2.forwards sw) with
  | some e =>
    rw [found] at agent
    have first : m.agentOf sw = e.1 := agent
    rw [first] at same ⊢
    rw [find?_mapSet_fst (NodeInfo.forwards sw) {} found same.trans]
    rfl
  | none =>
    rw [find?_mapSet_none (NodeInfo.forwards sw) found (same.trans (Manager.forwards_node_of_none found _)), agent, found]

/-- Which node is a switch's agent is not changed by what a commit notes of it. -/
theorem Manager.agentOf_noteAgent (m : Manager) (sw imp : Nat) : (m.noteAgent sw imp).agentOf sw = m.agentOf sw :=
  m.agentOf_setNode sw rfl

theorem Manager.noteAgent_plateValid (m : Manager) (sw imp : Nat) :
    ((m.noteAgent sw imp).node ((m.noteAgent sw imp).agentOf sw)).plateValid = true := by
  rw [m.agentOf_noteAgent]
  exact congrArg NodeInfo.plateValid (m.node_setNode_self _ _)

theorem Manager.holds_plateValid (m : Manager) (sw imp : Nat) (c : Cand) :
    ((m.holds sw imp c).node ((m.holds sw imp c).agentOf sw)).plateValid = true :=
  Manager.noteAgent_plateValid _ sw imp

/-- COMMIT_ACK OK of a switch that is awaited: it holds the impression, CURRENT unless it is isolated, and is awaited no longer (R195). -/
theorem exec_commitAck {s : State} {hdr : Hdr} {imp detail sw : Nat} {field : Digest} {c : Cand} (taken : s.mgr.takes commitFrame hdr)
    (hsw : sw = (s.mgr.after commitFrame hdr).switchOf hdr.src) (cand : s.mgr.inst.cand = some c) (committing : s.mgr.inst.phase = 4)
    (number : c.imp.number = imp) (awaited : c.awaits.contains sw = true) :
    ∃ m : Manager, exec (.commitAck hdr imp 0 detail field) s = s.withMgr m.checkDrain.drainCmds ∧
      (m.swInst sw).st = (if s.mgr.isolated sw then (s.mgr.swInst sw).st else .current) ∧ (m.swInst sw).committed = imp ∧
      (m.node (m.agentOf sw)).plateValid = true ∧ m.inst.cand = some { c with awaits := c.awaits.filter (fun k => k != sw) } := by
  show ∃ m, execCommitAck hdr imp 0 detail field s = _ ∧ _
  unfold execCommitAck
  extract_lets t _ m0 sw' m1 m2 x last m3 _
  have entered : m1.inst = s.mgr.inst := Manager.entry_inst _ _
  have course : s.mgr.SameCourse m3 := (Manager.SameCourse.of_inst entered).trans (.setSwInst m1 sw' _)
  have same : sw' = sw := hsw.symm
  have st : (m3.swInst sw).st = (s.mgr.swInst sw).st := by
    rw [← same]
    refine (congrArg SwInst.st (m1.swInst_setSwInst_self sw' _)).trans ?_
    show (m1.swInst sw').st = _
    rw [Manager.swInst, entered]
    rfl
  have isolated : m3.isolated sw = s.mgr.isolated sw := by
    unfold Manager.isolated
    rw [st]
  rw [← st, ← isolated]
  clear_value m3 sw'
  subst same
  rw [if_neg (by rw [Manager.takes] at taken; simp [t, taken]), course.cand, cand]
  dsimp only
  rw [course.phase, if_neg (by rw [awaited]; simp [committing, number])]
  exact ⟨m3.holds sw' imp c, rfl, m3.holds_st sw' imp c, m3.holds_committed sw' imp c, m3.holds_plateValid sw' imp c, rfl⟩

/-- OLD_SIDE_RELEASE of an install that drains: its candidate is gone, and what waited for the release goes on without another (R196, R198). -/
theorem exec_oldSideRelease {s : State} (draining : s.mgr.inst.phase = 5) :
    ∃ m, exec .oldSideRelease s = s.withMgr m ∧ m.inst.cand = none ∧ m.inst.phase = 0 ∧ m.inst.again = false ∧
      m.inst.committed = s.mgr.inst.committed ∧ m.eng = s.mgr.eng := by
  show ∃ m, execOldSideRelease s = _ ∧ _
  unfold execOldSideRelease
  extract_lets m m1 again _ m2 m3 m4 _ m5 m6
  rw [if_neg (not_not_intro draining)]
  have released : m3.inst.cand = none ∧ m3.inst.phase = 0 ∧ m3.inst.again = false ∧ m3.inst.committed = s.mgr.inst.committed :=
    ⟨rfl, rfl, rfl, show m1.inst.committed = _ from congrArg Install.committed (s.mgr.entry_inst .oldSideRelease)⟩
  have ended : m4.SameCourse m5 := by
    unfold m5
    split
    · exact .of_inst (Manager.openWindow_inst _)
    · exact .of_inst rfl
    · exact .of_inst rfl
  have course : m3.SameCourse (if again && m6.rt.comp.isNone then m6.wantNow else m6) := by
    refine (((Manager.SameCourse.grantDetours m3).trans ended).trans (.joinLater m5)).trans (.of_inst ?_)
    split
    · exact m6.wantNow_inst
    · rfl
  have eng : m5.eng = s.mgr.eng := by
    unfold m5
    split <;> simp [m4, m3, m2, m1, m]
  obtain ⟨cand, phase, again, committed⟩ := released
  refine ⟨_, rfl, course.cand.trans cand, course.phase.trans phase, course.again.trans again, course.committed.trans committed, ?_⟩
  split <;> simp [m6, eng]

/-! ### The obligation -/

/-- Settles O10, clause by clause: STAGE_ACK, COMMIT_ACK and OLD_SIDE_RELEASE by the lemmas above, a command granted by `cmd_granted`, and
the rest by the branch that their premises choose. -/
theorem managerInstalls : Obligations.ManagerInstalls := by
  unfold Obligations.ManagerInstalls
  refine ⟨fun s hdr imp status detail sw digest m n c => exec_stageAck, fun s sw c cand staging awaited sent => ?_,
    fun s hdr imp detail sw field c => exec_commitAck, fun s c cand committing => ?_, fun s c m cand committing silent hm => ?_,
    fun s hdr nid m taken isSwitch hm => ?_, fun s k w isolating => ?_, fun s k w isolating => ?_, fun s other => ?_,
    fun s => exec_oldSideRelease, fun s req granted ready unset => ?_, fun s req m granted unasked hm => ?_,
    fun s req a m plates granted idle hm found fits hp => ?_, fun s req m granted idle hm missing => ?_⟩
  · show execStageAttemptTimeout sw s = _
    unfold execStageAttemptTimeout
    rw [cand]
    exact if_neg (by rw [awaited, sent]; simp [staging])
  · show execCommitRetry s = _
    unfold execCommitRetry
    dsimp only
    rw [cand]
    exact if_neg (not_not_intro committing)
  · subst hm
    show execCommitTimeout s = _
    unfold execCommitTimeout
    dsimp only
    rw [cand]
    exact if_neg (by simp [committing, silent])
  · subst hm
    exact if_neg (by rw [Manager.takes] at taken; simp [taken, isSwitch])
  · show execIsolateRetry k s = _
    unfold execIsolateRetry
    rw [isolating]
  · show execIsolateTimeout k s = _
    unfold execIsolateTimeout
    rw [isolating]
  · exact if_pos other
  · show execImpFull req 1 s = _
    unfold execImpFull
    rw [if_neg (fun h => h.1 ready)]
    exact congrArg s.withMgr (s.mgr.cmd_granted _ req Obj.IMP_FULL 1 [1] _ _ granted rfl (by simpa using unset))
  · subst hm
    exact congrArg s.withMgr (s.mgr.cmd_granted _ req Obj.IS_READMIT 1 [1] _ _ granted rfl unasked)
  · subst hm hp
    refine congrArg s.withMgr ((s.mgr.cmd_granted _ req Obj.IA_RESTORE 1 [1] _ _ granted rfl (by simpa using idle)).trans ?_)
    dsimp only
    rw [found]
    dsimp only
    rw [fits]
    rfl
  · subst hm
    refine congrArg s.withMgr ((s.mgr.cmd_granted _ req Obj.IA_RESTORE 1 [1] _ _ granted rfl (by simpa using idle)).trans ?_)
    dsimp only
    rw [missing]

end Sys2Proof.Machine
end

section
/-! SUPPORT. What a purge's steps leave of the contexts, the fabric and the install, and what its zeroed memory reads as. -/

namespace Sys2Proof.Machine

/-! ### The contexts -/

theorem Manager.ctx_of_sl {m n : Manager} (same : n.sl = m.sl) (c : Nat) : n.ctx c = m.ctx c := by
  unfold Manager.ctx
  rw [same]

theorem Manager.foldl_sl {α : Type} (f : Manager → α → Manager) (h : ∀ m x, (f m x).sl = m.sl) (l : List α) (m : Manager) :
    (l.foldl f m).sl = m.sl :=
  List.foldlRecOn (motive := fun n : Manager => n.sl = m.sl) l f rfl fun n e x _ => (h n x).trans e

@[simp] theorem Manager.announceReady_sl (m : Manager) (e : Nat) : (m.announceReady e).sl = m.sl :=
  (Manager.sendReady_tells _ e).sl

@[simp] theorem Manager.endRun_sl (m : Manager) (c status : Nat) : (m.endRun c status).sl = m.sl := by
  unfold Manager.endRun
  dsimp only
  rw [Manager.raiseCtx_sl, Manager.setObj_sl, Manager.setObj_sl, Manager.putEntry_sl, Manager.onEng_sl]
  split <;> rfl

@[simp] theorem Manager.checkRun_sl (m : Manager) (c : Nat) : (m.checkRun c).sl = m.sl := by
  unfold Manager.checkRun
  split
  · split
    · exact m.endRun_sl c _
    · rfl
  · rfl

@[simp] theorem Manager.endAllLines_sl (m : Manager) (c status : Nat) : (m.endAllLines c status).sl = m.sl := by
  unfold Manager.endAllLines
  split
  · rfl
  · exact (Manager.foldl_sl _ (fun n cell => by rw [n.resume_engOnly cell]) _ _).trans (Manager.checkRun_sl _ c)

/-! ### The start of a purge -/

/-- A purge's cause finds nothing to purge: context 0, or a context that is PURGING, in QUARANTINE or FREE (R215). -/
theorem Manager.purgeStart_of_settled {m : Manager} {c : Nat}
    (settled : c = 0 ∨ (m.ctx c).st = .purging ∨ (m.ctx c).st = .quarantine ∨ (m.ctx c).st = .free) : m.purgeStart c = m := by
  unfold Manager.purgeStart
  exact if_pos (by tauto)

/-- The first cause of a context's purge advances its generation and enters PURGING; what follows writes no context (R213, R231). -/
theorem Manager.ctx_purgeStart {m : Manager} {c : Nat} (tenant : c ≠ 0)
    (held : (m.ctx c).st = .active ∨ (m.ctx c).st = .draining ∨ (m.ctx c).st = .carving) :
    ((m.purgeStart c).ctx c).st = .purging ∧ ((m.purgeStart c).ctx c).gen = ((m.ctx c).gen + 1) % 256 := by
  have starts : ¬ (c = 0 ∨ (m.ctx c).st = .free ∨ (m.ctx c).st = .purging ∨ (m.ctx c).st = .quarantine) := by
    rcases held with st | st | st <;> simp [tenant, st]
  unfold Manager.purgeStart
  extract_lets x queued _ n1 n2 gen old purge n3 n4 ready n5 _ n6 n7 n8 n9 gone _ n10 n11 n12 _ n13
  rw [if_neg starts]
  have counted : n4.sl = n3.sl := by unfold n4; split <;> simp
  have told : n5.sl = n4.sl := Manager.foldl_sl _ (fun n e => n.announceReady_sl e) ready n4
  have stopped : n7.sl = n5.sl := n6.endAllLines_sl c 1
  have answered : n11.sl = n7.sl := Manager.foldl_sl _ (fun n p => (n.answerProxy_tells _ _ _).sl) gone n10
  have revoked : n12.sl = n11.sl := Manager.foldl_sl _ (fun n e => (n.sendCmd_tells _ _ _ _ _).sl) x.eps n11
  have last : n13.ctx c = n3.ctx c :=
    Manager.ctx_of_sl (revoked.trans (answered.trans (stopped.trans (told.trans counted)))) c
  rw [last]
  unfold n3
  rw [Manager.ctx_enter_self, Manager.ctx_setCtx_self]
  exact ⟨rfl, rfl⟩

/-- CX_RELEASE 2 granted for a tenant context (R231). -/
theorem exec_cxReleasePurge {s : State} {req : Req} (tenant : s.mgr.reached req ≠ 0) (granted : s.mgr.grants req Obj.CX_RELEASE 2) :
    exec (.cxReleasePurge req) s =
      s.withMgr (((s.mgr.entry (.cxReleasePurge req)).purgeStart (s.mgr.reached req)).answerWrite req 0) := by
  show execCxReleasePurge req s = _
  unfold execCxReleasePurge
  exact (if_neg (fun h => tenant h.1)).trans
    (congrArg s.withMgr (s.mgr.cmd_granted _ req Obj.CX_RELEASE 2 [1, 2] false _ granted rfl rfl))

/-! ### Memory zeroed -/

/-- A range zeroed at each of a list of places: a byte in one of them reads 0, and every other byte is as before. -/
theorem memRead_foldl_memZero {α : Type} (place : α → Nat) (n : Nat) (l : List α) (mem : List Host.Cell) (a : Nat) :
    memRead (l.foldl (fun mem x => memZero mem (place x) n) mem) a =
      if ∃ x ∈ l, place x ≤ a ∧ a < place x + n then 0 else memRead mem a := by
  induction l generalizing mem with
  | nil => simp
  | cons x l ih =>
    rw [List.foldl_cons, ih, memRead_memZero, ← ite_or]
    simp only [List.exists_mem_cons_iff, or_comm]

/-- Memory with the cell SRAM that a context has in the 68 physical cells, and its DRAM, zeroed (R232 step 3). -/
def memPurged (mem : List Host.Cell) (ctx : Nat) : List Host.Cell :=
  memZero ((upTo 68).foldl (fun mem ph => memZero mem (sramAddr ph ctx 0) (2 ^ 44)) mem) (dramAddr ctx 0) (2 ^ 40)

theorem memRead_memPurged (mem : List Host.Cell) (ctx a : Nat) :
    memRead (memPurged mem ctx) a =
      if (dramAddr ctx 0 ≤ a ∧ a < dramAddr ctx 0 + 2 ^ 40) ∨ ∃ ph ∈ upTo 68, sramAddr ph ctx 0 ≤ a ∧ a < sramAddr ph ctx 0 + 2 ^ 44
      then 0 else memRead mem a := by
  rw [memPurged, memRead_memZero, memRead_foldl_memZero (fun ph => sramAddr ph ctx 0), ← ite_or]

/-- The module once every tag of a purged context has returned: the context's memory is zeroed, it holds no cells, and its DRAM waits to
be zeroed (R219, R232 step 3). -/
def Manager.tagsReturned (m : Manager) (ctx : Nat) (p : PurgeSt) : Manager :=
  let n := m.entry (.purgeTagsReturned ctx)
  ({ n.onEng (fun e => { e with mem := memPurged n.eng.mem ctx }) with
      sl := { n.sl with zeroing := n.sl.zeroing + (m.ctx ctx).dramMib } } : Manager).setCtx ctx
    { m.ctx ctx with cells := [], sramKib := 0, dramMib := 0, purge := some { p with tags := true } }

theorem Manager.ctx_tagsReturned (m : Manager) (ctx : Nat) (p : PurgeSt) : (m.tagsReturned ctx p).ctx ctx =
    { m.ctx ctx with cells := [], sramKib := 0, dramMib := 0, purge := some { p with tags := true } } :=
  Manager.ctx_setCtx_self _ _ _

theorem Manager.tagsReturned_zeroing (m : Manager) (ctx : Nat) (p : PurgeSt) :
    (m.tagsReturned ctx p).sl.zeroing = m.sl.zeroing + (m.ctx ctx).dramMib :=
  congrArg (fun sl : Slices => sl.zeroing + (m.ctx ctx).dramMib) (m.entry_sl _)

theorem Manager.tagsReturned_mem (m : Manager) (ctx : Nat) (p : PurgeSt) :
    (m.tagsReturned ctx p).eng.mem = memPurged m.eng.mem ctx := by
  rw [Manager.tagsReturned, Manager.setCtx_eng, Manager.onEng, m.entry_eng]

theorem exec_purgeTagsReturned {s : State} {ctx : Nat} {p : PurgeSt} (purging : (s.mgr.ctx ctx).purge = some p) (due : p.tags = false)
    (returned : s.mgr.eng.tags.any (fun t => t.2.ctx == ctx) = false) :
    exec (.purgeTagsReturned ctx) s = s.withMgr (s.mgr.tagsReturned ctx p) := by
  show execPurgeTagsReturned ctx s = _
  unfold execPurgeTagsReturned
  dsimp only
  rw [purging]
  exact if_neg (by simp [due, returned])

/-! ### A function's reset -/

theorem Manager.dbSet_tells (m : Manager) (bit : Nat) : m.TellsOnly (m.dbSet bit) := by
  unfold Manager.dbSet
  extract_lets _ n
  have set : m.TellsOnly n := ⟨rfl, rfl⟩
  refine .ite (.refl m) ?_
  split
  · exact (set.trans (n.bump_tells _)).trans (.hostOnly (Manager.raiseCtx_host _ _ 2))
  · exact set

theorem Manager.fire_tells (m : Manager) (n : Nat) : m.TellsOnly (m.fire n) := by
  unfold Manager.fire
  extract_lets cfg
  split
  · exact .refl m
  · next c _ =>
    have rung (db : Nat) : m.TellsOnly (if bitOf cfg 26 then m.dbSet db else m) := .ite (m.dbSet_tells db) (.refl m)
    have raised (db : Nat) :=
      Manager.TellsOnly.ite (c := bitOf cfg 3 = true) ((rung db).trans (.hostOnly (Manager.raiseCtx_host _ c 3))) (rung db)
    exact .ite (.refl m) (.ite (raised _) ((raised _).trans (.hostOnly (Manager.msi_host _ 0 _))))

theorem Manager.voidLocks_tells (m : Manager) (rid : Nat) : m.TellsOnly (m.voidLocks rid) :=
  .foldl (.refl m) _ (fun k e => by
    extract_lets o o' n
    have voided : k.TellsOnly n := ⟨rfl, rfl⟩
    exact .ite (voided.trans (n.fire_tells e.1)) voided) _

theorem Manager.resetFn_tells (m : Manager) (fn result : Nat) : m.TellsOnly (m.resetFn fn result) := by
  unfold Manager.resetFn
  extract_lets f slots open_ ring m1 _ m2
  have emptied : m.TellsOnly m2 := ⟨rfl, rfl⟩
  exact emptied.trans (m2.voidLocks_tells _)

theorem Manager.clearBells_tells (m : Manager) (c : Nat) : m.TellsOnly (m.clearBells c) :=
  .foldl (.refl m) (fun m b => m.dbClear b) (fun _ _ => ⟨rfl, rfl⟩) _

/-- VF_RESET of a purged context: its function is unbound, and what the purge began of it has ended (R232 step 7). -/
theorem exec_vfReset {s : State} {ctx : Nat} {p : PurgeSt} (purging : (s.mgr.ctx ctx).purge = some p) :
    ∃ m, exec (.vfReset ctx) s = s.withMgr m ∧ (m.ctx ctx).vf = 0 ∧ (m.ctx ctx).purge = some { p with vfDone := true } ∧
      m.fab = s.mgr.fab ∧ m.inst = s.mgr.inst := by
  show ∃ m, execVfReset ctx s = _ ∧ _
  unfold execVfReset
  dsimp only
  rw [purging]
  dsimp only
  split
  · next unbound =>
    refine ⟨_, rfl, ?_, ?_, s.mgr.entry_fab _, s.mgr.entry_inst _⟩
    · rw [Manager.ctx_setCtx_self]
      exact unbound
    · rw [Manager.ctx_setCtx_self]
  · have reset := ((s.mgr.entry (.vfReset ctx)).resetFn_tells (s.mgr.ctx ctx).vf 0x000E).trans (Manager.clearBells_tells _ ctx)
    refine ⟨_, rfl, ?_, ?_, ?_, ?_⟩
    · rw [Manager.ctx_setCtx_self]
    · rw [Manager.ctx_setCtx_self]
    · rw [Manager.setCtx_fab, reset.fab, Manager.entry_fab]
    · rw [Manager.setCtx_inst, reset.inst, Manager.entry_inst]

end Sys2Proof.Machine
end

section
/-! PROOF. The obligations of slices on the purge of a context. -/

namespace Sys2Proof.Machine

/-- Settles O47: a settled context is left as it is, the first cause enters PURGING, which settles it, and CX_RELEASE 2 is such a cause. -/
theorem secondPurgeHasNoEffect : Obligations.SecondPurgeHasNoEffect := by
  unfold Obligations.SecondPurgeHasNoEffect
  refine ⟨fun m c => Manager.purgeStart_of_settled, fun m c tenant held => ?_, fun s req tenant granted purging => ?_⟩
  · obtain ⟨st, gen⟩ := Manager.ctx_purgeStart tenant held
    exact ⟨st, gen, Manager.purgeStart_of_settled (.inr (.inl st))⟩
  · rw [exec_cxReleasePurge tenant granted, Manager.purgeStart_of_settled (.inr (.inl ?_))]
    rw [Manager.ctx_entry]
    exact purging

/-- Settles O12, command by command: each gets past its checks, and what is left is the stated state; PURGE_TAGS_RETURNED by what its zeroed
memory reads as, VF_RESET by what the reset of a function keeps. -/
theorem releaseAndPurge : Obligations.ReleaseAndPurge := by
  unfold Obligations.ReleaseAndPurge
  refine ⟨fun s req c m hc tenant granted active hm => ?_, fun s req => exec_cxReleasePurge, fun s ctx draining => ?_,
    fun s ctx p purging due returned => ?_, fun s ctx p m purging hm => ?_, fun s ctx p => exec_vfReset, fun s ctx => rfl,
    fun s ctx resting => ?_, fun s mib m hm => ?_, fun s req a m held hm => ?_, fun s req none_ proxied early => ?_⟩
  · subst hc hm
    show execCxReleaseDrain req s = _
    unfold execCxReleaseDrain
    have mayDrain : (s.mgr.ctx ((s.mgr.reachCtx req.fn).getD 0)).st = .active := active
    dsimp only
    rw [mayDrain, if_neg (fun h => h.1.elim tenant (fun st => st.1 rfl))]
    exact congrArg s.withMgr (s.mgr.cmd_granted _ req Obj.CX_RELEASE 1 [1, 2] _ _ granted rfl rfl)
  · show execDrainTimeout ctx s = _
    exact if_neg (not_not_intro draining)
  · have become := s.mgr.ctx_tagsReturned ctx p
    refine ⟨_, exec_purgeTagsReturned purging due returned, by rw [become], by rw [become], s.mgr.tagsReturned_zeroing ctx p, ?_⟩
    rw [s.mgr.tagsReturned_mem ctx p]
    simp only [memRead_memPurged]
    refine ⟨fun ph i hph hi => if_pos (.inr ⟨ph, List.mem_range.mpr hph, by omega⟩), fun i hi => if_pos (.inl (by omega)),
      fun a outCells outDram => if_neg ?_⟩
    rintro (inDram | ⟨ph, mem, inCell⟩)
    · omega
    · have := outCells ph (List.mem_range.mp mem)
      omega
  · subst hm
    show execRevokeTimeout ctx s = _
    unfold execRevokeTimeout
    dsimp only
    rw [purging]
  · show execQuarantineExpire ctx s = _
    exact if_neg (not_not_intro resting)
  · subst hm
    show execDramPageZeroed mib s = _
    unfold execDramPageZeroed
    dsimp only
    rw [Manager.entry_sl]
    rfl
  · subst hm
    show execConfidentialReplyRelease req s = _
    unfold execConfidentialReplyRelease
    dsimp only
    rw [held]
  · show execConfidentialReplyRelease req s = _
    unfold execConfidentialReplyRelease
    dsimp only
    rw [none_]
    exact if_pos ⟨proxied, by rw [early]; rfl⟩

end Sys2Proof.Machine
end

section
/-! SUPPORT. Local requests to the dictionary that pass their checks and whose object has a row of its own. -/

namespace Sys2Proof.Machine

variable {s : State} {req : Req} {key : Nat}

/-- A WRITE of a command object that passes its checks acts as the object's row (R348). -/
theorem exec_dictWrite_command {data : List Byte} (turn : s.mgr.turn req key true data = true) (passes : s.mgr.writeResult req key data = 0)
    (command : (objRow key).map (fun r => r.acc) = some .cmd) :
    exec (.dictWrite req key data) s = writeUnitCmd req key (leNat data) s := by
  obtain ⟨r, row, acc⟩ := Option.map_eq_some_iff.mp command
  show execDictWrite req key data s = _
  unfold execDictWrite
  dsimp only
  rw [if_neg (by simp [turn]), if_neg (not_not_intro passes), row]
  exact if_pos (beq_iff_eq.mpr acc)

/-- A WRITE, that passes its checks, of an object that is no command and has a row of its own acts as that row. -/
theorem exec_dictWrite_row {data : List Byte} (turn : s.mgr.turn req key true data = true) (passes : s.mgr.writeResult req key data = 0)
    (other : (objRow key).any (fun r => r.acc != .cmd) = true) (own : rowObjs.contains key = true) :
    exec (.dictWrite req key data) s = writeRow req key data s := by
  obtain ⟨r, row, acc⟩ := (Option.any_eq_true _ _).mp other
  show execDictWrite req key data s = _
  unfold execDictWrite
  dsimp only
  rw [if_neg (by simp [turn]), if_neg (not_not_intro passes), row]
  dsimp only
  rw [if_neg (by simpa using acc), if_pos own]

/-- A READ, that passes its checks, of an object whose READ is a row of its own acts as that row. -/
theorem exec_dictRead_row (turn : s.mgr.turn req key false [] = true) (passes : s.mgr.readResult req key = 0)
    (own : rowReads.contains key = true) :
    exec (.dictRead req key) s =
      if key = Obj.SC_NONCE then execScNonce req s else if key = Obj.ER_READ then execErRead req s else execTsRead req s := by
  have named : key = Obj.SC_NONCE ∨ key = Obj.ER_READ ∨ key = Obj.TS_READ := by simpa [rowReads] using own
  show execDictRead req key s = _
  unfold execDictRead
  dsimp only
  rw [if_neg (by simp [turn]), if_neg (not_not_intro passes)]
  exact ite_congr rfl (fun _ => rfl) fun nonce => ite_congr rfl (fun _ => rfl) fun er =>
    if_pos ((named.resolve_left nonce).resolve_left er)

end Sys2Proof.Machine
end

section
/-! PROOF. The obligations of slices on local requests to the dictionary. -/

namespace Sys2Proof.Machine

/-- Settles O27: an object of each table has the access its table stands for, and the case that it selects is its row. -/
theorem accessesActAsTheirRows : Obligations.AccessesActAsTheirRows := by
  unfold Obligations.AccessesActAsTheirRows
  simp only [List.mem_cons, List.not_mem_nil, or_false]
  refine ⟨fun s req data e row turn passes => ?_, fun s req data e row turn passes value => ?_, fun s req data e row turn passes => ?_,
    fun s req e row turn passes => ?_⟩
  · rcases row with rfl | rfl | rfl | rfl | rfl | rfl | rfl | rfl | rfl | rfl | rfl | rfl | rfl | rfl | rfl | rfl | rfl | rfl | rfl | rfl |
      rfl | rfl | rfl | rfl
    -- CV_CANCEL, the last, is the one object of this table that is no command.
    on_goal 24 => exact (exec_dictWrite_row turn passes (by decide +kernel) (by decide)).trans rfl
    all_goals
      rw [exec_dictWrite_command turn passes (by decide +kernel)]
      simp [writeUnitCmd, writeDevCmd]
      rfl
  · have command : (objRow e.1).map (fun r => r.acc) = some .cmd := by
      rcases row with rfl | rfl | rfl | rfl | rfl | rfl | rfl | rfl | rfl
      all_goals decide +kernel
    rw [exec_dictWrite_command turn passes command, value]
    rcases row with rfl | rfl | rfl | rfl | rfl | rfl | rfl | rfl | rfl
    all_goals rfl
  · rcases row with rfl | rfl | rfl | rfl
    all_goals exact (exec_dictWrite_row turn passes (by decide +kernel) (by decide)).trans rfl
  · rcases row with rfl | rfl | rfl
    · exact (exec_dictRead_row turn passes (by decide)).trans (if_pos rfl)
    · exact (exec_dictRead_row turn passes (by decide)).trans ((if_neg (by decide)).trans (if_pos rfl))
    · exact (exec_dictRead_row turn passes (by decide)).trans ((if_neg (by decide)).trans (if_neg (by decide)))

/-- Refutes O28: its clause of P_RECOMPUTE does not ask that no recomputation be pending. While IMP_FULL reads 1 a WRITE of P_RECOMPUTE is
answered BUSY, 0x0008, and not OK. -/
theorem not_dictionaryIsServed : ¬ Obligations.DictionaryIsServed := by
  unfold Obligations.DictionaryIsServed
  rintro ⟨-, -, -, -, -, -, -, -, recompute⟩
  have served := recompute { mgr := { dev := { objs := [(Obj.DS_STATE, 4), (Obj.IMP_FULL, 1), (Obj.RD_STATE, 2)] } } } ⟨0, 0⟩
    (by unfold Manager.grants; decide +kernel) (by decide +kernel)
  have results := congrArg (fun o => (nextOf o).map (fun t => t.mgr.host.answers.map (fun a => a.result))) served
  exact absurd results (by decide +kernel)

end Sys2Proof.Machine
end

section
/-! PROOF. The obligations of failure and recovery: watched ports and reports at an agent, resets of its node, and the sleep of both parts. -/

namespace Sys2Proof.Machine

/-! ### Ports and node commands at an agent -/

/-- The field ports of an agent are in given states. -/
def Agent.putPorts (a : Agent) (ports : SMap Nat) : Agent := a.onDev (fun d => { d with net := { d.net with ports := ports } })

/-- An agent that comes to transmit on another port replies at once, so that the network relearns its address (R407). -/
theorem Agent.withPorts_of_moved {a b : Agent} {ports : SMap Nat} (hb : b = a.putPorts ports) (hears : a.hears = true) (runs : a.runs = true)
    (moved : b.dev.txPort ≠ a.dev.txPort) (up : b.dev.txPort.isSome = true) (named : b.dev.net.nid ≠ nidNone) :
    a.withPorts ports = b.timedReply b.home b.link.lastT.1 b.link.lastT.2 := by
  have runs' : b.runs = true := hb ▸ runs
  have hears' : b.hears = true := hb ▸ hears
  unfold Agent.withPorts
  rw [← Agent.putPorts, ← hb]
  exact if_neg (by simp [moved, Option.isSome_iff_ne_none.mp up, runs', hears', named])

/-- A command frame under the highest pair that names this agent passes the check of those that are for one agent. -/
theorem Agent.take_carried_to {a : Agent} {k : FrameKind} {h : Hdr} {x : Option Msg} {nid : Nat} (taken : a.takes k h x)
    (acc : (a.after k h x).accepts h = true) (own : nid = (a.after k h x).obj Obj.AG_NID) :
    (!(a.take k h x).ok || !(a.take k h x).ag.accepts h || nid != (a.take k h x).ag.obj Obj.AG_NID) = false := by
  rw [Agent.after] at own
  rw [Agent.take_carried taken acc, own, bne_self_eq_false, Bool.or_false]

/-- A NODE_CTL command acts at once while the node island is on and the control cores run (R549). -/
theorem Agent.nodeCtl_acts {a : Agent} (hears : a.hears = true) (runs : a.restart = none) (code : Nat) (f : Agent → Agent) :
    a.nodeCtl code f = f a := by
  unfold Agent.nodeCtl
  rw [hears, runs]
  rfl

/-- A group frame taken by a manager that relays goes out to the group's members (R422). -/
theorem Manager.copyFrame_copies {m : Manager} {k : FrameKind} {h : Hdr} (taken : m.takes k h) (group : h.dst = nidAll) (assoc : Nat) (x : Msg) :
    m.copyFrame k h assoc x = (m.after k h).emit { dst := nidAll, assoc := assoc, ctx := h.ctx, gen := h.gen, msg := x } := by
  rw [Manager.takes] at taken
  exact if_pos (by rw [taken, group]; rfl)

/-! ### What ends SENTINEL at the manager: after a thermal entry the temperature alone, cause 6 (R519) -/

section
variable {m : Manager}

theorem Manager.wakeBy_of_cool (asleep : m.pwr.asleep = true) (cool : m.pwr.thermal = false) (cause : Nat) (start : StartIn) :
    m.wakeBy cause start = m.wakeUp cause start := if_neg (by simp [asleep, cool])

theorem Manager.wakeBy_temperature (asleep : m.pwr.asleep = true) (start : StartIn) : m.wakeBy 6 start = m.wakeUp 6 start :=
  if_neg (by simp [asleep])

theorem Manager.wakeBy_of_thermal (thermal : m.pwr.thermal = true) {cause : Nat} (other : cause ≠ 6) (start : StartIn) :
    m.wakeBy cause start = m := if_pos (by simp [thermal, other])

end

theorem Manager.node_entry_of_known {m : Manager} {nid : Nat} {n : NodeInfo} (known : mapGet m.fab.nodes nid = some n) (i : Instr) :
    (m.entry i).node nid = n := by
  rw [Manager.node, Manager.entry_fab, mapGetD, known]
  rfl

/-! ### The obligations -/

/-- Settles O16, command by command: a port's watch changes by its input, a frame taken has its own effect, and a move to another port in use
is `Agent.withPorts_of_moved`. -/
theorem agentReportsPorts : Obligations.AgentReportsPorts := by
  unfold Obligations.AgentReportsPorts
  refine ⟨?_, ?_, ?_, ?_, ?_, ?_, ?_, ?_⟩
  · intro s die i p on watched
    refine congrArg (s.withAgent die) ?_
    dsimp only
    rw [on, if_neg Bool.false_ne_true, watched]
  · intro s die i p port ep watched
    refine congrArg (s.withAgent die) ?_
    dsimp only
    rw [watched]
  · intro s die port ep
    rfl
  · refine fun s die port ep hears => ⟨?_, ?_⟩
    · exact congrArg (s.withAgent die) (if_neg (by simp [hears]))
    · exact congrArg (s.withAgent die) (if_neg (by simp [hears]))
  · exact fun s die type report hdr taken => congrArg (s.withAgent die) (if_pos taken)
  · exact fun s die runs => congrArg (s.withAgent die) (if_pos runs)
  · exact fun s die imp nid port dests hdr taken => congrArg (s.withAgent die) (if_pos taken)
  · intro s die port state a hears clocked runs ha moved up named
    refine congrArg (s.withAgent die) ?_
    dsimp only
    rw [if_neg (by simp [hears, clocked])]
    exact Agent.withPorts_of_moved ha hears runs moved up named

/-- Settles O18, command by command: a reset is detected past the checks of its input, a command of node firmware acts (`nodeCtl_acts`), and
a frame taken, under the highest pair where it is a command, has its own effect. -/
theorem agentSeesResets : Obligations.AgentSeesResets := by
  unfold Obligations.AgentSeesResets
  refine ⟨?_, ?_, ?_, ?_, ?_, ?_, ?_, ?_, ?_, ?_, ?_, ?_, ?_, ?_, ?_, ?_⟩
  · intro s die i on role enabled
    exact congrArg (s.withAgent die) (if_pos ⟨by rw [on]; rfl, role, enabled⟩)
  · intro s die
    rfl
  · rintro s die _ rfl
    rfl
  · rintro s die _ rfl down unsent switch hears runs
    refine congrArg (s.withAgent die) ((if_neg ?_).trans ?_)
    · simp [Option.isSome_iff_ne_none.mp down, unsent, switch, hears]
    · rw [runs]
  · refine fun s die hears runs => ⟨?_, ?_⟩
    · exact congrArg (s.withAgent die) (Agent.nodeCtl_acts hears runs _ _)
    · exact congrArg (s.withAgent die) (Agent.nodeCtl_acts hears runs _ _)
  · rintro s die hdr nid d _ taken rfl acc own
    exact congrArg (s.withAgent die) (if_neg (Bool.eq_false_iff.mp (Agent.take_carried_to taken acc own)))
  · rintro s die _ rfl asked runs
    exact congrArg (s.withAgent die) (if_neg (by simp [Option.isSome_iff_ne_none.mp asked, runs]))
  · exact fun s die hears => congrArg (s.withAgent die) (if_pos hears)
  · rintro s die _ rfl watched period runs switch
    refine congrArg (s.withAgent die) ((if_neg ?_).trans (if_neg (Bool.eq_false_iff.mp switch)))
    simp [watched, period, runs]
  · exact fun s die runs => congrArg (s.withAgent die) (if_pos runs)
  · exact fun s die nid r0 r1 hdr taken => congrArg (s.withAgent die) (if_pos taken)
  · rintro s die nid r0 r1 hdr _ taken rfl acc other gone
    refine congrArg (s.withAgent die) ((if_neg (Bool.eq_false_iff.mp (Agent.take_carried taken acc))).trans ?_)
    unfold Agent.after at other gone ⊢
    have foreign : (((s.agent die).take dictCmd hdr none).ag.isEndpoint &&
        nid == ((s.agent die).take dictCmd hdr none).ag.obj Obj.AG_NID) = false := by
      rw [beq_eq_false_iff_ne.mpr other, Bool.and_false]
    simp only [foreign, Bool.false_eq_true, if_false]
    exact if_pos gone
  · exact fun s die lost cause ctx gen resets time hdr taken => congrArg (s.withAgent die) (if_pos taken)
  · exact fun s lost cause ctx gen resets time hdr taken group => congrArg s.withMgr (Manager.copyFrame_copies taken group _ _)
  · exact fun s die lost cause ctx gen resets time hdr taken => congrArg (s.withAgent die) (if_pos taken)
  · rintro s die ctx gen nid hdr _ taken rfl acc own
    exact congrArg (s.withAgent die) (if_neg (Bool.eq_false_iff.mp (Agent.take_carried_to taken acc own)))

/-- Settles O34, command by command: what ends SENTINEL at the manager is `Manager.wakeBy`'s cases, and each other command gets past the
checks of its part's state. -/
theorem sentinelAndComparators : Obligations.SentinelAndComparators := by
  unfold Obligations.SentinelAndComparators
  refine ⟨?_, ?_, ?_, ?_, ?_, ?_, ?_, ?_, ?_⟩
  · intro s awake on live rested leads slot
    refine (if_neg (by simp [awake, on])).trans ((if_neg (by simp [live])).trans ((if_neg (by simp [rested, leads])).trans ?_))
    rw [slot]
    rfl
  · intro s start asleep cool
    have wakes := fun cause => congrArg s.withMgr (Manager.wakeBy_of_cool asleep cool cause start)
    refine ⟨fun cause source => ?_, fun due => ?_, fun port => ⟨?_, ?_⟩⟩
    · exact (if_pos (List.contains_iff_mem.mpr source)).trans (wakes cause)
    · exact (congrArg s.withMgr (if_neg due)).trans (wakes 1)
    · exact (if_pos asleep).trans (wakes 3)
    · exact (if_pos asleep).trans (wakes 4)
  · intro s start asleep thermal
    refine ⟨?_, fun port => ?_⟩
    · refine congrArg s.withMgr ((if_pos (by rw [asleep, thermal]; rfl)).trans ?_)
      rw [Manager.wakeBy_temperature asleep]
    · exact (if_pos asleep).trans (congrArg s.withMgr (Manager.wakeBy_of_thermal thermal (by decide) start))
  · refine fun s start port awake => ⟨fun field => ?_, fun triad => ?_⟩
    · exact (if_neg (by simp [awake])).trans (if_neg (Nat.not_le.mpr field))
    · exact (if_neg (by simp [awake])).trans (if_neg (Nat.not_le.mpr triad))
  · intro s nid n known
    change execAgentParked nid s = _
    unfold execAgentParked
    dsimp only
    rw [known, Manager.node_entry_of_known known]
  · intro s on
    have checked : ¬ s.mgr.pwr.off = true := Bool.eq_false_iff.mp on
    refine ⟨congrArg s.withMgr (if_neg checked), if_neg checked, fun awake => ?_⟩
    exact (if_neg checked).trans (if_neg (Bool.eq_false_iff.mp awake))
  · rintro s _ on clocked rfl
    exact if_neg (by simp [on, clocked])
  · intro s ports held on awake boots
    refine (if_neg (by simp [held])).trans ?_
    dsimp only
    rw [if_neg (by simp [on, awake, boots])]
  · rintro s die _ rfl on
    have checked : ¬ (s.agent die).link.held = true := Bool.eq_false_iff.mp on
    refine ⟨?_, fun awake => ?_, ?_⟩
    · exact congrArg (s.withAgent die) (if_neg checked)
    · exact congrArg (s.withAgent die) ((if_neg checked).trans (if_neg (Bool.eq_false_iff.mp awake)))
    · exact congrArg (s.withAgent die) (if_neg checked)

end Sys2Proof.Machine
end

section
/-! SUPPORT. What an isolation and a readmission leave of what the agents have told: their CLAIM_ACKs, and the impression that each switch
and each node holds. -/

namespace Sys2Proof.Machine

/-- Of the redundancy state an entry of the input stream changes the stream's numbers, the entries held and what goes out to the triad (R288). -/
theorem Manager.putEntry_red (m : Manager) (e : StreamEntry) : ∃ next applied entries out, (m.putEntry e).red =
    { m.red with nextSeq := next, applied := applied, entries := entries, triadOut := out } := by
  unfold Manager.putEntry
  split
  · exact ⟨_, _, _, _, rfl⟩
  · unfold Manager.pushEntry
    extract_lets seq _ n1 n2
    have numbered : n2.red = n1.red := by
      unfold n2
      split
      · exact n1.setObj_red _ _
      · rfl
    split
    · rw [Manager.onDev_red, Manager.bump_red]
      exact ⟨_, _, _, _, numbered⟩
    · exact ⟨_, _, _, _, numbered⟩

/-- From one manager to another what the agents have told is as it was: the reports of their CLAIM_ACKs, the impression that each switch and
each node is known to hold, and the endpoint that each node forwards for. -/
structure Manager.KeepsTold (m n : Manager) : Prop where
  reports : n.red.reports = m.red.reports
  switches : ∀ k, (n.swInst k).committed = (m.swInst k).committed
  forwards : ∀ e, (n.node e).fwd = (m.node e).fwd
  nodes : ∀ e, (n.node e).committed = (m.node e).committed

namespace Manager.KeepsTold

theorem refl (m : Manager) : m.KeepsTold m := ⟨rfl, fun _ => rfl, fun _ => rfl, fun _ => rfl⟩

section
variable {m n : Manager} (h : m.KeepsTold n)
include h

theorem trans {k : Manager} (g : n.KeepsTold k) : m.KeepsTold k :=
  ⟨g.reports.trans h.reports, fun s => (g.switches s).trans (h.switches s), fun e => (g.forwards e).trans (h.forwards e),
    fun e => (g.nodes e).trans (h.nodes e)⟩

theorem switchOf (e : Nat) : n.switchOf e = m.switchOf e := by
  unfold Manager.switchOf
  rw [h.forwards]

/-- What else changes does not matter. -/
theorem of_eq {k : Manager} (red : k.red.reports = n.red.reports) (inst : k.inst.sw = n.inst.sw) (nodes : k.fab.nodes = n.fab.nodes) :
    m.KeepsTold k := by
  refine h.trans ⟨red, fun s => ?_, fun e => ?_, fun e => ?_⟩
  · unfold Manager.swInst
    rw [inst]
  · unfold Manager.node
    rw [nodes]
  · unfold Manager.node
    rw [nodes]

theorem hostOnly {k : Manager} (g : n.HostOnly k) : m.KeepsTold k := h.of_eq (by rw [g]) (by rw [g]) (by rw [g])

theorem engOnly {k : Manager} (g : n.EngOnly k) : m.KeepsTold k := h.of_eq (by rw [g]) (by rw [g]) (by rw [g])

theorem foldl {α : Type} (f : Manager → α → Manager) (step : ∀ (k : Manager) x, m.KeepsTold k → m.KeepsTold (f k x)) (l : List α) :
    m.KeepsTold (l.foldl f n) :=
  List.foldlRecOn (motive := fun k => m.KeepsTold k) l f h fun k e x _ => step k x e

theorem ite {k : Manager} {c : Prop} [Decidable c] (g : m.KeepsTold k) : m.KeepsTold (if c then n else k) := by
  split <;> assumption

theorem setObj (k v : Nat) : m.KeepsTold (n.setObj k v) := h.of_eq rfl rfl rfl

theorem bump (k : Nat) : m.KeepsTold (n.bump k) := h.of_eq rfl rfl rfl

theorem onDev (f : Dev → Dev) : m.KeepsTold (n.onDev f) := h.of_eq rfl rfl rfl

theorem setCtx (c : Nat) (x : Ctx) : m.KeepsTold (n.setCtx c x) := h.of_eq rfl rfl rfl

theorem setSwInst {s : Nat} {x : SwInst} (same : x.committed = (n.swInst s).committed) : m.KeepsTold (n.setSwInst s x) := by
  refine h.trans ⟨rfl, fun k => ?_, fun _ => rfl, fun _ => rfl⟩
  show (mapGetD (mapSet n.inst.sw s x) k {}).committed = _
  by_cases at_ : k = s
  · rw [at_, mapGetD_mapSet_self, same]
  · rw [mapGetD_mapSet_ne _ _ _ _ _ at_]
    rfl

theorem setNode {e : Nat} {x : NodeInfo} (fwd : x.fwd = (n.node e).fwd) (committed : x.committed = (n.node e).committed) :
    m.KeepsTold (n.setNode e x) := by
  have written (k : Nat) : (n.setNode e x).node k = if k = e then x else n.node k := by
    show mapGetD (mapSet n.fab.nodes e x) k {} = _
    split
    · next at_ => rw [at_, mapGetD_mapSet_self]
    · next other => rw [mapGetD_mapSet_ne _ _ _ _ _ other]; rfl
  refine h.trans ⟨rfl, fun _ => rfl, fun k => ?_, fun k => ?_⟩
  · rw [written]
    split
    · next at_ => rw [at_, fwd]
    · rfl
  · rw [written]
    split
    · next at_ => rw [at_, committed]
    · rfl

/-! Telling others -/

theorem putEntry (e : StreamEntry) : m.KeepsTold (n.putEntry e) := by
  obtain ⟨next, applied, entries, out, red⟩ := n.putEntry_red e
  exact h.of_eq (by rw [red]) (by rw [Manager.putEntry_inst]) (by rw [Manager.putEntry_fab])

theorem event (code c : Nat) : m.KeepsTold (n.event code c) := by
  obtain ⟨d, g, e, -⟩ := n.event_frame code c
  rw [e]
  exact h.of_eq rfl rfl rfl

theorem eventWith (code c : Nat) (payload : List Byte) : m.KeepsTold (n.eventWith code c payload) := by
  have recorded : m.KeepsTold { n with dev := n.dev.record (evSeverity code) code c payload } := h.of_eq rfl rfl rfl
  unfold Manager.eventWith Manager.afterRecord
  exact ite (recorded.hostOnly (Manager.raiseCtx_host _ c 4)) recorded

theorem carveDone (tag result c : Nat) : m.KeepsTold (n.carveDone tag result c) :=
  (h.eventWith _ _ _).hostOnly (Manager.raiseInt_host _ 0 1)

theorem answerProxy (r : Req) (result : Nat) (data : List Byte) : m.KeepsTold (n.answerProxy r result data) := by
  have counted := h.bump Obj.DX_PROXIED
  have answers {k : Manager} (g : m.KeepsTold k) : m.KeepsTold (k.answer r result data) := by
    unfold Manager.answer
    split
    · exact g.of_eq rfl rfl rfl
    · exact g.of_eq rfl rfl rfl
  unfold Manager.answerProxy
  exact answers (counted.ite (ite (counted.bump _) (counted.bump _)))

theorem emit (f : Sent) : m.KeepsTold (n.emit f) := by
  unfold Manager.emit
  exact ite (h.foldl _ (fun _ _ g => g.onDev _) _) (h.onDev _)

theorem putCmds (fs : List Sent) : m.KeepsTold (n.putCmds fs) := by
  unfold Manager.putCmds
  extract_lets q
  refine foldl ?_ _ (fun _ f g => g.emit f) _
  exact h.of_eq rfl rfl rfl

theorem sendCmd (dst assoc ctx gen : Nat) (x : Msg) : m.KeepsTold (n.sendCmd dst assoc ctx gen x) := by
  unfold Manager.sendCmd
  refine h.ite (ite ?_ (h.putCmds _))
  exact h.of_eq rfl rfl rfl

theorem sendReady (e : Nat) : m.KeepsTold (n.sendReady e) := h.foldl _ (fun _ _ g => g.sendCmd _ _ _ _ _) _

theorem announceReady (e : Nat) : m.KeepsTold (n.announceReady e) :=
  sendReady (n := n.setNode e { n.node e with gone := false }) (h.setNode rfl rfl) e

theorem drawSalt (who : Nat) : m.KeepsTold (n.drawSalt who).1 := h.of_eq rfl rfl rfl

theorem sendOffer (o : Offer) : m.KeepsTold (n.sendOffer o) := by
  unfold Manager.sendOffer
  extract_lets _ o n1
  have sent : m.KeepsTold n1 := h.ite ((h.onDev _).ite (h.onDev _))
  exact sent.of_eq rfl rfl rfl

/-! Carves granted and the window -/

theorem offerGroup (c : Nat) (nids : List Nat) : m.KeepsTold (n.offerGroup c nids) := by
  have drawn : m.KeepsTold (n.drawGroupKey (0xF000 + c) true).1 := h.of_eq rfl rfl rfl
  exact drawn.foldl _ (fun _ _ g => (g.drawSalt _).sendOffer _) _

theorem sendKeys (c gen : Nat) (eps : List Nat) : m.KeepsTold (n.sendKeys c gen eps) :=
  (h.offerGroup c eps).foldl _ (fun _ _ g => g.sendCmd _ _ _ _ _) _

theorem wakeEngine : m.KeepsTold n.wakeEngine := h.onDev _

theorem snapshotNow : m.KeepsTold n.snapshotNow := of_eq h.wakeEngine rfl rfl rfl

theorem grantCarve (q : CarveReq) (c : Nat) (eps : List Nat) (result : Nat) (quota : Quota) (sealIdx : List Nat) :
    m.KeepsTold (n.grantCarve q c eps result quota sealIdx) := by
  unfold Manager.grantCarve
  extract_lets x ls leaves diam n1 _ n2 n3 n4
  have granted : m.KeepsTold n3 := h.of_eq rfl rfl rfl
  have told : m.KeepsTold n4 := granted.sendKeys _ _ _
  exact told.snapshotNow.ite told

theorem grantQueued (q : QueuedCarve) (centre : Option Nat) : m.KeepsTold (n.grantQueued q centre) := by
  unfold Manager.grantQueued
  split
  · refine grantCarve (ite ?_ ?_) _ _ _ _ _ _
    · exact h.of_eq rfl rfl rfl
    · exact h.of_eq rfl rfl rfl
  · exact h

theorem retryCarve (q : QueuedCarve) : m.KeepsTold (n.retryCarve q) := by
  unfold Manager.retryCarve
  dsimp only
  split
  · exact (h.putEntry _).grantQueued _ _
  · exact h

theorem retryQueue : m.KeepsTold n.retryQueue :=
  h.ite (h.foldl _ (fun _ _ g => g.foldl _ (fun _ _ g => g.retryCarve _) _) _)

theorem openWindow : m.KeepsTold n.openWindow := by
  have opened : m.KeepsTold n.windowOpens := by
    unfold Manager.windowOpens
    refine h.ite (ite ?_ ?_)
    · exact h.of_eq rfl rfl rfl
    · exact h.of_eq rfl rfl rfl
  exact ite opened.retryQueue opened

/-! Runs, purges and losses -/

theorem endRun (c status : Nat) : m.KeepsTold (n.endRun c status) := by
  have noted : m.KeepsTold (n.hookEnded status) := h.of_eq rfl rfl rfl
  have ended : m.KeepsTold (if (mapGet n.eng.runs c).any (fun r => r.hook) then n.hookEnded status else n) := noted.ite h
  exact ((((ended.engOnly (Manager.onEng_engOnly _ _)).putEntry _).setObj _ _).setObj _ _).hostOnly (Manager.raiseCtx_host _ c 0)

theorem endAllLines (c status : Nat) : m.KeepsTold (n.endAllLines c status) := by
  have checked {k : Manager} (g : m.KeepsTold k) : m.KeepsTold (k.checkRun c) := by
    unfold Manager.checkRun
    split
    · exact (g.endRun c _).ite g
    · exact g
  unfold Manager.endAllLines
  split
  · exact h
  · exact (checked (h.engOnly (n.onEng_engOnly _))).engOnly (Manager.foldl_engOnly _ Manager.resume_engOnly _ _)

theorem purgeStart (c : Nat) : m.KeepsTold (n.purgeStart c) := by
  unfold Manager.purgeStart
  extract_lets x queued _ n1 n2 gen old purge n3 n4 ready n5 _ n6 n7 n8 n9 gone _ n10 n11 n12 _ n13
  have unqueued : m.KeepsTold n1 := h.of_eq rfl rfl rfl
  have dropped : m.KeepsTold n2 := unqueued.ite ((unqueued.setObj _ _).carveDone _ _ _)
  have entered : m.KeepsTold n3 := (dropped.setCtx _ _).setCtx _ _
  have counted : m.KeepsTold n4 := ite ((entered.bump _).hostOnly (Manager.raiseCtx_host _ c 1)) (entered.bump _)
  have told : m.KeepsTold n5 := counted.foldl _ (fun _ e g => g.announceReady e) _
  have untreed : m.KeepsTold n6 := told.of_eq rfl rfl rfl
  have stopped : m.KeepsTold n7 := untreed.endAllLines c 1
  have unloaded : m.KeepsTold n10 := stopped.of_eq rfl rfl rfl
  have answered : m.KeepsTold n11 := unloaded.foldl _ (fun _ _ g => g.answerProxy _ _ _) _
  have revoked : m.KeepsTold n12 := answered.foldl _ (fun _ _ g => g.sendCmd _ _ _ _ _) _
  exact h.ite (revoked.of_eq rfl rfl rfl)

theorem memberLoss (e cause resets time : Nat) (raised : Bool) : m.KeepsTold (n.memberLoss e cause resets time raised) := by
  unfold Manager.memberLoss
  extract_lets _ n1 c x first n2 n3 _ n4 n5 n6
  have noted : m.KeepsTold n1 := h.setNode rfl rfl
  have recorded : m.KeepsTold n2 := noted.event _ _
  have multicast : m.KeepsTold n3 := ite (recorded.emit _) recorded
  have awaited : m.KeepsTold n4 := multicast.of_eq rfl rfl rfl
  have marked : m.KeepsTold n5 := awaited.setCtx c _
  have counted : m.KeepsTold n6 := ite (marked.bump _) marked
  exact noted.ite (awaited.ite (ite (ite (counted.setCtx c _) (counted.purgeStart c)) (counted.setCtx c _)))

/-! Isolations and readmissions -/

theorem putState (i : Nat) (st : LinkSt) : m.KeepsTold (n.putState i st) := h.ite (h.of_eq rfl rfl rfl)

theorem isolate (s : Nat) (st : IsSt) : m.KeepsTold (n.isolate s st) := by
  unfold Manager.isolate
  extract_lets ls before had stale n1 mine peers n2 _ n3 _ _ n4 n5
  have dropped : m.KeepsTold n.abandon := h.of_eq rfl rfl rfl
  have abandoned : m.KeepsTold n1 := dropped.ite h
  have shut : m.KeepsTold n2 := abandoned.foldl _ (fun _ i g => g.putState i _) _
  have marked : m.KeepsTold n3 := shut.setSwInst rfl
  have cut : m.KeepsTold n4 := marked.of_eq rfl rfl rfl
  have told : m.KeepsTold n5 := cut.foldl _ (fun _ _ g => g.sendCmd _ _ _ _ _) _
  exact h.ite (foldl (told.eventWith _ _ _) _ (fun _ _ g => g.memberLoss _ _ _ _ _) _).openWindow

theorem offerPair (a b : Nat) (renew : Bool) : m.KeepsTold (n.offerPair a b renew) := by
  unfold Manager.offerPair
  extract_lets lo hi num had new draw k n1 p
  have drawn : m.KeepsTold n1 := by
    unfold n1
    split
    · exact h.of_eq rfl rfl rfl
    · exact h
  exact h.ite (drawn.foldl _ (fun _ _ g => (g.drawSalt _).sendOffer _) _)

theorem bringUp (i : Nat) : m.KeepsTold (n.bringUp i) := by
  have up : m.KeepsTold (n.putBoth i .up) := h.foldl _ (fun _ j g => g.putState j _) _
  exact h.ite ((up.event _ _).openWindow.offerPair _ _ _)

theorem handOver (s : Nat) (l : List Nat) : m.KeepsTold (n.handOver s l) := by
  refine h.foldl _ (fun k i g => ?_) l
  exact g.setSwInst rfl

theorem readmitSwitch (s : Nat) : m.KeepsTold (n.readmitSwitch s) := by
  unfold Manager.readmitSwitch
  extract_lets x shut back n1 n2 n3 n4
  have handed : n.KeepsTold n1 := (refl n).handOver _ _
  have probing : n.KeepsTold n2 := handed.foldl _ (fun _ i g => g.putState i _) _
  have readmitted := (h.trans probing).setSwInst (s := s) (x := { x with st := .absent, isoLinks := [], readmit := true })
    (probing.switches s).symm
  have opened : m.KeepsTold n3 := readmitted.openWindow
  have settles : m.KeepsTold n4 := by
    unfold n4
    split
    · exact opened
    · exact opened.of_eq rfl rfl rfl
  exact (settles.foldl _ (fun _ i g => g.bringUp i) _).retryQueue

theorem joinLater : m.KeepsTold n.joinLater := of_eq (h.foldl _ (fun _ s g => g.readmitSwitch s) _) rfl rfl rfl

theorem rejoins (sw committed : Nat) : m.KeepsTold (n.rejoins sw committed) := by
  unfold Manager.rejoins
  refine ite (joinLater ?_) h
  exact of_eq (h.isolate sw .excluded) rfl rfl rfl

end

end Manager.KeepsTold

end Sys2Proof.Machine
end

section
/-! PROOF. The obligation of redundancy on claims and handovers. -/

namespace Sys2Proof.Machine

/-! ### Objects while a frame is taken -/

theorem Dev.obj_learnMac (d : Dev) (h : Hdr) (j : Nat) : (d.learnMac h).obj j = d.obj j := by
  unfold Dev.learnMac
  split <;> rfl

/-- A frame that is taken changes no object but FC_RX (R420). -/
theorem Dev.obj_ingress_of_ok {d : Dev} {k : FrameKind} {h : Hdr} {gen : Nat → Option Nat} {off : Option Nat}
    (ok : (d.ingress k h gen off).ok = true) {j : Nat} (other : j ≠ Obj.FC_RX) : (d.ingress k h gen off).dev.obj j = d.obj j := by
  revert ok
  unfold Dev.ingress
  split
  · exact fun _ => rfl
  · split
    · exact fun _ => rfl
    · extract_lets e
      rw [← d.obj_bump_ne Obj.FC_RX j other]
      show _ → _ = e.obj j
      split
      · simp
      · split
        · unfold Dev.ingressPlain
          repeat' split
          · simp
          · simp
          · simp
          · exact fun _ => e.obj_learnMac h j
        · intro ok
          obtain ⟨-, -, w, -, verified⟩ := e.ingressKeyed_ok k h gen off ok
          rw [verified]
          exact Dev.obj_learnMac _ h j

theorem Manager.obj_after {m : Manager} {k : FrameKind} {h : Hdr} (taken : m.takes k h) {j : Nat} (other : j ≠ Obj.FC_RX) :
    (m.after k h).obj j = m.obj j := Dev.obj_ingress_of_ok taken other

/-! ### The reports of the agents -/

/-- What the module keeps of a CLAIM_ACK: the agent's report, and what its switch and its node hold (R286). -/
def Manager.keepReport (m : Manager) (src : Nat) (n : NodeInfo) (r : ClaimReport) : Manager :=
  ((m.onRed (fun x => { x with
    reports := mapSet x.reports (m.switchOf src) r, claimTry := mapDel x.claimTry (m.switchOf src) })).swReports
      (m.switchOf src) r.committed).setNode src { n with committed := r.committed }

theorem Manager.swReports_red (m : Manager) (s n : Nat) : (m.swReports s n).red = m.red := by
  unfold Manager.swReports
  dsimp only
  split <;> rfl

theorem Manager.swReports_committed (m : Manager) (s n : Nat) : ((m.swReports s n).swInst s).committed = n := by
  unfold Manager.swReports
  dsimp only
  split
  · assumption
  · exact congrArg SwInst.committed (m.swInst_setSwInst_self s _)

section
variable (m : Manager) (src : Nat) (n : NodeInfo) (r : ClaimReport)

theorem Manager.keepReport_red : (m.keepReport src n r).red = { m.red with
    reports := mapSet m.red.reports (m.switchOf src) r, claimTry := mapDel m.red.claimTry (m.switchOf src) } := by
  rw [Manager.keepReport, Manager.setNode_red, Manager.swReports_red, Manager.onRed_red]

theorem Manager.keepReport_committed : ((m.keepReport src n r).swInst (m.switchOf src)).committed = r.committed :=
  Manager.swReports_committed _ _ _

theorem Manager.keepReport_node : (m.keepReport src n r).node src = { n with committed := r.committed } :=
  Manager.node_setNode_self _ _ _

theorem Manager.keepReport_obj (j : Nat) : (m.keepReport src n r).obj j = m.obj j := by
  show (m.keepReport src n r).dev.obj j = m.dev.obj j
  simp [Manager.keepReport]

theorem Manager.keepReport_disc : (m.keepReport src n r).disc = m.disc := by
  unfold Manager.keepReport Manager.swReports
  dsimp only
  split <;> rfl

theorem Manager.keepReport_switchOf (known : m.node src = n) : (m.keepReport src n r).switchOf src = m.switchOf src := by
  unfold Manager.switchOf
  rw [Manager.keepReport_node, known]

end

/-- A switch that holds the committed impression, or a unit that has none, isolates nothing (R298). -/
theorem Manager.rejoins_of_current {m : Manager} {sw committed : Nat}
    (current : m.obj Obj.IMP_COMMITTED = 0 ∨ committed = m.obj Obj.IMP_COMMITTED) : m.rejoins sw committed = m :=
  if_neg fun ⟨some_, other, _⟩ => current.elim some_ other

/-- CLAIM_ACK that is not awaited, of an agent that is attested: the report is kept, and the switch rejoins where it must (R286, R298). -/
theorem exec_claimAck_unawaited {s : State} {hdr : Hdr} {committed staged : Nat} {ok : Bool} {n : NodeInfo} {e : Manager}
    (he : e = (s.mgr.after commitFrame hdr).entry (.claimAck hdr committed staged ok)) (taken : s.mgr.takes commitFrame hdr)
    (known : mapGet s.mgr.fab.nodes hdr.src = some n) (settled : e.red.gain = .none) (noAtts : e.disc.atts = [])
    (unawaited : mapGet e.red.claimTry (e.switchOf hdr.src) = none) :
    exec (.claimAck hdr committed staged ok) s = s.withMgr
      ((e.keepReport hdr.src n { committed := committed, staged := staged, stagedOk := ok }).rejoins (e.switchOf hdr.src) committed) := by
  show execClaimAck hdr committed staged ok s = _
  unfold execClaimAck
  extract_lets t _ m0 m1 sw awaited m2
  rw [show t.ok = true from taken, show mapGet m0.fab.nodes hdr.src = some n from known]
  dsimp -zeta only
  have entered : m1 = e := he.symm
  clear_value m1
  subst entered
  extract_lets m3 m4
  have kept : m3 = m1.keepReport hdr.src n { committed := committed, staged := staged, stagedOk := ok } := rfl
  have noAtt : m4 = m3 := by
    unfold m4
    rw [kept, Manager.keepReport_disc, noAtts]
    rfl
  have gain : m3.red.gain = .none := by rw [kept, Manager.keepReport_red, settled]
  have notAwaited : awaited = false := congrArg Option.isSome unawaited
  rw [noAtt, gain]
  dsimp only
  rw [notAwaited, kept]
  rfl

/-- An entry of the input stream leaves what is awaited after a claim as it was. -/
theorem Manager.entry_claims (m : Manager) (i : Instr) :
    (m.entry i).red.gain = m.red.gain ∧ (m.entry i).red.claimTry = m.red.claimTry := by
  obtain ⟨next, applied, entries, out, red⟩ := m.putEntry_red { kind := .input m.dev.key m.dev.free, input := some i }
  rw [Manager.entry, red]
  exact ⟨rfl, rfl⟩

theorem Manager.switchOf_entry (m : Manager) (i : Instr) (e : Nat) : (m.entry i).switchOf e = m.switchOf e := by
  unfold Manager.switchOf Manager.node
  rw [Manager.entry_fab]

/-- Whether or not the switch rejoins, what was kept of a CLAIM_ACK stands; where it does not, the node is told of as it was but for the
impression that it holds. -/
theorem Manager.keepReport_rejoins {e : Manager} {src : Nat} {n : NodeInfo} (known : e.node src = n) (r : ClaimReport) {m : Manager}
    (hm : m = (e.keepReport src n r).rejoins (e.switchOf src) r.committed) :
    mapGet m.red.reports (m.switchOf src) = some r ∧ (m.swInst (m.switchOf src)).committed = r.committed ∧
      (m.node src).committed = r.committed ∧
      (e.obj Obj.IMP_COMMITTED = 0 ∨ r.committed = e.obj Obj.IMP_COMMITTED →
        mapGet m.fab.nodes src = some { n with committed := r.committed }) := by
  have told : (e.keepReport src n r).KeepsTold m := hm ▸ (Manager.KeepsTold.refl _).rejoins _ _
  have sw : m.switchOf src = e.switchOf src := (told.switchOf src).trans (Manager.keepReport_switchOf _ _ _ _ known)
  refine ⟨?_, ?_, ?_, fun current => ?_⟩
  · rw [sw, told.reports, Manager.keepReport_red]
    exact mapGet_mapSet_self _ _ _
  · rw [sw, told.switches, Manager.keepReport_committed]
  · rw [told.nodes, Manager.keepReport_node]
  · rw [hm, Manager.rejoins_of_current (by rwa [Manager.keepReport_obj])]
    exact mapGet_mapSet_self _ _ _

/-- CLAIM_ACK that is not awaited: the report is kept, and with it the impression that switch and node hold (R286). -/
theorem exec_claimAck {s : State} {hdr : Hdr} {committed staged : Nat} {ok : Bool} {n : NodeInfo} (taken : s.mgr.takes commitFrame hdr)
    (known : mapGet s.mgr.fab.nodes hdr.src = some n) (settled : s.mgr.red.gain = .none) (noAtts : s.mgr.disc.atts = [])
    (unawaited : mapGet s.mgr.red.claimTry ((s.mgr.after commitFrame hdr).switchOf hdr.src) = none) :
    ∃ m, exec (.claimAck hdr committed staged ok) s = s.withMgr m ∧
      mapGet m.red.reports (m.switchOf hdr.src) = some { committed := committed, staged := staged, stagedOk := ok } ∧
      (m.swInst (m.switchOf hdr.src)).committed = committed ∧ (m.node hdr.src).committed = committed ∧
      (s.mgr.obj Obj.IMP_COMMITTED = 0 ∨ committed = s.mgr.obj Obj.IMP_COMMITTED →
        mapGet m.fab.nodes hdr.src = some { n with committed := committed }) := by
  let a := s.mgr.after commitFrame hdr
  let i := Instr.claimAck hdr committed staged ok
  obtain ⟨gain, tries⟩ := a.entry_claims i
  have node : (a.entry i).node hdr.src = n := Manager.node_entry_of_known (m := a) known i
  have sw : (a.entry i).switchOf hdr.src = a.switchOf hdr.src := a.switchOf_entry i _
  have imp : (a.entry i).obj Obj.IMP_COMMITTED = s.mgr.obj Obj.IMP_COMMITTED :=
    (a.obj_entry_ne i _ (by decide) (by decide) (by decide)).trans (Manager.obj_after taken (by decide))
  obtain ⟨reports, switch, holds, same⟩ := Manager.keepReport_rejoins node { committed := committed, staged := staged, stagedOk := ok } rfl
  refine ⟨_, exec_claimAck_unawaited rfl taken known (gain.trans settled) ?_ ?_, reports, switch, holds, ?_⟩
  · rw [a.entry_disc i]
    exact noAtts
  · rw [tries, sw]
    exact unawaited
  · rwa [imp] at same

/-! ### A unit that has listened, and one that is yielded to -/

theorem Manager.leads_setObj_ne (m : Manager) {k : Nat} (other : Obj.TR_LEADER ≠ k) (v : Nat) : (m.setObj k v).leads = m.leads := by
  unfold Manager.leads
  rw [m.obj_setObj_ne k Obj.TR_LEADER v other]
  rfl

/-- BOOT_LISTEN_EXPIRE in LISTENING, by whether an active unit was heard (R281, R298). -/
theorem exec_bootListenExpire {s : State} {m : Manager} (listening : s.mgr.obj Obj.RD_STATE = 1)
    (hm : m = s.mgr.setObj Obj.BT_BOOT_MS ((s.mgr.dev.time - s.mgr.dev.since) / 1000000)) :
    exec .bootListenExpire s = s.withMgr
      (if s.mgr.red.heard then
        if s.mgr.obj Obj.RD_PEER = 0 then m.setObj Obj.RD_STATE 4 else m.startResync (s.mgr.obj Obj.RD_HIGHEST_NID) 6
      else if s.mgr.red.slot.isSome ∧ !s.mgr.leads then m
      else if s.mgr.obj Obj.RD_ROLE = 0 then m.claimBoot else m.setObj Obj.RD_STATE 4) := by
  have others {k : Nat} (other : k ≠ Obj.BT_BOOT_MS) : m.obj k = s.mgr.obj k := by rw [hm, s.mgr.obj_setObj_ne _ _ _ other]
  have red : m.red = s.mgr.red := by rw [hm, Manager.setObj_red]
  have leads : m.leads = s.mgr.leads := by rw [hm, Manager.leads_setObj_ne _ (by decide)]
  show execBootListenExpire s = _
  unfold execBootListenExpire
  dsimp only
  rw [if_neg (not_not_intro listening), ← hm, red, leads, others (by decide), others (by decide), others (by decide)]
  simp only [apply_ite s.withMgr]

theorem Manager.seeClaim_red (m : Manager) (c n : Nat) : (m.seeClaim c n).red = m.red := by
  unfold Manager.seeClaim
  split
  · rw [Manager.setObj_red, Manager.setObj_red, Manager.setObj_red]
  · rfl

/-- A unit yielded to takes over at once where it has the last entry, and else once it has it (R301). -/
theorem Manager.yielded_of_yieldAfter {m : Manager} {seq cause : Nat} (asked : m.red.yieldAfter = some (seq, cause)) :
    m.yielded = if m.red.applied < seq then m
      else (m.onRed (fun r => { r with yieldAfter := none })).takeOver (if cause = 4 then 4 else 3) := by
  unfold Manager.yielded
  rw [asked]

/-- YIELD at a leading standby. -/
theorem exec_yield {s : State} {hdr : Hdr} {m : Manager} (taken : s.mgr.takes commitCmd hdr) (hm : m = s.mgr.after commitCmd hdr)
    (standby : m.obj Obj.RD_STATE = 3) (leads : m.leads = true) (seq cause : Nat) :
    exec (.yield_ hdr seq cause) s = s.withMgr (if m.red.applied < seq then
        (m.seeClaim (hdr.claim.getD 0) hdr.src).onRed (fun r => { r with yieldAfter := some (seq, cause) })
      else ((m.seeClaim (hdr.claim.getD 0) hdr.src).onRed (fun r => { r with yieldAfter := none })).takeOver
        (if cause = 4 then 4 else 3)) := by
  show execYield_ hdr seq cause s = _
  unfold execYield_
  extract_lets t _ m0 m1
  have arrived : m0 = m := hm.symm
  clear_value m0
  subst arrived
  rw [if_neg (by simp [show t.ok = true from taken, standby, leads]), Manager.yielded_of_yieldAfter rfl, Manager.onRed_red,
    show m1.red = m0.red from m0.seeClaim_red _ _]
  rfl

/-! ### The obligation -/

/-- Settles O21, command by command: CLAIM_ACK is `exec_claimAck`, the commands granted are `Manager.cmd_granted`, and each other one is the
branch that the unit's state chooses. -/
theorem unitsClaimAndHandOver : Obligations.UnitsClaimAndHandOver := by
  unfold Obligations.UnitsClaimAndHandOver
  refine ⟨?_, ?_, ?_, ?_, ?_, ?_, ?_, ?_⟩
  · rintro s hdr p q cause i k c nid m taken claim mate rfl
    show execClaimManager hdr p q cause i s = _
    unfold execClaimManager
    extract_lets t _ m0 c'
    have named : c' = c := by
      unfold c'
      rw [claim]
      rfl
    rw [if_neg (by simp [show t.ok = true from taken]), show m0.red.trio.find? (fun x => x.2 == hdr.src) = some (k, nid) from mate, named]
    rfl
  · exact fun s hdr committed staged ok n => exec_claimAck
  · refine fun s awaiting leads => ⟨?_, ?_⟩
    · exact if_neg (by simp [awaiting, leads])
    · exact if_neg (by simp [awaiting, leads])
  · rintro s _ listening rfl
    rw [exec_bootListenExpire listening rfl]
    refine ⟨fun heard noPeer => ?_, fun heard peer => ?_, fun silent leads first => ?_, fun silent leads second => ?_⟩
    · rw [heard, if_pos rfl, if_pos noPeer]
    · rw [heard, if_pos rfl, if_neg peer]
    · rw [silent, if_neg Bool.false_ne_true, if_neg (by simp [leads]), if_pos first]
    · rw [silent, if_neg Bool.false_ne_true, if_neg (by simp [leads]), if_neg second]
  · exact fun s standby leads => if_neg (by simp [standby, leads])
  · intro s hdr seq cause m taken hm standby leads
    rw [exec_yield taken hm standby leads]
    exact ⟨fun has => by rw [if_neg (Nat.not_lt.mpr has)], fun lacks => by rw [if_pos lacks]⟩
  · intro s req granted idle
    exact congrArg s.withMgr (s.mgr.cmd_granted _ req Obj.RD_HANDOVER 1 [1] _ _ granted rfl (by simpa using idle))
  · intro s req granted idle
    obtain ⟨-, active, -⟩ := id granted
    refine (if_neg fun h => h.2.1 active).trans ?_
    exact congrArg s.withMgr (s.mgr.cmd_granted _ req Obj.P_HA_SWITCHOVER 1 [1] _ _ granted rfl (by simpa using idle))

end Sys2Proof.Machine
end

section
/-! PROOF. The obligation of redundancy on triads and replicas. -/

namespace Sys2Proof.Machine

/-! ### The heartbeats of a triad -/

/-- The slots whose heartbeats say that their sender is resynchronising. -/
def awaySlots (heard : List (Nat × Bool)) : List Nat := (heard.filter (fun k => k.2)).map (fun k => k.1)

theorem contains_awaySlots (heard : List (Nat × Bool)) (k : Nat) : (awaySlots heard).contains k = heard.contains (k, true) := by
  rw [Bool.eq_iff_iff]
  simp [awaySlots]

/-- Peers that are all heard and that have missed nothing go on so. -/
theorem misses_of_heard {peers slots : List Nat} (h : ∀ k, k ∈ peers → slots.contains k = true) :
    peers.foldl (fun (t : SMap Nat) k => if slots.contains k then mapDel t k else mapUpd t k 0 (fun n => n + 1)) [] = [] :=
  List.foldlRecOn (motive := fun t : SMap Nat => t = []) peers _ rfl fun t none k mem => by
    rw [none, if_pos (h k mem)]
    rfl

/-- No slot returns to service when each one heard is this module's, resynchronises, or is in service. -/
theorem returned_eq_nil {heard : List (Nat × Bool)} {peers : List Nat} {me : Nat}
    (h : ∀ k, k ∈ heard → k.1 ≠ me → k.2 = true ∨ peers.contains k.1 = true) :
    (heard.map (fun k => k.1)).filter
      (fun k => decide (k < 3) && k != me && !(awaySlots heard).contains k && !peers.contains k) = [] := by
  refine List.filter_eq_nil_iff.mpr fun k mem => ?_
  obtain ⟨e, he, rfl⟩ := List.mem_map.mp mem
  rw [contains_awaySlots]
  by_cases own : e.1 = me
  · simp [own]
  · rcases h e he own with away | serves
    · simp [show (e.1, true) ∈ heard from away ▸ he]
    · simp [List.contains_iff_mem.mp serves]

theorem Manager.beat_keeps (m : Manager) (me : Nat) :
    m.beat me = { m with red := { m.red with triadOut := (m.beat me).red.triadOut } } :=
  List.foldlRecOn (motive := fun n : Manager => n = { m with red := { m.red with triadOut := n.red.triadOut } }) _ _ rfl
    fun n same _ _ => by
      rw [same]
      rfl

theorem Manager.beat_red (m : Manager) (me : Nat) : (m.beat me).red = { m.red with triadOut := (m.beat me).red.triadOut } := by
  rw [m.beat_keeps me]

theorem Manager.beat_leads (m : Manager) (me : Nat) : (m.beat me).leads = m.leads := by
  rw [m.beat_keeps me]
  rfl

/-- TRIAD_HEARTBEAT with every peer heard and none of them away: the module's own heartbeats go out, and nothing else comes of it
(R292). -/
theorem exec_triadHeartbeat_heard {s : State} {me : Nat} {heard : List (Nat × Bool)} (slot : s.mgr.red.slot = some me)
    (serves : s.mgr.red.outOfService = false) (noMiss : s.mgr.red.misses = [])
    (peers : ∀ k, k ∈ s.mgr.red.peersIn → (heard.map (fun x => x.1)).contains k = true ∧ heard.contains (k, true) = false)
    (others : s.mgr.leads = true ∨ ∀ k, k ∈ heard → k.1 ≠ me → k.2 = true ∨ s.mgr.red.peersIn.contains k.1 = true) :
    exec (.triadHeartbeat heard) s = s.withMgr (s.mgr.beat me) := by
  show execTriadHeartbeat heard s = _
  unfold execTriadHeartbeat
  extract_lets away slots m1
  rw [slot]
  dsimp -zeta only
  rw [if_neg (by simp [serves])]
  extract_lets m2 back m3 lost own m4
  have same : m1 = s.mgr := by
    have stay := misses_of_heard fun k mem => (peers k mem).1
    rw [← noMiss] at stay
    exact congrArg (fun t => s.mgr.onRed (fun r => { r with misses := t })) stay
  have beats : m2 = s.mgr.beat me := congrArg (fun m => Manager.beat m me) same
  have noneBack : back = [] := by
    unfold back
    rw [beats, Manager.beat_leads, Manager.beat_red]
    split
    · rfl
    · next follows =>
      exact returned_eq_nil (others.resolve_left fun leads => follows (by rw [leads]; rfl))
  have m3_eq : m3 = s.mgr.beat me := by
    unfold m3
    rw [noneBack, beats]
    rfl
  have noneLost : lost = [] := by
    unfold lost
    rw [m3_eq, Manager.beat_red, noMiss]
    exact List.filter_eq_nil_iff.mpr fun k _ => by simp [mapGetD, mapGet]
  have same4 : m4 = s.mgr.beat me := by
    have notAll : own = false := by
      unfold own
      rw [noneLost]
      cases m3.red.peersIn <;> simp
    unfold m4
    rw [notAll, m3_eq]
    rfl
  have noneAway : m4.red.peersIn.filter (fun k => slots.contains k && away.contains k) = [] := by
    rw [same4, Manager.beat_red]
    exact List.filter_eq_nil_iff.mpr fun k mem => by
      show ¬ (slots.contains k && (awaySlots heard).contains k) = true
      rw [contains_awaySlots, (peers k mem).2, Bool.and_false]
      exact Bool.false_ne_true
  rw [noneLost, noneAway, same4]
  rfl

/-! ### Entries acknowledged -/

/-- An acknowledgement of a follower in service raises the last entry that it holds, and what waited for it is released (R288). -/
theorem Manager.entryHeld_serving {m : Manager} {k : Nat} (serves : m.red.peersIn.contains k = true) (seq : Nat) :
    m.entryHeld k seq = (m.onRed (fun r => { r with acked := mapSet r.acked k (max seq (mapGetD r.acked k 0)) })).release := by
  unfold Manager.entryHeld
  extract_lets n back
  have still : back = false := by
    have serving : n.red.peersIn.contains k = true := serves
    simp only [back, serving, Bool.not_true, Bool.false_and]
  rw [still]
  rfl

/-! ### A copy of the active unit's state -/

/-- The module that has taken a copy, complete up to an entry, with none of its own held beyond it (R292). -/
def Manager.copied (m : Manager) (seq : Nat) (copy : Copy) : Manager :=
  (((m.adoptCopy copy).onRed (fun r => { r with
    resync := none, applied := seq, nextSeq := seq + 1, entries := mapFilter r.entries (fun n _ => decide (seq < n)) })).setObj
      Obj.TR_RESYNC 0).setObj Obj.TR_RESYNC_PCT 0

/-- Of a copy the module keeps its own redundancy state but for the runs, and moves the copy's instants to its own time (R9, R292). -/
theorem Manager.adoptCopy_takes (m : Manager) (copy : Copy) :
    (m.adoptCopy copy).red = { m.red with runs := copy.runs } ∧ (m.adoptCopy copy).sl = (copy.retimed m.dev.time).sl ∧
    (m.adoptCopy copy).inst = (copy.retimed m.dev.time).inst ∧
    (m.adoptCopy copy).rt = { (copy.retimed m.dev.time).rt with comp := none } ∧
    (m.adoptCopy copy).fab.links = (copy.retimed m.dev.time).links ∧
    (m.adoptCopy copy).fab.nodes.map (fun n => n.1) = (copy.retimed m.dev.time).nodes.map (fun n => n.1) := by
  unfold Manager.adoptCopy
  extract_lets c merge _ _ _ _ _ n
  have stored := Manager.foldl_engOnly (fun (k : Manager) a => k.storePlates a.imp.number a.imp.plates)
    (fun k a => k.storePlates_engOnly _ _) (n.inst.archive.drop (n.inst.archive.length - 2)) n
  rw [stored]
  refine ⟨rfl, rfl, rfl, rfl, rfl, ?_⟩
  show (List.map _ c.nodes).map _ = _
  rw [List.map_map]
  rfl

theorem Manager.copied_red (m : Manager) (seq : Nat) (copy : Copy) : (m.copied seq copy).red =
    { m.red with runs := copy.runs, resync := none, applied := seq, nextSeq := seq + 1
                 entries := mapFilter m.red.entries (fun n _ => decide (seq < n)) } := by
  obtain ⟨red, -⟩ := m.adoptCopy_takes copy
  rw [Manager.copied, Manager.setObj_red, Manager.setObj_red, Manager.onRed_red, red]

/-- With no entry held, a single-module unit that has its copy stands by and acknowledges, once it has caught up (R295). -/
theorem exec_resyncComplete_single {s : State} {src : Nat} (resync : s.mgr.red.resync = some src) (single : s.mgr.red.slot = none)
    (held : s.mgr.red.entries = []) (seq : Nat) (copy : Copy) :
    exec (.resyncComplete seq copy) s =
      s.withMgr (((s.mgr.copied seq copy).caughtUp.toPeer src (.replAck seq)).yielded) := by
  have red := s.mgr.copied_red seq copy
  rw [held] at red
  have unchanged : applyHeld ((s.mgr.copied seq copy).red.entries.length + 1) { s with mgr := s.mgr.copied seq copy } =
      { s with mgr := s.mgr.copied seq copy } := by
    rw [red]
    unfold applyHeld
    dsimp only
    rw [red]
    rfl
  show execResyncComplete seq copy s = _
  unfold execResyncComplete
  rw [resync]
  dsimp only
  rw [← Manager.copied, unchanged]
  dsimp only
  have alone : (s.mgr.copied seq copy).red.slot = none := (congrArg Redundancy.slot red).trans single
  have entries : (s.mgr.copied seq copy).red.entries = [] := congrArg Redundancy.entries red
  have applied : (s.mgr.copied seq copy).red.applied = seq := congrArg Redundancy.applied red
  rw [alone]
  dsimp only
  rw [Manager.rejoinUnit, entries, applied, List.any_nil, if_neg Bool.false_ne_true]

/-! ### The obligation -/

/-- Settles O22, command by command: entries and acknowledgements past the checks of their receiver, heartbeats of a triad by what is heard of
its peers, and a copy by what the module takes of it. -/
theorem triadsAndReplicas : Obligations.TriadsAndReplicas := by
  unfold Obligations.TriadsAndReplicas
  refine ⟨?_, ?_, ?_, ?_, ?_, ?_, ?_, ?_, ?_, ?_, ?_, ?_, ?_⟩
  · intro s seq kind input triad follows
    exact if_neg (by simp [Option.isSome_iff_ne_none.mp triad, follows])
  · rintro s u hdr seq kind input m taken standby leads hu hm copied
    show execRepl hdr seq kind input s = _
    unfold execRepl
    extract_lets t _ m0 st m1 v m2
    have arrived : t.ok = true := taken
    have isStandby : st = 3 := standby
    have leader : m0.leads = true := leads
    have entered : v = u := by
      rw [hu]
      unfold v m1
      rw [isStandby, if_neg (by decide)]
      rfl
    clear_value v
    subst entered
    have passed : m2 = m := hm.symm
    rw [if_neg (by simp [arrived, leader, isStandby]), passed, if_neg (by simp [copied])]
    split <;> rfl
  · intro s k seq triad settled leads serves
    obtain ⟨me, slot⟩ := Option.isSome_iff_exists.mp triad
    show execInputStreamAck k seq s = _
    unfold execInputStreamAck
    dsimp only
    rw [slot, settled]
    dsimp only
    rw [if_pos leads, Manager.entryHeld_serving serves]
  · intro s hdr seq taken standby
    exact if_neg (by rw [Manager.takes] at taken; simp [taken, standby])
  · intro s nid seq standby sync due sent
    show execReplTimeout seq s = _
    unfold execReplTimeout
    dsimp only
    rw [standby]
    exact if_neg (by simp [sync, due, sent])
  · rintro s to_ m n active leads hto named hm hn
    subst hm hn hto
    exact if_neg (by simp [active, leads, named])
  · rintro s hdr round imp seq a m taken ha hm
    subst hm ha
    exact if_neg (by rw [Manager.takes] at taken; simp [taken])
  · exact fun s k => rfl
  · intro s me port slot
    show execTriadPresenceLoss port s = _
    unfold execTriadPresenceLoss
    rw [slot]
  · exact fun s me heard => exec_triadHeartbeat_heard
  · intro s k imp digest triad serves
    exact if_neg (by simp [Option.isSome_iff_ne_none.mp triad, List.contains_iff_mem.mp serves])
  · intro s req granted idle
    have run : exec (.trResync req 1) s =
        if s.mgr.red.slot.isNone then s.withMgr (s.mgr.answer req 0) else s.withMgr (s.mgr.resyncHere.answer req 0) := by
      show execTrResync req 1 s = _
      unfold execTrResync
      dsimp only
      rw [if_neg (not_not_intro granted), if_neg (by simp [idle]), if_neg (by decide)]
    exact ⟨fun single => run.trans (if_pos (by simp [single])),
      fun triad => run.trans (if_neg (by simp [Option.isSome_iff_ne_none.mp triad]))⟩
  · intro s seq src copy resync single held
    obtain ⟨-, sl, inst, rt, links, nodes⟩ := s.mgr.adoptCopy_takes copy
    refine ⟨s.mgr.copied seq copy, exec_resyncComplete_single resync single held seq copy, ?_⟩
    simp only [Manager.copied_red]
    simp [Manager.copied, sl, inst, rt, links, nodes]

end Sys2Proof.Machine
end

section
/-! PROOF. The obligation of redundancy on the dictionary requests that an agent answers. -/

namespace Sys2Proof.Machine

/-! ### Requests past their checks -/

section
variable {a b : Agent} {hdr : Hdr} {key : Nat} {data : List Byte}

/-- The physical function reaches every object of an agent (R357). -/
theorem Agent.reaches_of_physical (pf : hdr.ctx = 0) : b.reaches hdr.ctx hdr.gen key = true := by
  rw [pf]
  rfl

/-- A WRITE that passes every check takes effect and is answered OK, the answer first where the effect is a restart (R341). -/
theorem Agent.dictReq_write (taken : a.takes (dictReqFrame true) hdr none) (hb : b = a.after (dictReqFrame true) hdr none)
    (acc : b.accepts hdr = true) (reach : b.reaches hdr.ctx hdr.gen key = true) (passes : dictResult true key true data 0 0 0 0 = 0)
    (listed : agentValueBad key data = false) (tag : Nat) :
    a.dictReq hdr tag key data true =
      if key = Obj.AG_RESTART ∨ key = Obj.DV_RESET then (b.answerDict hdr tag 0 []).writeObj hdr.ctx key data
      else (b.writeObj hdr.ctx key data).answerDict hdr tag 0 [] := by
  unfold Agent.dictReq
  dsimp only
  rw [Agent.take_acts taken, ← Agent.after, ← hb, acc, reach, if_pos rfl, passes, listed]
  rfl

/-- A READ that passes every check is answered with the value (R341). -/
theorem Agent.dictReq_read (taken : a.takes (dictReqFrame false) hdr none) (hb : b = a.after (dictReqFrame false) hdr none)
    (reach : b.reaches hdr.ctx hdr.gen key = true) (passes : dictResult true key false data 0 0 0 0 = 0) (tag : Nat) :
    a.dictReq hdr tag key data false = (b.readObj hdr.ctx key).1.answerDict hdr tag 0 (b.readObj hdr.ctx key).2 := by
  unfold Agent.dictReq
  dsimp only
  rw [Agent.take_acts taken, ← Agent.after, ← hb, reach, if_pos rfl, passes]
  rfl

/-- A WRITE under a lower pair is answered CLAIM (R283). -/
theorem Agent.dictReq_refused (taken : a.takes (dictReqFrame true) hdr none) (hb : b = a.after (dictReqFrame true) hdr none)
    (lower : b.accepts hdr = false) (tag : Nat) : a.dictReq hdr tag key data true = b.answerDict hdr tag 0x000D [] := by
  unfold Agent.dictReq
  dsimp only
  rw [Agent.take_acts taken, ← Agent.after, ← hb, lower]
  rfl

end

@[simp] theorem Dev.send_fw (d : Dev) (f : Sent) : (d.send f).fw = d.fw := by
  obtain ⟨o, n, l, sent, -⟩ := d.send_frame f
  rw [sent]

/-- An answer leaves the running firmware slot as it is. -/
theorem Agent.answerDict_fw (a : Agent) (hdr : Hdr) (tag result : Nat) (data : List Byte) :
    (a.answerDict hdr tag result data).dev.fw = a.dev.fw := a.dev.send_fw _

/-- A WRITE of a command object is its command, but for the objects whose WRITE has an effect of its own (R348). -/
theorem Agent.writeObj_command {key : Nat} (command : (objRow key).map (fun r => r.acc) = some .cmd)
    (other : key ∉ [Obj.HM_SEND, Obj.RL_RATE, Obj.RL_BURST, Obj.SC_APPLY]) (a : Agent) (c : Nat) (data : List Byte) :
    a.writeObj c key data = a.command key (leNat data) := by
  obtain ⟨r, row, acc⟩ := Option.map_eq_some_iff.mp command
  simp only [List.mem_cons, List.not_mem_nil, or_false, not_or] at other
  obtain ⟨hm, rate, burst, apply⟩ := other
  unfold Agent.writeObj
  rw [if_neg hm, if_neg (not_or.mpr ⟨rate, burst⟩), if_neg apply, row]
  exact if_pos acc

theorem Agent.writeObj_ltClear (a : Agent) (c : Nat) (data : List Byte) : a.writeObj c Obj.LT_CLEAR data =
    ({ a with node := { a.node with ltCopies := [], lt := [] } } : Agent).setObj Obj.LT_VALID 0 :=
  a.writeObj_command (by decide +kernel) (by decide) c data

theorem Agent.writeObj_agRestart (a : Agent) (c : Nat) (data : List Byte) :
    a.writeObj c Obj.AG_RESTART data = a.stopCores a.dev.fw true false :=
  a.writeObj_command (by decide +kernel) (by decide) c data

/-! ### The obligation -/

/-- Settles O25, command by command: DICT_REQ by the checks it passes or fails, LT_CLEAR, AG_RESTART and HM_SEND as the requests that
pass, SC_GRANT by its own checks. -/
theorem agentAnswersRequests : Obligations.AgentAnswersRequests := by
  unfold Obligations.AgentAnswersRequests
  refine ⟨?_, ?_, ?_, ?_, ?_, ?_⟩
  · intro s die tag key hdr data write a taken ha acc reach passes listed
    refine congrArg (s.withAgent die) ?_
    cases write with
    | false => exact Agent.dictReq_read taken ha reach passes tag
    | true =>
      obtain ⟨ok, noRestart, noReset⟩ := listed rfl
      refine (Agent.dictReq_write taken ha (acc rfl) reach passes ok tag).trans (if_neg ?_)
      exact not_or.mpr ⟨noRestart, noReset⟩
  · exact fun s die tag key hdr data a taken ha lower => congrArg (s.withAgent die) (Agent.dictReq_refused taken ha lower tag)
  · intro s die tag hdr a taken ha acc pf
    refine congrArg (s.withAgent die) ((Agent.dictReq_write taken ha acc (Agent.reaches_of_physical pf) (by decide +kernel) (by decide) tag).trans ?_)
    rw [if_neg (by decide), Agent.writeObj_ltClear]
  · intro s die tag hdr a taken ha acc pf
    refine congrArg (s.withAgent die) ((Agent.dictReq_write taken ha acc (Agent.reaches_of_physical pf) (by decide +kernel) (by decide) tag).trans ?_)
    rw [if_pos (by decide), Agent.writeObj_agRestart, Agent.answerDict_fw]
  · intro s die tag hdr data a taken ha acc reach passes
    exact congrArg (s.withAgent die) ((Agent.dictReq_write taken ha acc reach passes rfl tag).trans (if_neg (by decide)))
  · intro s die tag dur hdr a taken ha acc pf
    refine congrArg (s.withAgent die) ?_
    dsimp only
    rw [Agent.take_acts taken, ← Agent.after, ← ha, acc, if_neg (by decide), if_neg (not_not_intro pf)]
    exact if_pos (by simp)

end Sys2Proof.Machine
end

section
/-! PROOF. The obligations of an agent and its node on the messages of node firmware and on restarts, sleep and loss of supply. -/

namespace Sys2Proof.Machine

/-! ### Node firmware's LT area and messages -/

@[simp] theorem Agent.writeLt_ltWants (a : Agent) (area : List Byte) : (a.writeLt area).node.ltWants = a.node.ltWants :=
  (apply_ite (fun b : Agent => b.node.ltWants) _ _ _).trans (ite_self _)

@[simp] theorem Agent.writeLt_runs (a : Agent) (area : List Byte) : (a.writeLt area).runs = a.runs :=
  (apply_ite Agent.runs _ _ _).trans (ite_self _)

/-- A message on a free mailbox that accepts it has at once the effect of its mailbox, code and form, while the node island is on and the
control cores run (R327, R328, R549). -/
theorem Agent.nodeMessage_accepted {a : Agent} {box h chk : Nat} {data : List Byte} {r : Agent × Nat} (hears : a.hears = true) (runs : a.runs = true)
    (free : (mapGetD a.node.inBoxes box {}).held = none)
    (hr : r = (a.putMessage box h data chk).receive box (h, data, chk) (formCode box)) (accepted : r.2 = 0) :
    a.nodeMessage box h data chk =
      if box = 0 then (if bitsOf h 23 16 = 1 then r.1.logMessage (data.take (h % 64)) else r.1)
      else if box = 1 then
        (if fieldAt (data.take (h % 64)) 0 1 = 1 then r.1.neighbourReport (data.take (h % 64)) else r.1.sample (data.take (h % 64)))
      else r.1.hostReply (data.take (h % 64)) := by
  subst hr
  have taken : a.nodeMessage box h data chk = (a.putMessage box h data chk).takeMessage box h data chk :=
    (if_neg (by simp [hears, free])).trans (if_pos runs)
  exact taken.trans (if_neg (not_not_intro accepted))

/-! ### What ends SENTINEL at an agent -/

/-- An agent that no temperature put to sleep wakes by any cause: its domains are awake and its control island restarts (R332, R519). -/
theorem Agent.wakeBy_of_cool {a b : Agent} (asleep : a.link.asleep = true) (cool : a.link.thermal = false) (cause : Nat)
    (hb : b = (({ a with link := { a.link with asleep := false, thermal := false } } : Agent).onDev
      (fun d => { d with domains := [], waking := [] })).setObj Obj.PW_WAKE_CAUSE cause) :
    a.wakeBy cause = b.stopCores b.dev.fw false false := by
  subst hb
  exact if_neg (by simp [asleep, cool])

/-! ### The obligations -/

/-- Settles O15, command by command: a message is one that its free mailbox accepts (`nodeMessage_accepted`), and each
other command gets past the checks of the agent's state. -/
theorem agentServesItsNode : Obligations.AgentServesItsNode := by
  unfold Obligations.AgentServesItsNode
  refine ⟨?_, ?_, ?_, ?_, ?_, ?_, ?_, ?_⟩
  · exact fun s die desc ok hears => congrArg (s.withAgent die) (if_neg (by simp [hears]))
  · exact fun s die area hears => congrArg (s.withAgent die) (if_neg (by simp [hears]))
  · intro s die area hears waits runs
    exact congrArg (s.withAgent die) ((if_neg (by simp [hears])).trans (if_pos (by simp [waits, runs])))
  · intro s die h chk data r hears runs free hr accepted
    have effect := Agent.nodeMessage_accepted hears runs free hr accepted
    rw [if_pos rfl] at effect
    exact ⟨fun doorbell => congrArg (s.withAgent die) (effect.trans (if_neg (by simp [doorbell]))),
      fun log => congrArg (s.withAgent die) (effect.trans (if_pos log))⟩
  · intro s die h chk data r hears runs free hr accepted
    have effect := Agent.nodeMessage_accepted hears runs free hr accepted
    rw [if_neg Nat.one_ne_zero, if_pos rfl] at effect
    exact ⟨fun sample => congrArg (s.withAgent die) (effect.trans (if_neg sample)),
      fun neighbour => congrArg (s.withAgent die) (effect.trans (if_pos neighbour))⟩
  · intro s die h chk data r hears runs free hr accepted
    have effect := Agent.nodeMessage_accepted hears runs free hr accepted
    rw [if_neg (by decide), if_neg (by decide)] at effect
    exact congrArg (s.withAgent die) effect
  · rintro s die _ _ _ x rfl rfl posted rfl
    refine congrArg (s.withAgent die) ?_
    dsimp only
    rw [posted]
    simp
  · exact fun s die cause => rfl

/-- Settles O26, command by command: a restart in progress is the one that firmware ends or times out, and each other command gets past the
checks of the agent's state. -/
theorem agentRestartsAndSleeps : Obligations.AgentRestartsAndSleeps := by
  unfold Obligations.AgentRestartsAndSleeps
  refine ⟨?_, ?_, ?_, ?_, ?_⟩
  · rintro s die rej0 rej1 adopts regOk r _ _ _ restarting rfl rfl rfl
    refine congrArg (s.withAgent die) ?_
    dsimp only
    rw [restarting]
  · rintro s die r _ _ restarting rfl rfl
    refine congrArg (s.withAgent die) ?_
    dsimp only
    rw [restarting]
  · exact fun s die hears sleepy => congrArg (s.withAgent die) (if_pos (by rw [hears, sleepy]; rfl))
  · intro s die cause a source asleep cool ha
    exact congrArg (s.withAgent die) ((if_pos (List.contains_iff_mem.mpr source)).trans (Agent.wakeBy_of_cool asleep cool cause ha))
  · exact fun s die => rfl

end Sys2Proof.Machine
end

section
/-! SUPPORT. The first check that a request fails, and what it answers. -/

namespace Sys2Proof.Machine

/-- The first check of a list that fails gives the result: its head, where that fails, else the first of the rest. -/
theorem firstFailing_cons (fails : Bool) (result : Nat) (rest : List (Bool × Nat)) :
    ((((fails, result) :: rest).find? (fun c => c.1)).map (fun c => c.2)).getD 0 =
      if fails then result else ((rest.find? (fun c => c.1)).map (fun c => c.2)).getD 0 := by
  cases fails with
  | true => rfl
  | false => rfl

section
variable {agentPart write : Bool} {key : Nat} {data : List Byte} {reach mode state busy : Nat}

/-- An object the device holds, and whose reach check fails, is answered with that check's result (R341). -/
theorem dictResult_of_reach (idx : holdsIdx agentPart (key / 256 % 65536) = true) (held : holdsKey agentPart key = true) (fails : reach ≠ 0) :
    dictResult agentPart key write data reach mode state busy = reach := by
  unfold dictResult
  rw [idx, held]
  cases row : objRow key with
  | none => simp [holdsKey, row] at held
  | some r => simp [fails]

/-- A WRITE of an object that is reached, may be written and gets a value of its length is answered with what the state check finds, where
that fails (R341). -/
theorem dictResult_of_state (idx : holdsIdx agentPart (key / 256 % 65536) = true) (held : holdsKey agentPart key = true)
    (fits : (objRow key).any (fun r => r.acc != .ro && !lengthBad r data.length) = true) (fails : state ≠ 0) :
    dictResult agentPart key true data 0 0 state busy = state := by
  obtain ⟨r, row, written⟩ := (Option.any_eq_true _ _).mp fits
  obtain ⟨acc, length⟩ : r.acc ≠ .ro ∧ lengthBad r data.length = false := by simpa using written
  unfold dictResult
  rw [idx, held, row]
  simp [acc, length, fails]

end

end Sys2Proof.Machine
end

section
/-! PROOF. The obligation of the object dictionary on the order of the checks and on requests that fail one. -/

namespace Sys2Proof.Machine

section
variable {s : State} {req : Req} {key : Nat} {data : List Byte}

/-- A READ whose turn has come and that fails a check is answered with that check's result (R341). -/
theorem exec_dictRead_refused (turn : s.mgr.turn req key false [] = true) (fails : s.mgr.readResult req key ≠ 0) :
    exec (.dictRead req key) s = s.withMgr (s.mgr.answer req (s.mgr.readResult req key)) :=
  (if_neg (by simp [turn])).trans (if_pos fails)

/-- A WRITE whose turn has come and that fails a check is answered with that check's result (R341). -/
theorem exec_dictWrite_refused (turn : s.mgr.turn req key true data = true) (fails : s.mgr.writeResult req key data ≠ 0) :
    exec (.dictWrite req key data) s = s.withMgr (s.mgr.answer req (s.mgr.writeResult req key data)) :=
  (if_neg (by simp [turn])).trans (if_pos fails)

end

/-- The checks of Table: Dictionary results in their order (R341): of an object that has a row, the first that fails gives the result. -/
theorem dictResult_eq_firstFailing {key : Nat} {r : ObjRow} (row : objRow key = some r) (agentPart write : Bool) (data : List Byte)
    (reach mode state busy : Nat) :
    dictResult agentPart key write data reach mode state busy =
      (([(!holdsIdx agentPart (key / 256 % 65536), 0x0001), (!holdsKey agentPart key, 0x0002), (reach != 0, reach), (mode != 0, mode),
        (write && r.acc == .ro, 0x0003), (!write && r.acc == .wo, 0x0004), (write && lengthBad r data.length, 0x0005), (state != 0, state),
        (write && busy != 0, busy), (write && valueBad agentPart r key data, 0x0007)].find? (fun c => c.1)).map (fun c => c.2)).getD 0 := by
  unfold dictResult
  rw [row]
  simp only [firstFailing_cons]
  simp

/-- An answer joins those given or those held, and ends the request's wait for its turn; nothing else changes (R239, R341). -/
theorem Manager.answer_eq (m : Manager) (req : Req) (result : Nat) (data : List Byte) :
    m.answer req result data = { m with host := { (m.performed req).host with answers := m.host.answers ++ [⟨req, result, data⟩] } } ∨
    m.answer req result data = { m with host := { (m.performed req).host with held := m.host.held ++ [⟨req, result, data⟩] } } := by
  unfold Manager.answer
  split
  · exact .inr rfl
  · exact .inl rfl

/-- Settles O44: the checks in order are those of `dictResult`, a request that fails one is answered and no more, and an answer changes the
host's answers and the requests that wait alone. -/
theorem refusedRequestsHaveNoEffect : Obligations.RefusedRequestsHaveNoEffect := by
  unfold Obligations.RefusedRequestsHaveNoEffect
  refine ⟨?_, ?_, ?_, ?_⟩
  · exact fun agentPart key write data reach mode state busy r row => dictResult_eq_firstFailing row agentPart write data reach mode state busy
  · exact fun s req key data => ⟨exec_dictRead_refused, exec_dictWrite_refused⟩
  · intro m i req key v listed busy eff fails leads checked
    refine m.cmd_refused i req key v listed busy eff checked ?_
    rintro ⟨reach, state, value, idle⟩
    exact fails ⟨⟨reach, state, leads⟩, value, idle⟩
  · exact fun m req result => ⟨_, rfl, m.answer_eq req result []⟩

end Sys2Proof.Machine
end

section
/-! PROOF. The obligations of the object dictionary on the start and the trips of a module, and on debug requests. -/

namespace Sys2Proof.Machine

/-! ### The start of a module -/

/-- Settles O35, command by command: a start, a reset or a trip is the one its stage and its request allow, and BT_FRESH is a command that
passes its checks. -/
theorem moduleStartsAndTrips : Obligations.ModuleStartsAndTrips := by
  unfold Obligations.ModuleStartsAndTrips
  refine ⟨?_, ?_, ?_, ?_, ?_, ?_, ?_, ?_, ?_⟩
  · exact fun s start closed untripped => ⟨_, _, rfl, rfl, if_neg (by simp [closed, untripped])⟩
  · exact fun s start off => if_pos off
  · rintro s req start ⟨reach, state⟩
    refine ⟨fun inactive steady => ?_, fun manages => ?_⟩
    · exact (if_neg (not_not_intro reach)).trans ((if_neg (by simp [state, inactive, steady])).trans (if_neg (not_not_intro rfl)))
    · exact (if_neg (not_not_intro reach)).trans (if_pos (.inr manages))
  · exact fun s start on running => if_neg (by simp [on, running])
  · exact fun s => rfl
  · rintro s _ opened rfl
    exact if_neg (by simp [opened])
  · exact fun s on => if_neg (by simp [on])
  · refine fun s mv => ⟨fun above below => ?_, fun below => ?_, rfl⟩
    · exact (if_neg (by omega)).trans (congrArg s.withMgr (if_neg (by omega)))
    · exact (if_neg (by omega)).trans (congrArg s.withMgr (if_pos below))
  · exact fun s req granted => congrArg s.withMgr (s.mgr.cmd_granted _ req _ 1 [1] false _ granted rfl rfl)

/-! ### Debug requests -/

/-- A WRITE of SC_DEBUG_REQ by the physical function that was accepted outside OPEN mode fails the check of the mode (R465, R471). -/
theorem Manager.gateReach_scDebugReq {m : Manager} {req : Req} (pf : req.fn = 0) (mode : (m.acceptedUnder req).1 ≠ 0) (v : Nat) :
    m.gateReach req Obj.SC_DEBUG_REQ true v = 0x000A := by
  have plain : (objRow Obj.SC_DEBUG_REQ).any (fun r => r.perCtx == false) = true := by decide +kernel
  obtain ⟨r, row, own⟩ := (Option.any_eq_true _ _).mp plain
  have forbids : m.modeForbids req Obj.SC_DEBUG_REQ true v = true := by simp [Manager.modeForbids, mode]
  unfold Manager.gateReach
  rw [row]
  dsimp only
  rw [if_neg (by simp [beq_iff_eq.mp own]), if_neg (by simp [pf]), if_pos forbids]

/-- What the state check of SC_DEBUG_REQ finds: the unit's own, or that INVASIVE is asked for where the unit manages the fabric (R470). -/
def Manager.debugState (m : Manager) (req : Req) (v : Nat) : Nat :=
  if m.gateState req Obj.SC_DEBUG_REQ true ≠ 0 then m.gateState req Obj.SC_DEBUG_REQ true
  else if decide (v = 2) && m.obj Obj.SC_DEBUG == 0 && m.managing then 0x0009 else 0

theorem Manager.debugState_invasive {m : Manager} {req : Req} (state : m.gateState req Obj.SC_DEBUG_REQ true = 0)
    (level : m.obj Obj.SC_DEBUG = 0) (manages : m.managing = true) : m.debugState req 2 = 0x0009 :=
  (if_neg (not_not_intro state)).trans (if_pos (by simp [level, manages]))

/-- A WRITE of SC_DEBUG_REQ that fails a check is answered with that check's result and changes no level (R341, R470). -/
theorem exec_scDebugReq_refused {s : State} {req : Req} {v res : Nat} (start : StartIn)
    (first : dictResult false Obj.SC_DEBUG_REQ true (leBytes 1 v) (s.mgr.gateReach req Obj.SC_DEBUG_REQ true v) 0 (s.mgr.debugState req v) 0 = res)
    (fails : res ≠ 0) : exec (.scDebugReq req v start) s = s.withMgr (s.mgr.answer req res) := by
  subst first
  exact (if_pos (.inl fails)).trans (congrArg (fun n => s.withMgr (s.mgr.answer req n)) (if_pos fails))

/-- Settles O51: where the unit manages the fabric the state check of SC_DEBUG_REQ finds STATE, and outside OPEN mode its mode check, which
comes before, finds MODE. -/
theorem invasiveIsRefusedToTheManager : Obligations.InvasiveIsRefusedToTheManager := by
  unfold Obligations.InvasiveIsRefusedToTheManager
  have idx : holdsIdx false (Obj.SC_DEBUG_REQ / 256 % 65536) = true := by decide +kernel
  have held : holdsKey false Obj.SC_DEBUG_REQ = true := by decide +kernel
  have fits : (objRow Obj.SC_DEBUG_REQ).any (fun r => r.acc != .ro && !lengthBad r (leBytes 1 2).length) = true := by decide +kernel
  refine ⟨?_, ?_⟩
  · rintro s req start ⟨reach, state⟩ level manages
    refine exec_scDebugReq_refused start ?_ (by decide)
    rw [reach, Manager.debugState_invasive state level manages]
    exact dictResult_of_state idx held fits (by decide)
  · intro s req v start pf mode
    refine exec_scDebugReq_refused start ?_ (by decide)
    rw [Manager.gateReach_scDebugReq pf mode]
    exact dictResult_of_reach idx held (by decide)

end Sys2Proof.Machine
end

section
/-! SUPPORT. Sync objects: what a function that reaches one reads and writes of it, and each kind's operations. -/

namespace Sys2Proof.Machine

/-! ### Objects as they are held -/

@[simp] theorem Manager.sync_bump (m : Manager) (k n : Nat) : (m.bump k).sync n = m.sync n := rfl
@[simp] theorem Manager.sync_setSync_self (m : Manager) (n : Nat) (o : SyncObj) : (m.setSync n o).sync n = o :=
  mapGetD_mapSet_self m.host.syncs n o {}
@[simp] theorem Manager.sync_returns (m : Manager) (v n : Nat) : (m.returns v).sync n = m.sync n := rfl
@[simp] theorem Manager.readBack_returns (m : Manager) (v : Nat) : (m.returns v).host.readBack = m.host.readBack ++ [v] := rfl
@[simp] theorem Manager.readBack_setSync (m : Manager) (n : Nat) (o : SyncObj) : (m.setSync n o).host.readBack = m.host.readBack := rfl
@[simp] theorem Manager.ridOf_bump (m : Manager) (k fn : Nat) : (m.bump k).ridOf fn = m.ridOf fn := rfl

/-! ### A function that reaches an object (R373, R376, R398) -/

section
variable {m : Manager} {fn n : Nat}

theorem Manager.syncWrite_reached (on : m.host.perst = false) (barrier : m.host.barrier = true) (ide : m.ideBlock = false) (hn : n < 8192)
    (reach : m.reachesSync fn n = true) (f : Manager → Manager) : m.syncWrite fn n f = f (m.bump Obj.SY_OPS) :=
  (if_neg (by simp [on, barrier, ide, Nat.not_le.mpr hn])).trans (if_neg (by simp [reach]))

theorem Manager.syncRead_reached (on : m.host.perst = false) (barrier : m.host.barrier = true) (ide : m.ideBlock = false) (hn : n < 8192)
    (reach : m.reachesSync fn n = true) (f : Manager → Manager) : m.syncRead fn n f = f (m.bump Obj.SY_OPS) :=
  (if_neg (by simp [on, Nat.not_le.mpr hn])).trans <| (if_neg (by simp [barrier])).trans <| (if_neg (by simp [ide])).trans <|
    if_neg (by simp [reach])

/-- Manager firmware reaches every object, whatever the host link's state. -/
theorem Manager.syncRead_firmware (hn : n < 8192) (f : Manager → Manager) : m.syncRead fwFn n f = f (m.bump Obj.SY_OPS) :=
  (if_neg (by simp [Nat.not_le.mpr hn])).trans <| (if_neg (by simp)).trans <| (if_neg (by simp)).trans <|
    if_neg (by simp [Manager.reachesSync])

end

/-! ### Each kind's operations (R399-R402) -/

section
variable {m : Manager} {fn n : Nat}

theorem Manager.syncPut_counter (kind : syncKind (m.sync n).cfg = .counter) (v : Nat) : m.syncPut n v =
    if (m.sync n).value < (m.sync n).target ∧ (m.sync n).target ≤ v then (m.setSync n { m.sync n with value := v }).fire n
    else m.setSync n { m.sync n with value := v } := by
  unfold Manager.syncPut
  dsimp only
  rw [kind]
  simp only [Bool.and_eq_true, decide_eq_true_eq]

theorem Manager.syncPut_semaphore (kind : syncKind (m.sync n).cfg = .semaphore) (v : Nat) : m.syncPut n v =
    if (m.sync n).value = 0 ∧ 0 < v then (m.setSync n { m.sync n with value := v }).fire n else m.setSync n { m.sync n with value := v } := by
  unfold Manager.syncPut
  dsimp only
  rw [kind]
  simp only [Bool.and_eq_true, decide_eq_true_eq]

theorem Manager.syncPut_event_set (kind : syncKind (m.sync n).cfg = .event) : m.syncPut n 1 =
    if (m.sync n).value = 0 then (m.setSync n { m.sync n with value := 1 }).fire n else m.setSync n { m.sync n with value := 1 } := by
  unfold Manager.syncPut
  dsimp only
  rw [kind]
  simp only [Bool.and_eq_true, decide_eq_true_eq, and_true]

theorem Manager.syncPut_event_clear (kind : syncKind (m.sync n).cfg = .event) : m.syncPut n 0 = m.setSync n { m.sync n with value := 0 } := by
  unfold Manager.syncPut
  dsimp only
  rw [kind]
  exact if_neg (by simp)

theorem Manager.acq_free (kind : syncKind (m.sync n).cfg = .lock) (plain : bitOf (m.sync n).cfg 2 = false) (free : (m.sync n).holder = none) :
    m.acq fn n = (m.setSync n { m.sync n with holder := some (m.ridOf fn) }).returns 0 := by
  unfold Manager.acq
  dsimp only
  rw [kind, plain, free]
  rfl

theorem Manager.acq_held {h : Nat} (kind : syncKind (m.sync n).cfg = .lock) (plain : bitOf (m.sync n).cfg 2 = false)
    (held : (m.sync n).holder = some h) : m.acq fn n = m.returns (0x10000 + h) := by
  unfold Manager.acq
  dsimp only
  rw [kind, plain, held]
  rfl

theorem Manager.acq_semaphore (kind : syncKind (m.sync n).cfg = .semaphore) : m.acq fn n =
    if 0 < (m.sync n).value then (m.setSync n { m.sync n with value := (m.sync n).value - 1 }).returns 1 else m.returns 0 := by
  unfold Manager.acq
  dsimp only
  rw [kind]

end

/-! ### The commands of a lock -/

section
variable {s : State} {fn n : Nat} (on : s.mgr.host.perst = false) (barrier : s.mgr.host.barrier = true) (ide : s.mgr.ideBlock = false)
  (hn : n < 8192) (reach : s.mgr.reachesSync fn n = true) (kind : syncKind (s.mgr.sync n).cfg = .lock)
include on barrier ide hn reach kind

/-- A plain lock that is held is not given: the register reads its holder (R400). -/
theorem exec_lockAcq_held {h : Nat} (plain : bitOf (s.mgr.sync n).cfg 2 = false) (held : (s.mgr.sync n).holder = some h) :
    exec (.lockAcq fn n) s = s.withMgr ((s.mgr.bump Obj.SY_OPS).returns (0x10000 + h)) :=
  congrArg s.withMgr ((Manager.syncRead_reached on barrier ide hn reach _).trans (Manager.acq_held (m := s.mgr.bump Obj.SY_OPS) kind plain held))

/-- A release is `releaseLock`, and fires where the lock became free or another ticket is served (R401, R402). -/
theorem exec_soOpLockRelease : exec (.soOpLockRelease fn n) s = s.withMgr
    (if lockFires (s.mgr.sync n) (releaseLock (s.mgr.ridOf fn) (s.mgr.sync n)) then
      ((s.mgr.bump Obj.SY_OPS).setSync n (releaseLock (s.mgr.ridOf fn) (s.mgr.sync n))).fire n
    else (s.mgr.bump Obj.SY_OPS).setSync n (releaseLock (s.mgr.ridOf fn) (s.mgr.sync n))) :=
  congrArg s.withMgr ((Manager.syncWrite_reached on barrier ide hn reach _).trans (if_neg (not_not_intro kind)))

/-- The next ticket is issued behind those outstanding, of which there are fewer than 64 (R400). -/
theorem exec_lockTicket_issues (ticket : bitOf (s.mgr.sync n).cfg 2 = true) (room : (s.mgr.sync n).tickets.length < 64) :
    exec (.lockTicket fn n) s = s.withMgr (((s.mgr.bump Obj.SY_OPS).setSync n { s.mgr.sync n with
      tickets := (s.mgr.sync n).tickets ++ [{ num := (s.mgr.sync n).next, rid := s.mgr.ridOf fn }]
      next := ((s.mgr.sync n).next + 1) % 65536 }).returns (s.mgr.sync n).next) := by
  refine congrArg s.withMgr ((Manager.syncRead_reached on barrier ide hn reach _).trans ((if_neg (not_not_intro kind)).trans ?_))
  exact if_neg (not_or.mpr ⟨by rw [Manager.sync_bump, ticket]; decide, Nat.not_le.mpr room⟩)

theorem exec_lockTicket_full (full : 64 ≤ (s.mgr.sync n).tickets.length) :
    exec (.lockTicket fn n) s = s.withMgr ((s.mgr.bump Obj.SY_OPS).returns 0xFFFFFFFF) := by
  refine congrArg s.withMgr ((Manager.syncRead_reached on barrier ide hn reach _).trans ((if_neg (not_not_intro kind)).trans ?_))
  exact if_pos (.inr full)

end

/-! ### SO_VALUE as the host reads it -/

/-- The offset of SO_VALUE in BAR0 names its object and its register. -/
theorem Manager.hostRead_soValue {m : Manager} {fn n : Nat} (on : m.host.perst = false) (hn : n < 8192) (bound : m.bound fn = true)
    (w : Nat) : m.hostRead fn 0 (0x200008 + 64 * n) w = some (m.readSync fn n 8 w) := by
  have object : (0x200008 + 64 * n - 0x200000) / 64 = n := by omega
  have register : (0x200008 + 64 * n) % 64 = 8 := by omega
  have inside : barHolds fn 0 (0x200008 + 64 * n) = true := by
    unfold barHolds
    rw [if_pos rfl, decide_eq_true_eq]
    split <;> omega
  refine (if_neg (by simp [on, inside])).trans ((if_pos rfl).trans (congrArg some ?_))
  unfold Manager.readBar0
  rw [object, register, bound, if_neg (by omega), if_neg (by omega), if_neg (by decide), if_neg (by omega), if_neg (by omega), if_neg (by omega),
    if_pos (by omega)]

theorem Manager.readSync_reached {m : Manager} {fn n : Nat} (barrier : m.host.barrier = true) (ide : m.ideBlock = false)
    (reach : m.reachesSync fn n = true) (off w : Nat) : m.readSync fn n off w =
      if fits syncRegs off w then (m.bump Obj.SY_OPS, (m.sync n).reg off) else (m.widthOnly syncRegs off w, 0) :=
  (if_neg (by simp [barrier])).trans <| (if_neg (by simp [ide])).trans (if_neg (by simp [reach]))

/-- SO_VALUE of a plain lock that is held shows HELD and the holder. -/
theorem SyncObj.shown_held {o : SyncObj} {h : Nat} (kind : syncKind o.cfg = .lock) (plain : bitOf o.cfg 2 = false) (held : o.holder = some h)
    (id : h < 2 ^ 16) : o.shown = 2 ^ 16 + h := by
  unfold SyncObj.shown
  rw [kind, plain, held]
  exact congrArg (2 ^ 16 + ·) (Nat.mod_eq_of_lt id)

theorem fits_soValue (w : Nat) : fits syncRegs 8 w = (w == 8) := by
  simp [fits, syncRegs, Bool.beq_comm]

end Sys2Proof.Machine
end

section
/-! PROOF. The obligations of the host side on sync objects. -/

namespace Sys2Proof.Machine

/-- Settles O31, command by command: the object is reached, and its kind's operation is what is left. -/
theorem syncObjectsRun : Obligations.SyncObjectsRun := by
  unfold Obligations.SyncObjectsRun
  refine ⟨?_, ?_, ?_⟩
  · rintro s n _ hn rfl kind plain free
    refine congrArg s.withMgr ((Manager.syncRead_firmware hn _).trans ?_)
    exact Manager.acq_free (m := s.mgr.bump Obj.SY_OPS) kind plain free
  · intro m fn n h w on barrier ide hn reach hfn bound kind plain held id
    rw [Manager.hostRead_soValue on hn bound, Manager.hostRead_soValue on hn bound, Manager.readSync_reached barrier ide reach,
      Manager.readSync_reached barrier ide reach, fits_soValue, fits_soValue]
    refine ⟨?_, fun other => ?_⟩
    · rw [if_pos (by decide), ← SyncObj.shown_held kind plain held id]
      rfl
    · rw [if_neg (by simp [other]), Manager.widthOnly, fits_soValue, if_neg (by simp [other]; decide)]
  · rintro s fn n _ _ on barrier ide hn reach rfl rfl
    have write := fun f => congrArg s.withMgr (Manager.syncWrite_reached on barrier ide hn reach f)
    have read := fun f => congrArg s.withMgr (Manager.syncRead_reached on barrier ide hn reach f)
    refine ⟨fun v hv => ?_, fun v kind hv => ⟨?_, ?_, ?_⟩, fun v kind hv => ⟨?_, ?_⟩, fun kind => ⟨?_, ?_⟩, fun kind => ?_,
      fun kind plain => ⟨fun free => ?_, fun h held => ?_⟩, fun kind => ?_, fun kind ticket room => ?_, fun kind ticket full => ?_⟩
    · refine (write _).trans (congrArg s.withMgr ?_)
      rw [Nat.mod_eq_of_lt hv]
    · refine (write _).trans (congrArg s.withMgr ?_)
      simp only [Manager.sync_bump, kind]
      rw [Nat.mod_eq_of_lt hv]
      exact Manager.syncPut_counter (m := s.mgr.bump Obj.SY_OPS) kind v
    · exact (write _).trans (congrArg s.withMgr (if_pos kind))
    · refine (write _).trans (congrArg s.withMgr ((if_pos kind).trans ?_))
      rw [Nat.mod_eq_of_lt hv, Manager.sync_bump]
    · refine (write _).trans (congrArg s.withMgr ?_)
      simp only [Manager.sync_bump, kind]
      rw [Nat.mod_eq_of_lt hv]
      exact Manager.syncPut_semaphore (m := s.mgr.bump Obj.SY_OPS) kind v
    · refine (write _).trans (congrArg s.withMgr ((if_pos kind).trans ?_))
      rw [Nat.mod_eq_of_lt hv, Manager.sync_bump]
    · refine (write _).trans (congrArg s.withMgr ((if_pos kind).trans ?_))
      exact Manager.syncPut_event_set (m := s.mgr.bump Obj.SY_OPS) kind
    · refine (write _).trans (congrArg s.withMgr ((if_pos kind).trans ?_))
      exact Manager.syncPut_event_clear (m := s.mgr.bump Obj.SY_OPS) kind
    · exact exec_soOpLockRelease on barrier ide hn reach kind
    · exact (read _).trans (congrArg s.withMgr (Manager.acq_free (m := s.mgr.bump Obj.SY_OPS) kind plain free))
    · exact exec_lockAcq_held on barrier ide hn reach kind plain held
    · exact (read _).trans (congrArg s.withMgr (Manager.acq_semaphore (m := s.mgr.bump Obj.SY_OPS) kind))
    · exact exec_lockTicket_issues on barrier ide hn reach kind ticket room
    · exact exec_lockTicket_full on barrier ide hn reach kind full

end Sys2Proof.Machine
end

section
/-! SUPPORT. Bits of a number set and cleared, and the causes and messages of a function's interrupts. -/

namespace Sys2Proof.Machine

/-! ### Bits -/

theorem bitOf_eq_testBit (v i : Nat) : bitOf v i = v.testBit i := by
  rw [Nat.testBit_eq_decide_div_mod_eq]
  rfl

/-- Numbers that share no bit add up without a carry. -/
theorem add_eq_or_of_and_eq_zero (a b : Nat) (apart : a &&& b = 0) : a + b = a ||| b := by
  induction a using Nat.strongRecOn generalizing b with
  | ind a ih =>
    rcases Nat.eq_zero_or_pos a with rfl | pos
    · rw [Nat.zero_add, Nat.zero_or]
    · have halves : a / 2 + b / 2 = a / 2 ||| b / 2 := ih (a / 2) (by omega) (b / 2) (by rw [← Nat.and_div_two, apart])
      have low : ¬(a % 2 = 1 ∧ b % 2 = 1) := by
        rw [← Nat.and_mod_two_eq_one, apart]
        decide
      have lowOr := Nat.or_mod_two_eq_one (a := a) (b := b)
      have highOr := Nat.or_div_two (a := a) (b := b)
      omega

theorem bitOf_add_two_pow {v i : Nat} (clear : bitOf v i = false) (j : Nat) : bitOf (v + 2 ^ i) j = (bitOf v j || decide (i = j)) := by
  rw [bitOf_eq_testBit] at clear
  have apart : v &&& 2 ^ i = 0 := by
    refine Nat.zero_of_testBit_eq_false fun k => ?_
    rw [Nat.testBit_and, Nat.testBit_two_pow, Bool.and_eq_false_iff, decide_eq_false_iff_not]
    by_cases at_ : i = k
    · exact .inl (at_ ▸ clear)
    · exact .inr at_
  rw [add_eq_or_of_and_eq_zero v _ apart, bitOf_eq_testBit, bitOf_eq_testBit, Nat.testBit_or, Nat.testBit_two_pow]

/-- A write of ones clears the bits it names. -/
theorem bitOf_sub_and (a v j : Nat) : bitOf (a - (a &&& v)) j = (bitOf a j && !bitOf v j) := by
  have apart : (a ^^^ (a &&& v)) &&& (a &&& v) = 0 := by
    refine Nat.zero_of_testBit_eq_false fun k => ?_
    rw [Nat.testBit_and, Nat.testBit_xor, Nat.testBit_and]
    cases a.testBit k <;> cases v.testBit k <;> rfl
  have whole : (a ^^^ (a &&& v)) ||| (a &&& v) = a := by
    refine Nat.eq_of_testBit_eq fun k => ?_
    rw [Nat.testBit_or, Nat.testBit_xor, Nat.testBit_and]
    cases a.testBit k <;> cases v.testBit k <;> rfl
  have left : a - (a &&& v) = a ^^^ (a &&& v) := by
    have sum := add_eq_or_of_and_eq_zero _ _ apart
    omega
  rw [left, bitOf_eq_testBit, bitOf_eq_testBit, bitOf_eq_testBit, Nat.testBit_xor, Nat.testBit_and]
  cases a.testBit j <;> cases v.testBit j <;> rfl

/-! ### A function's own state -/

@[simp] theorem Manager.fnSt_setFn_self (m : Manager) (fn : Nat) (f : HostFn) : (m.setFn fn f).fnSt fn = f :=
  mapGetD_mapSet_self m.host.fns fn f {}
@[simp] theorem Manager.setFn_msis (m : Manager) (fn : Nat) (f : HostFn) : (m.setFn fn f).host.msis = m.host.msis := rfl

/-! ### Messages (R390) -/

section
variable {m : Manager} {fn : Nat}

/-- A message changes nothing of the function's registers but the pending bits. -/
theorem Manager.fnSt_msi (m : Manager) (fn vec : Nat) : ∃ pba, (m.msi fn vec).fnSt fn = { m.fnSt fn with pba := pba } := by
  unfold Manager.msi
  dsimp only
  split
  · exact ⟨_, m.fnSt_setFn_self fn _⟩
  · exact ⟨_, rfl⟩

theorem Manager.msi_sends {vec : Nat} (free : (m.fnSt fn).vecMasked vec = false) :
    (m.msi fn vec).host.msis = m.host.msis ++ [(m.fnSt fn).msiOf fn vec] :=
  congrArg (fun n : Manager => n.host.msis) (if_neg (Bool.eq_false_iff.mp free))

theorem Manager.msi_pends {vec : Nat} (masked : (m.fnSt fn).vecMasked vec = true) :
    m.msi fn vec = m.setFn fn { m.fnSt fn with pba := insNat (m.fnSt fn).pba vec } := if_pos masked

theorem mem_insNat_self (l : List Nat) (k : Nat) : k ∈ insNat l k := by
  induction l with
  | nil => exact List.mem_singleton_self k
  | cons j l ih =>
    unfold insNat
    split
    · exact List.mem_cons_self
    · split
      next h => exact h ▸ List.mem_cons_self
      · exact List.mem_cons_of_mem j ih

/-! ### Causes (R390) -/

theorem Manager.raiseInt_of_set {i : Nat} (set : bitOf (m.fnSt fn).intStatus i = true) : m.raiseInt fn i = m := if_pos set

/-- A cause that rises sets its bit, and its message goes unless it is masked. -/
theorem Manager.raiseInt_of_clear {i : Nat} (clear : bitOf (m.fnSt fn).intStatus i = false) :
    m.raiseInt fn i =
      if bitOf (m.fnSt fn).intMask i then m.setFn fn { m.fnSt fn with intStatus := (m.fnSt fn).intStatus + 2 ^ i }
      else (m.setFn fn { m.fnSt fn with intStatus := (m.fnSt fn).intStatus + 2 ^ i }).msi fn i :=
  if_neg (Bool.eq_false_iff.mp clear)

theorem Manager.raiseInt_intStatus (m : Manager) (fn i : Nat) (j : Nat) :
    bitOf ((m.raiseInt fn i).fnSt fn).intStatus j = (bitOf (m.fnSt fn).intStatus j || decide (i = j)) := by
  cases set : bitOf (m.fnSt fn).intStatus i with
  | true =>
    rw [Manager.raiseInt_of_set set]
    by_cases at_ : i = j
    · rw [← at_, set, Bool.true_or]
    · rw [decide_eq_false at_, Bool.or_false]
  | false =>
    rw [Manager.raiseInt_of_clear set, ← bitOf_add_two_pow set]
    split
    · rw [Manager.fnSt_setFn_self]
    · obtain ⟨pba, same⟩ := (m.setFn fn { m.fnSt fn with intStatus := (m.fnSt fn).intStatus + 2 ^ i }).fnSt_msi fn i
      rw [same, Manager.fnSt_setFn_self]

/-- A cause that rises unmasked sends its message. -/
theorem Manager.raiseInt_sends {i : Nat} (clear : bitOf (m.fnSt fn).intStatus i = false) (unmasked : bitOf (m.fnSt fn).intMask i = false)
    (free : (m.fnSt fn).vecMasked i = false) : (m.raiseInt fn i).host.msis = m.host.msis ++ [(m.fnSt fn).msiOf fn i] := by
  rw [Manager.raiseInt_of_clear clear, unmasked, if_neg Bool.false_ne_true, Manager.msi_sends (by rwa [Manager.fnSt_setFn_self])]
  rw [Manager.fnSt_setFn_self, Manager.setFn_msis]
  rfl

/-- While the vector is masked in the MSI-X table its pending bit is set in place of the message. -/
theorem Manager.raiseInt_pends {i : Nat} (clear : bitOf (m.fnSt fn).intStatus i = false) (unmasked : bitOf (m.fnSt fn).intMask i = false)
    (masked : (m.fnSt fn).vecMasked i = true) : (m.raiseInt fn i).host.msis = m.host.msis ∧ i ∈ ((m.raiseInt fn i).fnSt fn).pba := by
  rw [Manager.raiseInt_of_clear clear, unmasked, if_neg Bool.false_ne_true, Manager.msi_pends (by rwa [Manager.fnSt_setFn_self])]
  simp only [Manager.fnSt_setFn_self]
  exact ⟨rfl, mem_insNat_self _ i⟩

theorem Manager.raiseInt_masked {i : Nat} (masked : bitOf (m.fnSt fn).intMask i = true) : (m.raiseInt fn i).host.msis = m.host.msis := by
  cases set : bitOf (m.fnSt fn).intStatus i with
  | true => rw [Manager.raiseInt_of_set set]
  | false => rw [Manager.raiseInt_of_clear set, if_pos masked, Manager.setFn_msis]

end

/-! ### The registers of the causes -/

/-- INT_STATUS_CLEAR clears the bits written as 1. -/
theorem exec_intStatusClear {s : State} {fn : Nat} (on : s.mgr.host.perst = false) (bound : s.mgr.bound fn = true) (v : Nat) :
    exec (.intStatusClear fn v) s = s.withMgr
      (s.mgr.setFn fn { s.mgr.fnSt fn with intStatus := (s.mgr.fnSt fn).intStatus - ((s.mgr.fnSt fn).intStatus &&& v) }) :=
  if_neg (by simp [on, bound])

/-- INT_MASK_WRITE sends the message of each set cause that it unmasks. -/
theorem exec_intMaskWrite {s : State} {fn v : Nat} (on : s.mgr.host.perst = false) (bound : s.mgr.bound fn = true) (byte : v < 256) :
    exec (.intMaskWrite fn v) s = s.withMgr
      (((upTo 8).filter (fun i => bitOf (s.mgr.fnSt fn).intMask i && !bitOf v i && bitOf (s.mgr.fnSt fn).intStatus i)).foldl (fun m i => m.msi fn i)
        (s.mgr.setFn fn { s.mgr.fnSt fn with intMask := v })) := by
  refine (if_neg (by simp [on, bound])).trans (congrArg s.withMgr ?_)
  rw [Nat.mod_eq_of_lt byte]

/-- The one cause that a mask of one bit masks is the one that its clearing unmasks. -/
theorem unmasked_of_two_pow {status i : Nat} (hi : i < 8) (set : bitOf status i = true) :
    (upTo 8).filter (fun j => bitOf (2 ^ i) j && !bitOf 0 j && bitOf status j) = [i] := by
  have only : (fun j => bitOf (2 ^ i) j && !bitOf 0 j && bitOf status j) = fun j => j == i := by
    funext j
    rw [bitOf_eq_testBit (2 ^ i), bitOf_eq_testBit 0, Nat.testBit_two_pow, Nat.zero_testBit, Bool.not_false, Bool.and_true]
    by_cases at_ : i = j
    · simp [← at_, set]
    · simp [at_, Ne.symm at_]
  rw [only, List.filter_beq, upTo, List.count_eq_one_of_mem List.nodup_range (List.mem_range.mpr hi)]
  rfl

end Sys2Proof.Machine
end

section
/-! PROOF. The obligation of the host side on causes and their messages. -/

namespace Sys2Proof.Machine

/-- Settles O43: a cause by the cases of `Manager.raiseInt`, a write of INT_STATUS by the bits it clears, and a mask cleared by the one cause
it unmasks. -/
theorem causesAndMessages : Obligations.CausesAndMessages := by
  unfold Obligations.CausesAndMessages
  refine ⟨fun m fn i _ => ⟨?_, ?_, ?_, ?_, ?_, ?_⟩, fun s fn v on bound => ?_, fun s fn i on bound hi one set free => ?_⟩
  · rw [Manager.raiseInt_intStatus, decide_eq_true rfl, Bool.or_true]
  · exact fun j other => by rw [Manager.raiseInt_intStatus, decide_eq_false (Ne.symm other), Bool.or_false]
  · exact Manager.raiseInt_of_set
  · exact Manager.raiseInt_sends
  · exact Manager.raiseInt_pends
  · exact Manager.raiseInt_masked
  · refine ⟨_, exec_intStatusClear on bound v, rfl, by rw [Manager.fnSt_setFn_self], fun i => ?_, fun i _ named unmasked free => ?_⟩
    · rw [Manager.fnSt_setFn_self, bitOf_sub_and]
    · refine Manager.raiseInt_sends ?_ ?_ ?_
      · rw [Manager.fnSt_setFn_self, bitOf_sub_and, named, Bool.not_true, Bool.and_false]
      · rwa [Manager.fnSt_setFn_self]
      · rwa [Manager.fnSt_setFn_self]
  · refine ⟨_, exec_intMaskWrite on bound (by decide), ?_, ?_⟩
    · rw [one, unmasked_of_two_pow hi set, List.foldl_cons, List.foldl_nil]
      obtain ⟨pba, same⟩ := (s.mgr.setFn fn { s.mgr.fnSt fn with intMask := 0 }).fnSt_msi fn i
      rw [same, Manager.fnSt_setFn_self]
    · rw [one, unmasked_of_two_pow hi set, List.foldl_cons, List.foldl_nil, Manager.msi_sends (by rwa [Manager.fnSt_setFn_self])]
      rw [Manager.fnSt_setFn_self, Manager.setFn_msis]
      rfl

end Sys2Proof.Machine
end

section
/-! SUPPORT. What an interrupt leaves of the host side, and the doorbells that a write rings. -/

namespace Sys2Proof.Machine

/-! ### What an interrupt changes -/

/-- From one manager to another nothing has changed but the functions' registers and the messages sent. -/
def Manager.SignalsOnly (m n : Manager) : Prop := n = { m with host := { m.host with fns := n.host.fns, msis := n.host.msis } }

theorem Manager.SignalsOnly.refl (m : Manager) : m.SignalsOnly m := rfl

theorem Manager.SignalsOnly.trans {m n k : Manager} (h : m.SignalsOnly n) (g : n.SignalsOnly k) : m.SignalsOnly k := by
  unfold Manager.SignalsOnly at *
  rw [g, h]

theorem Manager.msi_signals (m : Manager) (fn vec : Nat) : m.SignalsOnly (m.msi fn vec) := by
  unfold Manager.msi
  dsimp only
  split <;> rfl

theorem Manager.raiseInt_signals (m : Manager) (fn cause : Nat) : m.SignalsOnly (m.raiseInt fn cause) := by
  cases set : bitOf (m.fnSt fn).intStatus cause with
  | true =>
    rw [Manager.raiseInt_of_set set]
    exact .refl m
  | false =>
    rw [Manager.raiseInt_of_clear set]
    split
    · rfl
    · exact .trans (n := m.setFn fn _) rfl (Manager.msi_signals _ fn cause)

theorem Manager.raiseCtx_signals (m : Manager) (c cause : Nat) : m.SignalsOnly (m.raiseCtx c cause) := by
  unfold Manager.raiseCtx
  split
  · exact m.raiseInt_signals _ cause
  · exact .refl m

@[simp] theorem Manager.raiseCtx_doorbells (m : Manager) (c cause : Nat) : (m.raiseCtx c cause).host.doorbells = m.host.doorbells := by
  rw [m.raiseCtx_signals c cause]

/-! ### Doorbells (R388) -/

theorem Manager.dbSet_of_set {m : Manager} {b : Nat} (set : m.host.doorbells.getLsbD b = true) : m.dbSet b = m := if_pos set

/-- A bit that rises raises DOORBELL at the function of its owner's context. -/
theorem Manager.dbSet_of_owned {m : Manager} {b c : Nat} (clear : m.host.doorbells.getLsbD b = false) (owner : m.mboxOwner (b / 4) = some c) :
    m.dbSet b =
      (({ m with host := { m.host with doorbells := m.host.doorbells ||| (1#256 <<< b) } } : Manager).bump (ctxKey Obj.MBX_DB c)).raiseCtx c 2 := by
  refine (if_neg (Bool.eq_false_iff.mp clear)).trans ?_
  dsimp only
  have same : Manager.mboxOwner { m with host := { m.host with doorbells := m.host.doorbells ||| (1#256 <<< b) } } (b / 4) = some c := owner
  rw [same]

theorem getLsbD_one_shiftLeft {i : Nat} (hi : i < 256) (b : Nat) : (1#256 <<< b).getLsbD i = decide (b = i) := by
  rw [BitVec.getLsbD_shiftLeft, BitVec.getLsbD_one, decide_eq_true hi]
  by_cases at_ : b = i
  · simp [at_]
  · simp [at_]
    omega

theorem Manager.getLsbD_dbSet (m : Manager) (b : Nat) {i : Nat} (hi : i < 256) :
    (m.dbSet b).host.doorbells.getLsbD i = (m.host.doorbells.getLsbD i || decide (b = i)) := by
  cases set : m.host.doorbells.getLsbD b with
  | true =>
    rw [Manager.dbSet_of_set set]
    by_cases at_ : b = i
    · rw [← at_, set, Bool.true_or]
    · rw [decide_eq_false at_, Bool.or_false]
  | false =>
    have risen : (m.dbSet b).host.doorbells = m.host.doorbells ||| (1#256 <<< b) := by
      unfold Manager.dbSet
      rw [if_neg (Bool.eq_false_iff.mp set)]
      dsimp only
      split
      · rw [Manager.raiseCtx_doorbells]
        rfl
      · rfl
    rw [risen, BitVec.getLsbD_or, getLsbD_one_shiftLeft hi]

theorem Manager.getLsbD_dbClear (m : Manager) (b : Nat) {i : Nat} (hi : i < 256) :
    (m.dbClear b).host.doorbells.getLsbD i = (m.host.doorbells.getLsbD i && !decide (b = i)) := by
  rw [Manager.dbClear, BitVec.getLsbD_and, BitVec.getLsbD_not, getLsbD_one_shiftLeft hi, decide_eq_true hi, Bool.true_and]

theorem Manager.getLsbD_foldl_dbSet (l : List Nat) (m : Manager) {i : Nat} (hi : i < 256) :
    (l.foldl Manager.dbSet m).host.doorbells.getLsbD i = (m.host.doorbells.getLsbD i || l.contains i) := by
  induction l generalizing m with
  | nil => rw [List.foldl_nil, List.contains_nil, Bool.or_false]
  | cons b l ih =>
    rw [List.foldl_cons, ih, m.getLsbD_dbSet b hi, List.contains_cons, Bool.or_assoc, Bool.beq_eq_decide_eq]
    simp only [eq_comm]

theorem Manager.getLsbD_foldl_dbClear (l : List Nat) (m : Manager) {i : Nat} (hi : i < 256) :
    (l.foldl Manager.dbClear m).host.doorbells.getLsbD i = (m.host.doorbells.getLsbD i && !l.contains i) := by
  induction l generalizing m with
  | nil => rw [List.foldl_nil, List.contains_nil, Bool.not_false, Bool.and_true]
  | cons b l ih =>
    rw [List.foldl_cons, ih, m.getLsbD_dbClear b hi, List.contains_cons, Bool.not_or, Bool.and_assoc, Bool.beq_eq_decide_eq]
    simp only [eq_comm]

theorem contains_filter (l : List Nat) (p : Nat → Bool) (i : Nat) : (l.filter p).contains i = (l.contains i && p i) := by
  rw [Bool.eq_iff_iff, Bool.and_eq_true, List.contains_iff_mem, List.contains_iff_mem, List.mem_filter]

/-- A quadword's write acts on the bits it names that the function may ring; where it names another that is counted. -/
theorem Manager.ring_rings (m : Manager) (fn q v : Nat) (f : Manager → Nat → Manager) :
    ∃ n : Manager, n.host = m.host ∧ m.ring fn q v f = ((quadBits q v).filter (fun b => m.mayRing fn b)).foldl f n := by
  cases all : (quadBits q v).all (fun b => m.mayRing fn b) with
  | true => exact ⟨m, rfl, by rw [Manager.ring, all, if_pos rfl]⟩
  | false =>
    refine ⟨m.badAccess, rfl, ?_⟩
    rw [Manager.ring, all, if_neg Bool.false_ne_true]
    rfl

/-- A function rings no bit of a mailbox of another context. -/
theorem Manager.mayRing_of_foreign {m : Manager} {fn i : Nat} (virtual : fn ≠ 0) (host : fn ≠ fwFn) (foreign : m.mboxOwner (i / 4) ≠ m.fnCtx fn) :
    m.mayRing fn i = false := by
  simp [Manager.mayRing, Manager.mayPost, virtual, host, foreign]

theorem exec_dbSet {s : State} {fn q : Nat} (free : s.mgr.bellsHeld fn = false) (hq : q < 4) (v : Nat) :
    exec (.dbSet fn q v) s = s.withMgr (s.mgr.ring fn q v Manager.dbSet) := if_neg (by simp [free, hq])

theorem exec_dbClear {s : State} {fn q : Nat} (free : s.mgr.bellsHeld fn = false) (hq : q < 4) (v : Nat) :
    exec (.dbClear fn q v) s = s.withMgr (s.mgr.ring fn q v Manager.dbClear) := if_neg (by simp [free, hq])

end Sys2Proof.Machine
end

section
/-! PROOF. The obligation of the host side on doorbells. -/

namespace Sys2Proof.Machine

/-- Settles O49: a write is a fold over the bits that its function may ring, and each bit's own rule is `Manager.dbSet`'s or `Manager.dbClear`'s. -/
theorem doorbellsAreOwned : Obligations.DoorbellsAreOwned := by
  unfold Obligations.DoorbellsAreOwned
  refine ⟨fun s fn q v free hq => ⟨⟨_, exec_dbSet free hq v, fun i hi => ?_⟩, ⟨_, exec_dbClear free hq v, fun i hi => ?_⟩⟩,
    fun m fn i => Manager.mayRing_of_foreign, fun m i c _ => ⟨Manager.dbSet_of_set, Manager.dbSet_of_owned⟩⟩
  · obtain ⟨n, same, rung⟩ := s.mgr.ring_rings fn q v Manager.dbSet
    rw [rung, Manager.getLsbD_foldl_dbSet _ _ hi, contains_filter, same]
  · obtain ⟨n, same, rung⟩ := s.mgr.ring_rings fn q v Manager.dbClear
    rw [rung, Manager.getLsbD_foldl_dbClear _ _ hi, contains_filter, same]

end Sys2Proof.Machine
end

section
/-! SUPPORT. What the windows of the host change: the device and the host side alone. -/

namespace Sys2Proof.Machine

/-- From one manager to another nothing has changed but the device and the host side. -/
def Manager.WindowOnly (m n : Manager) : Prop := n = { m with dev := n.dev, host := n.host }

namespace Manager.WindowOnly

theorem refl (m : Manager) : m.WindowOnly m := rfl

theorem trans {m n k : Manager} (h : m.WindowOnly n) (g : n.WindowOnly k) : m.WindowOnly k := by
  unfold Manager.WindowOnly at *
  rw [g, h]

theorem ite {m n k : Manager} {c : Prop} [Decidable c] (h : m.WindowOnly n) (g : m.WindowOnly k) : m.WindowOnly (if c then n else k) := by
  split <;> assumption

theorem foldl {α : Type} {m n : Manager} (h : m.WindowOnly n) (f : Manager → α → Manager) (step : ∀ (k : Manager) x, k.WindowOnly (f k x))
    (l : List α) : m.WindowOnly (l.foldl f n) :=
  List.foldlRecOn (motive := fun k => m.WindowOnly k) l f h fun k e x _ => e.trans (step k x)

theorem signals {m n : Manager} (h : m.SignalsOnly n) : m.WindowOnly n := by
  unfold Manager.SignalsOnly at h
  rw [h]
  rfl

end Manager.WindowOnly

theorem Manager.bump_window (m : Manager) (k : Nat) : m.WindowOnly (m.bump k) := rfl

theorem Manager.badAccess_window (m : Manager) : m.WindowOnly m.badAccess := m.bump_window _

theorem Manager.returns_window (m : Manager) (v : Nat) : m.WindowOnly (m.returns v) := rfl

/-! ### Doorbells and sync objects -/

/-- From one manager to another nothing has changed but the device and the host side, and there no sync object. -/
structure Manager.RingsOnly (m n : Manager) : Prop where
  window : m.WindowOnly n
  syncs : n.host.syncs = m.host.syncs

namespace Manager.RingsOnly

theorem refl (m : Manager) : m.RingsOnly m := ⟨rfl, rfl⟩

theorem trans {m n k : Manager} (h : m.RingsOnly n) (g : n.RingsOnly k) : m.RingsOnly k := ⟨h.window.trans g.window, g.syncs.trans h.syncs⟩

theorem ite {m n k : Manager} {c : Prop} [Decidable c] (h : m.RingsOnly n) (g : m.RingsOnly k) : m.RingsOnly (if c then n else k) := by
  split <;> assumption

theorem signals {m n : Manager} (h : m.SignalsOnly n) : m.RingsOnly n := ⟨.signals h, by rw [h]⟩

end Manager.RingsOnly

theorem Manager.dbSet_rings (m : Manager) (b : Nat) : m.RingsOnly (m.dbSet b) := by
  unfold Manager.dbSet
  extract_lets _ n
  have risen : m.RingsOnly n := ⟨rfl, rfl⟩
  refine .ite (.refl m) ?_
  split
  next c _ =>
    have counted : n.RingsOnly (n.bump (ctxKey Obj.MBX_DB c)) := ⟨rfl, rfl⟩
    exact (risen.trans counted).trans (.signals (Manager.raiseCtx_signals _ c 2))
  · exact risen

theorem Manager.fire_rings (m : Manager) (n : Nat) : m.RingsOnly (m.fire n) := by
  unfold Manager.fire
  extract_lets cfg
  split
  · exact .refl m
  next c _ =>
    have rung (db : Nat) : m.RingsOnly (if bitOf cfg 26 then m.dbSet db else m) := .ite (m.dbSet_rings db) (.refl m)
    have raised (db : Nat) := Manager.RingsOnly.ite (c := bitOf cfg 3 = true) ((rung db).trans (.signals (Manager.raiseCtx_signals _ c 3))) (rung db)
    exact .ite (.refl m) (.ite (raised _) ((raised _).trans (.signals (Manager.msi_signals _ 0 _))))

theorem Manager.syncPut_window (m : Manager) (n v : Nat) : m.WindowOnly (m.syncPut n v) := by
  unfold Manager.syncPut
  extract_lets o fires put
  have puts : m.WindowOnly put := rfl
  exact .ite (puts.trans (put.fire_rings n).window) puts

theorem Manager.syncWrite_window (m : Manager) (fn n : Nat) {f : Manager → Manager} (hf : ∀ k : Manager, k.WindowOnly (f k)) :
    m.WindowOnly (m.syncWrite fn n f) :=
  .ite (.refl m) (.ite m.badAccess_window ((m.bump_window _).trans (hf _)))

theorem Manager.syncRead_window (m : Manager) (fn n : Nat) {f : Manager → Manager} (hf : ∀ k : Manager, k.WindowOnly (f k)) :
    m.WindowOnly (m.syncRead fn n f) :=
  .ite (.refl m) <| .ite (m.returns_window _) <| .ite (m.returns_window _) <|
    .ite (m.badAccess_window.trans (m.badAccess.returns_window 0)) ((m.bump_window _).trans (hf _))

theorem Manager.acq_window (m : Manager) (fn n : Nat) : m.WindowOnly (m.acq fn n) := by
  unfold Manager.acq
  extract_lets o
  split
  · refine .ite rfl ?_
    split
    · rfl
    · rfl
  · exact .ite rfl rfl
  · rfl

theorem Manager.ring_window (m : Manager) (fn q v : Nat) {f : Manager → Nat → Manager} (hf : ∀ (k : Manager) b, k.WindowOnly (f k b)) :
    m.WindowOnly (m.ring fn q v f) := by
  unfold Manager.ring
  extract_lets bits n
  have counted : m.WindowOnly n := .ite (.refl m) m.badAccess_window
  exact counted.foldl _ hf _

/-! ### Mailboxes and CRC feeds -/

theorem Manager.post_window (m : Manager) (b : Nat) : m.WindowOnly (m.post b) := by
  unfold Manager.post
  extract_lets c crc v n
  have drawn : m.WindowOnly n := .ite (.refl m) rfl
  exact .ite (drawn.trans rfl) (drawn.trans rfl)

theorem Manager.takeMsg_window (m : Manager) (box code : Nat) {eff : Manager → Nat → List Byte → Manager}
    (he : ∀ (k : Manager) c p, k.WindowOnly (eff k c p)) : m.WindowOnly (m.takeMsg box code eff) := by
  unfold Manager.takeMsg
  extract_lets x c n
  have taken : m.WindowOnly n := rfl
  exact .ite (.refl m) ((taken.trans (n.bump_window _)).trans (he _ _ _))

theorem Manager.feed_window (m : Manager) (fn k n v : Nat) : m.WindowOnly (m.feed fn k n v) := by
  unfold Manager.feed
  extract_lets w acc d
  have drawn : m.WindowOnly d := .ite (.refl m) rfl
  exact .ite (.refl m) (drawn.trans rfl)

/-! ### Commands of the windows -/

/-- The outcome is a next state in which only the manager's device and host side have changed. -/
def WindowTurn (s : State) (o : Out) : Prop := ∃ m, o = s.withMgr m ∧ s.mgr.WindowOnly m

theorem WindowTurn.same (s : State) : WindowTurn s (.next s) := ⟨s.mgr, rfl, .refl s.mgr⟩

theorem WindowTurn.next {s : State} {m : Manager} (h : s.mgr.WindowOnly m) : WindowTurn s (.next { s with mgr := m }) := ⟨m, rfl, h⟩

theorem WindowTurn.ite {s : State} {o p : Out} {c : Prop} [Decidable c] (h : WindowTurn s o) (g : WindowTurn s p) :
    WindowTurn s (if c then o else p) := by
  split <;> assumption

section
variable (s : State) (fn k n v : Nat)

theorem execIntStatusClear_window : WindowTurn s (execIntStatusClear fn v s) := .ite (.same s) (.next rfl)

theorem execIntMaskWrite_window : WindowTurn s (execIntMaskWrite fn v s) :=
  have masked (f : HostFn) : s.mgr.WindowOnly (s.mgr.setFn fn f) := rfl
  .ite (.same s) (.next ((masked _).foldl _ (fun m i => .signals (m.msi_signals fn i)) _))

theorem execMbAckHost_window : WindowTurn s (execMbAckHost k s) := by
  unfold execMbAckHost
  extract_lets m
  refine .ite (.same s) ?_
  split
  · exact .same s
  · exact .next rfl
  · extract_lets shown
    have shows : m.WindowOnly shown := rfl
    exact .next (shows.trans (.signals (shown.raiseCtx_signals _ 6)))

theorem execHostMailboxGo_window : WindowTurn s (execHostMailboxGo fn k s) := by
  unfold execHostMailboxGo
  extract_lets m gone
  have goes : m.WindowOnly gone := rfl
  exact .ite (.same s) (.ite (.next m.badAccess_window) (.ite (.same s) (.next (.ite (goes.trans (gone.post_window k)) goes))))

theorem execMbDoorbell_window : WindowTurn s (execMbDoorbell k s) := .next (s.mgr.takeMsg_window k 0 fun _ _ _ => rfl)
theorem execPing_window : WindowTurn s (execPing k s) := .next (s.mgr.takeMsg_window k 1 fun _ _ _ => rfl)

theorem execDbSet_window : WindowTurn s (execDbSet fn k v s) :=
  .ite (.same s) (.next (s.mgr.ring_window fn k v fun m b => (m.dbSet_rings b).window))
theorem execDbClear_window : WindowTurn s (execDbClear fn k v s) := .ite (.same s) (.next (s.mgr.ring_window fn k v fun _ _ => rfl))

theorem execCfCtl_window : WindowTurn s (execCfCtl fn k v s) := by
  unfold execCfCtl
  extract_lets m code acc d
  have drawn : m.WindowOnly d := .ite (.refl m) rfl
  exact .ite (.same s) (.next (drawn.trans rfl))

theorem execCfFeed8_window : WindowTurn s (execCfFeed8 fn k v s) := .next (s.mgr.feed_window fn k 1 v)
theorem execCfFeed16_window : WindowTurn s (execCfFeed16 fn k v s) := .next (s.mgr.feed_window fn k 2 v)
theorem execCfFeed32_window : WindowTurn s (execCfFeed32 fn k v s) := .next (s.mgr.feed_window fn k 4 v)

theorem execSoCfg_window : WindowTurn s (execSoCfg fn n v s) := .next (s.mgr.syncWrite_window fn n fun _ => rfl)

theorem execSoValueWrite_window : WindowTurn s (execSoValueWrite fn n v s) :=
  .next (s.mgr.syncWrite_window fn n fun m => by
    split
    · exact m.syncPut_window n _
    · exact m.syncPut_window n _
    · exact .refl m)

theorem execSoOpCounter_window : WindowTurn s (execSoOpCounter fn n v s) :=
  .next (s.mgr.syncWrite_window fn n fun m => .ite (m.syncPut_window n _) (.refl m))
theorem execSoOpSemaphore_window : WindowTurn s (execSoOpSemaphore fn n v s) :=
  .next (s.mgr.syncWrite_window fn n fun m => .ite (m.syncPut_window n _) (.refl m))

theorem execSoOpLockRelease_window : WindowTurn s (execSoOpLockRelease fn n s) :=
  .next (s.mgr.syncWrite_window fn n fun m => by
    extract_lets o o' freed
    have frees : m.WindowOnly freed := rfl
    exact .ite (.refl m) (.ite (frees.trans (freed.fire_rings n).window) frees))

theorem execSoOpEventSet_window : WindowTurn s (execSoOpEventSet fn n s) :=
  .next (s.mgr.syncWrite_window fn n fun m => .ite (m.syncPut_window n 1) (.refl m))
theorem execSoOpEventClear_window : WindowTurn s (execSoOpEventClear fn n s) :=
  .next (s.mgr.syncWrite_window fn n fun m => .ite (m.syncPut_window n 0) (.refl m))
theorem execSoTargetWrite_window : WindowTurn s (execSoTargetWrite fn n v s) :=
  .next (s.mgr.syncWrite_window fn n fun m => .ite rfl (.refl m))

theorem execLockAcq_window : WindowTurn s (execLockAcq fn n s) := .next (s.mgr.syncRead_window fn n fun m => m.acq_window fn n)
theorem execSemAcq_window : WindowTurn s (execSemAcq fn n s) := .next (s.mgr.syncRead_window fn n fun m => m.acq_window fn n)
theorem execLockTicket_window : WindowTurn s (execLockTicket fn n s) :=
  .next (s.mgr.syncRead_window fn n fun _ => .ite rfl (.ite rfl rfl))

theorem execLaneFailure_window (lanes frames : Nat) : WindowTurn s (execLaneFailure lanes frames s) :=
  .ite (.next rfl) (.ite (.same s) (.next rfl))

theorem execBarrierDown_window : WindowTurn s (execBarrierDown s) := by
  unfold execBarrierDown
  extract_lets m
  have down : m.WindowOnly { m with host := { m.host with barrier := false } } := rfl
  exact .ite (.same s) (.next (down.trans (.signals (Manager.raiseInt_signals _ 0 7))))

theorem execFwHeartbeat_window : WindowTurn s (execFwHeartbeat s) := by
  unfold execFwHeartbeat
  extract_lets m was _ beat
  have beats : m.WindowOnly beat := rfl
  exact .ite (.same s) (.next (.ite (beats.trans (.signals (beat.raiseInt_signals 0 7))) beats))

theorem execFwStall_window : WindowTurn s (execFwStall s) := by
  unfold execFwStall
  extract_lets m
  have stalled : m.WindowOnly { m with host := { m.host with fwStall := true } } := rfl
  exact .ite (.same s) (.next (stalled.trans (.signals (Manager.raiseInt_signals _ 0 7))))

end

end Sys2Proof.Machine
end

section
/-! PROOF. The obligation of the host side on what its windows leave as it was. -/

namespace Sys2Proof.Machine

/-- A command of the windows leaves everything but the manager's device and host side. -/
theorem WindowTurn.leaves {s t : State} {o : Out} (h : WindowTurn s o) (e : o = .next t) :
    t.mgr.eng = s.mgr.eng ∧ t.mgr.sl = s.mgr.sl ∧ t.mgr.fab = s.mgr.fab ∧ t.mgr.rt = s.mgr.rt ∧ t.mgr.inst = s.mgr.inst ∧ t.mgr.rcv = s.mgr.rcv ∧
    t.mgr.sec = s.mgr.sec ∧ t.mgr.red = s.mgr.red ∧ t.mgr.disc = s.mgr.disc ∧ t.mgr.cast = s.mgr.cast ∧ t.mgr.tl = s.mgr.tl ∧
    t.mgr.pwr = s.mgr.pwr ∧ t.agents = s.agents ∧ t.pending = s.pending := by
  obtain ⟨m, next, window⟩ := h
  cases next.symm.trans e
  dsimp only
  rw [window]
  exact ⟨rfl, rfl, rfl, rfl, rfl, rfl, rfl, rfl, rfl, rfl, rfl, rfl, rfl, rfl⟩

/-- Settles O53: each command of the windows is a `WindowTurn`. -/
theorem hostWindowsLeaveTheRest : Obligations.HostWindowsLeaveTheRest := by
  unfold Obligations.HostWindowsLeaveTheRest
  rintro s t fn k n v lanes frames (e | e | e | e | e | e | e | e | e | e | e | e | e | e | e | e | e | e | e | e | e | e | e | e | e | e | e)
  · exact (execIntStatusClear_window s fn v).leaves e
  · exact (execIntMaskWrite_window s fn v).leaves e
  · exact (execMbAckHost_window s k).leaves e
  · exact (execHostMailboxGo_window s fn k).leaves e
  · exact (execMbDoorbell_window s k).leaves e
  · exact (execPing_window s k).leaves e
  · exact (execDbSet_window s fn k v).leaves e
  · exact (execDbClear_window s fn k v).leaves e
  · exact (execCfCtl_window s fn k v).leaves e
  · exact (execCfFeed8_window s fn k v).leaves e
  · exact (execCfFeed16_window s fn k v).leaves e
  · exact (execCfFeed32_window s fn k v).leaves e
  · exact (execSoCfg_window s fn n v).leaves e
  · exact (execSoValueWrite_window s fn n v).leaves e
  · exact (execSoOpCounter_window s fn n v).leaves e
  · exact (execSoOpSemaphore_window s fn n v).leaves e
  · exact (execSoOpLockRelease_window s fn n).leaves e
  · exact (execSoOpEventSet_window s fn n).leaves e
  · exact (execSoOpEventClear_window s fn n).leaves e
  · exact (execSoTargetWrite_window s fn n v).leaves e
  · exact (execLockAcq_window s fn n).leaves e
  · exact (execSemAcq_window s fn n).leaves e
  · exact (execLockTicket_window s fn n).leaves e
  · exact (execLaneFailure_window s lanes frames).leaves e
  · exact (execBarrierDown_window s).leaves e
  · exact (execFwHeartbeat_window s).leaves e
  · exact (execFwStall_window s).leaves e

end Sys2Proof.Machine
end

section
/-! PROOF. The obligation of the host side on locks. -/

namespace Sys2Proof.Machine

/-! ### Releases (R401) -/

/-- A plain lock is released by its holder alone. -/
theorem releaseLock_of_other {rid h : Nat} {o : SyncObj} (plain : bitOf o.cfg 2 = false) (held : o.holder = some h) (other : h ≠ rid) :
    releaseLock rid o = o := by
  rw [releaseLock, plain, held, if_neg Bool.false_ne_true, if_neg (by simpa using other)]

theorem releaseLock_of_holder {rid : Nat} {o : SyncObj} (plain : bitOf o.cfg 2 = false) (held : o.holder = some rid) :
    releaseLock rid o = { o with holder := none } := by
  rw [releaseLock, plain, if_neg Bool.false_ne_true, if_pos held]

/-- An object put and fired, where it fires, is as it was put. -/
theorem Manager.sync_of_put {m t : Manager} {n : Nat} {o : SyncObj} {fires : Bool}
    (put : t = if fires then (m.setSync n o).fire n else m.setSync n o) : t.sync n = o := by
  have rings : (m.setSync n o).RingsOnly t := put ▸ .ite (Manager.fire_rings _ n) (.refl _)
  rw [← m.sync_setSync_self n o, Manager.sync, Manager.sync, rings.syncs]

/-- A next state that is given is the one answered. -/
theorem mgr_of_next {s t : State} {o : Out} {m : Manager} (given : o = s.withMgr m) (next : o = .next t) : t.mgr = m := by
  cases given.symm.trans next
  rfl

/-! ### The obligation -/

/-- Settles O54: LOCK_ACQ of a held lock only reads, a release is `releaseLock` by who asks, and a ticket is issued only while there is room. -/
theorem locksHaveOneHolder : Obligations.LocksHaveOneHolder := by
  unfold Obligations.LocksHaveOneHolder
  rintro s fn n _ on barrier ide hn reach rfl kind
  refine ⟨fun h t plain held next => ?_, fun h t plain held other next => ?_, fun t plain held next => ?_, fun t ticket next => ?_⟩
  · rw [mgr_of_next (exec_lockAcq_held on barrier ide hn reach kind plain held) next]
    exact ⟨rfl, rfl⟩
  · rw [Manager.sync_of_put (mgr_of_next (exec_soOpLockRelease on barrier ide hn reach kind) next), releaseLock_of_other plain held other]
    exact held
  · rw [Manager.sync_of_put (mgr_of_next (exec_soOpLockRelease on barrier ide hn reach kind) next), releaseLock_of_holder plain held]
  · rcases Nat.lt_or_ge (s.mgr.sync n).tickets.length 64 with room | full
    · rw [mgr_of_next (exec_lockTicket_issues on barrier ide hn reach kind ticket room) next]
      rw [Manager.sync_returns, Manager.sync_setSync_self, Manager.readBack_returns, Manager.readBack_setSync, Manager.bump_host]
      refine ⟨?_, fun _ => ⟨rfl, rfl, rfl⟩⟩
      rw [List.length_append, List.length_singleton]
      omega
    · rw [mgr_of_next (exec_lockTicket_full on barrier ide hn reach kind full) next, Manager.sync_returns, Manager.sync_bump]
      exact ⟨Nat.le_max_right _ _, fun room => absurd full (Nat.not_le.mpr room)⟩

end Sys2Proof.Machine
end

section
/-! PROOF. The obligation of the host side on requests that cross the barrier. -/

namespace Sys2Proof.Machine

/-- A write to a register without a row: outside the BARs it reaches nothing, else the region it falls in. -/
theorem exec_registerWrite {s : State} (on : s.mgr.host.perst = false) (fn bar off width value : Nat) :
    exec (.registerWrite fn bar off width value) s = s.withMgr
      (if barHolds fn bar off = false then s.mgr else if bar = 0 then s.mgr.writeBar0 fn off width value
       else if off < 0x4000 then s.mgr.writeRing fn off width value else s.mgr.widthOnly dqRegs off width) := by
  cases inside : barHolds fn bar off with
  | false => exact if_pos (by simp [inside])
  | true =>
    rw [if_neg Bool.false_ne_true.symm, apply_ite s.withMgr, apply_ite s.withMgr]
    exact if_neg (by simp [on, inside])

/-- A tail that leaves at most 255 outstanding, and takes back none, issues each descriptor that is new (R396). -/
theorem exec_dqTail {s : State} {fn v : Nat} {bufs : SMap (List Byte)} (on : s.mgr.host.perst = false) (word : v < 2 ^ 32)
    (room : (v + 2 ^ 32 - (s.mgr.fnSt fn).dqHead) % 2 ^ 32 ≤ 255)
    (onward : ((s.mgr.fnSt fn).dqTail + 2 ^ 32 - (s.mgr.fnSt fn).dqHead) % 2 ^ 32 ≤ (v + 2 ^ 32 - (s.mgr.fnSt fn).dqHead) % 2 ^ 32) :
    exec (.dqTail fn v bufs) s = s.withMgr ((ringSpan (s.mgr.fnSt fn).dqTail v).foldl (fun (m : Manager) i =>
      m.issue (.dqTail fn v bufs) (m.descReq fn i (mapGetD bufs i []))) (s.mgr.setFn fn { s.mgr.fnSt fn with dqTail := v })) := by
  show execDqTail fn v bufs s = _
  unfold execDqTail
  dsimp only
  rw [Nat.mod_eq_of_lt word, if_neg (Bool.eq_false_iff.mp on), if_neg (Nat.not_lt.mpr room), if_neg (Nat.not_lt.mpr onward)]

theorem exec_dqTail_overfull {s : State} {fn v : Nat} {bufs : SMap (List Byte)} (on : s.mgr.host.perst = false) (word : v < 2 ^ 32)
    (excess : 255 < (v + 2 ^ 32 - (s.mgr.fnSt fn).dqHead) % 2 ^ 32) : exec (.dqTail fn v bufs) s = s.withMgr s.mgr.badAccess := by
  show execDqTail fn v bufs s = _
  unfold execDqTail
  dsimp only
  rw [Nat.mod_eq_of_lt word, if_neg (Bool.eq_false_iff.mp on), if_pos excess]

/-- Settles O29, command by command: a request is issued past its checks, and an answer that has come fills its slot or completes its
descriptor. -/
theorem hostRequestsCross : Obligations.HostRequestsCross := by
  unfold Obligations.HostRequestsCross
  refine ⟨?_, ?_, ?_, ?_, ?_, ?_, ?_, ?_⟩
  · rintro s fn slot irq _ on own idle rfl
    refine (if_neg (Bool.eq_false_iff.mp on)).trans (if_neg ?_)
    rw [idle]
    rintro (⟨virtual, past⟩ | going)
    · exact own.elim virtual (Nat.not_lt.mpr past)
    · exact Bool.false_ne_true going
  · exact fun s fn slot irq on going => (if_neg (Bool.eq_false_iff.mp on)).trans (if_pos (.inr going))
  · rintro s fn slot a m _ barrier answered rfl
    show execDictReplyHost fn slot s = _
    unfold execDictReplyHost
    dsimp only
    rw [barrier, answered, if_neg (by decide)]
    dsimp only
    cases (mapGetD (m.fnSt fn).slots slot {}).go <;> rfl
  · rintro s fn v bufs _ rfl on word room onward
    exact exec_dqTail on word room onward
  · exact fun s fn v bufs on word excess => exec_dqTail_overfull on word excess
  · rintro s fn _ _ a m _ _ rfl rfl barrier waits answered rfl rfl
    show execDescriptorComplete fn s = _
    unfold execDescriptorComplete
    dsimp only
    rw [barrier, answered, if_neg (by simp [waits])]
  · exact fun s fn bar off width value on => exec_registerWrite on fn bar off width value
  · intro s fn c bound tenant
    show execFlr fn s = _
    unfold execFlr
    dsimp only
    rw [bound]
    exact if_neg tenant

end Sys2Proof.Machine
end

section
/-! PROOF. The obligation of the host side on mailboxes, doorbells, interrupt registers and CRC feed windows. -/

namespace Sys2Proof.Machine

/-! ### Mailboxes (R383-R385) -/

section
variable {s : State} {fn box : Nat}

theorem exec_hostMailboxGo_refused (on : s.mgr.host.perst = false) (ide : s.mgr.ideBlock = false) (inside : box < 64)
    (foreign : s.mgr.mayPost fn box = false) : exec (.hostMailboxGo fn box) s = s.withMgr s.mgr.badAccess :=
  (if_neg (by simp [on, ide, Nat.not_le.mpr inside])).trans (if_pos (by rw [foreign]; rfl))

/-- GO of an idle mailbox that the function owns: its message is posted now, or waits for the barrier (R384, R395). -/
theorem exec_hostMailboxGo (on : s.mgr.host.perst = false) (ide : s.mgr.ideBlock = false) (inside : box < 64) (own : s.mgr.mayPost fn box = true)
    (idle : (s.mgr.mbox box).go = false) : exec (.hostMailboxGo fn box) s = s.withMgr
      (if s.mgr.host.barrier then
        (s.mgr.onMbox box (fun x => { x with go := true, taken := false, done := false, waits := !s.mgr.host.barrier })).post box
       else s.mgr.onMbox box (fun x => { x with go := true, taken := false, done := false, waits := !s.mgr.host.barrier })) :=
  (if_neg (by simp [on, ide, Nat.not_le.mpr inside])).trans ((if_neg (by simp [own])).trans (if_neg (Bool.eq_false_iff.mp idle)))

end

/-- A posted message of the code that firmware takes is answered OK, and has its effect (R383, R385). -/
theorem Manager.takeMsg_posted {m : Manager} {box : Nat} (posted : (m.mbox box).posted = true) (runs : m.fwRuns = true)
    (eff : Manager → Nat → List Byte → Manager) :
    m.takeMsg box (m.mbox box).msgCode eff =
      eff ((m.onMbox box (fun x => { x with posted := false, alive := some (bitsOf x.hdr 31 24), acks := [none, some 0] })).bump
        (ctxKey Obj.MBX_DONE (m.mboxCtx box))) (m.mboxCtx box) (m.mbox box).payload :=
  if_neg (by simp [posted, runs])

/-! ### Doorbells (R388) -/

/-- A function that may ring every bit a quadword names rings them all. -/
theorem Manager.ring_owned {m : Manager} {fn q v : Nat} (own : ∀ b ∈ quadBits q v, m.mayRing fn b = true) (f : Manager → Nat → Manager) :
    m.ring fn q v f = (quadBits q v).foldl f m := by
  unfold Manager.ring
  dsimp only
  rw [if_pos (List.all_eq_true.mpr own), List.filter_eq_self.mpr own]

/-! ### CRC feed windows (R386, R387) -/

/-- Bytes fed to a window of a listed polynomial go through its accumulator, lowest first. -/
theorem Manager.feed_listed {m : Manager} {k : Nat} (on : m.host.perst = false) (inside : k < 4)
    (listed : (mapGetD m.host.feeds k {}).code < 4) (n v : Nat) :
    m.feed 0 k n v = { m with host := { m.host with feeds := mapSet m.host.feeds k { mapGetD m.host.feeds k {} with
      acc := (leBytes n v).foldl (crcFeed (mapGetD m.host.feeds k {}).code) (mapGetD m.host.feeds k {}).acc } } } := by
  refine (if_neg (by simp [on, Nat.not_le.mpr inside])).trans ?_
  dsimp only
  rw [if_pos listed, if_pos listed]

/-- Settles O30, command by command: a mailbox by its state, a doorbell write by the bits that its function owns, a feed by its window's
polynomial. -/
theorem mailboxesDoorbellsInterrupts : Obligations.MailboxesDoorbellsInterrupts := by
  unfold Obligations.MailboxesDoorbellsInterrupts
  refine ⟨?_, ?_, ?_, ?_, ?_, ?_⟩
  · refine fun s fn box on ide inside => ⟨exec_hostMailboxGo_refused on ide inside, fun own idle barrier => ?_, fun own idle barrier => ?_⟩
    · rw [exec_hostMailboxGo on ide inside own idle, barrier]
      rfl
    · rw [exec_hostMailboxGo on ide inside own idle, barrier]
      rfl
  · rintro s box _ _ _ rfl posted runs rfl rfl
    have takes (code : Nat) (is : (s.mgr.mbox box).msgCode = code) (eff : Manager → Nat → List Byte → Manager) :=
      congrArg s.withMgr (is ▸ Manager.takeMsg_posted posted runs eff)
    refine ⟨fun is => takes 0 is _, fun is => takes 1 is _, fun is => takes 2 is _, fun is => takes 3 is _⟩
  · refine fun s box rest barrier => ⟨fun next => ?_, fun code next => ?_⟩
    · show execMbAckHost box s = _
      unfold execMbAckHost
      dsimp only
      rw [next, if_neg (by simp [barrier])]
    · show execMbAckHost box s = _
      unfold execMbAckHost
      dsimp only
      rw [next, if_neg (by simp [barrier])]
      rfl
  · refine fun s fn q v free hq own => ⟨?_, ?_⟩
    · exact (exec_dbSet free hq v).trans (congrArg s.withMgr (Manager.ring_owned own _))
    · exact (exec_dbClear free hq v).trans (congrArg s.withMgr (Manager.ring_owned own _))
  · rintro s fn v _ on bound rfl
    exact ⟨exec_intStatusClear on bound v, exec_intMaskWrite on bound⟩
  · rintro s k v _ on inside rfl listed
    refine ⟨fun poly => ?_, ?_, ?_, ?_⟩
    · refine (if_neg (by simp [on, Nat.not_le.mpr inside])).trans ?_
      have byte : v % 256 = v := Nat.mod_eq_of_lt (by omega)
      dsimp only
      rw [byte, if_pos poly, if_pos poly]
    · exact congrArg s.withMgr (Manager.feed_listed on inside listed 1 v)
    · exact congrArg s.withMgr (Manager.feed_listed on inside listed 2 v)
    · exact congrArg s.withMgr (Manager.feed_listed on inside listed 4 v)

end Sys2Proof.Machine
end

section
/-! PROOF. The obligation of the host side on the barrier, its lanes and resets. -/

namespace Sys2Proof.Machine

/-! ### Reads of the host's registers -/

section
variable {m : Manager} {fn off w : Nat}

theorem Manager.hostRead_bar0 (on : m.host.perst = false) (inside : barHolds fn 0 off = true) : m.hostRead fn 0 off w = some (m.readBar0 fn off w) :=
  (if_neg (by simp [on, inside])).trans (if_pos rfl)

/-- Every function's BAR0 reaches below 4 MiB. -/
theorem barHolds_low (fn : Nat) (low : off < 0x400000) : barHolds fn 0 off = true := by
  unfold barHolds
  rw [if_pos rfl, decide_eq_true_eq]
  split <;> omega

/-- A host-side register reads through every function; all but HS_STATUS read zero through an unbound one. -/
theorem Manager.readBar0_hsReg (region : 0x104000 ≤ off ∧ off < 0x104100) : m.readBar0 fn off w =
    m.readAt hsRegs (off - 0x104000) w (if m.bound fn ∨ off = 0x104000 then m.hsReg fn (off - 0x104000) else 0) :=
  (if_neg (by omega)).trans (if_pos region)

theorem Manager.readAt_fits {t : List (Nat × Nat)} (fit : fits t off w = true) (v : Nat) : m.readAt t off w v = (m, v) := if_pos fit

/-- A register whose value is zero reads zero at every width. -/
theorem Manager.readAt_zero (t : List (Nat × Nat)) : ∃ n, m.readAt t off w 0 = (n, 0) := by
  unfold Manager.readAt
  split
  · exact ⟨_, rfl⟩
  · exact ⟨_, rfl⟩

theorem Manager.hsStatus_eq : m.hsStatus fn = m.host.lanes / 8 * 16 + (if (m.fnCtx fn).isSome then 0 else 8) +
    (if m.obj Obj.SC_MODE = 2 ∧ m.obj Obj.HL_IDE = 0 then 4 else 0) + (if m.host.fwStall then 2 else 0) + (if m.host.barrier then 1 else 0) := by
  have blocks : m.ideBlock = true ↔ m.obj Obj.SC_MODE = 2 ∧ m.obj Obj.HL_IDE = 0 := by
    simp [Manager.ideBlock, Manager.confidential]
  have ide : (if m.ideBlock then 4 else 0) = if m.obj Obj.SC_MODE = 2 ∧ m.obj Obj.HL_IDE = 0 then 4 else 0 := if_congr blocks rfl rfl
  rw [Manager.hsStatus, ide, Manager.bound]

theorem Manager.hostRead_hsStatus (on : m.host.perst = false) : m.hostRead fn 0 0x104000 4 = some (m, m.hsStatus fn) := by
  rw [Manager.hostRead_bar0 on (barHolds_low fn (by decide)), Manager.readBar0_hsReg (by decide), Manager.readAt_fits (by decide)]
  rw [if_pos (.inr rfl)]
  rfl

theorem Manager.hostRead_hsContext {c : Nat} (on : m.host.perst = false) (bound : m.fnCtx fn = some c) :
    m.hostRead fn 0 0x104004 4 = some (m, 0x80000000 + c) := by
  rw [Manager.hostRead_bar0 on (barHolds_low fn (by decide)), Manager.readBar0_hsReg (by decide), Manager.readAt_fits (by decide)]
  rw [if_pos (.inl (by rw [Manager.bound, bound]; rfl))]
  have named : m.hsContext fn = 0x80000000 + c := by
    unfold Manager.hsContext
    rw [bound]
    rfl
  exact congrArg (fun v => some (m, v)) named

/-- Past HS_STATUS an unbound function reads zero (R375). -/
theorem Manager.hostRead_unbound (on : m.host.perst = false) (unbound : m.fnCtx fn = none) (past : 0x104004 ≤ off) (low : off < 0x400000) :
    ∃ n, m.hostRead fn 0 off w = some (n, 0) := by
  have none_ : m.bound fn = false := by rw [Manager.bound, unbound]; rfl
  rw [Manager.hostRead_bar0 on (barHolds_low fn low)]
  rcases Nat.lt_or_ge off 0x104100 with inside | outside
  · rw [Manager.readBar0_hsReg ⟨by omega, inside⟩, none_, if_neg (by simp; omega)]
    obtain ⟨n, zero⟩ := m.readAt_zero (off := off - 0x104000) (w := w) hsRegs
    exact ⟨n, congrArg some zero⟩
  · unfold Manager.readBar0
    rw [if_neg (by omega), if_neg (by omega), none_, if_pos (by decide)]
    exact ⟨_, rfl⟩

/-- CF_RESULT reads the CRC of the bytes fed. -/
theorem Manager.hostRead_cfResult {k : Nat} (on : m.host.perst = false) (inside : k < 4) (listed : (mapGetD m.host.feeds k {}).code < 4) :
    m.hostRead 0 0 (0x103018 + 0x40 * k) 4 =
      some (m, crcFinal (mapGetD m.host.feeds k {}).code (mapGetD m.host.feeds k {}).acc) := by
  have window : (0x103018 + 0x40 * k - 0x103000) / 0x40 = k := by omega
  have register : (0x103018 + 0x40 * k) % 0x40 = 0x18 := by omega
  rw [Manager.hostRead_bar0 on (barHolds_low 0 (by omega))]
  unfold Manager.readBar0
  rw [if_neg (by omega), if_neg (by omega), if_neg (by simp [Manager.bound, Manager.fnCtx]), if_neg (by omega), if_neg (by omega),
    if_pos (by omega), window, register, Manager.readAt_fits (by decide)]
  exact congrArg (fun v => some (m, v)) (if_pos listed)

end

/-- Settles O32, command by command: a read by the region it falls in, and each command past the state it is for. -/
theorem barrierAndResets : Obligations.BarrierAndResets := by
  unfold Obligations.BarrierAndResets
  refine ⟨?_, ?_, ?_, ?_, ?_, ?_, ?_, ?_, ?_⟩
  · refine fun m fn off w on => ⟨fun _ => ?_, ?_, fun c bound _ => ?_, fun unbound _ past low => ?_, ?_, fun outside => ?_⟩
    · rw [Manager.hostRead_hsStatus on, Manager.hsStatus_eq]
    · exact Manager.hostRead_hsContext (c := 0) on (if_pos rfl)
    · exact Manager.hostRead_hsContext on bound
    · exact Manager.hostRead_unbound on unbound past low
    · rintro k _ inside rfl listed
      exact Manager.hostRead_cfResult on inside listed
    · exact if_pos (.inr (by simp [barHolds, outside]))
  · exact fun s up => if_neg (by simp [up])
  · exact fun s up runs => ⟨_, rfl, if_neg (by simp [up, runs])⟩
  · exact fun s runs on => if_neg (by simp [runs, on])
  · rintro s accepted _ _ down on powered awake rfl rfl
    exact if_neg (by simp [down, on, powered, awake])
  · intro s lanes frames width fewer
    exact (if_neg (Nat.ne_of_lt fewer)).trans (if_neg (by omega))
  · exact fun s frames => if_pos rfl
  · intro s
    exact ⟨_, rfl, rfl, rfl, rfl, rfl, rfl, rfl, rfl, rfl, rfl, rfl, rfl, rfl, rfl, rfl, rfl, rfl, rfl, rfl, rfl, rfl, rfl⟩
  · intro s rate width numVfs rid reset low high lanes few
    have up : trains rate width = true := by
      simp [trains, low, high, lanes]
    refine (if_neg (by simp [reset, up])).trans ?_
    dsimp only
    rw [Nat.min_eq_left few]

end Sys2Proof.Machine
end

section
/-! SUPPORT. Replay windows: what a counter accepted leaves held, and what the ingress of a keyed frame does to the windows. -/

namespace Sys2Proof.Machine

/-! ### Counters accepted (R418) -/

section
variable {w x : Window} {c : Nat}

/-- The window after a counter above the highest. -/
def Window.moved (w : Window) (c : Nat) : Window := { high := c, bits := (w.bits <<< (c - w.high)) ||| 1 }

/-- The window after a counter within it. -/
def Window.filled (w : Window) (c : Nat) : Window := { w with bits := w.bits ||| (1#1024 <<< (w.high - c)) }

theorem Window.accept_above (above : w.high < c) : Window.accept (some w) c = some (w.moved c) := if_pos above

theorem Window.accept_within (within : c ≤ w.high) (reached : w.high - c < 1024) (unheld : w.bits.getLsbD (w.high - c) = false) :
    Window.accept (some w) c = some (w.filled c) := (if_neg (Nat.not_lt.mpr within)).trans (if_pos ⟨reached, unheld⟩)

theorem Window.accept_repeat (within : c ≤ w.high) (held : 1024 ≤ w.high - c ∨ w.bits.getLsbD (w.high - c) = true) :
    Window.accept (some w) c = none := by
  refine (if_neg (Nat.not_lt.mpr within)).trans (if_neg ?_)
  rintro ⟨reached, unheld⟩
  rcases held with out | held
  · omega
  · rw [unheld] at held
    exact Bool.false_ne_true held

/-- Everything the acceptance of a counter can be: it lies above the highest, or within the window and is not held. -/
theorem Window.accept_cases (accepted : Window.accept (some w) c = some x) :
    (w.high < c ∧ x = w.moved c) ∨ (c ≤ w.high ∧ w.high - c < 1024 ∧ w.bits.getLsbD (w.high - c) = false ∧ x = w.filled c) := by
  rcases Nat.lt_or_ge w.high c with above | within
  · exact .inl ⟨above, Option.some.inj (accepted.symm.trans (Window.accept_above above))⟩
  · by_cases free : w.high - c < 1024 ∧ w.bits.getLsbD (w.high - c) = false
    · exact .inr ⟨within, free.1, free.2, Option.some.inj (accepted.symm.trans (Window.accept_within within free.1 free.2))⟩
    · have held : 1024 ≤ w.high - c ∨ w.bits.getLsbD (w.high - c) = true := by
        rwa [not_and_or, Nat.not_lt, Bool.not_eq_false] at free
      exact absurd (accepted.symm.trans (Window.accept_repeat within held)) (Option.some_ne_none x)

theorem Window.held_moved (above : w.high < c) {k : Nat} (low : k ≤ c) (reached : c - k < 1024) :
    (w.moved c).bits.getLsbD (c - k) = true ↔ k = c ∨ (k ≤ w.high ∧ w.high - k < 1024 ∧ w.bits.getLsbD (w.high - k) = true) := by
  have shown : (w.moved c).bits.getLsbD (c - k) =
      (decide (c - k < 1024) && !decide (c - k < c - w.high) && w.bits.getLsbD (c - k - (c - w.high)) || decide (c - k = 0)) := by
    rw [Window.moved, BitVec.getLsbD_or, BitVec.getLsbD_shiftLeft, BitVec.ofNat_eq_ofNat, BitVec.getLsbD_one]
    rfl
  rw [shown, decide_eq_true reached, Bool.true_and, Bool.or_eq_true, Bool.and_eq_true, Bool.not_eq_true', decide_eq_false_iff_not, decide_eq_true_eq]
  by_cases old : k ≤ w.high
  · have index : c - k - (c - w.high) = w.high - k := by omega
    rw [index]
    constructor
    · rintro (⟨-, held⟩ | same)
      · exact .inr ⟨old, by omega, held⟩
      · exact .inl (by omega)
    · rintro (same | ⟨-, -, held⟩)
      · exact .inr (by omega)
      · exact .inl ⟨by omega, held⟩
  · constructor
    · rintro (⟨past, -⟩ | same)
      · omega
      · exact .inl (by omega)
    · rintro (same | ⟨low, -, -⟩)
      · exact .inr (by omega)
      · exact absurd low old

theorem Window.held_filled (within : c ≤ w.high) {k : Nat} (low : k ≤ w.high) (reached : w.high - k < 1024) :
    (w.filled c).bits.getLsbD (w.high - k) = true ↔ k = c ∨ (k ≤ w.high ∧ w.high - k < 1024 ∧ w.bits.getLsbD (w.high - k) = true) := by
  have shown : (w.filled c).bits.getLsbD (w.high - k) = (w.bits.getLsbD (w.high - k) || decide (k = c)) := by
    rw [Window.filled, BitVec.getLsbD_or, BitVec.getLsbD_shiftLeft, BitVec.getLsbD_one, decide_eq_true reached]
    congr 1
    rw [Bool.eq_iff_iff]
    simp only [Bool.true_and, Bool.and_eq_true, Bool.not_eq_true', decide_eq_false_iff_not, decide_eq_true_eq, Nat.zero_lt_succ, true_and]
    omega
  rw [shown, Bool.or_eq_true, decide_eq_true_eq]
  constructor
  · rintro (held | same)
    · exact .inr ⟨low, reached, held⟩
    · exact .inl same
  · rintro (same | ⟨-, -, held⟩)
    · exact .inr same
    · exact .inl held

/-- After an acceptance exactly the counter and what was held, as far as the window still reaches, are held. -/
theorem Window.held_after (accepted : Window.accept (some w) c = some x) {k : Nat} (low : k ≤ x.high) (reached : x.high - k < 1024) :
    x.bits.getLsbD (x.high - k) = true ↔ k = c ∨ (k ≤ w.high ∧ w.high - k < 1024 ∧ w.bits.getLsbD (w.high - k) = true) := by
  obtain ⟨above, rfl⟩ | ⟨within, -, -, rfl⟩ := Window.accept_cases accepted
  · exact Window.held_moved above low reached
  · exact Window.held_filled within low reached

/-- A counter accepted once is refused from then on. -/
theorem Window.accept_once (accepted : Window.accept (some w) c = some x) : Window.accept (some x) c = none := by
  have inside : c ≤ x.high ∧ x.high - c < 1024 := by
    obtain ⟨-, rfl⟩ | ⟨within, reached, -, rfl⟩ := Window.accept_cases accepted
    · exact ⟨Nat.le_refl c, by show c - c < 1024; omega⟩
    · exact ⟨within, reached⟩
  exact Window.accept_repeat inside.1 (.inr ((Window.held_after accepted inside.1 inside.2).mpr (.inl rfl)))

end

/-! ### Windows at ingress (R418, R420) -/

@[simp] theorem Dev.learnMac_windows (d : Dev) (h : Hdr) : (d.learnMac h).net.windows = d.net.windows := by
  unfold Dev.learnMac
  split <;> rfl

@[simp] theorem Net.startGrace_windows (n : Net) (h : Hdr) (now : Nat) : (n.startGrace h now).windows = n.windows := by
  unfold Net.startGrace
  extract_lets old cur
  split <;> rfl

theorem Dev.verified_windows (d : Dev) (h : Hdr) (w : Window) :
    (d.verified h w).net.windows = mapSet d.net.windows (slotKey h.src h.assoc h.phase) w := by
  unfold Dev.verified
  rw [Dev.learnMac_windows, Net.startGrace_windows]

section
variable {d : Dev} {k : FrameKind} {h : Hdr} {gen : Nat → Option Nat} {off : Option Nat}

/-- A verified repeat is counted as REPLAY and has no other effect. -/
theorem Dev.ingressKeyed_repeat (key : d.net.keyFor h = some h.key) (intact : h.intact = true)
    (refused : Window.accept (mapGet d.net.windows (slotKey h.src h.assoc h.phase)) h.counter = none) :
    d.ingressKeyed k h gen off = ⟨d.bump Obj.FC_DROP_REPLAY, false⟩ := by
  unfold Dev.ingressKeyed
  rw [key]
  dsimp only
  rw [if_neg (by simp [intact]), refused]

/-- Whatever checks follow, a verified counter that is no repeat moves its own window, and that alone. -/
theorem Dev.ingressKeyed_windows {w : Window} (key : d.net.keyFor h = some h.key) (intact : h.intact = true)
    (accepted : Window.accept (mapGet d.net.windows (slotKey h.src h.assoc h.phase)) h.counter = some w) :
    (d.ingressKeyed k h gen off).dev.net.windows = mapSet d.net.windows (slotKey h.src h.assoc h.phase) w := by
  rw [← d.verified_windows h w]
  unfold Dev.ingressKeyed
  rw [key]
  dsimp only
  rw [if_neg (by simp [intact]), accepted]
  dsimp only
  split
  · rfl
  · split
    · rfl
    · split <;> rfl

/-- No frame changes the window of another sender or key. -/
theorem Dev.ingressKeyed_windows_ne {i : Nat} (other : i ≠ slotKey h.src h.assoc h.phase) :
    mapGet (d.ingressKeyed k h gen off).dev.net.windows i = mapGet d.net.windows i := by
  by_cases unverified : d.net.keyFor h ≠ some h.key ∨ h.intact = false
  · rw [(d.ingressKeyed_unverified k h gen off unverified).1]
  · rw [not_or, ne_eq, not_not, Bool.not_eq_false] at unverified
    obtain ⟨key, intact⟩ := unverified
    cases taken : Window.accept (mapGet d.net.windows (slotKey h.src h.assoc h.phase)) h.counter with
    | none => rw [Dev.ingressKeyed_repeat key intact taken, Dev.bump_net]
    | some w => rw [Dev.ingressKeyed_windows key intact taken, mapGet_mapSet_ne _ _ _ _ other]

end

end Sys2Proof.Machine
end

section
/-! PROOF. The obligation of the field network on replay windows. -/

namespace Sys2Proof.Machine

/-- Settles O42: a counter by the cases of `Window.accept`, and the ingress of a frame by whether its ICV verifies and its counter is accepted. -/
theorem windowAcceptsOnce : Obligations.WindowAcceptsOnce := by
  unfold Obligations.WindowAcceptsOnce
  refine ⟨fun w c => ⟨fun above => ⟨_, Window.accept_above above, rfl⟩, fun within reached unheld => ⟨_, Window.accept_within within reached unheld, rfl⟩,
    Window.accept_repeat, fun x accepted k => Window.held_after accepted, fun x => Window.accept_once⟩, fun d k h gen off => ⟨?_, ?_, ?_, ?_⟩⟩
  · exact d.ingressKeyed_unverified k h gen off
  · exact fun w key intact window refused => Dev.ingressKeyed_repeat key intact (window ▸ refused)
  · intro w x key intact window accepted
    rw [Dev.ingressKeyed_windows key intact (window ▸ accepted), mapGet_mapSet_self]
  · exact fun i => Dev.ingressKeyed_windows_ne

end Sys2Proof.Machine
end

section
/-! PROOF. The obligation of the field network on keys. -/

namespace Sys2Proof.Machine

/-- KEY_ACCEPT taken for an offer that waits, of a key other than an agent-agent one: the status says what becomes of the offer (R416, R545). -/
theorem exec_keyAccept {s : State} {hdr : Hdr} {assoc status : Nat} {phase : Bool} {o : Offer} (named : assoc ≠ 2)
    (taken : (s.mgr.pairSlot hdr).takes dictPlain hdr)
    (waits : ((s.mgr.pairSlot hdr).after dictPlain hdr).fab.offers.find? (fun o => o.nid == hdr.src && o.key == assoc && o.phase == phase) = some o)
    {m : Manager} (hm : m = ((s.mgr.pairSlot hdr).after dictPlain hdr).entry (.keyAccept hdr assoc phase status)) :
    exec (.keyAccept hdr assoc phase status) s = s.withMgr
      (if status = 0 then m.accepted hdr.src o
       else if status = 1 then { m with fab := { m.fab with offers := m.fab.offers.map (fun x => if x = o then { x with busy := some m.dev.time } else x) } }
       else m) := by
  have mine : (fun (o : Offer) => o.nid == hdr.src && o.key == assoc && o.phase == phase && (assoc != 2 || status != 0 || o.keyOf == hdr.key)) =
      fun o => o.nid == hdr.src && o.key == assoc && o.phase == phase := by
    funext o
    simp [named]
  rw [Manager.takes] at taken
  show execKeyAccept hdr assoc phase status s = _
  unfold execKeyAccept
  dsimp only
  have found : (s.mgr.pairSlot hdr).fab.offers.find? (fun o => o.nid == hdr.src && o.key == assoc && o.phase == phase) = some o := waits
  rw [taken, mine, if_neg (by decide), found, hm, apply_ite s.withMgr, apply_ite s.withMgr]
  rfl

/-- Settles O23, command by command: an offer and a grace time's end act at the device they name, KEY_ACCEPT by its status, and a key is renewed
where its sender leads. -/
theorem keysAreExchanged : Obligations.KeysAreExchanged := by
  unfold Obligations.KeysAreExchanged
  refine ⟨?_, ?_, ?_, ?_⟩
  · exact fun s die hdr assoc wrap peer expire peerAs salts phase sig key ports => ⟨rfl, rfl⟩
  · exact fun s hdr assoc status phase o m named taken waits hm => exec_keyAccept named taken waits hm
  · exact fun s die src assoc phase => ⟨rfl, rfl⟩
  · refine fun s die peer assoc => ⟨fun period leads sends => ?_, rfl⟩
    exact if_neg (by simp [period, leads, Option.isSome_iff_ne_none.mp sends])

end Sys2Proof.Machine
end

section
/-! PROOF. The obligation of bring-up at an agent: its start, HELLO, attestation and images. -/

namespace Sys2Proof.Machine

/-! ### The start (R434) -/

/-- An agent whose ports are trained leaves reset with the straps as sampled. -/
def Agent.leavesReset (a : Agent) (straps : Nat) : Agent :=
  ({ a with link := { a.link with straps := straps, lowSupply := false, held := false, asleep := false } }.setObj Obj.AG_SLOT a.dev.fw).setObj
    Obj.FN_P1_MODE (bitsOf straps 1 1)

/-- A warm start of an agent whose slot verifies trains its ports, unless the reference is lost, and begins HELLO. -/
theorem exec_agentStart_warm (s : State) (die p0 p1 straps : Nat) (other : Bool) :
    exec (.agentStart die false true other p0 p1 straps) s = s.withAgent die
      ((if (s.agent die).link.refLost then s.agent die else (s.agent die).onDev (fun d => { d with net := { d.net with
        ports := mapSet (mapSet d.net.ports 0 (portWord p0)) 1 (portWord p1) } })).leavesReset straps).startHello := by
  refine congrArg (s.withAgent die) ?_
  simp only [Bool.not_true, Bool.false_and, Bool.false_eq_true, if_false, if_true]
  split <;> rfl

/-! ### Images (R450-R454) -/

section
variable {a : Agent} {hdr : Hdr}

/-- A frame of a broadcast that is taken, and whose count is one an image can have, gets past its checks. -/
theorem Agent.take_counted (taken : a.takes bulkFrame hdr none) {count : Nat} (some_ : 0 < count) (few : count ≤ 2048) :
    (!(a.take bulkFrame hdr none).ok || count == 0 || decide (2048 < count)) = false := by
  rw [Agent.takes] at taken
  rw [taken]
  simp only [Bool.not_true, Bool.false_or, Bool.or_eq_false_iff, beq_eq_false_iff_ne, decide_eq_false_iff_not]
  omega

/-- A message to node firmware changes the agent's mailboxes and its counters alone (R329). -/
theorem Agent.post_frame (a : Agent) (box code : Nat) (data : List Byte) :
    ∃ o n, a.post box code data = { a with dev := { a.dev with objs := o }, node := n } := by
  unfold Agent.post Agent.postNext
  extract_lets b
  split
  · exact ⟨_, _, rfl⟩
  · split <;> exact ⟨_, _, rfl⟩

/-- An image that is complete is announced to the manager and to node firmware; the agent is otherwise as it was, but that it runs from the
other slot next (R454). -/
theorem Agent.announce_frame (a : Agent) (image : Nat) : ∃ b : Agent,
    ((({ a with bulk := { a.bulk with state := 4 } } : Agent).bulkReport image 4).onDev Dev.drawn).post 6 0x30
      ((({ a with bulk := { a.bulk with state := 4 } } : Agent).bulkReport image 4).dev.openBytes.take 56) = b ∧
    b.dev.fw = a.dev.fw ∧ b.bulk = { a.bulk with state := 4 } ∧ b.store = a.store ∧ b.ptable = a.ptable := by
  obtain ⟨o, n, posted⟩ := ((({ a with bulk := { a.bulk with state := 4 } } : Agent).bulkReport image 4).onDev Dev.drawn).post_frame 6 0x30
    ((({ a with bulk := { a.bulk with state := 4 } } : Agent).bulkReport image 4).dev.openBytes.take 56)
  refine ⟨_, posted, ?_, rfl, rfl, rfl⟩
  exact Dev.send_fw _ _

/-- ACTIVATE past its checks: of an image held COMPLETE the agent restarts into the other slot, of another it answers the state it has. -/
theorem exec_activate {s : State} {die image : Nat} {a : Agent} (taken : (s.agent die).takes dictCmd hdr none)
    (ha : a = (s.agent die).after dictCmd hdr none) (acc : a.accepts hdr = true) :
    exec (.activate die hdr image) s = s.withAgent die
      (if a.bulk.held ≠ some image ∨ a.bulk.state ≠ 1 then a.bulkReport image a.bulk.state
       else
        let b := ((({ a with bulk := { a.bulk with state := 4 } } : Agent).bulkReport image 4).onDev Dev.drawn).post 6 0x30
          ((({ a with bulk := { a.bulk with state := 4 } } : Agent).bulkReport image 4).dev.openBytes.take 56)
        (b.onDev (fun d => { d with fw := 1 - b.dev.fw })).stopCores b.dev.fw true true) := by
  subst ha
  exact congrArg (s.withAgent die) (if_neg (Bool.eq_false_iff.mp (Agent.take_carried taken acc)))

end

/-! ### The obligation -/

/-- Settles O24, command by command: a frame taken has its own effect, and each other command gets past the checks of the agent's state. -/
theorem attestationAndImages : Obligations.AttestationAndImages := by
  unfold Obligations.AttestationAndImages
  refine ⟨?_, ?_, ?_, ?_, ?_, ?_, ?_⟩
  · rintro s die p0 p1 straps other _ rfl
    exact ⟨_, exec_agentStart_warm s die p0 p1 straps other, rfl, rfl, rfl, rfl, rfl, rfl, rfl⟩
  · rintro s die _ rfl runs hears
    refine ⟨fun on up => ?_, fun off reported unnamed => ?_⟩
    · exact congrArg (s.withAgent die) (if_pos (by simp [on, up, runs, hears]))
    · exact congrArg (s.withAgent die) (if_pos (by simp [off, reported, unnamed, runs, hears]))
  · rintro s die nid fwd hdr nonce _ taken rfl
    exact congrArg (s.withAgent die) (Agent.take_acts taken _ _)
  · rintro s die image block count pass hdr data sig wr _ _ taken some_ few rfl unheld inside rfl
    refine congrArg (s.withAgent die) ((if_neg (Bool.eq_false_iff.mp (Agent.take_counted taken some_ few))).trans (if_neg ?_))
    exact not_or.mpr ⟨unheld, Nat.not_le.mpr inside⟩
  · rintro s die image count pass hdr _ taken some_ few rfl
    exact congrArg (s.withAgent die) (if_neg (Bool.eq_false_iff.mp (Agent.take_counted taken some_ few)))
  · rintro s die _ _ rfl due runs hears rfl
    exact congrArg (s.withAgent die) (if_neg (by simp [due, runs, hears]))
  · intro s die image hdr a taken ha acc
    refine ⟨fun unheld => ?_, fun held complete => ?_⟩
    · exact (exec_activate taken ha acc).trans (congrArg (s.withAgent die) (if_pos (.inl unheld)))
    · obtain ⟨b, announced, fw, bulk, store, ptable⟩ := a.announce_frame image
      refine ⟨b.onDev (fun d => { d with fw := 1 - b.dev.fw }), ?_, by rw [← fw]; rfl, bulk, store, ptable⟩
      rw [exec_activate taken ha acc, if_neg (by simp [held, complete]), announced, ← fw]

end Sys2Proof.Machine
end

section
/-! PROOF. The obligation of bring-up on hellos, attestation, the blueprint and the ready gate. -/

namespace Sys2Proof.Machine

/-- ATTEST_REPORT taken for a request that is outstanding, where the manager commands the fabric: what the report shows decides (R442, R444). -/
theorem exec_attestReport {s : State} {hdr : Hdr} {die debug : Nat} {sigOk : Bool} {nonce hello : Digest} {desc : List Byte} {m : Manager} {a : Att}
    (taken : s.mgr.takes attestReportFrame hdr) (hm : m = s.mgr.after attestReportFrame hdr) (asked : mapGet m.disc.atts die = some a)
    (stage : a.stage = 0) (known : a.hello = false) (active : m.active = true) (leads : m.leads = true) {n : Manager}
    (hn : n = m.entry (.attestReport hdr die sigOk nonce hello desc debug)) :
    exec (.attestReport hdr die sigOk nonce hello desc debug) s =
      if !sigOk ∨ !a.digests.contains nonce then s.withMgr (n.failAttest die a)
      else if hello ≠ sha256 (n.disc.hello die).payload then
        if a.newHello then s.withMgr (n.sendAttest die { a with sends := 0 })
        else s.withMgr (n.onDisc (fun x => { x with atts := mapSet x.atts die { a with hello := true } }))
      else s.withMgr (n.passAttest die a desc debug) := by
  subst hm hn
  have found : mapGet s.mgr.disc.atts die = some a := asked
  rw [Manager.takes] at taken
  show execAttestReport hdr die sigOk nonce hello desc debug s = _
  unfold execAttestReport
  dsimp only
  rw [taken, found]
  exact if_neg (not_or.mpr ⟨not_not_intro stage, not_or.mpr ⟨Bool.eq_false_iff.mp known, not_or.mpr
    ⟨Bool.eq_false_iff.mp (Bool.not_eq_eq_eq_not.mpr active), Bool.eq_false_iff.mp (Bool.not_eq_eq_eq_not.mpr leads)⟩⟩⟩)

/-- The image that a WRITE of BP_IMAGE leaves with the manager: it is held, and reads as good again. -/
def Manager.holdBp (m : Manager) (image : List Byte) : Manager :=
  { m.onDev (fun d => d.setBlob Obj.BP_IMAGE image) with failed := m.failed.filter (fun k => k != Obj.BP_IMAGE) }

/-- The first failure of a blueprint at a manager; an empty image is none (R438, R439). -/
def Manager.bpFailure (m : Manager) (image : List Byte) : Option BpFail :=
  if image.isEmpty then none else match bpCheck image with
    | some f => some f
    | none => m.nidChange image

theorem Manager.bpFailure_eq_none {m : Manager} {image : List Byte} (good : image = [] ∨ (bpCheck image = none ∧ m.nidChange image = none)) :
    m.bpFailure image = none := by
  unfold Manager.bpFailure
  obtain rfl | ⟨sound, keeps⟩ := good
  · rfl
  · rw [sound, keeps, ite_self]

theorem Manager.bpFailure_eq_some {m : Manager} {image : List Byte} {f : BpFail} (given : image ≠ []) (bad : bpCheck image = some f) :
    m.bpFailure image = some f := by
  unfold Manager.bpFailure
  rw [bad, if_neg (by simpa using given)]

/-- BP_IMAGE past its checks: the blueprint comes into force, or the first failure is named (R439, R446). -/
theorem exec_bpImage {s : State} {req : Req} {image : List Byte} (ok : s.mgr.passes req Obj.BP_IMAGE image) {m : Manager}
    (hm : m = s.mgr.entry (.bpImage req image)) :
    exec (.bpImage req image) s = s.withMgr ((match m.bpFailure image with
      | none => (m.holdBp image).acceptBp image
      | some f => ((((m.holdBp image).onDev Dev.drawn).setObj Obj.BP_RESULT f.code).setObj Obj.BP_OFFSET
          (f.at_ + (m.holdBp image).dev.openNat % max 1 f.size)).touchGate).answerWrite req 0) := by
  subst hm
  exact congrArg s.withMgr (Manager.hostWrite_granted _ _ _ _ _ _ _ ok rfl)

/-- DS_RESTART past its checks, while nothing is being staged (R446). -/
theorem exec_dsRestart {s : State} {req : Req} (ok : s.mgr.grants req Obj.DS_RESTART 1) (idle : s.mgr.inst.phase ≠ 2) {m : Manager}
    (hm : m = ((s.mgr.entry (.dsRestart req 1)).setObj Obj.DS_STATE 1).setObj Obj.DS_READY_MS 0) :
    exec (.dsRestart req 1) s = s.withMgr (((m.onDisc (fun x => { x with
      matches_ := [], atts := [], ended := [], failed := []
      redo := m.fab.nodes.foldl (fun (t : SMap Bool) n => mapSet t n.2.die false) [] })).rematch.touchGate.pump).answerWrite req 0) := by
  have still : m.inst.phase ≠ 2 := by
    rw [hm]
    exact (s.mgr.entry_inst (.dsRestart req 1)).symm ▸ idle
  have staged : (if m.inst.phase = 2 then m.abandon else m) = m := if_neg still
  refine (congrArg s.withMgr (Manager.cmd_granted _ _ _ _ _ _ _ _ ok rfl rfl)).trans ?_
  dsimp only
  rw [← hm, staged]

/-- Settles O36, command by command: each gets past the checks of the frame or of R341 and has its own effect. -/
theorem discoveryAndTheGate : Obligations.DiscoveryAndTheGate := by
  unfold Obligations.DiscoveryAndTheGate
  refine ⟨?_, ?_, ?_, ?_, ?_, ?_, ?_⟩
  · rintro s hdr payload _ taken rfl
    exact Manager.take_acts taken _ _
  · intro s hdr die debug sigOk nonce hello desc m n a taken hm asked stage known active leads hn
    have acts := exec_attestReport (sigOk := sigOk) (nonce := nonce) (hello := hello) (desc := desc) (debug := debug)
      taken hm asked stage known active leads hn
    refine ⟨fun sig fresh binds => ?_, fun bad => ?_⟩
    · rw [acts, if_neg (by rw [sig, fresh]; decide), if_neg (not_not_intro binds)]
    · rw [acts, if_pos (.inl (by rw [bad]; rfl))]
  · intro s active leads
    exact if_neg (by simp [active, leads])
  · intro s runs none_
    have empty : (s.mgr.entry .settleExpire).disc.atts.isEmpty = true := by
      rw [Manager.entry_disc, none_]
      rfl
    exact (if_neg (by simp [runs])).trans (congrArg s.withMgr (if_pos empty))
  · intro s req image m ok hm
    refine ⟨fun good => ?_, fun f given bad => ?_⟩
    · rw [exec_bpImage ok hm, Manager.bpFailure_eq_none good]
      rfl
    · refine ⟨f.at_ + (m.holdBp image).dev.openNat % max 1 f.size, Nat.le_add_right _ _, Nat.add_lt_add_left (Nat.mod_lt _ (by omega)) _, ?_⟩
      rw [exec_bpImage ok hm, Manager.bpFailure_eq_some given bad]
      rfl
  · rintro s req sub data _ ok rfl
    refine (congrArg s.withMgr (Manager.hostWrite_granted _ _ _ _ _ _ _ ok rfl)).trans ?_
    rw [Manager.entry_disc]
  · exact fun s req m ok idle hm => exec_dsRestart ok idle hm

end Sys2Proof.Machine
end

section
/-! PROOF. The obligation of bring-up on the broadcast of firmware. -/

namespace Sys2Proof.Machine

/-- FW_BROADCAST past its checks, of an image that does not read as failed and while nothing is broadcast: what the image is for decides
(R450, R451, R456). -/
theorem exec_fwBroadcast {s : State} {req : Req} (sigOk : Bool) (ok : s.mgr.grants req Obj.FW_GO 1) (idle : s.mgr.casting = false)
    (good : s.mgr.failed.contains Obj.FW_IMAGE = false) {m : Manager} (hm : m = s.mgr.entry (.fwBroadcast req sigOk)) :
    exec (.fwBroadcast req sigOk) s = s.withMgr ((
      if sigOk && imageOk m.cast.image 1 m.dev.floor then m.startCast
      else if sigOk && imageOk m.cast.image 2 m.dev.floor then
        (if m.obj Obj.RD_STATE = 2 then m.onDev (fun d => { d with fwVers := mapSet d.fwVers (1 - d.fw) (fieldAt m.cast.image 4 4), nextFw := some (1 - d.fw) })
         else m).setObj Obj.FW_STATE 4
      else m.setObj Obj.FW_STATE 6).answerWrite req 0) := by
  subst hm
  refine (if_neg ?_).trans (congrArg s.withMgr (Manager.cmd_granted _ _ _ _ _ _ _ _ ok rfl idle))
  exact fun failed => Bool.eq_false_iff.mp good failed.1

/-- BULK_REPORT taken from a target of the image being broadcast (R452). -/
theorem exec_bulkReport {s : State} {hdr : Hdr} {image : Nat} (state pass : Nat) (more : Bool) (missing : List (Nat × Nat))
    (taken : s.mgr.takes bulkFrame hdr) {m n : Manager} (hm : m = s.mgr.after bulkFrame hdr) (this : image = imageId m.cast.run)
    (target : m.cast.targets.contains hdr.src = true) (hn : n = m.entry (.bulkReport hdr image state pass more missing)) :
    exec (.bulkReport hdr image state pass more missing) s = s.withMgr ((n.onCast (fun c => { c with
      agents := mapSet c.agents hdr.src { state := state, pass := pass, more := more, missing := missing } })).tally.batchReport hdr.src state) := by
  subst hn
  rw [Manager.takes] at taken
  have acts : ¬ ((!(s.mgr.dev.ingress bulkFrame hdr s.mgr.genOf).ok) = true ∨ image ≠ imageId m.cast.run ∨ (!m.cast.targets.contains hdr.src) = true) := by
    rw [taken, target]
    simp [this]
  subst hm
  exact if_neg acts

/-- PASS_PLAN between two passes: the last pass ends the broadcast, another is followed by the next (R452, R453). -/
theorem exec_passPlan {s : State} (casts : s.mgr.obj Obj.FW_STATE = 1) (sent : s.mgr.cast.sent = true) {m : Manager}
    (hm : m = s.mgr.entry .passPlan) {l : List Nat} (hl : l = m.cast.targets.filter (fun n => (m.cast.of n).state != 1 && (m.cast.of n).state != 5)) :
    exec .passPlan s = s.withMgr (if l.isEmpty ∨ max 1 (m.obj Obj.FW_PASSES) ≤ m.obj Obj.FW_PASS then
      ((m.onCast (fun c => { c with failed := l, sent := false })).setObj Obj.FW_STATE 2).setObj Obj.FW_PASS 0 else m.nextPass l) := by
  subst hl hm
  exact (if_neg (by simp [casts, sent])).trans (apply_ite s.withMgr _ _ _).symm

/-- Settles O37, command by command: each gets past the checks of the frame, of R341 or of the broadcast's state, and has its own effect. -/
theorem firmwareIsBroadcast : Obligations.FirmwareIsBroadcast := by
  unfold Obligations.FirmwareIsBroadcast
  refine ⟨?_, ?_, ?_, ?_, ?_, ?_, ?_, ?_⟩
  · rintro s req image _ ok rfl
    exact congrArg s.withMgr (Manager.hostWrite_granted _ _ _ _ _ _ _ ok rfl)
  · exact fun s req sigOk m ok idle good hm => exec_fwBroadcast sigOk ok idle good hm
  · intro s casts unsent
    exact ⟨_, (s.mgr.entry .passSent).dev.openNat % 2 ^ 16, Nat.mod_lt _ (by decide), if_neg (by simp [casts, unsent]), rfl⟩
  · exact fun s hdr image state pass more missing m n taken hm this target hn =>
      exec_bulkReport state pass more missing taken hm this target hn
  · exact fun s m l casts sent hm hl => exec_passPlan casts sent hm hl
  · rintro s req _ ok idle rfl
    exact congrArg s.withMgr (Manager.cmd_granted _ _ _ _ _ _ _ _ ok rfl idle)
  · rintro s req _ ok rfl casts
    refine (congrArg s.withMgr (Manager.cmd_granted _ _ _ _ _ _ _ _ ok rfl rfl)).trans ?_
    rw [if_neg (by simp [casts])]
  · intro s activates batch
    exact if_neg (by simp [activates, batch])

end Sys2Proof.Machine
end

section
/-! PROOF. The obligation of the security chapter on its commands. -/

namespace Sys2Proof.Machine

/-- A level is a value of SC_DEBUG_REQ's one byte, so a WRITE of one that nothing else refuses is accepted (R341, R470). -/
theorem dictResult_scDebugReq : ∀ v ≤ 2, dictResult false Obj.SC_DEBUG_REQ true (leBytes 1 v) 0 0 0 0 = 0 := by
  decide +kernel

/-- SC_DEBUG_REQ past its checks asks for a level; INVASIVE is asked from NONE where the unit manages nothing (R470). -/
theorem exec_scDebugReq {s : State} {req : Req} {v : Nat} (start : StartIn) (ok : s.mgr.admits req Obj.SC_DEBUG_REQ v) (level : v ≤ 2)
    (calm : v = 2 → s.mgr.obj Obj.SC_DEBUG = 0 → s.mgr.managing = false) :
    exec (.scDebugReq req v start) s = s.withMgr ((s.mgr.answer req 0).askLevel v start) := by
  obtain ⟨reach, state⟩ := ok
  have allowed : s.mgr.debugState req v = 0 := by
    have open_ : (decide (v = 2) && s.mgr.obj Obj.SC_DEBUG == 0 && s.mgr.managing) = false := by
      simp only [Bool.and_eq_false_imp, Bool.and_eq_true, decide_eq_true_eq, beq_iff_eq]
      exact fun asks => calm asks.1 asks.2
    rw [Manager.debugState, if_neg (not_not_intro state), open_]
    rfl
  have accepts : dictResult false Obj.SC_DEBUG_REQ true (leBytes 1 v) (s.mgr.gateReach req Obj.SC_DEBUG_REQ true v) 0 (s.mgr.debugState req v) 0 = 0 := by
    rw [reach, allowed]
    exact dictResult_scDebugReq v level
  exact if_neg (not_or.mpr ⟨not_not_intro accepts, Nat.not_lt.mpr level⟩)

/-- SC_SPDM past its checks: the response is held, and the IDE stream reads the state it is left in (R373, R481). -/
theorem exec_scSpdm {s : State} {req : Req} {data : List Byte} (resp : List Byte) (ok : s.mgr.writeResult req Obj.SC_SPDM data = 0) {m : Manager}
    (hm : m = s.mgr.onDev (fun d => d.setBlob Obj.SC_SPDM resp)) :
    exec (.scSpdm req data resp none) s = s.withMgr (m.postHeld.answer req 0) ∧
    ∀ k < 4, exec (.scSpdm req data resp (some k)) s =
      s.withMgr (((m.setObj Obj.SP_IDE_STATE k).setObj Obj.HL_IDE (if k = 2 then 1 else 0)).postHeld.answer req 0) := by
  subst hm
  refine ⟨if_neg (not_not_intro ok), fun k small => (if_neg (not_not_intro ok)).trans ?_⟩
  simp only [Nat.mod_eq_of_lt small]

/-- Settles O38, command by command: each gets past the checks of R341 or of the module's state, and has its own effect. -/
theorem securityCommands : Obligations.SecurityCommands := by
  unfold Obligations.SecurityCommands
  refine ⟨?_, ?_, ?_, ?_, ?_, ?_, ?_, ?_, ?_, ?_, ?_, ?_, ?_, ?_, ?_, ?_⟩
  · refine fun s req ok => ⟨fun issues => ?_, fun stops => ?_⟩
    · exact (if_neg (not_not_intro ok)).trans (if_neg (Bool.eq_false_iff.mp issues))
    · exact (if_neg (not_not_intro ok)).trans (if_pos stops)
  · exact fun s => rfl
  · exact fun s req sigOk start ok => congrArg s.withMgr (Manager.ownCmd_granted _ _ _ _ _ _ _ ok rfl rfl)
  · intro s req start reach state
    exact (if_neg (not_not_intro reach)).trans ((if_neg (not_not_intro state)).trans (if_neg (by decide)))
  · exact fun s req v start ok level calm => exec_scDebugReq start ok level calm
  · intro s start raised ends
    exact if_neg (not_or.mpr ⟨raised, by rw [Option.isNone_eq_false_iff.mpr ends]; decide⟩)
  · intro s die start granted
    exact congrArg (s.withAgent die) (if_neg (by rw [Option.isNone_eq_false_iff.mpr granted]; decide))
  · intro s req v ok listed
    have lists : (if fusesListed v then [v] else []).contains v = true := by simp [listed]
    exact congrArg s.withMgr (Manager.ownCmd_granted _ _ _ _ _ _ _ ok lists rfl)
  · exact fun s req ok => congrArg s.withMgr (Manager.ownCmd_granted _ _ _ _ _ _ _ ok rfl rfl)
  · exact fun s req ok rests => congrArg s.withMgr (Manager.ownCmd_granted _ _ _ _ _ _ _ ok rfl rests)
  · intro s period awake
    exact (if_neg period).trans (if_neg (Bool.eq_false_iff.mp awake))
  · intro s sweeps awake
    exact if_neg (by simp [sweeps, awake])
  · intro s issues
    exact if_neg (Bool.eq_false_iff.mp issues)
  · intro s stops
    exact if_neg (by simp [stops])
  · intro s req data resp k m ok small hm
    obtain ⟨same, takes⟩ := exec_scSpdm resp ok hm
    exact ⟨same, takes k small⟩
  · intro s secure
    exact if_neg secure

end Sys2Proof.Machine
end

section
/-! PROOF. The obligation of the event recorder on clears. -/

namespace Sys2Proof.Machine

/-- The record that a device writes next where its ring begins. -/
def Dev.recAtStart (d : Dev) (sev code ctx : Nat) (payload : List Byte) : EvRec :=
  { seq := d.log.seq, time := d.time, sev := sev, code := code, ctx := ctx, payload := payload, off := 0 }

/-- At the start of an empty ring a short record needs no padding: it is the ring's only one, takes the next SEQ, and is copied into the first
area while that has room (R486-R488). -/
theorem Dev.writeRec_atStart {d : Dev} (empty : d.log.ring = []) (start : d.log.nextOff = 0) (sev code ctx : Nat) {payload : List Byte}
    (short : payload.length ≤ 256) :
    (d.writeRec sev code ctx payload).log.ring = [d.recAtStart sev code ctx payload] ∧
    (d.writeRec sev code ctx payload).log.seq = d.log.seq + 1 ∧
    (d.writeRec sev code ctx payload).log.first =
      if d.log.first.length < d.log.pending then d.log.first ++ [d.recAtStart sev code ctx payload] else d.log.first := by
  have fits : d.padFor (24 + payload.length) = d := by
    unfold Dev.padFor
    rw [start]
    exact if_pos (.inr (by omega))
  have drops : ∀ off, dropPage [] off = [] := fun off => ite_self _
  unfold Dev.writeRec
  rw [fits]
  simp [Dev.ringPut, Dev.takeSeq, Dev.bump, Dev.recAtStart, empty, start, drops]

/-- The payload of CLEARED: the areas, and the number of the last record cleared (R496). -/
def Dev.clearedPayload (d : Dev) (which : Nat) : List Byte :=
  [BitVec.ofNat 8 which] ++ List.replicate 7 0 ++ leBytes 8 (d.lastCleared which)

theorem Dev.length_clearedPayload (d : Dev) (which : Nat) : (d.clearedPayload which).length = 16 := by
  simp [Dev.clearedPayload, leBytes, upTo]

/-- The device whose areas of a code are empty, before CLEARED is recorded. -/
def Dev.emptied (d : Dev) (which : Nat) : Dev :=
  let log := if which = 2 then d.log else { d.log with ring := [], nextOff := 0 }
  let log := if which = 1 then log else { log with first := [], pending := d.obj Obj.EV_FIRST_SIZE }
  { d.drawn with log := log, health := if log.first.length ≥ log.pending then d.health else d.health &&& ~~~0x20#32 }

theorem Dev.clearLog_eq (d : Dev) (which : Nat) :
    d.clearLog which = (d.emptied which).writeRec 1 0x003 0 (d.clearedPayload which) := by
  unfold Dev.clearLog Dev.emptied
  simp only [decide_eq_true_eq]
  rfl

/-- A clear of the circulating area leaves CLEARED alone in it; the first area copies the record where it has room. -/
theorem Dev.clearLog_ring (d : Dev) {which : Nat} (circulating : which ≠ 2) :
    (d.clearLog which).log.ring = [(d.emptied which).recAtStart 1 0x003 0 (d.clearedPayload which)] ∧
    (d.clearLog which).log.seq = (d.emptied which).log.seq + 1 ∧
    (d.clearLog which).log.first = if (d.emptied which).log.first.length < (d.emptied which).log.pending
      then (d.emptied which).log.first ++ [(d.emptied which).recAtStart 1 0x003 0 (d.clearedPayload which)] else (d.emptied which).log.first := by
  rw [d.clearLog_eq]
  refine Dev.writeRec_atStart ?_ ?_ _ _ _ (by rw [d.length_clearedPayload]; decide)
  all_goals
    simp only [Dev.emptied, if_neg circulating]
    split <;> rfl

/-- A WRITE of EV_CLEAR that would clear the first area, accepted in CONFIDENTIAL mode, fails the check of the mode (R465). -/
theorem Manager.gateReach_evClear {m : Manager} {req : Req} (pf : req.fn = 0) (mode : (m.acceptedUnder req).1 = 2) {v : Nat} (first : 2 ≤ v) :
    m.gateReach req Obj.EV_CLEAR true v = 0x000A := by
  have plain : (objRow Obj.EV_CLEAR).any (fun r => r.perCtx == false) = true := by decide +kernel
  obtain ⟨r, row, own⟩ := (Option.any_eq_true _ _).mp plain
  have forbids : m.modeForbids req Obj.EV_CLEAR true v = true := by simp [Manager.modeForbids, mode, first]
  unfold Manager.gateReach
  rw [row]
  dsimp only
  rw [if_neg (by simp [beq_iff_eq.mp own]), if_neg (by simp [pf]), if_pos forbids]

/-- A command of a module's own ranges that is not reached is answered with what stopped it, and does nothing else (R341, R361). -/
theorem Manager.ownCmd_unreached (m : Manager) {req : Req} {key v res : Nat} (listed : List Nat) (busy : Bool) (eff : Manager → Nat → Manager)
    (stops : m.gateReach req key true v = res) (fails : res ≠ 0) : m.ownCmd req key v listed busy eff = m.answer req res := by
  subst stops
  exact if_pos fails

/-- Settles O50: emptied, the ring begins anew with CLEARED, and so does a first area with room. -/
theorem clearsLeaveOneRecord : Obligations.ClearsLeaveOneRecord := by
  unfold Obligations.ClearsLeaveOneRecord
  refine ⟨?_, ?_, ?_, ?_⟩
  · intro d
    obtain ⟨ring, seq, -⟩ := d.clearLog_ring (which := 1) (by decide)
    exact ⟨(d.emptied 1).recAtStart 1 0x003 0 (d.clearedPayload 1), rfl, rfl, rfl, rfl, ring, seq⟩
  · intro d room
    have holds : 0 < d.obj Obj.EV_FIRST_SIZE := by
      split at room <;> omega
    obtain ⟨ring, -, first⟩ := d.clearLog_ring (which := 3) (by decide)
    exact ⟨(d.emptied 3).recAtStart 1 0x003 0 (d.clearedPayload 3), rfl, rfl, ring, first.trans (if_pos holds)⟩
  · exact fun s req reach state => congrArg s.withMgr (Manager.ownCmd_granted _ _ _ _ _ _ _ ⟨reach, state⟩ rfl rfl)
  · intro s req mode pf
    refine ⟨congrArg s.withMgr ?_, congrArg s.withMgr ?_⟩
    · exact s.mgr.ownCmd_unreached _ _ _ (Manager.gateReach_evClear pf mode (by decide)) (by decide)
    · exact s.mgr.ownCmd_unreached _ _ _ (Manager.gateReach_evClear pf mode (by decide)) (by decide)

end Sys2Proof.Machine
end

section
/-! PROOF. The obligation of the event recorder and telemetry on records and samples. -/

namespace Sys2Proof.Machine

/-! ### What the manager's own period leaves as it was -/

/-- From one manager to another the fabric, the engine, the routing, the contexts, the install and the host side are the same. -/
def Manager.TelOnly (m n : Manager) : Prop :=
  n.fab = m.fab ∧ n.eng = m.eng ∧ n.rt = m.rt ∧ n.sl = m.sl ∧ n.inst = m.inst ∧ n.host = m.host

theorem Manager.TelOnly.refl (m : Manager) : m.TelOnly m := ⟨rfl, rfl, rfl, rfl, rfl, rfl⟩

theorem Manager.TelOnly.trans {m n k : Manager} (first : m.TelOnly n) (second : n.TelOnly k) : m.TelOnly k := by
  obtain ⟨fab, eng, rt, sl, inst, host⟩ := first
  obtain ⟨fab', eng', rt', sl', inst', host'⟩ := second
  exact ⟨fab'.trans fab, eng'.trans eng, rt'.trans rt, sl'.trans sl, inst'.trans inst, host'.trans host⟩

theorem Manager.telOnly_foldl {α : Type} {f : Manager → α → Manager} (step : ∀ (m : Manager) (x : α), m.TelOnly (f m x)) (l : List α) (m : Manager) :
    m.TelOnly (l.foldl f m) := by
  induction l generalizing m with
  | nil => exact .refl m
  | cons x l ih => exact (step m x).trans (ih (f m x))

theorem Manager.entry_telOnly (m : Manager) (i : Instr) : m.TelOnly (m.entry i) :=
  ⟨m.entry_fab i, m.entry_eng i, m.entry_rt i, m.entry_sl i, m.entry_inst i, m.entry_host i⟩

theorem Manager.storeTel_telOnly (m : Manager) (time : Nat) (r : TlRec) : m.TelOnly (m.storeTel time r) := ⟨rfl, rfl, rfl, rfl, rfl, rfl⟩

theorem Manager.storeEngine_telOnly (m : Manager) (c : Nat) : m.TelOnly (m.storeEngine c) := ⟨rfl, rfl, rfl, rfl, rfl, rfl⟩

/-- The manager's telemetry period changes what it stores and counts, and the input stream (R503). -/
theorem exec_telemetryManagerPeriod_telOnly (s : State) : ∃ m : Manager, exec .telemetryManagerPeriod s = s.withMgr m ∧ s.mgr.TelOnly m := by
  have loads := Manager.telOnly_foldl (fun (m : Manager) r => m.storeTel_telOnly 0 r) (s.mgr.entry .telemetryManagerPeriod).loadRecords
    (s.mgr.entry .telemetryManagerPeriod)
  exact ⟨_, rfl, ((s.mgr.entry_telOnly _).trans loads).trans (Manager.telOnly_foldl Manager.storeEngine_telOnly _ _)⟩

/-! ### A window that lost records -/

/-- A window with a loss doubles the agents' period, up to its greatest value, at the leader of the active unit (R505). -/
theorem exec_subsampleWindow_loss {s : State} (active : s.mgr.active = true) (leads : s.mgr.leads = true) {m : Manager}
    (hm : m = s.mgr.entry (.subsampleWindow true)) :
    exec (.subsampleWindow true) s = s.withMgr (({ m with tl := { m.tl with drops := mapGetD s.mgr.dev.net.dropClass 5 0, calm := 0 } } :
      Manager).setPeriod (max m.tl.present (min (2 * m.tl.present) (m.obj Obj.TL_PERIOD_MAX_MS)))) := by
  subst hm
  have runs : ¬ (!s.mgr.active || !s.mgr.leads) = true := by simp [active, leads]
  have restless : Nat.ble (max 1 ((s.mgr.entry (.subsampleWindow true)).obj Obj.TL_RELAX)) 0 = false :=
    Bool.eq_false_iff.mpr (fun relaxes => by have := Nat.le_of_ble_eq_true relaxes; omega)
  refine (if_neg runs).trans ?_
  simp only [Bool.true_or, if_true, restless, Bool.false_eq_true, if_false]
  rfl

/-! ### The obligation -/

/-- Settles O39, command by command: each gets past the checks of the frame, of R341 or of the recorder's state, and has its own effect. -/
theorem recordsAndTelemetry : Obligations.RecordsAndTelemetry := by
  unfold Obligations.RecordsAndTelemetry
  refine ⟨?_, ?_, ?_, ?_, ?_, ?_, ?_, ?_, ?_, ?_, ?_, ?_, ?_, ?_⟩
  · exact fun s code full => congrArg s.withMgr (if_pos full)
  · exact fun s die code full => congrArg (s.withAgent die) (if_pos full)
  · exact fun s req ok => congrArg s.withMgr (Manager.cmd_granted _ _ _ _ _ _ _ _ ok rfl rfl)
  · refine fun s req => ⟨fun ok => ?_, fun ok => ?_, fun ok => ?_⟩
    · exact congrArg s.withMgr (Manager.ownCmd_granted _ _ _ _ _ _ _ ok rfl rfl)
    · exact congrArg s.withMgr (Manager.ownCmd_granted _ _ _ _ _ _ _ ok rfl rfl)
    · exact congrArg s.withMgr (Manager.ownCmd_granted _ _ _ _ _ _ _ ok rfl rfl)
  · intro s v released small
    refine (if_neg (by simp [released])).trans ?_
    rw [Nat.mod_eq_of_lt small]
  · intro s up open_
    exact if_neg (by simp [up, open_])
  · rintro s req _ ok rfl
    exact if_neg (not_not_intro ok)
  · intro s req ok
    show execTsRead req s = _
    unfold execTsRead
    exact if_neg (not_not_intro ok)
  · rintro s req data _ _ ok rfl rfl
    exact congrArg s.withMgr (Manager.hostWrite_granted _ _ _ _ _ _ _ ok rfl)
  · rintro s hdr bytes _ taken rfl
    exact Manager.take_acts taken _ _
  · exact fun s hdr time period last recs taken => Manager.take_acts taken _ _
  · rintro s _ _ rfl rfl
    rfl
  · exact exec_telemetryManagerPeriod_telOnly
  · exact fun s m active leads hm => exec_subsampleWindow_loss active leads hm

end Sys2Proof.Machine
end

section
/-! PROOF. The obligation of power and clocks on domains that rest and wake. -/

namespace Sys2Proof.Machine

/-- A domain that nothing wakes, and whose row and budget permit a deeper state, enters the deepest of them (R509, R510). -/
theorem Dev.rest_of_deeper {d : Dev} {i : Nat} {permits : List Nat} (calm : d.waking.contains i = false) (deeper : d.domain i < d.deepest i permits) :
    d.rest i permits = { d with domains := mapSet d.domains i (d.deepest i permits), waking := d.waking.filter (fun k => k != i) } := by
  have listed : d.deepest i permits ≠ 0 := Nat.ne_zero_of_lt deeper
  have enters : ¬ (d.waking.contains i || Nat.ble (d.deepest i permits) (d.domain i)) = true := by
    simp only [calm, Bool.false_or]
    exact fun within => Nat.not_le.mpr deeper (Nat.le_of_ble_eq_true within)
  rw [Dev.rest, if_neg enters, Dev.setDomain, if_neg listed]

/-- A domain in IDLE or STANDBY begins to wake (R510). -/
theorem Dev.wakeDomain_of_resting {d : Dev} {i : Nat} (rests : d.domain i = 1 ∨ d.domain i = 2) :
    d.wakeDomain i = { d with waking := insNat d.waking i } := if_pos rests

/-- A domain that has begun to wake is ACTIVE, which is not listed, when its exit latency ends (R510). -/
theorem Dev.awake_of_waking {d : Dev} {i : Nat} (wakes : d.waking.contains i = true) :
    d.awake i = { d with domains := mapDel d.domains i, waking := d.waking.filter (fun k => k != i) } := by
  rw [Dev.awake, if_pos wakes, Dev.setDomain, if_pos rfl]

/-- Changes of a device that do the same to it do the same to the manager module or the agent that holds it. -/
theorem Manager.onDev_congr {m : Manager} {f g : Dev → Dev} (same : f m.dev = g m.dev) : m.onDev f = m.onDev g :=
  congrArg (fun d => ({ m with dev := d } : Manager)) same
theorem Agent.onDev_congr {a : Agent} {f g : Dev → Dev} (same : f a.dev = g a.dev) : a.onDev f = a.onDev g :=
  congrArg (fun d => ({ a with dev := d } : Agent)) same

/-- Settles O33: the manager module and an agent do to a domain what their device does, while they run. -/
theorem domainsRestAndWake : Obligations.DomainsRestAndWake := by
  unfold Obligations.DomainsRestAndWake
  refine ⟨?_, ?_, ?_, ?_, ?_, ?_, ?_⟩
  · intro s i quiet awake on calm deeper
    exact (if_neg (by simp [awake, on])).trans (congrArg s.withMgr (Manager.onDev_congr (Dev.rest_of_deeper calm deeper)))
  · intro s die i quiet hears calm deeper
    exact congrArg (s.withAgent die) ((if_pos hears).trans (Agent.onDev_congr (Dev.rest_of_deeper calm deeper)))
  · intro s i rests awake
    exact congrArg s.withMgr ((if_neg (by simp [awake])).trans (Manager.onDev_congr (Dev.wakeDomain_of_resting rests)))
  · intro s die i rests hears
    exact congrArg (s.withAgent die) ((if_pos hears).trans (Agent.onDev_congr (Dev.wakeDomain_of_resting rests)))
  · intro s i wakes
    exact congrArg s.withMgr (Manager.onDev_congr (Dev.awake_of_waking wakes))
  · intro s die i wakes
    exact congrArg (s.withAgent die) (Agent.onDev_congr (Dev.awake_of_waking wakes))
  · exact fun s req sub data ok => if_neg (not_not_intro ok)

end Sys2Proof.Machine
end

section
/-! PROOF. The obligation of pins and reset on the state after reset. -/

namespace Sys2Proof.Machine

/-- After reset a register of the manager's dictionary reads the reset value of its row: the table of values lists none. -/
theorem State.obj_reset (key : Nat) : State.reset.mgr.obj key = objDefault false key := rfl

/-- Settles O59: the tables are empty, and the rows of the dictionary give the values. -/
theorem resetMeetsTheInvariants : Obligations.ResetMeetsTheInvariants := by
  unfold Obligations.ResetMeetsTheInvariants
  refine ⟨rfl, rfl, rfl, rfl, rfl, rfl, ?_, ?_, ?_, ?_, State.obj_reset⟩
  all_goals
    rw [State.obj_reset]
    decide +kernel

end Sys2Proof.Machine
end
